-- ==== Sys2Proof/Word.lean ====
section
/-! DEFINITION. The word types of the DM-960 and the plainest finite-map type that the state is built of. -/

namespace Sys2Proof

/-- A byte. -/
abbrev Byte := BitVec 8
/-- A 64-bit control register or counter. -/
abbrev W64 := BitVec 64
/-- An FP32 bit pattern (R50). -/
abbrev F32 := BitVec 32

/-- A finite map held as plain data: a list of key and value pairs; the first pair of a key counts. -/
abbrev KV (κ α : Type) := List (κ × α)

end Sys2Proof
end

