-- ==== Sys2Proof/Syntax.lean ====
section
/-! DEFINITION. The commands of the DM-960 (one constructor per row of the opcode table) and the data they carry. -/

namespace Sys2Proof

/-! ## Names of units (R12) -/

/-- A 16-bit device ID (R5); 0x0000 is unassigned, 0xFFFF broadcast. -/
abbrev DevId := Nat
abbrev CoreId := Fin 32
abbrev EngId := Fin 2
abbrev QuernId := Fin 12
abbrev StackId := Fin 8
abbrev PortId := Fin 16
abbrev CxlId := Fin 2
abbrev CtxId := Fin 16
abbrev QueueId := Fin 32
abbrev DomainId := Fin 112
/-- A chain stage number (R179). -/
abbrev StageNo := Fin 4

/-- The three instruction streams (R28 to R30), in the order of the STREAM field (R170). -/
inductive Stream | f | b | u
  deriving DecidableEq, Repr

/-- The decisions of a Vote; their values are those of R36. -/
inductive Decision | apply | skip | abort | halt
  deriving DecidableEq, Repr

/-- The width classes of a row (R249). -/
inductive RowClass | F | H | W | C
  deriving DecidableEq, Repr

/-- The FMT values of a scale record (R79). -/
inductive ScaleFmt | none | e4m3 | e5m2 | e2m1 | i8 | i4
  deriving DecidableEq, Repr

/-- The KIND values of a scale record (R79). -/
inductive ScaleKind | weight | activation | gradient
  deriving DecidableEq, Repr

/-! ## Data carried by step and vote traffic -/

/-- A sample list as the feed region holds it (R496). `restZero` says that every other header byte is zero. -/
structure SampleList where
  format : Nat
  step : Nat
  mb : Nat
  count : Nat
  restZero : Bool
  ids : List Nat
  deriving DecidableEq, Repr

/-- The four data flags of a vote word (R34). -/
structure Flags where
  nan : Bool := false
  inf : Bool := false
  sat : Bool := false
  opt : Bool := false
  deriving DecidableEq, Repr

/-- The vote word (R34). -/
structure VoteWord where
  flags : Flags
  fatal : Bool
  memEpoch : Nat
  layEpoch : Nat
  step : Nat
  count : Nat
  view : Nat
  deriving DecidableEq, Repr

/-- The reduction frame of R339: a vote word with the maxima record of R81 (or, with `weights`, the
weight maxima record of R331) and the DIFF field. -/
structure VoteFrame where
  child : DevId
  weights : Bool
  word : VoteWord
  maxima : List F32
  diffEpoch : Bool
  diffLayout : Bool
  deriving DecidableEq, Repr

/-- A scale record (R79). -/
structure ScaleRec where
  mu : Nat
  eps : Int
  fmt : ScaleFmt
  kind : ScaleKind
  zp : Int
  deriving DecidableEq, Repr

/-- A rescale pair for one combination of records that the image names (R97). -/
structure RescalePair where
  recA : Nat
  recW : Nat
  recO : Nat
  m : Nat
  sh : Int
  deriving DecidableEq, Repr

/-- The scale set of one version: records, histories, backoff, decay count, rescale pairs and the scale
digest that travels with it (R85, R331, R341). -/
structure ScaleSet where
  version : Nat
  recs : List ScaleRec
  hist : List (List F32)
  backoff : Nat
  decay : Nat
  pairs : List RescalePair
  digest : List Byte
  deriving DecidableEq, Repr

/-- A step-targeted write (R472): field index, value, target step, and the root's order of acceptance. -/
structure StepWrite where
  index : Nat
  value : List Nat
  target : Nat
  serial : Nat
  deriving DecidableEq, Repr

/-- The DECISION order (R352, R355, R473, R331). -/
structure DecisionMsg where
  tag : Nat
  step : Nat
  decision : Decision
  flags : Flags
  maxima : List F32
  memEpoch : Nat
  layEpoch : Nat
  writes : List StepWrite
  scaleSet : Option ScaleSet
  src : DevId := 0
  deriving DecidableEq, Repr

/-- An order of R352 other than DECISION: the step, the membership epoch and the layout epoch it carries. -/
structure OrderMsg where
  tag : Nat
  step : Nat
  memEpoch : Nat
  layEpoch : Nat
  src : DevId := 0
  deriving DecidableEq, Repr

/-- A BARRIER or DONE word (R370). -/
structure BarrierWord where
  child : DevId
  step : Nat
  memEpoch : Nat
  view : Nat
  layEpoch : Nat
  layDigest : Nat
  count : Nat
  differs : Bool
  deriving DecidableEq, Repr

/-! ## Lookups and gradients -/

/-- A lookup request record (R261, R404) with the frame's SRC, STEP and CONTEXT. -/
structure LkpReq where
  src : DevId
  step : Nat
  ctx : CtxId
  table : Nat
  row : Nat
  ver16 : Nat
  ref : Nat
  deriving DecidableEq, Repr

/-- A row record in its stored width: class and bytes (R250). -/
structure RowRec where
  cls : RowClass
  bytes : List Byte
  deriving DecidableEq, Repr

/-- A lookup reply (R404): the record, or none where the home holds no present entry (R270). -/
structure LkpRsp where
  src : DevId
  table : Nat
  row : Nat
  ver16 : Nat
  ref : Nat
  record : Option RowRec
  deriving DecidableEq, Repr

/-- A gradient contribution (R285, R404). With `fx48` the values are 48-bit codes, else FP32 codes. -/
structure Contribution where
  src : DevId
  table : Nat
  row : Nat
  step : Nat
  layEpoch : Nat
  ctx : CtxId
  fx48 : Bool
  nonfin : Bool
  sat : Bool
  count : Nat
  vals : List Nat
  deriving DecidableEq, Repr

/-- An end-of-Gather marker (R286, R403). -/
structure GatherMarker where
  src : DevId
  step : Nat
  layEpoch : Nat
  count : Nat
  deriving DecidableEq, Repr

/-- What a home sends to a device with replicas: a forwarded sum with its CRC (R304, R360), the end-of-forward marker,
or a replica dropped (R275, R276). -/
inductive ReplMsg
  | sum (src : DevId) (step table row count : Nat) (vals : List Nat) (crc : Nat)
  | endMark (src : DevId) (step count : Nat)
  | dropped (src : DevId) (step table row : Nat)
  deriving DecidableEq, Repr

/-! ## Dense traffic -/

/-- A weight-gradient slice with its 32-byte header (R127); `resvZero` says the reserved header bits are 0.
ROWS and COLS are held as in the header, minus 1. -/
structure Slice where
  src : DevId
  step : Nat
  mb : Nat
  ctx : CtxId
  layEpoch : Nat
  tensor : Nat
  tileK : Nat
  tileN : Nat
  rows : Nat
  cols : Nat
  crc : Nat
  payload : List F32
  deriving DecidableEq, Repr

/-- A reduction node (R317). -/
structure RedNode where
  src : DevId
  step : Nat
  layEpoch : Nat
  ctx : CtxId
  tensor : Nat
  tileK : Nat
  tileN : Nat
  level : Nat
  index : Nat
  crc : Nat
  vals : List F32
  deriving DecidableEq, Repr

/-- A retained root sent to the mirror (R321). -/
structure RetRoot where
  src : DevId
  tag : Nat
  step : Nat
  tensor : Nat
  tileK : Nat
  tileN : Nat
  crc : Nat
  vals : List F32
  layEpoch : Nat := 0
  deriving DecidableEq, Repr

/-- A working-copy tile with its trailer (R332, R333). -/
structure WcTile where
  src : DevId
  tag : Nat
  tensor : Nat
  tileK : Nat
  tileN : Nat
  version : Nat
  codes : List Nat
  csums : List Int
  digest : List Byte
  check : Nat
  deriving DecidableEq, Repr

/-- The digest traffic of R343, R344, R345, R360 to R362 and R365: leaves and buckets, comparison digests, the source
digests of a home, the leaves exchanged for a rebuild (before and after the redone step), and the report of a difference. -/
inductive DigestFrame
  | leaf (src : DevId) (step key : Nat) (leaf : List Byte)
  | leafEnd (src : DevId) (step count : Nat)
  | bucket (src : DevId) (step bucket : Nat) (digest : List Byte)
  | bucketEnd (src : DevId) (step count : Nat)
  | shard (src : DevId) (step : Nat) (dense : Bool) (table shard : Nat) (digest : List Byte)
  | wc (src : DevId) (step tensor : Nat) (digest : List Byte)
  | wcSource (src : DevId) (step tensor : Nat) (tiles : List (Nat × List Byte))
  | shardLeaves (src : DevId) (step : Nat) (dense : Bool) (table shard : Nat) (leaves : List (Nat × List Byte))
  | redo (src : DevId) (step key : Nat) (pre leaf : List Byte)
  | differ (src : DevId) (step : Nat) (rows : Bool) (table shard : Nat) (dev : DevId) (digest : List Byte)
  | replica (src : DevId) (step table shard : Nat) (digest : List Byte)
  | param (src : DevId) (step : Nat) (digest : List Byte)
  deriving DecidableEq, Repr

/-- A unit moved by a re-shard (R372), or a row sent whole to a device with replicas by the Apply of a step (R276) or a
repair (R362). -/
inductive XferUnit
  | row (table row : Nat) (rec : RowRec) (state : List Byte) (pop epoch : Nat) (pendingClass : Option RowClass)
  | log (table row older : Nat) (rec : RowRec)
  | tile (tensor tileK tileN : Nat) (master : List F32) (states : List (List F32))
  | scalar (tensor count : Nat) (xs : List F32)
  | wcTile (t : WcTile)
  | replica (step table row : Nat) (rec : RowRec) (state : List Byte)
  deriving DecidableEq, Repr

/-- A shard transfer: its units and its move digest (R372). -/
structure ShardXfer where
  src : DevId
  tag : Nat
  dense : Bool
  table : Nat
  shard : Nat
  epoch : Nat
  units : List XferUnit
  digest : List Byte
  deriving DecidableEq, Repr

/-! ## The fabric -/

/-- A Popor transport frame (R402). -/
structure Frame where
  dst : DevId
  src : DevId
  opcode : Nat
  vc : Nat
  enc : Bool
  ctx : CtxId
  hops : Nat
  rev : Nat
  cont : Bool
  resvZero : Bool
  tag : Nat
  step : Nat
  epoch : Nat
  counter : Nat
  tagOk : Bool
  payload : List Byte
  deriving DecidableEq, Repr

/-- TYPE of a flit (R399). -/
inductive FlitType | data | ctrl | idle | nak
  deriving DecidableEq, Repr

/-- A flit as it arrives (R399). `crc` is the CRC field; `body` the bytes it covers. -/
structure Flit where
  type : FlitType
  vc : Nat
  first : Nat
  seq : Nat
  ack : Nat
  crVc : Nat
  crCount : Nat
  crc : Nat
  body : List Byte
  deriving DecidableEq, Repr

/-- What LINK_INIT exchanges (R399, R419). -/
structure LinkInit where
  rev : Nat
  rates : Nat
  trayId : Nat
  pod : Nat
  manifest : List Byte
  port : Nat
  peerId : DevId
  bufs : List Nat
  deriving DecidableEq, Repr

/-- A Popor packet on Ethernet: the encapsulation header of R414, the IP congestion mark and the frame. -/
structure EthPacket where
  src : DevId
  dst : DevId
  vc : Nat
  psn : Nat
  ackPsn : Nat
  ackValid : Bool
  nak : Bool
  ceEcho : Bool
  grantValid : Bool
  grant : Nat
  ceMark : Bool
  frame : Option Frame
  sport : Nat := 0
  dport : Nat := 0
  dscp : Nat := 0
  ip : List Byte := []
  deriving DecidableEq, Repr

/-- One neighbour of a DISCOVER frame: local port, neighbour, its port (R419). -/
structure Neighbour where
  port : Nat
  peer : DevId
  peerPort : Nat
  deriving DecidableEq, Repr

/-- A membership record of epoch E + 1 as MEMBER frames carry it (R422, R436): the failed IDs, the spare bound to
each, the IDs revoked, and the members of the new epoch. -/
structure MemberRec where
  epoch : Nat
  failed : List DevId
  bindings : List (DevId × DevId)
  unbound : List DevId
  members : List DevId
  voteComplete : Option Nat
  deriving DecidableEq, Repr

/-- A heartbeat (R424). -/
structure Heartbeat where
  src : DevId
  epoch : Nat
  live : Nat
  sealedLo : Nat
  deriving DecidableEq, Repr

/-! ## Memory, arbiters, engines -/

/-- A request raised at an arbiter (R210): traffic class, requester, the requester's view of the resource's cycle count when it formed
the latest-service time, and the cycle of the arrival. -/
structure ArbReq where
  cls : Nat
  requester : Nat
  view : Nat
  raisedAt : Nat
  deriving DecidableEq, Repr

/-! ## Programs of the vector unit (R72, R170) -/

/-- Where a vector operation takes an operand from (log entry 7): the result of an earlier operation of the lane, the lane's own
element of an input, an element of an input by its index, or a constant of the program. -/
inductive VecSrc
  | reg (n : Nat)
  | elem (input : Nat)
  | lane (input index : Nat)
  | const (x : F32)
  deriving DecidableEq, Repr

/-- The basic FP32 operations of R72; `conv` is a conversion into the format of a FMT number (R171) and back under RNE. A compare
gives 1 or 0. -/
inductive VecOp
  | add | sub | mul | fma | div | sqrt | min | max | lt | le | eq
  | conv (fmt : Nat)
  deriving DecidableEq, Repr

/-- One operation of a vector program; its result is the next register of the lane. -/
structure VecStep where
  op : VecOp
  a : VecSrc
  b : VecSrc
  c : VecSrc
  deriving DecidableEq, Repr

/-- A vector program of the image (R170, R456): its number, how many rows it takes as its operands, and its operations in order. The
last result is the lane's result. -/
structure VecProg where
  number : Nat
  inputs : Nat
  steps : List VecStep
  deriving DecidableEq, Repr

/-- A fault in the array that alters results on their way to staging: tile of the pair, row, column, wrong value. -/
structure Upset where
  half : Nat
  row : Nat
  col : Nat
  value : BitVec 32
  deriving DecidableEq, Repr

/-! ## Power -/

/-- One sample of the current monitors, in watts (R518). -/
structure PowerSample where
  pkg : Nat
  compute : Nat
  fabric : Nat
  hbm : List Nat
  deriving DecidableEq, Repr

/-- One reading of the temperature sensors, in degrees Celsius (R523). -/
structure ThermalSample where
  junction : List Nat
  hbm : List Nat
  deriving DecidableEq, Repr

/-! ## Images, keys and the mailbox -/

/-- A signature block (R460, R481): key identifier, r and s. -/
structure Sig where
  keyId : Nat
  r : Nat
  s : Nat
  deriving DecidableEq, Repr

/-- The types of a section (R456). -/
inductive SectType | device | context | job | member | layout | fieldIndex
  deriving DecidableEq, Repr

/-- The classes of a field (R459, R468). -/
inductive FieldClass | live | shadowed | locked
  deriving DecidableEq, Repr

/-- A section of an image (R458): type, context, device and job of its content, whether its content matches the digest of its entry, the
first 16 bytes of that SHA-384 digest as a little-endian number, and its offset and length in bytes. -/
structure Section where
  type : SectType
  ctx : Option CtxId
  device : DevId
  job : Nat
  digestOk : Bool
  digest : Nat := 0
  offset : Nat := 0
  length : Nat := 0
  deriving DecidableEq, Repr

/-- A field of an image as the FIELD_INDEX section lists it (R459), with its value. `name` is the NAME of the
field tables of the spec (Machine/Layout.lean); `scope` its scope index; `value` one number, or a list for list fields. -/
structure FieldInst where
  name : String
  scope : Nat
  sect : Nat
  cls : FieldClass
  numeric : Bool
  len : Nat
  value : List Nat
  deriving DecidableEq, Repr

/-- An initial row of a table: as a stored record, or as FP32 values with the class the initialiser names
(R256), or from a snapshot with its state and popularity record. -/
inductive RowInit
  | record (table row : Nat) (rec : RowRec)
  | values (table row : Nat) (cls : Option RowClass) (vals : List F32)
  | snapshot (table row : Nat) (rec : RowRec) (state : List Byte) (pop epoch : Nat)
  deriving DecidableEq, Repr

/-- An initial tile of a tensor: masters, with states and scalar record when it comes from a snapshot (R328). -/
structure TileInit where
  tensor : Nat
  tileK : Nat
  tileN : Nat
  master : List F32
  states : List (List F32)
  deriving DecidableEq, Repr

/-- What the CONTEXT and JOB sections of a context bring besides their fields (R456): the step programs of R167 by stream, the vector
programs, microprograms (number, prelude, main), initial rows, tiles, scalar
records (tensor, counter, X0 to X3) and, from a snapshot, histories with backoff and decay count, its parameter digest, its step s0
and its layout epoch (R17, R369, R505). -/
structure JobData where
  ctx : CtxId
  progs : List (Stream × List (BitVec 512)) := []
  vprogs : List VecProg := []
  uprog : List (Nat × List (BitVec 32) × List (BitVec 32))
  rowInit : List RowInit
  tileInit : List TileInit
  scalarInit : List (Nat × Nat × List F32)
  histInit : Option (List (List F32) × Nat × Nat)
  snapshotDigest : Option (List Byte)
  s0 : Nat
  layEpoch : Nat
  deriving DecidableEq, Repr

/-- An image or package (R456 to R460, R466). `wellFormed` stands for what check 1 of R461 finds of FORMAT and of reserved bytes. -/
structure Image where
  wellFormed : Bool
  length : Nat
  buildId : Nat
  deviceId : DevId
  package : Bool
  svn : Nat
  baseDigest : List Byte
  numericId : List Byte
  sections : List Section
  fields : List FieldInst
  jobs : List JobData
  sig : Sig
  deriving DecidableEq, Repr

/-- The boot selections of the straps: NORMAL, FW_RECOVERY, OWNER_ENROL and the reserved code (R478). -/
inductive BootSel | normal | fwRecovery | ownerEnrol | reserved
  deriving DecidableEq, Repr

/-- An Atluta firmware slot (R477): its signature check is that of the Chontaper key. -/
structure FwSlot where
  version : Nat
  svn : Nat
  image : List Byte
  sig : Sig
  deriving DecidableEq, Repr

/-- The installation manifest (R417). -/
structure Manifest where
  digest : List Byte
  pod : Nat
  modes : List Nat
  maxRates : List Nat
  plan : List ((Nat × Nat) × DevId)
  alternates : List ((Nat × Nat) × DevId)
  domains : List (DevId × Nat)
  pods : List (DevId × Nat)
  collector : DevId
  udpPort : Nat := 49430
  dscp : List Nat := []
  addrs : List (DevId × List Byte) := []
  deriving DecidableEq, Repr

/-- A change of the soft repair map (R151, R152). -/
inductive RepairKind | column | row | retire | reserved
  deriving DecidableEq, Repr

/-- An entry of the soft repair map (R151). -/
structure RepairEntry where
  core : CoreId
  eng : EngId
  kind : RepairKind
  index : Nat
  origin : Nat
  stepLo : Nat
  deriving DecidableEq, Repr

/-- The SPDM session that a request runs in, or none. -/
abbrev SpdmSession := Option Nat

/-! ## The commands -/

/-- What comes with a request for admission (R26, R169, R496): the sample list, where the feed has given one, the instant and the core cycle. -/
structure AdmitAsk where
  feed : Option SampleList
  at' : Nat
  cyc : Nat
  deriving DecidableEq, Repr

/-- A slot released in a core cycle (R23, R169). -/
structure SlotAt where
  slot : Fin 8
  cyc : Nat
  deriving DecidableEq, Repr

/-- A control cycle of an arbiter and the requests raised up to it (R210, R211). -/
structure ArbAt where
  cyc : Nat
  raised : List ArbReq
  deriving DecidableEq, Repr

/-- The value written to a field, and the instant of the write (R16, R468). -/
structure FieldAt where
  value : List Nat
  at' : Nat
  deriving DecidableEq, Repr

/-- The commands of the DM-960: one constructor for each row of the opcode table, in the table's order. -/
inductive Instr
  -- steps
  | mbAdmit (ask : AdmitAsk)
  | slotRelease (rel : SlotAt)
  | gatherClose (step : Nat)
  | finitenessScreen (q : QuernId) (step : Nat)
  | qrnLogReserve (q : QuernId) (step : Nat)
  | voteSend (step : Nat)
  | vote (v : VoteFrame)
  | voteMirrorStore (d : DecisionMsg)
  | decisionBroadcast (step : Nat)
  | decision (d : DecisionMsg)
  | applyEnd (step : Nat)
  | stbyHeaderWrite (step : Nat)
  | sealComplete (step : Nat)
  -- command streams
  | descDecode (c : CoreId) (st : Stream) (d : BitVec 512)
  | hintIssue (c : CoreId) (st : Stream) (index : Nat)
  | commandIssue (c : CoreId) (cyc : Nat)
  | nop (c : CoreId) (st : Stream)
  | signal (c : CoreId) (st : Stream)
  | wait (c : CoreId) (st : Stream)
  | fwdEnd (c : CoreId)
  | bwdEnd (c : CoreId)
  | mm (c : CoreId) (st : Stream) (cyc : Nat)
  | vec (c : CoreId) (st : Stream)
  | vred (c : CoreId) (st : Stream)
  | lookup (c : CoreId)
  | pool (c : CoreId)
  | gradSend (c : CoreId)
  | stashWr (c : CoreId)
  | stashRd (c : CoreId)
  | stashFree (c : CoreId)
  | fetch (c : CoreId) (st : Stream)
  | write (c : CoreId) (st : Stream)
  | prefetch (c : CoreId) (st : Stream)
  | cancel (c : CoreId) (st : Stream)
  | loadScales (c : CoreId)
  | loadCsum (c : CoreId)
  | invalidate (c : CoreId)
  | prestage (c : CoreId)
  | commandRetire (c : CoreId) (st : Stream) (index : Nat)
  | deferPromote (c : CoreId) (cyc : Nat)
  | handoverUnit (c : CoreId) (st : Stream) (stage : StageNo)
  | noProgress (c : CoreId)
  | dumpValid (c : CoreId) (value : W64)
  | govStreamCtl (c : CoreId) (value : W64)
  -- engines
  | tileLoadStart (c : CoreId) (e : EngId) (cyc : Nat)
  | tileLoadReady (c : CoreId) (e : EngId) (cyc : Nat)
  | passStart (c : CoreId) (e : EngId) (cyc : Nat)
  | passEnd (c : CoreId) (e : EngId) (cyc : Nat) (upsets : List Upset)
  | passVerdict (c : CoreId) (e : EngId) (cyc : Nat)
  | replayStart (c : CoreId) (e : EngId) (cyc : Nat)
  | engPreemptReq (c : CoreId) (e : EngId) (cyc : Nat)
  | engPreemptWithdraw (c : CoreId) (e : EngId) (cyc : Nat)
  | engineQuiet (c : CoreId) (e : EngId) (cyc : Nat)
  | engCtrClear (c : CoreId) (e : EngId) (value : W64)
  | dividerChange (c : CoreId) (cyc : Nat)
  -- local buffer and feeding
  | lbEccError (c : CoreId) (block : Fin 512) (uncorrectable : Bool)
  | spillWriteDone (c : CoreId) (slot : Fin 8) (stashId : Nat) (block : Nat)
  | stashReadback (c : CoreId)
  | demandFetchBegin (c : CoreId) (st : Stream)
  | sluiceTick (c : CoreId)
  | transferArrive (c : CoreId) (id : Nat) (altered : Option (List Nat))
  | ringRepair (c : CoreId) (id : Nat)
  | tailraceAck (c : CoreId) (id : Nat)
  | arbDecision (port : Fin 344) (cycle : ArbAt) (kept : Bool)
  | arbHold (port : Fin 344) (cycle : ArbAt)
  | turnEstimate (port : Fin 344) (requester : Nat) (cycle : ArbAt)
  | engineWake (c : CoreId) (e : EngId) (cyc : Nat)
  -- tiers
  | pageMoveStart
  | heatDecay
  | migrationPassEnd (slot : Fin 8)
  | pageFlip (slot : Fin 8)
  | sourceFrameFree (slot : Fin 8)
  | hbmEccError (s : StackId) (frame : Nat) (uncorrectable : Bool)
  | pageRefillDone (page : Nat)
  | hbmPatrol (bad : List (StackId × Nat × Bool))
  | tierRefillDone (value : W64)
  | cxlPoison (page : Nat)
  | cxlCompletionTimeout (page : Nat)
  | cxlLinkDown (p : CxlId) (at' : Nat)
  | cxlLinkReturn (p : CxlId) (at' : Nat)
  | cxlDownLimit (p : CxlId) (at' : Nat)
  | accessLate (tier : Nat) (ns : Nat) (completed : Bool)
  -- lookups and sparse gradients
  | lkpReq (r : LkpReq)
  | lkpRsp (r : LkpRsp)
  | lookupHoldRelease (q : QuernId)
  | indexFaultReport (ref : Nat)
  | replSum (tag : Nat) (m : ReplMsg)
  | gristAdd (g : Contribution)
  | gristSlotFree (q : QuernId)
  | gatherEnd (q : QuernId) (m : GatherMarker)
  -- dense reduction and update
  | sliceArrive (s : Slice)
  | sliceResend (c : CoreId) (e : EngId) (step mb tensor tileK tileN : Nat)
  | redNode (n : RedNode)
  | rootRetain (step tensor tileK tileN : Nat)
  | retRoot (r : RetRoot)
  | candidateForm (step tensor tileK tileN : Nat)
  | scaleSetDerive (step : Nat)
  | scaleSetArrive (tag : Nat) (s : ScaleSet)
  | wcTile (t : WcTile)
  | wcResend (dst : DevId) (tensor tileK tileN version : Nat)
  -- digests and repairs
  | digest (tag : Nat) (d : DigestFrame)
  | replicaRepairDone (step : Nat) (rows : Bool) (table shard : Nat)
  | replayRequest (src : DevId) (step : Nat)
  | replay (o : OrderMsg)
  | rebuildRedo (key : Nat) (partnerPre partnerLeaf : List Byte)
  | rebuildHostLimit (at' : Nat)
  -- layout
  | barrierSend
  | barrier (w : BarrierWord)
  | move (o : OrderMsg)
  | shardXfer (x : ShardXfer)
  | done (w : BarrierWord)
  | flip (o : OrderMsg)
  | layoutCancel (o : OrderMsg)
  -- the fabric
  | linkTrain (p : PortId) (rates : List Nat) (half : Bool)
  | linkInit (p : PortId) (l : LinkInit)
  | flitReceive (p : PortId) (f : Flit)
  | nak (p : PortId) (ack : Nat) (at' : Nat)
  | popRetrainLimit (p : PortId) (at' : Nat)
  | linkDown (p : PortId) (at' : Nat)
  | creditSync (p : PortId) (free : List Nat)
  | frameForward (inPort : Option PortId) (f : Frame)
  | rdReq (f : Frame) (addr : Nat) (len : Nat)
  | rdRsp (tag : Nat) (data : List Byte)
  | wr (f : Frame) (addr : Nat)
  | wrAck (tag : Nat)
  | ctlReq (f : Frame) (write : Bool) (addr : Nat) (value : W64)
  | ctlRsp (tag : Nat) (value : W64)
  | ethPacket (p : PortId) (k : EthPacket) (at' : Nat)
  | ethRto (dst : DevId) (vc : Nat) (at' : Nat)
  | ack (src : DevId) (tag : Nat)
  | popAckLimit (tag : Nat) (at' : Nat)
  | heartbeatSend (at' : Nat)
  | heartbeat (h : Heartbeat) (at' : Nat)
  | heartbeatTimeout (dev : DevId) (at' : Nat)
  | discover (sender : DevId) (neighbours : List Neighbour) (at' : Nat)
  | discoveryQuiet (coordDigest : List Byte) (at' : Nat)
  -- membership and recovery
  | member (m : MemberRec)
  | failedReport (src : DevId) (at' : Nat)
  | podSilence (pod : Nat) (at' : Nat)
  | fence (at' : Nat)
  | memberBatch (at' : Nat)
  | memberAck (src : DevId) (epoch : Nat) (deputy : Bool) (at' : Nat)
  | leaseGrace (id : DevId) (at' : Nat)
  | fmBindLimit (id : DevId) (at' : Nat)
  | partnerUnitRequest (src : DevId) (key : Nat) (version : Nat)
  | pullComplete
  | takeoverDone (id : DevId) (at' : Nat)
  | journalFold (step : Nat)
  | releaseFence
  -- mailbox
  | jobStart (ctx : CtxId)
  | jobStop (ctx : CtxId)
  | jobSwitch (out into : CtxId) (target : Nat)
  | switchInRestore (ctx : CtxId)
  | jobResume (ctx : CtxId)
  | snapshot (ctx : CtxId) (target : Nat)
  | snapshotWrite
  | trayRelease (ctx : CtxId) (target : Nat) (pod tray : Nat) (dev : DevId)
  | spareAdd (ctx : CtxId) (dev : DevId)
  | spareRemove (ctx : CtxId) (dev : DevId)
  | reportFailed (ctx : CtxId) (dev : DevId)
  | hostSupply (ctx : CtxId) (key : Nat) (content : List Byte)
  | repairMapWrite (remove : Bool) (e : RepairEntry) (cyc : Nat)
  | engineDiag (c : CoreId) (e : EngId)
  | manifestWrite (m : Manifest)
  | fmBound (ctx : CtxId) (id spare : DevId)
  | contextReady (ctx : CtxId)
  | keyEnrol (key : List Byte) (sig : Option Sig)
  | keyRevoke (keyId : Nat) (sig : Option Sig)
  | svnRaise (svn : Nat) (sig : Option Sig)
  | fwSvnCommit (sig : Option Sig)
  | exportKey (ctx : CtxId) (key : BitVec 256) (sig : Option Sig)
  | getAudit (first count : Nat)
  -- records and the difference stream
  | recordSign (step : Nat)
  | logSectorErase (ok : Bool)
  | diffRingTail (ctx : CtxId) (value : W64)
  -- SPDM
  | getVersion
  | getCapabilities
  | negotiateAlgorithms
  | getDigests
  | getCertificate (slot offset len : Nat)
  | challenge (slot : Nat) (nonce : List Byte)
  | getMeasurements (index : Nat) (sess : SpdmSession)
  | keyExchange (slot : Nat) (share : List Byte)
  | finish (sess : Nat) (mac : List Byte)
  | endSession (sess : Nat)
  | spdmHeartbeat (sess : Nat)
  | keyUpdate (sess : Nat)
  | fwRecovery (slot : FwSlot)
  -- images and fields
  | store (i : Image) (flashOk : Bool)
  | storeApply (i : Image) (flashOk : Bool)
  | package (i : Image)
  | fieldRead (index : Nat)
  | fieldWrite (index : Nat) (write : FieldAt)
  | writeStep (index : Nat) (target : Nat) (value : List Nat)
  | writeStepComplete (serial : Nat)
  -- power, reset and bring-up
  | vauxOn
  | vauxLoss
  | pwrGoodRise (tray : BitVec 6) (boot : BootSel)
  | pwrGoodFall (ns : Nat)
  | sysRstNAssert (ns : Nat)
  | sysRstNRelease (tray : BitVec 6)
  | perstRelease
  | perstAssert
  | cxPerstRelease (at' : Nat)
  | pllLock
  | pllUnlock
  | domainSwitchOn (at' : Nat)
  | domainWake (d : DomainId)
  | domainSwitchOff (d : DomainId)
  | bringupPhaseEnd (at' : Nat)
  | bringupSlow (at' : Nat)
  | hbmTrain (s : StackId) (ok : Bool)
  | fantailSample (p : PowerSample) (t : ThermalSample)
  | fantailEvaluate (at' : Nat)
  | holdNLow
  | holdNHigh
  | droopDetect (unit : Nat) (deep : Bool)
  | droopEnd (unit : Nat) (cycles : Nat)
  | thermalTrip
  | tripPowerOff (cycles : Nat)
  | stayReduced (value : W64)
  -- JTAG
  | bypass
  | idcode
  | samplePreload
  | extest
  | extestPulse
  | extestTrain
  | highz
  | clamp
  -- control space and events
  | accessErr (write : Bool) (addr : Nat) (size : Nat) (value : W64)
  | offAccess (write : Bool) (addr : Nat) (value : W64)
  | registerWrite (addr : Nat) (size : Nat) (value : W64)
  | faultRecord (at' : Nat)
  | coalesceExpiry (vector : Nat)
  | vectorUnmask (vector : Nat)
  | evqCtl (q : QueueId) (value : W64)
  | evqTail (q : QueueId) (value : W64)
  | stallLatch (value : W64)
  | ethPortDown (p : PortId)
  | firmwareUpdate (slot : FwSlot)
  | alwaysOnPllUnlock
  | suspicionReport (src dev : DevId) (port : Nat) (withdrawn : Bool) (at' : Nat)
  deriving DecidableEq, Repr

end Sys2Proof
end

