-- ==== Sys2Proof/Config.lean ====
section
/-! DEFINITION. What one chip fixes and what the spec leaves open: constants without a body, so that no proof can see
a value of them. -/

namespace Sys2Proof.Config

/-! ## Free values: applied to the counter `fresh` of the state, each use sees a value of its own -/

/-- A number that the spec does not fix. -/
opaque freeNat : Nat → Nat
/-- Bytes that the spec does not fix; the second argument is the index of the byte. -/
opaque freeByte : Nat → Nat → Byte
/-- A yes or no that the spec does not fix. -/
opaque freeBool : Nat → Bool

/-! ## Functions whose algorithm the spec names without giving it -/

/-- ECDSA P-384 verification (R460, R477, R481): public key, SHA-384 digest, r, s. -/
opaque ecdsaVerify : List Byte → List Byte → Nat → Nat → Bool
/-- ECDSA P-384 signature by a private key of the device (R482, R499, R502): key seed and digest. -/
opaque ecdsaSign : List Byte → List Byte → List Byte
/-- HKDF-SHA-384 (R482, R485): input key, label, length in bytes. -/
opaque hkdf : List Byte → List Byte → Nat → List Byte
/-- AES-256-GCM encryption with its tag (R485, R502, R504): key, nonce, associated data, text. -/
opaque aesGcmSeal : List Byte → List Byte → List Byte → List Byte → List Byte
/-- The Chontaper firmware key, whose digest is fused (R477). -/
opaque firmwareKey : List Byte
/-- The digest of the boot ROM (R484). -/
opaque romDigest : List Byte
/-- SPDM response bodies (R483): message kind, request bytes, use number. -/
opaque spdmBody : Nat → List Byte → Nat → List Byte
/-- Whether the message authentication code of an SPDM FINISH verifies (R483): session, code, use number. -/
opaque spdmMacOk : Nat → List Byte → Nat → Bool

/-- The hash that chooses a port or a UDP source port for a flow (R414, R420): SRC, DST, VC. -/
opaque flowHash : Nat → Nat → Nat → Nat
/-- Where the translation roots of a Quern lie in the system area of its stack (R280). -/
opaque dirBase : Nat → Nat
/-- Records that a pre-image log region of a size holds (R280): the spec gives no record size. -/
opaque logCapacity : Nat → Nat
/-- Frames that the ETH ingress pool can hold (R415). -/
opaque ethPool : Nat

/-! ## What other devices left in pooled memory (R441 to R448): the second argument is a value of the counter `fresh` -/

/-- The 64 bytes of a copy of the standby header of a device ID in pooled memory (R442). The third argument is the copy. -/
opaque pooledHeader : Nat → Nat → Nat → List Byte
/-- The journal records (R443) of the base (true) or the journal (false) of a device ID's standby image, as the bytes that lie in pooled
memory. -/
opaque pooledRecords : Nat → Nat → Bool → List (List Byte)
/-- The bytes of a page of a device ID's standby image (R441), as offsets with bytes; an offset that is not listed holds 0. -/
opaque pooledCells : Nat → Nat → Nat → List (Nat × Byte)
/-- The stack (in the low three bits) and frame that a home device assigns to a page of a REMOTE region (R230): device and page. -/
opaque remotePlace : Nat → Nat → Nat
/-- The content of a unit that a partner sends: unit key and version. -/
opaque partnerUnit : Nat → Nat → Nat → List Byte

/-- The step-targeted writes that the vote root sends to a spare at takeover (R474): index, value, target and order of each. -/
opaque spareWrites : Nat → List (Nat × List Nat × Nat × Nat)

/-! ## A vector program that the image in force does not hold -/

/-- The result rows of a vector program (R170 VPROG) whose operations the loaded image does not bring: program number and rows. -/
opaque vecProgram : Nat → List (List F32) → List (List F32)
/-- The events of its operations (R55, R72): NaN, infinity and narrow saturations. -/
opaque vecEvents : Nat → List (List F32) → Nat × Nat × Nat

end Sys2Proof.Config
end

