-- ==== Sys2Proof/Machine/State.lean ====
section
/-! DEFINITION. The state of the DM-960, the reasons a step stops, and the state after reset.

The block is one device: its registers, buffers, queues, pins and the roles it may hold in a job. Every map is a list of
key and value pairs (KV); a key that is not listed has the value that the accessor in Machine/Ops.lean names. -/

namespace Sys2Proof.Machine

/-! ## Why a step stops -/

/-- The machine stops with a fault: it never does, since every rule of the spec gives its command an effect. The type has no
constructor. -/
inductive Fault
  deriving DecidableEq, Repr

/-- No meaning for a command. -/
inductive Refusal where
  /-- Not modelled yet: rejected by name. Safe. -/
  | notModelled (mnemonic : String)
  deriving DecidableEq, Repr

/-! ## Faults and events (R560 to R567) -/

/-- CLASS of a fault record (R560). -/
inductive FaultClass | correctable | stepFatal | deviceFatal | event
  deriving DecidableEq, Repr

/-- A condition that a block has raised and that the fault and event unit has not yet recorded. -/
structure Raised where
  code : Nat
  cls : FaultClass
  unit : Nat
  ctx : Option CtxId
  step : Nat
  detail : Nat
  detail2 : Nat
  deriving DecidableEq, Repr

/-- A fault record (R560); PHASE belongs to the queue entry. -/
structure FaultRec where
  raised : Raised
  device : DevId
  time : Nat
  seq : Nat
  deriving DecidableEq, Repr

/-- An event queue (R564, R567). `wraps` counts how often the ring has wrapped since it was enabled. -/
structure EvQueue where
  base : Nat := 0
  log2 : Nat := 6
  head : Nat := 0
  tail : Nat := 0
  enable : Bool := false
  error : Bool := false
  coal : Nat := 0
  lost : Nat := 0
  wraps : Nat := 0
  deriving DecidableEq, Repr

/-- An MSI-X vector: its mask and pending bit, and whether a coalescing interval runs (R565). -/
structure Vec where
  masked : Bool := true
  pend : Bool := false
  busy : Bool := false
  addr : Nat := 0
  data : Nat := 0
  deriving DecidableEq, Repr

/-- The fault and event unit (R560 to R567). -/
structure EventUnit where
  raised : List Raised := []
  log : KV Nat FaultRec := []
  queues : KV Nat EvQueue := []
  vecs : KV Nat Vec := []
  seq : Nat := 0
  correctable : Nat := 0
  stepFatal : Nat := 0
  deviceFatal : Nat := 0
  fatalLatched : Bool := false
  accessErr : Nat := 0
  latched : Bool := false
  deriving DecidableEq, Repr

/-! ## Messages that leave the device -/

/-- What the device has sent, in order: frames of the fabric, records and messages for host software, outputs at pins. -/
inductive Msg
  | vote (dst : DevId) (v : VoteFrame)
  | decision (dst : DevId) (d : DecisionMsg)
  | scaleSet (dst : DevId) (tag : Nat) (s : ScaleSet)
  | gatherEnd (dst : DevId) (q : QuernId) (m : GatherMarker)
  | lkpReq (dst : DevId) (r : LkpReq)
  | lkpRsp (dst : DevId) (r : LkpRsp)
  | gristAdd (dst : DevId) (g : Contribution)
  | repl (dst : DevId) (tag : Nat) (m : ReplMsg)
  | replAsk (dst : DevId) (step table row : Nat)
  | slice (s : Slice)
  | sliceAck (src : DevId) (step mb tensor tileK tileN : Nat) (good : Bool)
  | redNode (dst : DevId) (n : RedNode)
  | retRoot (dst : DevId) (r : RetRoot)
  | wcTile (dst : DevId) (t : WcTile)
  | wcAsk (dst : DevId) (tensor tileK tileN version : Nat)
  | setAsk (dst : DevId) (version : Nat)
  | digest (dst : DevId) (tag : Nat) (d : DigestFrame)
  | replayAsk (dst : DevId) (step : Nat)
  | order (dst : DevId) (name : String) (o : OrderMsg)
  | stepWrite (dst : DevId) (tag : Nat) (w : StepWrite)
  | barrier (dst : DevId) (isDone : Bool) (w : BarrierWord)
  | xfer (dst : DevId) (x : ShardXfer)
  | unitAsk (dst : DevId) (key version : Nat)
  | unit (dst : DevId) (key version : Nat) (content : List Byte)
  | rdReq (dst : DevId) (tag addr len : Nat)
  | rdRsp (dst : DevId) (tag : Nat) (data : List Byte)
  | wr (dst : DevId) (tag addr : Nat) (data : List Byte)
  | wrAck (dst : DevId) (tag : Nat)
  | ctlRsp (dst : DevId) (tag : Nat) (value : W64)
  | ack (dst : DevId) (tag : Nat)
  | frame (port : PortId) (f : Frame)
  | eth (port : PortId) (k : EthPacket)
  | flit (port : PortId) (f : Flit)
  | linkInit (port : PortId) (l : LinkInit)
  | creditSync (port : PortId) (free : List Nat)
  | heartbeat (dst : DevId) (h : Heartbeat)
  | discover (port : PortId) (sender : DevId) (ns : List Neighbour)
  | graphDigest (digest : List Byte)
  | podGraph (dst : DevId) (graph : KV DevId (List Neighbour))
  | suspicion (dst dev : DevId) (withdrawn : Bool)
  | failed (dst : DevId)
  | confirmed (dst dev : DevId)
  | member (dst : DevId) (m : MemberRec)
  | memberAck (dst : DevId) (epoch : Nat)
  | takeoverDone (dst id : DevId)
  | jm (dst : DevId) (job : Nat)
  | evq (addr : Nat) (r : FaultRec) (phase : Bool)
  | msix (vector : Nat)
  | segment (ctx : CtxId) (seq kind step : Nat) (body : List Byte)
  | mailbox (data : List Byte)
  | readData (value : W64)
  | spdm (kind : Nat) (body : List Byte)
  | tdo (name : String) (value : Nat)
  deriving DecidableEq, Repr

/-! ## The core (R160 to R221) -/

/-- FMT values of a descriptor (R171). -/
inductive NumFmt | fp32 | m19 | bf16 | fp16 | e4m3 | e5m2 | e2m1 | int8 | int4 | int32 | fx48
  deriving DecidableEq, Repr

/-- SPACE values of a descriptor (R171). -/
inductive Space | none | range | loc | ring | stash | stage
  deriving DecidableEq, Repr

/-- ORIENT (R170). -/
inductive Orient | rr | cr | os
  deriving DecidableEq, Repr

/-- The opcodes of R172. -/
inductive Op
  | nop | signal | wait | fwdEnd | bwdEnd | mm | vec | vred | lookup | pool | gradSend | stashWr | stashRd | stashFree
  | fetch | write | prefetch | cancel | loadScales | loadCsum | invalidate | prestage
  deriving DecidableEq, Repr

/-- An operand of a descriptor: address, space, format and the bit that chooses RNE on entry to M19 (R170). -/
structure Operand where
  addr : Nat := 0
  space : Space := .none
  fmt : NumFmt := .fp32
  rne : Bool := false
  deriving DecidableEq, Repr

/-- A decoded descriptor (R170). Counts are held as real counts, not minus 1. -/
structure Desc where
  op : Op := .nop
  stream : Stream := .f
  defer : Bool := false
  mb : Option Nat := Option.none
  nOuter : Bool := false
  engSel : Nat := 0
  orient : Option Orient := Option.none
  chain : List Op := []
  pairOk : Bool := false
  waitOn : Option (Nat × Nat) := Option.none
  signalOn : Option Nat := Option.none
  signalCtr : Nat := 0
  waitCtr : Nat := 0
  waitValue : Nat := 0
  tensor : Nat := 0
  a : Operand := {}
  b : Operand := {}
  acc : Operand := {}
  out : Operand := {}
  dimK : Nat := 1
  dimN : Nat := 1
  dimR : Nat := 1
  passR : Nat := 1
  scaleA : Nat := 0
  scaleB : Nat := 0
  scaleOut : Nat := 0
  stashId : Nat := 0
  vprogA : Nat := 0
  vprogB : Nat := 0
  deriving DecidableEq, Repr

/-- A decoded command of a stream (R167 to R176): the step of its instance, its index in the step program, the slot
resolved at issue, and how far its units have come: `done` and `taken` list, per chain stage, the units committed and
started (R180); `queued` counts the units whose fetches have begun (R196), `sentPf` the transfers of a PREFETCH or of its hints that
have entered the Sluice queue (R198, R199), `passes` the passes of its matrix stage that have issued; `bad` marks a command that a
step-fatal fault has stopped and `failed` the unit in which it arose (R181); `eng` and `series` name the engine and the identity of
its running weight-gradient series (R176). -/
structure Cmd where
  desc : Desc
  step : Nat
  index : Nat
  slot : Option Nat := Option.none
  units : Nat := 1
  queued : Nat := 0
  fetchBegun : Bool := false
  issued : Nat := 0
  done : List Nat := []
  taken : List Nat := []
  enteredAt : Nat := 0
  promoted : Bool := false
  passes : Nat := 0
  sentPf : Nat := 0
  bad : Bool := false
  failed : Option Nat := Option.none
  eng : Nat := 0
  series : Nat := 0
  deriving DecidableEq, Repr

/-- One stream front end of a core (R167, R174): the step of the running instance, the next descriptor index, the
decoded unissued commands in program order, and the issued unretired ones. -/
structure Front where
  inst : Nat := 0
  next : Nat := 0
  queue : List Cmd := []
  running : List Cmd := []
  deriving DecidableEq, Repr

/-- The four arithmetic event counters of R77. -/
structure NumEvents where
  nan : Nat := 0
  inf : Nat := 0
  i32 : Nat := 0
  narrow : Nat := 0
  deriving DecidableEq, Repr

/-- Where a pass takes its accumulate-in from: nothing, an operand, or the carry of an earlier pass (R109, R122). -/
inductive AccSrc
  | zero
  | data (rows : List (List Nat))
  | carry (k0 n0 : Nat)
  deriving DecidableEq, Repr

/-- The operands of one tile of a pass: extents, stationary element codes by k and then n, streamed row codes (in OS,
the activations), and in OS the gradient samples. -/
structure TileOp where
  k0 : Nat := 0
  n0 : Nat := 0
  kn : Nat := 1
  nn : Nat := 1
  stat : List (List Nat) := []
  rows : List (List Nat) := []
  grads : List (List Nat) := []
  acc : AccSrc := .zero
  deriving DecidableEq, Repr

/-- A pass (R114): the command it belongs to, its operands, the tile whose carry it depends on (R122), its place in a
series (R123), the arithmetic events of feeding its operands (R107), the blocks that hold them (R164), and the core cycle
of its issue. -/
structure Pass where
  id : Nat
  stream : Stream
  step : Nat
  mb : Nat
  index : Nat
  stage : Nat
  unit : Nat
  orient : Orient
  fmtA : NumFmt
  fmtB : NumFmt
  rneA : Bool
  rneB : Bool
  n : Nat
  tile : TileOp
  pair : Option TileOp := Option.none
  deps : List (Nat × Nat) := []
  series : Nat := 0
  firstOfSeries : Bool := true
  lastOfSeries : Bool := true
  replay : Bool := false
  lbReplay : Bool := false
  discard : Bool := false
  layEpoch : Nat := 0
  tensor : Nat := 0
  scaleA : Nat := 0
  scaleB : Nat := 0
  ev : NumEvents := {}
  pins : List Nat := []
  issuedAt : Nat := 0
  deriving DecidableEq, Repr

/-- A pass in the array, or ended and awaiting its verdict: start, staged results and accumulate-in of its one or two tiles,
the events of its arithmetic, an uncorrectable local-buffer error met while it streamed (R165), and the CHK_RECUR_LIMIT that governs it
(R119). -/
structure RunPass where
  pass : Pass
  t0 : Nat
  tag : Nat
  closed : Bool
  results : List (List (List Nat)) := []
  accIn : List (List (List Nat)) := []
  ev : NumEvents := {}
  lbBad : Bool := false
  limit : Nat := 0
  deriving DecidableEq, Repr

/-- The most recently started pass of an engine (R117, R118, R131). -/
structure PrevPass where
  id : Nat
  t0 : Nat
  n : Nat
  orient : Orient
  pair : Bool
  closed : Bool
  tag : Nat
  deriving DecidableEq, Repr

/-- A tile load that has begun (R116): its cycle and the tiles it writes into STAT_NXT. -/
structure LoadRec where
  begun : Nat
  pass : Pass
  deriving DecidableEq, Repr

/-- A start that the engine remembers (R120): the pass as it runs, what stood in PROM when it started, and what the engine held before
the start. -/
structure StartRec where
  run : RunPass
  prom : List (List Nat) := []
  before : Option PrevPass := Option.none
  loaded : Option Nat := Option.none
  cold : Bool := false
  quiet : Bool := false
  series : Option Nat := Option.none
  close : Nat := 0
  lastDrain : Option Nat := Option.none
  deriving DecidableEq, Repr

/-- One matrix engine (R104 to R159). `loads` and `starts` hold the latest tile loads and starts, newest first: they say what every cell
holds in a core cycle (Machine/Cells.lean). `notBefore` is the first cycle in which a pass may start after a replay (R144), `gatedBy` the
requester whose estimate gated the clock (R215), `byPolicy` says that ENG_REPAIR_POLICY retired it (R153); `workCut` and `closeCut` are what ENG_CTR_CLEAR took from the running counts. -/
structure Engine where
  assigned : List Pass := []
  loading : Option (Nat × Nat) := Option.none
  loaded : Option Nat := Option.none
  prev : Option PrevPass := Option.none
  inArray : List RunPass := []
  ended : List RunPass := []
  prom : List (List Nat) := []
  series : Option Nat := Option.none
  seriesPasses : List Pass := []
  readyAt : Nat := 0
  lastDrain : Option Nat := Option.none
  slices : List Slice := []
  replay : List Pass := []
  started : Nat := 0
  reqHost : Bool := false
  reqGov : Bool := false
  reqAtl : Bool := false
  reqFan : Bool := false
  reqCyc : Nat := 0
  quiet : Bool := false
  lastWait : Nat := 0
  coldNext : Bool := false
  elapsed : Nat := 0
  work : Nat := 0
  close : Nat := 0
  retired : Bool := false
  cause : Nat := 0
  retireWhenQuiet : Option Nat := Option.none
  colRep : Option Nat := Option.none
  rowRep : Option Nat := Option.none
  colFuse : Bool := false
  rowFuse : Bool := false
  recur : Nat := 0
  mismatch : Nat := 0
  replayOk : Nat := 0
  unchecked : Nat := 0
  chkLast : Nat := 0
  gated : Bool := false
  wakeAt : Nat := 0
  gatedBy : Nat := 0
  loads : List LoadRec := []
  starts : List StartRec := []
  notBefore : Nat := 0
  workCut : Nat := 0
  closeCut : Nat := 0
  byPolicy : Bool := false
  deriving DecidableEq, Repr

/-- Who owns a local-buffer block (R162, R165, R166). -/
inductive Owner | free | staging | f | b | u | millpond | pool
  deriving DecidableEq, Repr

/-- What a block holds, which decides an uncorrectable error (R165). -/
inductive Content | empty | clean | dirty | stage
  deriving DecidableEq, Repr

/-- A local-buffer block (R161 to R166). -/
structure Block where
  owner : Owner := .free
  content : Content := .empty
  stream : Stream := .f
  pass : Nat := 0
  deriving DecidableEq, Repr

/-- A place that a fetched operand comes from: `count` pieces of `len` bytes in the range, `stride` apart, or a tile of the
ring (tensor, tile, version) (R171). -/
structure Span where
  addr : Nat := 0
  len : Nat := 0
  stride : Nat := 0
  count : Nat := 0
  ring : Option (Nat × Nat × Nat) := Option.none
  deriving DecidableEq, Repr

/-- A fetched operand in a stream's region (R163, R196): the pieces of the range it holds, or its ring tile (tensor, tile, version); its
bytes by range address or the codes of the tile, the blocks that hold it, and the units (step, index, unit) of commands that use it.
`todo` lists the pieces whose transfers have not entered the Sluice queue yet (R198). `keep` holds the step of a FETCH that has
retired, until a later command uses the operand; `loc` is the local offset of the copy that a FETCH has placed in LOCAL space. -/
structure Held where
  id : Nat
  stream : Stream
  pieces : List (Nat × Nat) := []
  ring : Option (Nat × Nat × Nat) := Option.none
  todo : List (Nat × Nat) := []
  mem : List Host.Cell := []
  codes : List Nat := []
  blocks : List Nat := []
  users : List (Nat × Nat × Nat) := []
  keep : Option Nat := Option.none
  loc : Option Nat := Option.none
  deriving DecidableEq, Repr

/-- An output that waits for a place in the stash (R171, R187): the command, its bytes, and the blocks of the stream's region that hold
them. -/
structure StashOwed where
  cmd : Cmd
  bytes : List Byte
  blocks : List Nat := []
  deriving DecidableEq, Repr

/-- A stash entry (R185): its bytes, its resident and spilled blocks, those in flight to the spill region, and the
spilled blocks read back; `places` gives the place of a block in the spill region, counted in blocks. -/
structure Stash where
  bytes : List Byte := []
  places : KV Nat Nat := []
  blocks : Nat := 0
  resident : List Nat := []
  inFlight : List Nat := []
  spilled : List Nat := []
  back : List Nat := []
  deriving DecidableEq, Repr

/-- The Millpond accounts of a slot on a core (R186): reservation and blocks written, in blocks; and the order in
which it was taken. -/
structure Reserve where
  reserved : Nat := 0
  written : Nat := 0
  seq : Nat := 0
  deriving DecidableEq, Repr

/-- What a transfer is for (R195 to R206). -/
inductive XKind | demand | prefetch | hint | write | spill | slice | grad | readback
  deriving DecidableEq, Repr

/-- The shares of Sluice (R195). -/
inductive Share | read | write | remote
  deriving DecidableEq, Repr

/-- The tag of a prefetch or hint (R206) with the bytes of its part of a merged transfer (R201); `counted` says that the bytes of a
cancelled part stand in SLUICE_WASTED already. -/
structure XTag where
  ctx : Nat
  stream : Stream
  step : Nat
  index : Nat
  mb : Option Nat
  bytes : Nat
  valid : Bool := true
  counted : Bool := false
  deriving DecidableEq, Repr

/-- What a transfer names: range bytes, or a tile of the ring (R171). -/
inductive XTarget
  | range (addr len : Nat)
  | ring (tensor tau version : Nat)
  deriving DecidableEq, Repr

/-- TIER of a page (R229). -/
inductive TierName | hbm | cxl | remote
  deriving DecidableEq, Repr

/-- A place that holds a page: tier, stack or port, frame, and the device of a REMOTE page (R229). -/
structure Loc where
  tier : TierName
  unit : Nat
  frame : Nat
  dev : DevId := 0
  deriving DecidableEq, Repr

/-- A transfer through a core port (R195 to R208): `holds` names the held operands it brings part of, `blocks` the local-buffer
blocks that a write keeps until its acknowledgement (R205), `remote` the frame tag whose reply it awaits, `sent` the bytes of
it that have left in parts as large as the bucket (log entry 28), `newest` the serial number of its newest part (R201, R205), `loc` the
place that the translation of its page named at departure (R231). -/
structure Transfer where
  id : Nat
  kind : XKind
  stream : Stream
  cls : Nat
  share : Share
  target : XTarget
  bytes : Nat
  step : Nat
  index : Nat
  unit : Nat
  tags : List XTag := []
  data : List Byte := []
  holds : List Nat := []
  blocks : List Nat := []
  remote : Option Nat := Option.none
  sent : Nat := 0
  newest : Nat := 0
  loc : Option Loc := Option.none
  departed : Bool := false
  dropped : Bool := false
  repair : Bool := false
  deriving DecidableEq, Repr

/-- A prefetched or hinted operand in the shared pool (R166): its bytes or ring codes, and its blocks. -/
structure PoolBlock where
  target : XTarget
  stream : Stream
  bytes : Nat
  data : List Byte := []
  codes : List Nat := []
  blocks : List Nat := []
  tags : List XTag
  seq : Nat
  deriving DecidableEq, Repr

/-- A hand-over unit between two chain stages (R180): the stage that wrote it, the unit, its rows and the blocks that hold
them. -/
structure HandUnit where
  stream : Stream
  step : Nat
  index : Nat
  boundary : Nat
  unit : Nat
  rows : List (List Nat)
  blocks : List Nat := []
  deriving DecidableEq, Repr

/-- The committed results of a pass in the code domain (R121): the tile they belong to, the staging blocks that hold them,
and the core cycle of the verdict. A later pass takes them as its accumulate-in (R122), or they are the command's output. -/
structure Carry where
  stream : Stream
  step : Nat
  index : Nat
  unit : Nat
  k0 : Nat
  n0 : Nat
  rows : List (List Nat)
  pass : Nat
  at' : Nat
  deriving DecidableEq, Repr

/-- An entry of the frozen dump (R570). -/
structure DumpEntry where
  index : Nat
  step : Nat
  mb : Nat
  slot : Nat
  unmet : Nat
  opcode : Nat
  stream : Nat
  deriving DecidableEq, Repr

/-- The frozen dump of R570: the step of the oldest open step, BLOCKED, and its 64 entries. -/
structure Dump where
  step : Nat := 0
  blocked : Nat := 0
  entries : List DumpEntry := []
  blockMap : List Nat := []
  slots : List (Nat × Nat) := []
  sync : List Nat := []
  deriving DecidableEq, Repr

/-- Headrace, Tailrace and Sluice of one core (R194 to R208): waiting transfers in order, the shared pool, the token
levels (times 256), and the counters of R208. -/
structure Feed where
  nextXfer : Nat := 0
  queue : List Transfer := []
  pool : List PoolBlock := []
  poolSeq : Nat := 0
  levelRead : Nat := 0
  levelWrite : Nat := 0
  levelRemote : Nat := 0
  portBusy : Nat := 0
  bytesRead : Nat := 0
  bytesWrite : Nat := 0
  bytesRemote : Nat := 0
  wasted : Nat := 0
  pfUsed : Nat := 0
  pfDropped : Nat := 0
  pfMerged : Nat := 0
  wastedCopy : Nat := 0
  deriving DecidableEq, Repr

/-- The local buffer of one core (R161 to R166, R185 to R189): block map, bytes, stashes and Millpond accounts; `freed` counts the
blocks that have been freed, and `owed` the outputs that wait for the stash. -/
structure LocalBuf where
  blocks : KV Nat Block := []
  mem : List Host.Cell := []
  stash : KV (Nat × Nat) Stash := []
  reserves : KV Nat Reserve := []
  held : List Held := []
  nextHeld : Nat := 0
  admitSeq : Nat := 0
  ce : Nat := 0
  refetch : Nat := 0
  freed : Nat := 0
  owed : List StashOwed := []
  deriving DecidableEq, Repr

/-- A core (R160): its engines, the three front ends with the deferred pool, the synchronisation counters, the buffers of
its chains, no-progress detection, the local buffer, feeding, counters and clock divider. -/
structure Core where
  eng : KV Nat Engine := []
  f : Front := {}
  b : Front := {}
  u : Front := {}
  deferred : List Cmd := []
  promotions : Nat := 0
  fHold : Bool := false
  bHold : Bool := false
  uHold : Bool := false
  sync : KV (Nat × Nat) Nat := []
  hand : List HandUnit := []
  carries : List Carry := []
  nextPass : Nat := 0
  lastCyc : Nat := 0
  issueCyc : Nat := 0
  blocked : Nat := 0
  freedSeen : Nat := 0
  fired : Bool := false
  dump : Option Dump := Option.none
  lb : LocalBuf := {}
  feed : Feed := {}
  num : NumEvents := {}
  stall : KV Nat Nat := []
  stallCopy : KV Nat Nat := []
  div : Nat := 3
  scalesOf : Nat := 0
  csumsOf : List (Nat × Nat) := []
  deriving DecidableEq, Repr

/-! ## Arbiters (R210 to R220) -/

/-- A request waiting at an arbiter: its traffic class, requester, the cycle of its arrival, its remaining slack then (R210), and how
many turn estimates it has been given (R214). -/
structure ArbWait where
  cls : Nat
  requester : Nat
  arrived : Nat
  slack : Int
  told : Nat := 0
  deriving DecidableEq, Repr

/-- An arbitrated port (R210 to R220). `lastCyc` is the latest resource cycle known, `cutOwed` the requesters whose cut transfer is still
to be reissued (R213). -/
structure Arb where
  owner : Option Nat := none
  ownerCls : Nat := 0
  since : Nat := 0
  waiting : List ArbWait := []
  flagged : List Nat := []
  holds : List Nat := []
  estimates : KV Nat Nat := []
  waitSum : Nat := 0
  waits : Nat := 0
  waitMax : Nat := 0
  cuts : Nat := 0
  lastCyc : Nat := 0
  cutOwed : List Nat := []
  deriving DecidableEq, Repr

/-! ## Memory tiers (R222 to R247) -/

/-- STATE of a page (R229). -/
inductive PageState | unmapped | resident | moving | faulted
  deriving DecidableEq, Repr

/-- A page table entry (R229). -/
structure Page where
  state : PageState
  pin : Bool
  loc : Loc
  heat : Nat := 0
  deriving DecidableEq, Repr

/-- A migration slot (R233): page, source and target, the sectors that the pass copies (every sector in the first one), how far it has
come, dirty sectors, rounds run, whether the final round runs or the entry has flipped, and the transfers (core, ID) translated to the
source that are still in flight at the flip. -/
structure Mig where
  page : Nat
  source : Loc
  target : Loc
  work : Option (List Nat) := Option.none
  pos : Nat := 0
  dirty : List Nat := []
  round : Nat := 0
  final : Bool := false
  flipped : Bool := false
  waits : List (Nat × Nat) := []
  deriving DecidableEq, Repr

/-- A port of pooled memory (R240, R244, R246). -/
structure CxlPort where
  up : Bool := false
  gen : Nat := 0
  width : Nat := 0
  ide : Bool := false
  downWait : Bool := false
  downAt : Nat := 0
  poison : Nat := 0
  retrains : Nat := 0
  perstN : Bool := false
  deriving DecidableEq, Repr

/-- A late counter (R238, R246). -/
structure Late where
  late : Nat := 0
  sum : Nat := 0
  deriving DecidableEq, Repr

/-- An access of another device that waits for its page (R238): the device, the tag of its frame, a write's bytes or none for a read, the
range address and the length. -/
structure RemoteAsk where
  src : DevId
  tag : Nat
  addr : Nat
  len : Nat
  write : Option (List Byte) := Option.none
  deriving DecidableEq, Repr

/-- A translation cache (R231): the pages it holds, newest first, and its count of accesses between two that add to a HEAT (R235). -/
structure XlatCache where
  pages : List Nat := []
  count : Nat := 0
  deriving DecidableEq, Repr

/-- The tier manager and the memories behind the range. `mem` holds HBM and pooled memory by physical byte; `xlat` the translation
caches of the cores' Headraces (0 to 31), the Querns (32 to 43) and the memory controllers (44 to 51); `asks` the accesses of other
devices that wait. -/
structure Tier where
  pages : KV Nat Page := []
  migs : KV Nat Mig := []
  used : List Loc := []
  retired : List Loc := []
  mem : List Host.Cell := []
  moves : Nat := 0
  abandons : Nat := 0
  heldMax : Nat := 0
  lateHbm : Late := {}
  lateCxl : Late := {}
  lateRemote : Late := {}
  refills : Nat := 0
  cxl : KV Nat CxlPort := []
  stall : KV Nat Nat := []
  stallCopy : KV Nat Nat := []
  remoteWait : List (Nat × DevId × Nat) := []
  xlat : KV Nat XlatCache := []
  asks : List RemoteAsk := []
  deriving DecidableEq, Repr

/-! ## Quern and the Grist buffer (R248 to R308) -/

/-- ROLE of a directory entry (R254). -/
inductive Role | home | mirror | replica
  deriving DecidableEq, Repr

/-- A row on this device: the directory entry of R254, its record, state record and popularity record, what a move has
written to the new slot (R276), and the decisions pending for it (R274, R275). -/
structure Row where
  role : Role
  record : RowRec
  state : List Byte
  tier : Nat := 0
  repl : Bool := false
  home : DevId := 0
  mirror : DevId := 0
  slot : Nat := 0
  pop : Nat := 0
  popEpoch : Nat := 0
  moving : Option (RowRec × Nat × Nat) := Option.none
  pendClass : Option RowClass := Option.none
  pendTier : Option Nat := Option.none
  pendRepl : Option Bool := Option.none
  deriving DecidableEq, Repr

/-- A pre-image log record (R263). -/
structure PreImage where
  table : Nat
  row : Nat
  older : Nat
  record : RowRec
  deriving DecidableEq, Repr

/-- A Grist entry (R289); elements are FX48 integers. -/
structure GEntry where
  sat : Bool := false
  nonfin : Bool := false
  role : Role := .home
  count : Nat := 0
  vals : List Int := []
  layEpoch : Nat := 0
  deriving DecidableEq, Repr

/-- The Grist set of one step (R286 to R290, R302). -/
structure GSet where
  entries : KV (Nat × Nat) GEntry := []
  markers : KV DevId Nat := []
  received : KV DevId Nat := []
  retained : Bool := false
  skipped : Bool := false
  deriving DecidableEq, Repr

/-- A Quern with its Grist buffer (R248 to R308). -/
structure Quern where
  doneVersion : Nat := 0
  logHold : Bool := false
  log : List PreImage := []
  reserved : KV Nat Nat := []
  held : List LkpReq := []
  screened : List Nat := []
  sets : KV Nat GSet := []
  waiting : List Contribution := []
  reads : Nat := 0
  sent : Nat := 0
  served : Nat := 0
  faultLast : Nat := 0
  faultIndex : Nat := 0
  promoted : Nat := 0
  demoted : Nat := 0
  replAdd : Nat := 0
  replDrop : Nat := 0
  versionWait : Nat := 0
  logWait : Nat := 0
  peakKib : Nat := 0
  contrib : Nat := 0
  satEntries : Nat := 0
  misroute : Nat := 0
  fullWait : Nat := 0
  replWait : Nat := 0
  applied : Nat := 0
  gristLast : Nat := 0
  num : NumEvents := {}
  stall : KV Nat Nat := []
  stallCopy : KV Nat Nat := []
  deriving DecidableEq, Repr

/-- Replica traffic of this device (R304, R306): forwarded sums applied and markers held, by step and home; messages held
until the decision; steps whose replica Apply has ended; rows applied from sums, by home, for the digest of R361. -/
structure Repl where
  sums : KV (Nat × DevId) Nat := []
  marks : KV (Nat × DevId) Nat := []
  held : List ReplMsg := []
  applied : List (Nat × Nat × Nat) := []
  resends : KV (DevId × Nat × Nat) Nat := []
  deriving DecidableEq, Repr

/-- The outcome of one index of a lookup unit (R270, R271): 0 INDEX_RANGE and 1 DIR_ABSENT are the faults. -/
inductive IdxOutcome
  | waiting
  | vals (xs : List F32)
  | fault (kind : Nat)
  deriving DecidableEq, Repr

/-- One index of a unit: bag, position, row index, weight and outcome. -/
structure LkpItem where
  bag : Nat
  pos : Nat
  index : Nat
  weight : F32
  out : IdxOutcome := .waiting
  deriving DecidableEq, Repr

/-- A unit of lookups, or of gradients to send, at the front Quern (R260, R271, R282): `sending` says that its rows or gradients stand at the
core port until their transfer departs (R203), `grads` are those gradients with their destinations. -/
structure LkpUnit where
  ref : Nat
  core : CoreId
  stream : Stream
  step : Nat
  mb : Nat
  index : Nat
  unit : Nat
  table : Nat
  mode : Nat
  bf16 : Bool
  bags : List Nat
  items : List LkpItem
  sending : Bool := false
  grads : List Contribution := []
  deriving DecidableEq, Repr

/-! ## Weir (R309 to R348) -/

/-- The key of a reduction node: step, tensor, tile, level and index (R317, R319). -/
structure NodeKey where
  step : Nat
  tensor : Nat
  tau : Nat
  level : Nat
  index : Nat
  layEpoch : Nat := 0
  deriving DecidableEq, Repr

/-- One frame of a tile: master and state arrays (R328). -/
structure TileFrame where
  master : List F32 := []
  states : List (List F32) := []
  deriving DecidableEq, Repr

/-- A tile that the device homes or mirrors (R328): frames A and B, CUR, and the step of the candidate in the staged
frame. -/
structure Tile where
  a : TileFrame := {}
  b : TileFrame := {}
  cur : Bool := false
  cand : Option Nat := none
  deriving DecidableEq, Repr

/-- The scalar record of a tensor (R328) and the K registers of the prelude that ran for a step (R325, R326). -/
structure Scalar where
  count : Nat := 0
  xs : List F32 := []
  candXs : List F32 := []
  ks : List F32 := []
  prelude : Option Nat := none
  deriving DecidableEq, Repr

/-- STATE of a ring entry (R335). -/
inductive EntryState | empty | arriving | installed
  deriving DecidableEq, Repr

/-- A ring entry (R335, R347); `origin` is the version whose tiles its storage slot holds, which a skipped version shares (R338). -/
structure RingEntry where
  version : Nat := 0
  wcSlot : Nat := 0
  ssSlot : Nat := 0
  state : EntryState := .empty
  skipped : Bool := false
  origin : Nat := 0
  deriving DecidableEq, Repr

/-- A working-copy tile area of a ring storage slot (R333). -/
structure StoredTile where
  codes : List Nat
  csums : List Int
  digest : List Byte
  check : Nat
  deriving DecidableEq, Repr

/-- A comparison outstanding at the device that makes it (R360): the kind 0 dense shard, 1 row shard, 2 working copies of
a tensor, 3 replicas of a shard; table or tensor, shard, and the device compared. -/
structure CmpKey where
  kind : Nat
  table : Nat
  shard : Nat
  dev : DevId
  deriving DecidableEq, Repr

/-- The digest work of one step on this device (R343 to R345, R360, R361). -/
structure DigestSt where
  leaves : List (Nat × List Byte) := []
  leafCount : KV DevId Nat := []
  leafEnds : KV DevId Nat := []
  buckets : List (Nat × List Byte) := []
  bucketCount : KV DevId Nat := []
  bucketEnds : KV DevId Nat := []
  sentBuckets : Bool := false
  param : Option (List Byte) := none
  repairing : List (Bool × Nat × Nat × DevId) := []
  recv : List (CmpKey × List Byte) := []
  wcSrc : List (Nat × DevId × List (Nat × List Byte)) := []
  refs : List (Bool × Nat × Nat × List Byte) := []
  pendingCmp : List CmpKey := []
  deriving DecidableEq, Repr

/-- A unit being rebuilt under R365: its key and step, the comparison it belongs to, the content that stands before the step
once it is known, whether host software supplied it, and when it was asked for. -/
structure Rebuild where
  key : Nat
  step : Nat
  cmp : CmpKey
  pre : List Byte := []
  fromHost : Bool := false
  askedAt : Option Nat := none
  deriving DecidableEq, Repr

/-- Weir (R309 to R348). -/
structure Weir where
  nodes : KV NodeKey (List F32) := []
  seen : List NodeKey := []
  sliceTries : KV (NodeKey × DevId) Nat := []
  spilled : Nat := 0
  creditHeld : Bool := false
  slices : Nat := 0
  crcResends : Nat := 0
  rejected : Nat := 0
  retained : KV (Nat × Nat × Nat) (List F32) := []
  roots : KV (Nat × Nat × Nat) (List F32) := []
  tiles : KV (Nat × Nat) Tile := []
  scalars : KV Nat Scalar := []
  weightMax : KV (Nat × Nat) F32 := []
  weightRecv : KV Nat (List (DevId × List F32)) := []
  ring : KV Nat RingEntry := []
  arriving : Option RingEntry := none
  stored : KV (Nat × Nat × Nat) StoredTile := []
  scaleSets : KV Nat ScaleSet := []
  sources : KV (Nat × Nat × Nat) WcTile := []
  wcTries : KV (Nat × Nat × Nat) Nat := []
  wcAcks : KV (Nat × DevId) (Nat × Nat × Nat) := []
  wcGot : List (Nat × Nat × Nat) := []
  ssTries : Nat := 0
  ssChecked : List Nat := []
  faultLast : Nat := 0
  bcastTiles : Nat := 0
  bcastResends : Nat := 0
  checkRepairs : Nat := 0
  digests : KV Nat DigestSt := []
  param : List Byte := []
  clamps : Nat := 0
  consecSkips : Nat := 0
  wcRepairs : Nat := 0
  rowRepairs : Nat := 0
  rebuilds : Nat := 0
  replays : Nat := 0
  rebuilding : List Rebuild := []
  used : List (Bool × Nat × Nat × Nat) := []
  num : NumEvents := {}
  stall : KV Nat Nat := []
  stallCopy : KV Nat Nat := []
  deriving DecidableEq, Repr

/-! ## Steps (R17 to R49, R349 to R376) -/

/-- States of a step (R349). -/
inductive StepState | idle | gather | closed | vote | apply | seal | aborting | sealed | halted
  deriving DecidableEq, Repr

/-- One open or sealed step on this device. -/
structure StepRec where
  st : StepState := .idle
  admitted : Nat := 0
  released : Nat := 0
  gatherEnded : Bool := false
  flags : Flags := {}
  fatal : Bool := false
  voteSent : Bool := false
  decided : Option Decision := none
  decFlags : Flags := {}
  memEpoch : Nat := 0
  layEpoch : Nat := 0
  govern : List (Nat × List Nat) := []
  samples : List (List Byte) := []
  maxima : KV Nat F32 := []
  sentTo : KV (DevId × Nat) Nat := []
  stbyDone : Bool := false
  signed : Bool := false
  logged : Bool := false
  spooled : Bool := false
  repairs : List (Nat × DevId × Nat × Nat) := []
  rolled : Bool := false
  changedRows : List (Nat × Nat) := []
  replSent : KV DevId Nat := []
  deriving DecidableEq, Repr

/-- The votes a Weir has gathered for one step, from its own device and its children (R339). -/
structure VoteAcc where
  got : List DevId := []
  word : Option VoteWord := none
  maxima : List F32 := []
  diffEpoch : Bool := false
  diffLayout : Bool := false
  sentUp : Bool := false
  deriving DecidableEq, Repr

/-- A micro-batch slot (R23, R24): the cores on which its last forward and its last backward command have retired. -/
structure Slot where
  step : Nat
  mb : Nat
  ctx : CtxId
  layEpoch : Nat
  version : Nat
  fwdDone : List Nat := []
  bwdDone : List Nat := []
  deriving DecidableEq, Repr

/-- LSTATE of a re-shard (R375). -/
inductive LState | none | staged | barrier | moving | doneSent
  deriving DecidableEq, Repr

/-- The re-shard in progress (R369 to R375), also the barrier of a switch (R492). `flipReady` holds after an epoch increment where this
device had sent DONE, so that a FLIP that was final then still reaches it (R352, R373). -/
structure Layout where
  target : Nat := 0
  lstate : LState := .none
  sentBytes : Nat := 0
  recvBytes : Nat := 0
  staged : List FieldInst := []
  sectionDigest : Nat := 0
  refusedTarget : Bool := false
  barrierAcc : List (DevId × BarrierWord) := []
  doneAcc : List (DevId × BarrierWord) := []
  barrierSent : Bool := false
  received : List ShardXfer := []
  xferTries : KV (Nat × Nat × Nat × DevId) Nat := []
  xferOwed : List (Nat × Nat × Nat × DevId) := []
  switchTo : Option (CtxId × CtxId) := Option.none
  flipReady : Bool := false
  deriving DecidableEq, Repr

/-- The step control of the running context. `freedAt` gives the core cycle in which a slot was released (R169); `stageOut` lists the micro-batches for which a stage of this device holds a credit
(R386): stage slot, forward or not, step and MB; `rxSteps` the steps of the writes that have come into a receive region of this device (R384). -/
structure StepCtl where
  s0 : Nat := 0
  sealed : Nat := 0
  steps : KV Nat StepRec := []
  slots : KV Nat Slot := []
  freedAt : KV Nat Nat := []
  stageOut : List (Nat × Bool × Nat × Nat) := []
  rxSteps : List Nat := []
  admStep : Nat := 0
  started : Bool := false
  halted : Bool := false
  lastSkipped : Bool := false
  lastDecision : Nat := 0
  lastFlags : Flags := {}
  lastDecided : Nat := 0
  memEpoch : Nat := 0
  layEpoch : Nat := 0
  members : List DevId := []
  acc : KV Nat VoteAcc := []
  rootDecided : KV Nat DecisionMsg := []
  rootLast : Nat := 0
  mirrorHeld : KV Nat DecisionMsg := []
  broadcast : List Nat := []
  orderFinal : List (String × OrderMsg) := []
  orderPend : List (String × OrderMsg) := []
  shardLost : Bool := false
  layout : Layout := {}
  snapTarget : Option Nat := none
  snapDone : Bool := true
  releaseTarget : Option Nat := none
  switchTarget : Option Nat := none
  deriving DecidableEq, Repr

/-! ## The fabric (R395 to R430) -/

/-- STATE of a Popor port (R429). -/
inductive PortState | absent | training | up | retraining | down | held
  deriving DecidableEq, Repr

/-- A Popor port (R395 to R408, R429). -/
structure Port where
  state : PortState := .absent
  rate : Nat := 0
  half : Bool := false
  rev : Nat := 0
  peerId : DevId := 0
  peerTray : Nat := 0
  peerPort : Nat := 0
  credits : List Nat := []
  nextSeq : Nat := 0
  expect : Nat := 0
  awaitResend : Bool := false
  retry : List (Nat × Flit) := []
  retryPeak : Nat := 0
  naksAt : List Nat := []
  crcErr : Nat := 0
  naks : Nat := 0
  retrains : Nat := 0
  frameInvalid : Nat := 0
  rtt : Nat := 0
  tx : Nat := 0
  rx : Nat := 0
  retrainAt : Nat := 0
  deriving DecidableEq, Repr

/-- One flow across Ethernet (R414, R415). -/
structure Flow where
  nextPsn : Nat := 0
  expect : Nat := 0
  unacked : List (Nat × Frame) := []
  grant : Nat := 0
  rto : Nat := 0
  deadline : Nat := 0
  window : Nat := 64
  acked : Nat := 0
  ceSeen : Bool := false
  deriving DecidableEq, Repr

/-- A frame whose ACK is awaited (R427). -/
structure Unacked where
  msg : Msg
  deadline : Nat
  limit : Nat
  deriving DecidableEq, Repr

/-- What a watcher knows of a device from its heartbeats (R424, R434): instant of the last one, its liveness count, how often in a
row that count came, the epoch and the low bits of SEALED_STEP it carried, and whether a suspicion stands. -/
structure Heard where
  at' : Nat := 0
  live : Nat := 0
  same : Nat := 0
  epoch : Nat := 0
  sealedLo : Nat := 0
  suspected : Bool := false
  deriving DecidableEq, Repr

/-- A record that waits for the frame that carries it (R405): opcode, step and context of that frame, what is left of its bytes, and whether
an earlier frame carried its start. -/
structure OutRec where
  opcode : Nat
  step : Nat
  ctx : CtxId
  bytes : List Byte
  begun : Bool := false
  deriving DecidableEq, Repr

/-- A record that a frame brought (R404). -/
inductive FabRec
  | req (r : LkpReq)
  | rsp (r : LkpRsp)
  | add (g : Contribution)
  deriving DecidableEq, Repr

/-- The fabric registers and tables of the device (R417 to R430). `outRecs` are records that wait for their frames, by destination and
virtual channel; `parts` are the starts of records whose rest the next frame brings, with their step; `records` are those received whole;
`owedSlots` are credits withheld while the space of R320 is full. `waitingFrames` are frames that wait for a route, credits, room
in a retry buffer or a grant, with the port they came in by; `windows` hold, for (SRC, VC, context, epoch), the highest COUNTER accepted
and those accepted within 4,096 of it, and `keySent`, for the key of a context and an epoch, the COUNTERs used under it (R486); `counter` is
the next transaction tag. -/
structure Fabric where
  ports : KV Nat Port := []
  devId : DevId := 0
  boundId : DevId := 0
  pod : Nat := 0
  coord : DevId := 0
  graph : KV DevId (List Neighbour) := []
  graphAt : Nat := 0
  graphDone : Bool := false
  routes : KV DevId (List Nat) := []
  gen : Nat := 0
  noroute : Nat := 0
  hopDrops : Nat := 0
  waitingFrames : List (Option Nat × Frame) := []
  flows : KV (DevId × Nat) Flow := []
  resends : Nat := 0
  ceEchoes : Nat := 0
  grantWaits : Nat := 0
  hbSent : Nat := 0
  suspects : Nat := 0
  hbAt : Option Nat := none
  heard : KV DevId Heard := []
  unacked : KV (Nat × DevId) Unacked := []
  counter : Nat := 1
  windows : KV (DevId × Nat × Nat × Nat) (Nat × List Nat) := []
  keySent : KV (Nat × Nat) Nat := []
  delivered : List Frame := []
  conflict : Bool := false
  outRecs : KV (DevId × Nat) (List OutRec) := []
  parts : KV (DevId × DevId × Nat) (Nat × List Byte) := []
  records : List FabRec := []
  owedSlots : List (Nat × Nat × Nat) := []
  deriving DecidableEq, Repr

/-! ## Membership and recovery (R431 to R455) -/

/-- ROLE of RCV_STATUS (R454). -/
inductive RcvRole | none | member | spare | takeover | fenced | released
  deriving DecidableEq, Repr

/-- The kinds of lease (R438). -/
inductive LeaseKind | coord | deputy | jobCoord | voteRoot | voteMirror | shard | redNode | stage | cxlRegion | route
  deriving DecidableEq, Repr

/-- A standby header (R442). -/
structure StbyHeader where
  device : DevId
  jobId : Nat
  seq : Nat
  baseStep : Nat
  sealedStep : Nat
  memEpoch : Nat
  layEpoch : Nat
  head : Nat
  tail : Nat
  deriving DecidableEq, Repr

/-- A journal record (R443): STEP, KIND, KEY and content. -/
structure Journal where
  step : Nat
  kind : Nat
  key : Nat
  content : List Byte
  deriving DecidableEq, Repr

/-- The standby image of the device (R441 to R445): the two header copies, the base as journal content by unit key, and
the journal. -/
structure Standby where
  hdr0 : Option StbyHeader := none
  hdr1 : Option StbyHeader := none
  base : List Journal := []
  journal : List Journal := []
  fullWait : Bool := false
  deriving DecidableEq, Repr

/-- A takeover by this spare (R447): the ID, the version restored and the increment's instants. -/
structure Takeover where
  id : DevId
  version : Nat
  cxlGranted : Bool
  pulled : Bool
  roll : Option Nat
  deriving DecidableEq, Repr

/-- A planned release (R451). -/
structure Release where
  pod : Nat
  tray : Nat
  dev : DevId
  target : Nat
  deriving DecidableEq, Repr

/-- Membership and recovery (R431 to R455). `taking` lists the IDs whose takeover is not done; `confirmed` the devices confirmed
failed and not yet in a record, with the instant; `jobCoord` the job coordinator that this spare reports to. -/
structure Recovery where
  role : RcvRole := .none
  isCoord : Bool := false
  isDeputy : Bool := false
  isJobCoord : Bool := false
  jobWait : Bool := false
  rollStep : Nat := 0
  confirmUs : Nat := 0
  epochUs : Nat := 0
  takeoverMs : Nat := 0
  epochs : Nat := 0
  takeovers : Nat := 0
  partnerUnits : Nat := 0
  restarts : Nat := 0
  suspicions : List (DevId × DevId × Nat × Nat) := []
  confirmed : List (DevId × Nat) := []
  failedIds : List DevId := []
  badSpares : List DevId := []
  record : Option MemberRec := Option.none
  acks : List DevId := []
  deputyHolds : Bool := false
  finalAt : Nat := 0
  leases : KV (LeaseKind × DevId) (DevId × Nat) := []
  fmBound : List DevId := []
  fmAsked : KV DevId Nat := []
  fmLate : List DevId := []
  takeover : Option Takeover := Option.none
  bindings : KV DevId DevId := []
  unbound : List DevId := []
  podHeard : KV Nat Nat := []
  coordHeard : Nat := 0
  releases : List Release := []
  hbStopped : Bool := false
  taking : List DevId := []
  jobCoord : DevId := 0
  deriving DecidableEq, Repr

/-! ## The loader (R456 to R476) -/

/-- A plain write of a Shadowed field that waits for its boundary (R15, R16): the value, the control cycle of the write, and the serial
number below which step-targeted writes of the field were held when it was written. -/
structure PlainWrite where
  value : List Nat
  cycle : Nat
  after : Nat
  deriving DecidableEq, Repr

/-- A field in force (its value in `inst`), the value written for the next boundary (R15, R16), and the type, context and
device of the section that holds it. `plainFrom` is the step at whose boundary the last plain write took effect, and `plainAfter` its
place among the step-targeted writes (R16, R474). -/
structure FieldSt where
  inst : FieldInst
  sect : SectType
  ctx : Option CtxId := none
  device : DevId := 0
  shadow : Option PlainWrite := none
  plainFrom : Nat := 0
  plainAfter : Nat := 0
  deriving DecidableEq, Repr

/-- A bank (R464). -/
structure Bank where
  seq : Nat
  image : Image
  crcOk : Bool := true
  deriving DecidableEq, Repr

/-- A step-targeted write at the vote root (R472 to R474). -/
structure RootWrite where
  w : StepWrite
  complete : Bool
  attached : Bool
  deriving DecidableEq, Repr

/-- The Mioxa loader (R456 to R476). -/
structure Loader where
  bankA : Option Bank := none
  bankB : Option Bank := none
  image : Option Image := none
  fromBank : Nat := 0
  packages : List Image := []
  fields : List FieldSt := []
  sel : Nat := 0
  result : Nat := 0
  busy : Bool := false
  buf : List Host.Cell := []
  loadAddr : Nat := 0
  loadLen : Nat := 0
  loadResult : Nat := 0
  rootWrites : List RootWrite := []
  memberWrites : List StepWrite := []
  serial : Nat := 0
  deriving DecidableEq, Repr

/-! ## Atluta (R477 to R510) -/

/-- A context (R490 to R495). -/
structure Ctx where
  loaded : Bool := false
  jobId : Nat := 0
  keyed : Bool := false
  jm : Nat := 0
  stopped : Bool := false
  spare : Bool := false
  switchedOut : Bool := false
  ready : Bool := false
  exportKey : Option (BitVec 256) := none
  standby : Standby := {}
  s0 : Nat := 0
  ringBase : Nat := 0
  ringSize : Nat := 0
  ringHead : Nat := 0
  ringTail : Nat := 0
  spool : List (Nat × Nat × Nat × Nat) := []
  diffSeq : Nat := 0
  diffWait : List Nat := []
  spares : List DevId := []
  kept : KV Nat Page := []
  imaged : KV Nat (List Host.Cell) := []
  members : List DevId := []
  memEpoch : Nat := 0
  deriving DecidableEq, Repr

/-- A log form of a step record (R500). -/
structure LogForm where
  step : Nat
  device : DevId
  flags : Nat
  digest : List Byte
  sig : List Byte
  deriving DecidableEq, Repr

/-- A step record (R497, R498) as signed. -/
structure StepRecord where
  form : LogForm
  fixed : List Byte
  lists : List Byte
  chainSeq : Nat
  deriving DecidableEq, Repr

/-- An SPDM session (R483). -/
structure Session where
  established : Bool
  keyGen : Nat
  beats : Nat
  deriving DecidableEq, Repr

/-- Atluta (R477 to R510). -/
structure Atluta where
  running : Bool := false
  fw0 : Option FwSlot := none
  fw1 : Option FwSlot := none
  active : Nat := 0
  runSlot : Nat := 0
  fwFloor : Nat := 0
  fwFuses : Nat := 0
  bootCount : Nat := 0
  keys : List (Nat × List Byte) := []
  keyBurns : Nat := 0
  keyFuses : List (List Byte) := []
  imageFloor : Nat := 0
  nonce : Nat := 0
  mboxResult : Nat := 0
  mboxBuf : List Host.Cell := []
  ctxs : KV Nat Ctx := []
  runCtx : Option CtxId := none
  switchIn : Option CtxId := none
  audit : Option CtxId := none
  auditRing : List LogForm := []
  scrubs : Nat := 0
  chainHead : List Byte := []
  chainSeq : Nat := 0
  records : List StepRecord := []
  logSectors : KV Nat (List LogForm) := []
  logHead : Nat := 0
  logErases : Nat := 0
  logRetired : List Nat := []
  logErased : List Nat := []
  authFail : Nat := 0
  replayFail : Nat := 0
  repairSeq : Nat := 0
  repairMap : List RepairEntry := []
  repairA : List Byte := []
  repairB : List Byte := []
  manifest : Option Manifest := none
  nextManifest : Option Manifest := none
  frameRetired : List Loc := []
  spdmVersion : Bool := false
  spdmCaps : Bool := false
  spdmAlgs : Bool := false
  sessions : KV Nat Session := []
  sessionNext : Nat := 0
  live : Nat := 0
  deriving DecidableEq, Repr

/-! ## Power, clocks and pins (R511 to R554) -/

/-- A power domain's state (R515). -/
inductive DomState | off | ramp | on
  deriving DecidableEq, Repr

/-- One evaluation of Fantail (R518, R520, R523): instant, package mean, and whether each condition held. -/
structure Eval where
  at' : Nat
  pkg : Nat
  below : Bool
  cool : Bool
  deriving DecidableEq, Repr

/-- Fantail, the clocks, the bring-up and the pins (R511 to R554). -/
structure Power where
  vaux : Bool := false
  pwrGood : Bool := false
  sysRstN : Bool := false
  perstN : Bool := false
  holdN : Bool := true
  firstRise : Bool := false
  faultLow : Bool := true
  thermLow : Bool := false
  cxPerstAt : Option Nat := none
  hostUp : Bool := false
  tray : BitVec 6 := 0
  boot : BootSel := .normal
  aonLock : Bool := false
  pllLock : Bool := false
  doms : KV Nat DomState := []
  lastOn : Option Nat := none
  phase : Nat := 0
  started : Bool := false
  startAt : Nat := 0
  slow : List Nat := []
  failed : Bool := false
  phase3Ms : Nat := 0
  phase5Ms : Nat := 0
  offAccess : Nat := 0
  stayReduced : Bool := false
  trained : List Nat := []
  attempts : KV Nat Nat := []
  discovered : Bool := false
  levelP : Nat := 0
  levelT : Nat := 0
  levelH : Nat := 0
  changedP : Nat := 0
  changedT : Nat := 0
  samples : List PowerSample := []
  thermal : ThermalSample := { junction := [], hbm := [] }
  evals : List Eval := []
  unmetPkg : Option Nat := none
  unmetCompute : Option Nat := none
  unmetFabric : Option Nat := none
  unmetStack : KV Nat Nat := []
  lastEval : Nat := 0
  usT1 : Nat := 0
  usT2 : Nat := 0
  droops : KV Nat Nat := []
  stretch1 : Nat := 0
  stretch2 : Nat := 0
  tripped : Bool := false
  jtag : String := "IDCODE"
  deriving DecidableEq, Repr

/-- Values fixed in fuses at manufacture (R150, R477, R480, R552, R571): `uds` is the unique device secret, `dik` the public device
identity key. -/
structure Fuses where
  isAS : Bool := false
  serial : Nat := 0
  uds : List Byte := []
  dik : List Byte := []
  cols : KV (Nat × Nat) Nat := []
  rows : KV (Nat × Nat) Nat := []
  deriving DecidableEq, Repr

/-! ## The state -/

/-- The state of the block: the queue of waiting commands, and every part of the device. `now` is the time in ns since
the first rise of PWR_GOOD that the last timed command gave; `fresh` is the model's own counter of free values. -/
structure State where
  pending : List Instr := []
  now : Nat := 0
  fresh : Nat := 0
  fuses : Fuses := {}
  pow : Power := {}
  atl : Atluta := {}
  ldr : Loader := {}
  evt : EventUnit := {}
  ctl : StepCtl := {}
  weir : Weir := {}
  querns : KV Nat Quern := []
  rows : KV (Nat × Nat) Row := []
  repl : Repl := {}
  units : List LkpUnit := []
  nextRef : Nat := 0
  cores : KV Nat Core := []
  arbs : KV Nat Arb := []
  tier : Tier := {}
  fab : Fabric := {}
  rcv : Recovery := {}
  out : List Msg := []
  deriving DecidableEq, Repr

/-- The machine right after reset: unpowered registers at their reset values, no command waiting. -/
def State.reset : State := {}

end Sys2Proof.Machine
end

