-- ==== Sys2Proof/Machine/Ops.lean ====
section
/-! DEFINITION. Named operations over the state: finite maps, memories, bit fields, access to the units, raising a
condition (R46, R562), counting a stall (R568), and sending a message. -/

namespace Sys2Proof.Machine

/-- The outcomes of a command. -/
abbrev Out := Host.Outcome State Fault Refusal

/-! ## Finite maps -/

section Maps
variable {κ α : Type} [DecidableEq κ]

/-- The value of key `k`, if the map lists it. -/
def kvFind (k : κ) : KV κ α → Option α
  | [] => none
  | (j, v) :: m => if j = k then some v else kvFind k m

/-- The value of key `k`, or `d` where the map does not list it. -/
def kvGet (d : α) (k : κ) (m : KV κ α) : α := (kvFind k m).getD d

/-- The map with `k` at `v`. -/
def kvPut (k : κ) (v : α) : KV κ α → KV κ α
  | [] => [(k, v)]
  | (j, w) :: m => if j = k then (k, v) :: m else (j, w) :: kvPut k v m

/-- The map without `k`. -/
def kvDel (k : κ) : KV κ α → KV κ α
  | [] => []
  | (j, w) :: m => if j = k then kvDel k m else (j, w) :: kvDel k m

/-- The map with `f` applied to the value of `k`, which is `d` where the map does not list it. -/
def kvMod (d : α) (k : κ) (f : α → α) (m : KV κ α) : KV κ α := kvPut k (f (kvGet d k m)) m

/-- Whether the map lists `k`. -/
def kvHas (k : κ) (m : KV κ α) : Bool := (kvFind k m).isSome

/-- Every value of the map changed by `f`. -/
def kvMap (f : κ → α → α) : KV κ α → KV κ α
  | [] => []
  | (j, w) :: m => (j, f j w) :: kvMap f m

end Maps

/-- `x` added at the end of a list that holds no repeats. -/
def addNew {α : Type} [DecidableEq α] (x : α) (l : List α) : List α := if x ∈ l then l else l ++ [x]

/-- `x` in ascending order in a list of numbers without repeats. -/
def insNat (x : Nat) : List Nat → List Nat
  | [] => [x]
  | y :: l => if x < y then x :: y :: l else if x = y then y :: l else y :: insNat x l

/-- The list with element `i` replaced. -/
def setAt {α : Type} (i : Nat) (x : α) (l : List α) : List α := l.set i x

/-- Elements sorted by a key, stable, ascending. -/
def insBy {α : Type} (f : α → Nat) (x : α) : List α → List α
  | [] => [x]
  | y :: l => if f x < f y then x :: y :: l else y :: insBy f x l

/-- `l` sorted by `f`, ascending, stable. -/
def sortBy {α : Type} (f : α → Nat) (l : List α) : List α := l.foldl (fun a x => insBy f x a) []

/-- The first element that satisfies `p` and the list without it. -/
def takeFirst {α : Type} (p : α → Bool) : List α → Option (α × List α)
  | [] => none
  | x :: l => if p x then some (x, l) else (takeFirst p l).map fun r => (r.1, x :: r.2)

/-! ## Bit fields, bytes and counters -/

/-- Bits [hi:lo] of a number. -/
def bits (v hi lo : Nat) : Nat := v / 2 ^ lo % 2 ^ (hi + 1 - lo)

/-- A field of `w` bits at bit `lo`. -/
def fld (lo w v : Nat) : Nat := v % 2 ^ w * 2 ^ lo

/-- A truth value as a bit. -/
def bit (b : Bool) : Nat := if b then 1 else 0

/-- A counter that stops at `max`. -/
def satAdd (max n k : Nat) : Nat := min max (n + k)

/-- The `n` low bytes of `v`, least significant first. -/
def leBytes : Nat → Nat → List Byte
  | 0, _ => []
  | n + 1, v => BitVec.ofNat 8 v :: leBytes n (v / 256)

/-- The number that bytes spell, least significant first. -/
def leNat : List Byte → Nat
  | [] => 0
  | b :: l => b.toNat + 256 * leNat l

/-- The `n` low bytes of `v`, most significant first. -/
def beBytes (n v : Nat) : List Byte := (leBytes n v).reverse

/-- The number that bytes spell, most significant first. -/
def beNat (l : List Byte) : Nat := leNat l.reverse

/-- A `w`-bit two's complement number. -/
def toSigned (w v : Nat) : Int := if v % 2 ^ w < 2 ^ (w - 1) then (v % 2 ^ w : Nat) else (v % 2 ^ w : Nat) - (2 ^ w : Nat)

/-- The `w`-bit two's complement code of an integer. -/
def ofSigned (w : Nat) (i : Int) : Nat := (i % (2 ^ w : Nat)).toNat

/-! ## Byte memories in canonical form -/

/-- The byte at an address; an address that is not listed reads as 0 (DESIGN CHOICE, log entry 3). -/
def cellRead : List Host.Cell → Nat → Byte
  | [], _ => 0
  | (c, x) :: m, a => if c = a then x else cellRead m a

/-- A byte written; writing 0 removes the entry, so that equal memories are equal lists. -/
def cellWrite (a : Nat) (b : Byte) : List Host.Cell → List Host.Cell
  | [] => if b = 0 then [] else [(a, b)]
  | (c, x) :: m =>
    if a < c then (if b = 0 then (c, x) :: m else (a, b) :: (c, x) :: m)
    else if a = c then (if b = 0 then m else (a, b) :: m)
    else (c, x) :: cellWrite a b m

/-- Bytes written from address `a` up. -/
def memWrite (m : List Host.Cell) (a : Nat) : List Byte → List Host.Cell
  | [] => m
  | b :: l => memWrite (cellWrite a b m) (a + 1) l

/-- `n` bytes read from address `a` up. -/
def memRead (m : List Host.Cell) (a : Nat) : Nat → List Byte
  | 0 => []
  | n + 1 => cellRead m a :: memRead m (a + 1) n

/-- Every entry lies above `lo`, addresses rise, and no entry is 0. -/
def cellsAbove (lo : Nat) : List Host.Cell → Bool
  | [] => true
  | (a, b) :: m => decide (lo ≤ a) && b != 0 && cellsAbove (a + 1) m

/-- The canonical form of a memory: addresses strictly rising, and no entry equal to what an unlisted address reads as. -/
def Memory.wf (m : List Host.Cell) : Bool := cellsAbove 0 m

/-! ## The units of the device -/

/-- Core `c`. -/
def State.core (s : State) (c : CoreId) : Core := kvGet {} c.val s.cores
/-- Core `c` changed. -/
def State.updCore (s : State) (c : CoreId) (f : Core → Core) : State :=
  { s with cores := kvPut c.val (f (s.core c)) s.cores }
/-- Engine `e` of core `c`. -/
def State.engine (s : State) (c : CoreId) (e : EngId) : Engine := kvGet {} e.val (s.core c).eng
/-- Engine `e` of core `c` changed. -/
def State.updEngine (s : State) (c : CoreId) (e : EngId) (f : Engine → Engine) : State :=
  s.updCore c fun k => { k with eng := kvPut e.val (f (kvGet {} e.val k.eng)) k.eng }
/-- Quern `q`. -/
def State.quern (s : State) (q : QuernId) : Quern := kvGet {} q.val s.querns
/-- Quern `q` changed. -/
def State.updQuern (s : State) (q : QuernId) (f : Quern → Quern) : State :=
  { s with querns := kvPut q.val (f (s.quern q)) s.querns }
/-- Popor port `p`. -/
def State.port (s : State) (p : PortId) : Port := kvGet {} p.val s.fab.ports
/-- Popor port `p` changed. -/
def State.updPort (s : State) (p : PortId) (f : Port → Port) : State :=
  { s with fab := { s.fab with ports := kvPut p.val (f (s.port p)) s.fab.ports } }
/-- Context `c`. -/
def State.ctx (s : State) (c : CtxId) : Ctx := kvGet {} c.val s.atl.ctxs
/-- Context `c` changed. -/
def State.updCtx (s : State) (c : CtxId) (f : Ctx → Ctx) : State :=
  { s with atl := { s.atl with ctxs := kvPut c.val (f (s.ctx c)) s.atl.ctxs } }
/-- The record of step `n` on this device. -/
def State.stepOf (s : State) (n : Nat) : StepRec := kvGet {} n s.ctl.steps
/-- The record of step `n` changed. -/
def State.updStep (s : State) (n : Nat) (f : StepRec → StepRec) : State :=
  { s with ctl := { s.ctl with steps := kvPut n (f (s.stepOf n)) s.ctl.steps } }
/-- Pooled-memory port `p`. -/
def State.cxl (s : State) (p : CxlId) : CxlPort := kvGet {} p.val s.tier.cxl
/-- Pooled-memory port `p` changed. -/
def State.updCxl (s : State) (p : CxlId) (f : CxlPort → CxlPort) : State :=
  { s with tier := { s.tier with cxl := kvPut p.val (f (s.cxl p)) s.tier.cxl } }
/-- Arbitrated port of record index `i` (R559). -/
def State.arb (s : State) (i : Nat) : Arb := kvGet {} i s.arbs
/-- Arbitrated port changed. -/
def State.updArb (s : State) (i : Nat) (f : Arb → Arb) : State := { s with arbs := kvPut i (f (s.arb i)) s.arbs }
/-- The step control changed. -/
def State.updCtl (s : State) (f : StepCtl → StepCtl) : State := { s with ctl := f s.ctl }
/-- Weir changed. -/
def State.updWeir (s : State) (f : Weir → Weir) : State := { s with weir := f s.weir }
/-- The tier manager changed. -/
def State.updTier (s : State) (f : Tier → Tier) : State := { s with tier := f s.tier }
/-- The fabric tables changed. -/
def State.updFab (s : State) (f : Fabric → Fabric) : State := { s with fab := f s.fab }
/-- Membership and recovery changed. -/
def State.updRcv (s : State) (f : Recovery → Recovery) : State := { s with rcv := f s.rcv }
/-- Atluta changed. -/
def State.updAtl (s : State) (f : Atluta → Atluta) : State := { s with atl := f s.atl }
/-- The loader changed. -/
def State.updLdr (s : State) (f : Loader → Loader) : State := { s with ldr := f s.ldr }
/-- Fantail, clocks and pins changed. -/
def State.updPow (s : State) (f : Power → Power) : State := { s with pow := f s.pow }
/-- The fault and event unit changed. -/
def State.updEvt (s : State) (f : EventUnit → EventUnit) : State := { s with evt := f s.evt }


/-- The next free value's argument; the counter moves past it. -/
def State.tick (s : State) : State := { s with fresh := s.fresh + 1 }

/-- The instant of a timed command: time never runs backward. -/
def State.at' (s : State) (t : Nat) : State := { s with now := max s.now t }

/-- The context that runs, as a number; 0 where none runs. -/
def State.ctxNo (s : State) : Nat := match s.atl.runCtx with
  | some c => c.val
  | none => 0

/-- The ID this device answers to: the ID it is bound to by takeover (R447), else its own (R418). -/
def State.me (s : State) : DevId := if s.fab.boundId = 0 then s.fab.devId else s.fab.boundId

/-- Whether the device is fenced or released, so that it writes nothing to pooled memory (R435, R451). -/
def State.fenced (s : State) : Bool := s.rcv.role == .fenced || s.rcv.role == .released

/-- What a fenced device still sends (R435): SYSTEM frames to its coordinators, frames of other devices that it forwards, link traffic,
and what goes to host software or to pins. -/
def State.stillSends (s : State) (m : Msg) : Bool :=
  let near := fun d : DevId => d == s.fab.coord || d == s.rcv.jobCoord
  match m with
  | .heartbeat d _ | .suspicion d _ _ | .failed d | .confirmed d _ | .memberAck d _ => near d
  | .frame _ f => f.src != s.me
  | .eth _ k => (k.frame.map fun f : Frame => f.src != s.me).getD true
  | .flit .. | .linkInit .. | .creditSync .. | .discover .. | .graphDigest .. | .evq .. | .msix .. | .segment .. | .mailbox ..
  | .readData .. | .spdm .. | .tdo .. => true
  | _ => false

/-- Messages sent, in order; of a fenced device those of R435. -/
def State.emit (s : State) (ms : List Msg) : State :=
  { s with out := s.out ++ if s.fenced then ms.filter s.stillSends else ms }

/-! ## Image fields in force (R44, R468) -/

/-- Whether a field holds for the running context: device fields always, others when their section belongs to it; a
member field also needs the member's ID. -/
def fieldApplies (s : State) (f : FieldSt) : Bool :=
  match f.sect with
  | .device => true
  | .fieldIndex => false
  | .member => f.ctx == s.atl.runCtx && f.device == s.me
  | _ => f.ctx == s.atl.runCtx

/-- Index number of the field of a name and scope (R459). -/
def fieldFind (s : State) (name : String) (scope : Nat) : Nat → List FieldSt → Option (Nat × FieldSt)
  | _, [] => none
  | i, f :: l =>
    if f.inst.name = name ∧ f.inst.scope = scope ∧ fieldApplies s f = true then some (i, f)
    else fieldFind s name scope (i + 1) l

/-- Defaults of the image fields (the tables of R103, R159, R193, R221, R247, R281, R308, R348, R376, R394, R430, R455,
R510 and R532). A field with no default reads as the empty list when the image does not hold it. -/
def fieldDefault (name : String) (scope : Nat) : List Nat :=
  match name with
  | "SCALE_HISTORY" => [4]
  | "BACKOFF_MAX" => [8]
  | "BACKOFF_DECAY" => [1000]
  | "SCALE_MARGIN" => [1]
  | "EPS_INIT" => [0]
  | "SCALE_ZP" => [0]
  | "WC_ROUND" => [0]
  | "FX48_EXP" => [65496]
  | "ENG_REPAIR_POLICY" => [1]
  | "CHK_RECUR_LIMIT" => [8]
  | "LB_F_BLOCKS" => [160]
  | "LB_B_BLOCKS" => [160]
  | "LB_U_BLOCKS" => [32]
  | "LB_RET_F" => [80]
  | "LB_RET_B" => [80]
  | "LB_RET_U" => [16]
  | "LB_PF_MAX" => [32]
  | "MP_BLOCKS" => [96]
  | "MP_RB_BLOCKS" => [16]
  | "DEFER_AGE" => [65536]
  | "NOPROG_LIMIT" => [500000]
  | "SLUICE_READ" => [60]
  | "SLUICE_WRITE" => [25]
  | "SLUICE_REMOTE" => [15]
  | "SLUICE_DEPTH" => [256]
  | "HR_HINT_DEPTH" => [0]
  | "ARB_SLACK" => match scope % 8 with
    | 0 => [64]
    | 1 => [2048]
    | 2 => [1024]
    | 3 => [512]
    | 4 => [256]
    | _ => [128]
  | "ARB_HOLD_LIMIT" => [65536]
  | "GOV_SLEEP_MIN" => [1024]
  | "PROMOTE_HEAT" => [8]
  | "DEMOTE_HEAT" => [2]
  | "TIER_DECAY_US" => [10000]
  | "MIG_ENABLE" => [1]
  | "LATE_HBM_NS" => [4000]
  | "LATE_CXL_NS" => [20000]
  | "LATE_REMOTE_NS" => [100000]
  | "CXL_DOWN_LIMIT" => [200]
  | "TBL_LEARN" => [1]
  | "TBL_CLASS_MIN" => [3]
  | "TBL_CLASS_MAX" => [1]
  | "SHARD_SHIFT" => [0]
  | "QRN_MASK" => [4095]
  | "POP_UP_W" => [64]
  | "POP_UP_H" => [1024]
  | "POP_DOWN_W" => [512]
  | "POP_DOWN_C" => [16]
  | "TIER_UP_POP" => [32]
  | "TIER_DOWN_POP" => [4]
  | "REPL_POP" => [0]
  | "REPL_DROP_POP" => [0]
  | "POP_DECAY_STEPS" => [1024]
  | "POP_SWEEP_STEPS" => [4096]
  | "QRN_FRONT" => [scope % 12]
  | "MOVE_MAX" => [4096]
  | "OPT_KIND" => [1]
  | "OPT_EPS" => [0x322BCC77]
  | "OPT_BETA1" => [0x3F666666]
  | "OPT_BETA2" => [0x3F7FBE77]
  | "DT_LEARN" => [1]
  | "DT_PROG" => [3]
  | "DT_CONST" => [0, 0, 0, 0, 0x3F800000, 0, 0, 0, 0, 0, 0, 0, 0, 0, 0, 0]
  | "DT_PLACE" => [0]
  | "DSHARD_SHIFT" => [0]
  | "WEIR_SRAM_RED" => [64]
  | "LAYOUT_TARGET" => [0]
  | "REBUILD_HOST_LIMIT" => [5000]
  | "STAGE_OF_CORE" => [15]
  | "STAGE_PREV" => [0, 0]
  | "STAGE_NEXT" => [0, 0]
  | "STAGE_CREDITS" => [2]
  | "SEQ_SEG" => [64]
  | "POP_VC_SLOTS" => [512, 4096, 6144, 2048, 6144, 4608]
  | "POP_RETRY_LIMIT" => [64]
  | "POP_RETRAIN_LIMIT" => [50]
  | "ETH_RTO_US" => [200]
  | "POP_ACK_LIMIT" => [10]
  | "MEMBER_BATCH_US" => [200]
  | "LEASE_GRACE_MS" => [5]
  | "FM_BIND_LIMIT" => [500]
  | "JOB_LINK_MODE" => [0]
  | "AUDIT" => [0]
  | "DIFF_DEST" => [0]
  | "PKG_POWER_LIMIT" => [1300]
  | "PWR_WINDOW_US" => [1000]
  | "PWR_HYST_PCT" => [5]
  | "TJ_THROTTLE" => [100]
  | "DROOP_PCT" => [4]
  | _ => []

/-- The value of a field in force, of scope index `scope`. -/
def State.fieldL (s : State) (name : String) (scope : Nat := 0) : List Nat :=
  match fieldFind s name scope 0 s.ldr.fields with
  | some (_, f) => f.inst.value
  | none => fieldDefault name scope

/-- A field that is one number. -/
def State.field (s : State) (name : String) (scope : Nat := 0) : Nat := (s.fieldL name scope).headD 0

/-- The value of a field that governs step `n` (R44): the value at the step's boundary once the step has one. -/
def State.fieldAtL (s : State) (n : Nat) (name : String) (scope : Nat := 0) : List Nat :=
  match fieldFind s name scope 0 s.ldr.fields with
  | some (i, f) => kvGet f.inst.value i (s.stepOf n).govern
  | none => fieldDefault name scope

/-- A field of one number that governs step `n`. -/
def State.fieldAt (s : State) (n : Nat) (name : String) (scope : Nat := 0) : Nat := (s.fieldAtL n name scope).headD 0

/-- A signed field that governs step `n`; negative values are held as 16-bit two's complement numbers. -/
def State.fieldIntAt (s : State) (n : Nat) (name : String) (scope : Nat := 0) : Int :=
  toSigned 16 (s.fieldAt n name scope)

/-- What the JOB section of the running context brings, of the image in force (R456). -/
def State.jobData (s : State) : JobData :=
  ((s.ldr.image.bind fun i => i.jobs.find? fun j => some j.ctx == s.atl.runCtx)).getD
    { ctx := 0, uprog := [], rowInit := [], tileInit := [], scalarInit := [], histInit := none, snapshotDigest := none, s0 := 0,
      layEpoch := 1 }

/-- The running job's lag L (R19). -/
def State.lag (s : State) : Nat := s.field "STEP_LAG"
/-- The number K of micro-batches of a step (R22). -/
def State.mbs (s : State) : Nat := max 1 (s.field "MB_PER_STEP")
/-- The version that step `n` reads (R19). -/
def readVersion (s0 n lag : Nat) : Nat := max s0 (n - 1 - lag)
/-- The version that step `n` of the running job reads. -/
def State.reads (s : State) (n : Nat) : Nat := readVersion s.ctl.s0 n s.lag

/-! ## Frames that are acknowledged (R427) -/

/-- POP_ACK_LIMIT in ns. -/
def State.ackLimit (s : State) : Nat := s.field "POP_ACK_LIMIT" * 1000000

/-- A frame with a fresh tag sent to a device; the sender keeps it until the ACK arrives. A fenced device sends none (R435). -/
def State.emitAcked (s : State) (dst : DevId) (mk : Nat → Msg) : State :=
  let tag := s.fab.counter
  if s.fenced then s
  else { s with
    out := s.out ++ [mk tag]
    fab := { s.fab with
      counter := tag + 1
      unacked := kvPut (tag, dst) { msg := mk tag, deadline := s.now + s.ackLimit, limit := s.ackLimit } s.fab.unacked } }

/-- A frame to each of several devices. -/
def State.emitEach (s : State) (dsts : List DevId) (mk : DevId → Nat → Msg) : State :=
  dsts.foldl (fun t d => t.emitAcked d (mk d)) s

/-! ## The range map (R225) -/

/-- A region of the range map (R225). -/
structure Region where
  base : Nat
  count : Nat
  policy : Nat
  kind : Nat
  ctx : Nat
  ro : Bool
  pin : Bool
  stackMask : Nat
  ports : Nat
  dev : DevId
  weir : Bool
  deriving DecidableEq, Repr

/-- The 128-bit tag of a micro-batch, which its slot holds (R24). -/
def Slot.tag (x : Slot) : Nat :=
  fld 0 48 x.step + fld 48 3 x.mb + fld 52 4 x.ctx.val + fld 64 32 x.layEpoch + fld 96 16 x.version

/-- The 32-byte header that a slice leaves with (R127): bytes 0 to 15, then bytes 16 to 31. -/
def sliceHeader (x : Slice) : List Byte :=
  leBytes 16 (fld 0 48 x.step + fld 48 3 x.mb + fld 52 4 x.ctx.val + fld 64 32 x.layEpoch + fld 96 12 x.tensor + fld 112 16 x.tileK)
    ++ leBytes 16 (fld 0 16 x.tileN + fld 16 7 x.rows + fld 24 7 x.cols + fld 96 32 x.crc)

/-- A region entry of 128 bits (R225). -/
def regionOf (v : Nat) : Region :=
  { base := bits v 34 0, count := bits v 69 35, policy := bits v 72 70, kind := bits v 75 73, ctx := bits v 79 76,
    ro := bits v 80 80 == 1, pin := bits v 81 81 == 1, stackMask := bits v 89 82, ports := bits v 91 90,
    dev := bits v 107 92, weir := bits v 108 108 == 1 }

/-- The regions of the running context: RANGE_MAP holds one 128-bit number for each entry. -/
def State.regions (s : State) : List Region := (s.fieldL "RANGE_MAP").map regionOf

/-- The bytes of region number `k`; 0 where the map has no such region. -/
def State.regionBytes (s : State) (k : Nat) : Nat := match s.regions[k]? with
  | some r => r.count * 2 ^ 21
  | none => 0

/-! ## Raising a condition (R46, R562) -/

/-- UNIT of a unit kind and an index (R561). -/
def unitNo (kind index : Nat) : Nat := kind * 2048 + index

/-- DETAIL of a fault against a command (R560). -/
def detailCmd (index stream mb core : Nat) : Nat := fld 0 32 index + fld 32 2 stream + fld 34 3 mb + fld 37 5 core

/-- Codes of R563 that the attribution of R46 names. -/
def codeMisroute : Nat := 0x072
def codeShardLost : Nat := 0x064

/-- The lowest step from `n` up whose vote word this device has not sent; `fuel` bounds the search, and at most L + 2
steps are open (R43). -/
def firstUnsent (s : State) : Nat → Nat → Nat
  | 0, n => n
  | fuel + 1, n => if (s.stepOf n).voteSent then firstUnsent s fuel (n + 1) else n

/-- How a raised condition is recorded (R46, R562): a step-fatal condition of step 0 is correctable; a misrouted frame
after the Vote is correctable; SHARD_LOST keeps its step; any other condition that comes after the vote word of its step
goes to the lowest step after it whose word is unsent. -/
def placed (s : State) (r : Raised) : Raised :=
  if r.cls ≠ .stepFatal then r
  else if r.step = 0 then { r with cls := .correctable }
  else if r.code = codeShardLost then r
  else if r.code = codeMisroute ∧ (r.step ≤ s.ctl.sealed ∨ (s.stepOf r.step).decided ≠ none) then
    { r with cls := .correctable }
  else { r with step := firstUnsent s 5 (max r.step (s.ctl.sealed + 1)) }

/-- Whether a condition marks FATAL in the vote word of its step. -/
def marksFatal (r : Raised) : Bool := r.cls == .stepFatal && r.code != codeShardLost

/-- One condition raised: it awaits its fault record, and FATAL is marked. -/
def State.raise1 (s : State) (r : Raised) : State :=
  let a := placed s r
  let t := { s with evt := { s.evt with raised := s.evt.raised ++ [a] } }
  if marksFatal a then t.updStep a.step fun p => { p with fatal := true } else t

/-- Conditions of one control cycle raised: SEQ will ascend with UNIT (R572). -/
def State.raiseAll (s : State) (rs : List Raised) : State := (sortBy Raised.unit rs).foldl State.raise1 s

/-- A condition of the running context's work. -/
def State.raise (s : State) (cls : FaultClass) (code unit step detail : Nat) (detail2 : Nat := 0) : State :=
  s.raise1 { code, cls, unit, ctx := s.atl.runCtx, step, detail, detail2 }

/-- A condition of the device, of no context and no step. -/
def State.raiseDev (s : State) (cls : FaultClass) (code unit detail : Nat) : State :=
  s.raise1 { code, cls, unit, ctx := none, step := 0, detail, detail2 := 0 }

/-! ## Stall counters (R568) -/

/-- A stall counter stops at its maximum. -/
def stallMax : Nat := 2 ^ 64 - 1

/-- One cycle counted under a cause in a stall array. -/
def stallCount (cause : Nat) (m : KV Nat Nat) : KV Nat Nat := kvMod 0 cause (satAdd stallMax · 1) m

/-- One Weir cycle counted under the lowest cause of a list, if the list holds one. -/
def State.weirStall (s : State) (causes : List Nat) : State :=
  match (sortBy id causes) with
  | [] => s
  | c :: _ => s.updWeir fun w => { w with stall := stallCount c w.stall }

end Sys2Proof.Machine
end

