-- ==== Sys2Proof/Machine/Operands.lean ====
section
/-! DEFINITION. Operand forms: the number formats, their conversions, the FP32 operations, the chunked dot product, the
integer and FX48 paths, the lane tree and keyed dither (R50 to R76). -/

namespace Sys2Proof.Machine

/-! ## Events of the arithmetic (R55, R77) -/

/-- Events of arithmetic: operations and conversions that produced or read a NaN or an infinity, INT32 saturations,
narrow saturations, and FX48 saturations. -/
structure Ev where
  nan : Nat := 0
  inf : Nat := 0
  i32 : Nat := 0
  narrow : Nat := 0
  sat : Nat := 0
  deriving DecidableEq, Repr

/-- Events of two pieces of work together. -/
def evAdd (a b : Ev) : Ev :=
  { nan := a.nan + b.nan, inf := a.inf + b.inf, i32 := a.i32 + b.i32, narrow := a.narrow + b.narrow, sat := a.sat + b.sat }

/-- Events of a list of results. -/
def evSum {α : Type} (l : List (α × Ev)) : Ev := l.foldl (fun e p => evAdd e p.2) {}

/-! ## Exact values -/

/-- The exact value of a code: a NaN, an infinity, or (−1)^neg × m × 2^e. -/
inductive Val
  | nan
  | inf (neg : Bool)
  | fin (neg : Bool) (m : Nat) (e : Int)
  deriving DecidableEq, Repr

/-- A floating-point layout (R50): fraction bits, bias, the magnitude code of the largest finite value, those of
infinity and of the canonical NaN where the format has them (R53), and the bit of the sign. -/
structure FloatFmt where
  width : Nat
  frac : Nat
  bias : Int
  maxFin : Nat
  inf : Option Nat
  nan : Option Nat
  deriving DecidableEq, Repr

/-- The layouts of R50 with the codes of R53. -/
def fmtF32 : FloatFmt := ⟨32, 23, 127, 0x7F7FFFFF, some 0x7F800000, some 0x7FC00000⟩
def fmtM19 : FloatFmt := ⟨19, 10, 127, 0x3FBFF, some 0x3FC00, some 0x3FE00⟩
def fmtA22 : FloatFmt := ⟨22, 13, 127, 0x1FDFFF, some 0x1FE000, some 0x1FF000⟩
def fmtBF16 : FloatFmt := ⟨16, 7, 127, 0x7F7F, some 0x7F80, some 0x7FC0⟩
def fmtFP16 : FloatFmt := ⟨16, 10, 15, 0x7BFF, some 0x7C00, some 0x7E00⟩
def fmtE4M3 : FloatFmt := ⟨8, 3, 7, 0x7E, none, some 0x7F⟩
def fmtE5M2 : FloatFmt := ⟨8, 2, 15, 0x7B, some 0x7C, some 0x7E⟩
def fmtE2M1 : FloatFmt := ⟨4, 1, 1, 7, none, none⟩

/-- The exact value of a code in a layout (R50, R53, R54). -/
def decodeFloat (f : FloatFmt) (code : Nat) : Val :=
  let neg := code / 2 ^ (f.width - 1) % 2 == 1
  let c := code % 2 ^ (f.width - 1)
  if c > f.maxFin then (if f.inf = some c then .inf neg else .nan)
  else
    let e := c / 2 ^ f.frac
    let m := c % 2 ^ f.frac
    if e = 0 then .fin neg m (1 - f.bias - f.frac) else .fin neg (m + 2 ^ f.frac) ((e : Int) - f.bias - f.frac)

/-- The rounding rules of R56 on magnitudes. `kd u` carries the 24-bit dither value; `half up` rounds a tie away from
zero when `up` holds and toward zero otherwise, which is half up of R96 for a positive and a negative value. -/
inductive Rnd
  | trunc
  | rne
  | kd (u : Nat)
  | half (up : Bool)
  deriving DecidableEq, Repr

/-- num / den rounded to an integer by a rule of R56 (num and den not negative, den not 0). -/
def roundDiv (r : Rnd) (num den : Nat) : Nat :=
  let lo := num / den
  let rem := num % den
  match r with
  | .trunc => lo
  | .rne => if den < 2 * rem ∨ (2 * rem = den ∧ lo % 2 = 1) then lo + 1 else lo
  | .kd u => if 2 ^ 24 ≤ rem * 2 ^ 24 / den + u then lo + 1 else lo
  | .half up => if den < 2 * rem ∨ (2 * rem = den ∧ up = true) then lo + 1 else lo

/-- m × 2^e as a rational: numerator and denominator. -/
def ratOf (m : Nat) (e : Int) : Nat × Nat := if 0 ≤ e then (m * 2 ^ e.toNat, 1) else (m, 2 ^ (-e).toNat)

/-- m × 2^e counted in units of 2^q, rounded. -/
def roundAt (r : Rnd) (m : Nat) (e q : Int) : Nat :=
  let x := ratOf m (e - q)
  roundDiv r x.1 x.2

/-- The magnitude code of m × 2^e rounded into a layout, as though the layout had no largest finite value (R56). -/
def magCode (f : FloatFmt) (r : Rnd) (m : Nat) (e : Int) : Nat :=
  if m = 0 then 0
  else
    let q := max ((Nat.log2 m : Int) + e - f.frac) (1 - f.bias - f.frac)
    let n := roundAt r m e q
    if n < 2 ^ f.frac then n
    else (q + f.frac + f.bias - 1).toNat * 2 ^ f.frac + n

/-- A code with its sign. -/
def withSign (f : FloatFmt) (neg : Bool) (c : Nat) : Nat := if neg then c + 2 ^ (f.width - 1) else c

/-- A value converted into a layout (R57, R58): overflow and an infinity give infinity where `satur` is false and the
layout has one, else the largest finite value; a NaN gives the canonical NaN, or +0 in a layout without one. -/
def encodeFloat (f : FloatFmt) (satur : Bool) (r : Rnd) (v : Val) : Nat × Ev :=
  match v with
  | .nan => (f.nan.getD 0, { nan := 1 })
  | .inf neg => (withSign f neg (f.inf.getD f.maxFin), { inf := 1 })
  | .fin neg m e =>
    let c := magCode f r m e
    if c ≤ f.maxFin then (withSign f neg c, {})
    else if r = .trunc then (withSign f neg f.maxFin, {})
    else if satur then (withSign f neg f.maxFin, { narrow := 1 })
    else (withSign f neg (f.inf.getD f.maxFin), { inf := 1 })

/-! ## FP32 arithmetic (R64, R72) -/

/-- The exact value of an FP32 code. -/
def f32Val (x : F32) : Val := decodeFloat fmtF32 x.toNat

/-- An exact value rounded RNE to FP32. -/
def f32Of (v : Val) : F32 := BitVec.ofNat 32 (encodeFloat fmtF32 false .rne v).1

/-- A signed integer times 2^e as a value; a zero is +0. -/
def valOfInt (i : Int) (e : Int) : Val := .fin (decide (i < 0)) i.natAbs e

/-- The signed integer that m × 2^e is in units of 2^q, for q at most e. -/
def scaledInt (neg : Bool) (m : Nat) (e q : Int) : Int :=
  let n : Int := (m * 2 ^ (e - q).toNat : Nat)
  if neg then -n else n

/-- The exact sum of two values; a zero sum is −0 only from two −0. -/
def valAdd (a b : Val) : Val :=
  match a, b with
  | .nan, _ => .nan
  | _, .nan => .nan
  | .inf x, .inf y => if x = y then .inf x else .nan
  | .inf x, _ => .inf x
  | _, .inf y => .inf y
  | .fin n1 m1 e1, .fin n2 m2 e2 =>
    if m1 = 0 ∧ m2 = 0 then .fin (n1 && n2) 0 0
    else
      let q := min e1 e2
      valOfInt (scaledInt n1 m1 e1 q + scaledInt n2 m2 e2 q) q

/-- The exact product of two values. -/
def valMul (a b : Val) : Val :=
  match a, b with
  | .nan, _ => .nan
  | _, .nan => .nan
  | .inf x, .inf y => .inf (x != y)
  | .inf x, .fin y m _ => if m = 0 then .nan else .inf (x != y)
  | .fin x m _, .inf y => if m = 0 then .nan else .inf (x != y)
  | .fin x m1 e1, .fin y m2 e2 => .fin (x != y) (m1 * m2) (e1 + e2)

/-- The value with the other sign. -/
def valNeg : Val → Val
  | .nan => .nan
  | .inf x => .inf (!x)
  | .fin x m e => .fin (!x) m e

/-- The value with sign +. -/
def valAbs : Val → Val
  | .nan => .nan
  | .inf _ => .inf false
  | .fin _ m e => .fin false m e

/-- A quotient to 30 bits or more with a sticky last bit, which rounds as the exact quotient does. -/
def valDiv (a b : Val) : Val :=
  match a, b with
  | .nan, _ => .nan
  | _, .nan => .nan
  | .inf _, .inf _ => .nan
  | .inf x, .fin y _ _ => .inf (x != y)
  | .fin x _ _, .inf y => .fin (x != y) 0 0
  | .fin x m1 e1, .fin y m2 e2 =>
    if m2 = 0 then (if m1 = 0 then .nan else .inf (x != y))
    else
      let k := 32 + Nat.log2 m2
      let n := m1 * 2 ^ k
      .fin (x != y) (2 * (n / m2) + (if n % m2 = 0 then 0 else 1)) (e1 - e2 - k - 1)

/-- The integer square root of `n`, searched from bit `k` down. -/
def isqrt (n : Nat) : Nat → Nat → Nat
  | 0, r => r
  | k + 1, r => if (r + 2 ^ k) * (r + 2 ^ k) ≤ n then isqrt n k (r + 2 ^ k) else isqrt n k r

/-- A square root to 32 bits or more with a sticky last bit. -/
def valSqrt : Val → Val
  | .nan => .nan
  | .inf x => if x then .nan else .inf false
  | .fin x m e =>
    if m = 0 then .fin x 0 0
    else if x then .nan
    else
      let n := (if e % 2 = 0 then m else 2 * m) * 2 ^ 64
      let h := (if e % 2 = 0 then e else e - 1) / 2 - 32
      let r := isqrt n (Nat.log2 n / 2 + 1) 0
      .fin false (2 * r + (if r * r = n then 0 else 1)) (h - 1)

/-- Whether a value is a NaN; an infinity. -/
def isNan (v : Val) : Bool := v == .nan
def isInf : Val → Bool
  | .inf _ => true
  | _ => false

/-- The event of one operation with these operands and this result (R55). -/
def opEv (vs : List Val) : Ev := { nan := bit (vs.any isNan), inf := bit (vs.any isInf) }

/-- The result of an FP32 operation with exact result `v` on operands `ops`: rounded RNE, with its event. -/
def f32Res (ops : List Val) (v : Val) : F32 × Ev :=
  let r := f32Of v
  (r, opEv (f32Val r :: ops))

/-- fp32_add (R64). -/
def f32Add (a b : F32) : F32 × Ev := f32Res [f32Val a, f32Val b] (valAdd (f32Val a) (f32Val b))
def f32Sub (a b : F32) : F32 × Ev := f32Res [f32Val a, f32Val b] (valAdd (f32Val a) (valNeg (f32Val b)))
def f32Mul (a b : F32) : F32 × Ev := f32Res [f32Val a, f32Val b] (valMul (f32Val a) (f32Val b))
/-- Fused multiply-add a × b + c with one rounding. -/
def f32Fma (a b c : F32) : F32 × Ev :=
  f32Res [f32Val a, f32Val b, f32Val c] (valAdd (valMul (f32Val a) (f32Val b)) (f32Val c))
def f32Div (a b : F32) : F32 × Ev := f32Res [f32Val a, f32Val b] (valDiv (f32Val a) (f32Val b))
def f32Sqrt (a : F32) : F32 × Ev := f32Res [f32Val a] (valSqrt (f32Val a))

/-- The integer order of FP32 codes that are no NaN, −0 below +0. -/
def f32Key (a : F32) : Int := if a.toNat < 2 ^ 31 then a.toNat else (2 ^ 31 : Int) - a.toNat - 1

/-- Minimum and maximum (R72): the canonical NaN when an operand is NaN; −0 below +0. -/
def f32Min (a b : F32) : F32 × Ev :=
  let ev := opEv [f32Val a, f32Val b]
  if isNan (f32Val a) || isNan (f32Val b) then (0x7FC00000, ev) else (if f32Key a ≤ f32Key b then a else b, ev)
def f32Max (a b : F32) : F32 × Ev :=
  let ev := opEv [f32Val a, f32Val b]
  if isNan (f32Val a) || isNan (f32Val b) then (0x7FC00000, ev) else (if f32Key b ≤ f32Key a then a else b, ev)

/-- a < b of IEEE 754 (R72): false with a NaN; −0 and +0 equal. -/
def f32Lt (a b : F32) : Bool :=
  !isNan (f32Val a) && !isNan (f32Val b) && !(a.toNat % 2 ^ 31 = 0 && b.toNat % 2 ^ 31 = 0) && f32Key a < f32Key b
/-- a ≤ b and a = b of IEEE 754. -/
def f32Eq (a b : F32) : Bool :=
  !isNan (f32Val a) && !isNan (f32Val b) && (a == b || (a.toNat % 2 ^ 31 = 0 && b.toNat % 2 ^ 31 = 0))
def f32Le (a b : F32) : Bool := f32Lt a b || f32Eq a b

/-- Whether an FP32 code is finite. -/
def f32Finite (a : F32) : Bool := a.toNat % 2 ^ 31 ≤ 0x7F7FFFFF

/-- The magnitude of an FP32 code. -/
def f32Abs (a : F32) : F32 := BitVec.ofNat 32 (a.toNat % 2 ^ 31)

/-- MAX over observations (R81): −1.0 stands for no observation; all others are finite and not negative. -/
def obsMax (a b : F32) : F32 := if f32Lt a b then b else a
/-- The value that stands for no observation. -/
def noObs : F32 := 0xBF800000

/-- The largest finite magnitude of a list of FP32 values, or no observation (R80). -/
def observe (l : List F32) : F32 := l.foldl (fun m x => if f32Finite x then obsMax m (f32Abs x) else m) noObs

/-! ## Conversions (R57) -/

/-- FP32 into BF16 or FP16, with infinity on overflow. -/
def toBF16 (r : Rnd) (x : F32) : Nat × Ev := encodeFloat fmtBF16 false r (f32Val x)
def toFP16 (r : Rnd) (x : F32) : Nat × Ev := encodeFloat fmtFP16 false r (f32Val x)
/-- FP32 into M19, truncated or rounded to nearest (R60). -/
def toM19 (rne : Bool) (x : F32) : Nat × Ev := encodeFloat fmtM19 false (if rne then .rne else .trunc) (f32Val x)

/-- A value that is exactly representable, as FP32 (widening, R57). -/
def widen (v : Val) : F32 × Ev := (f32Of v, opEv [v])

/-- An integer clamped to `lo` and `hi`. -/
def clampInt (lo hi i : Int) : Int := max lo (min hi i)

/-- num / den with a sign, rounded to an integer and clamped; whether it was clamped. -/
def roundClamp (r : Rnd) (neg : Bool) (num den : Nat) (lo hi : Int) : Int × Bool :=
  let n : Int := (roundDiv r num den : Nat)
  let i := if neg then -n else n
  (clampInt lo hi i, decide (i < lo ∨ hi < i))

/-- A value divided by μ × 2^ε, rounded to an integer between `lo` and `hi` (R57, R90). A NaN gives 0; an infinity the
end of the range. -/
def toIntScaled (r : Rnd) (mu : Nat) (eps : Int) (lo hi : Int) (v : Val) : Int × Ev :=
  match v with
  | .nan => (0, { nan := 1 })
  | .inf neg => (if neg then lo else hi, { inf := 1 })
  | .fin neg m e =>
    let x := ratOf m (e - eps)
    let c := roundClamp r neg x.1 (x.2 * mu) lo hi
    (c.1, { narrow := bit c.2 })

/-- FP32 into INT8 or INT4 (R57). -/
def toInt8 (r : Rnd) (x : F32) : Int × Ev := toIntScaled r 1 0 (-128) 127 (f32Val x)
def toInt4 (r : Rnd) (x : F32) : Int × Ev := toIntScaled r 1 0 (-8) 7 (f32Val x)

/-- INT32 into FP32, RNE. -/
def intToF32 (i : Int) : F32 := f32Of (valOfInt i 0)

/-- The range of FX48 (R51). -/
def fxMin : Int := -2 ^ 47
def fxMax : Int := 2 ^ 47 - 1

/-- FP32 into FX48 with exponent `x`: RNE to a multiple of 2^x, saturating (R57). -/
def toFX48 (x : Int) (v : F32) : Int × Ev :=
  match f32Val v with
  | .nan => (0, { nan := 1 })
  | .inf neg => (if neg then fxMin else fxMax, { inf := 1 })
  | .fin neg m e =>
    let q := ratOf m (e - x)
    let c := roundClamp .rne neg q.1 q.2 fxMin fxMax
    (c.1, { sat := bit c.2 })

/-- FX48 into FP32, RNE; an overflow gives infinity (R57). -/
def fx48ToF32 (x n : Int) : F32 × Ev := f32Res [] (valOfInt n x)

/-- FX48 addition, saturating; the second part says whether it saturated (R71). -/
def fxAdd (a b : Int) : Int × Bool := (clampInt fxMin fxMax (a + b), decide (a + b < fxMin ∨ fxMax < a + b))

/-! ## Formats as memory holds them (R52) -/

/-- The layout of a floating-point format of a descriptor. -/
def floatFmt : NumFmt → Option FloatFmt
  | .fp32 => some fmtF32
  | .m19 => some fmtM19
  | .bf16 => some fmtBF16
  | .fp16 => some fmtFP16
  | .e4m3 => some fmtE4M3
  | .e5m2 => some fmtE5M2
  | .e2m1 => some fmtE2M1
  | _ => none

/-- Whether a format is an integer format. -/
def intFmt : NumFmt → Bool
  | .int8 => true
  | .int4 => true
  | .int32 => true
  | _ => false

/-- Bits of a format's container (R52). -/
def fmtBits : NumFmt → Nat
  | .fp32 => 32
  | .int32 => 32
  | .m19 => 32
  | .bf16 => 16
  | .fp16 => 16
  | .e4m3 => 8
  | .e5m2 => 8
  | .int8 => 8
  | .e2m1 => 4
  | .int4 => 4
  | .fx48 => 64

/-- The value of a container read as an integer of its format. -/
def intOfCode : NumFmt → Nat → Int
  | .int8, c => toSigned 8 c
  | .int4, c => toSigned 4 c
  | .int32, c => toSigned 32 c
  | .fx48, c => toSigned 48 c
  | _, c => c

/-- The exact value of a container: an M19 container drops bits [12:0]. -/
def valOfCode (f : NumFmt) (c : Nat) : Val :=
  match f with
  | .m19 => decodeFloat fmtM19 (c / 2 ^ 13)
  | .fp32 => decodeFloat fmtF32 c
  | .bf16 => decodeFloat fmtBF16 c
  | .fp16 => decodeFloat fmtFP16 c
  | .e4m3 => decodeFloat fmtE4M3 c
  | .e5m2 => decodeFloat fmtE5M2 c
  | .e2m1 => decodeFloat fmtE2M1 c
  | .int8 => valOfInt (intOfCode .int8 c) 0
  | .int4 => valOfInt (intOfCode .int4 c) 0
  | .int32 => valOfInt (intOfCode .int32 c) 0
  | .fx48 => valOfInt (intOfCode .fx48 c) 0

/-- The elements that bytes hold in a format, in order (R52): two per byte for a 4-bit format, low half first. -/
def unpackBytes (f : NumFmt) : List Byte → List Nat
  | [] => []
  | b :: l =>
    match f with
    | .e2m1 => b.toNat % 16 :: b.toNat / 16 :: unpackBytes f l
    | .int4 => b.toNat % 16 :: b.toNat / 16 :: unpackBytes f l
    | .e4m3 => b.toNat :: unpackBytes f l
    | .e5m2 => b.toNat :: unpackBytes f l
    | .int8 => b.toNat :: unpackBytes f l
    | .bf16 => match l with
      | c :: r => (b.toNat + 256 * c.toNat) :: unpackBytes f r
      | [] => []
    | .fp16 => match l with
      | c :: r => (b.toNat + 256 * c.toNat) :: unpackBytes f r
      | [] => []
    | .fx48 => match l with
      | b1 :: b2 :: b3 :: b4 :: b5 :: _ :: _ :: r => leNat [b, b1, b2, b3, b4, b5] :: unpackBytes f r
      | _ => []
    | _ => match l with
      | b1 :: b2 :: b3 :: r => leNat [b, b1, b2, b3] :: unpackBytes f r
      | _ => []

/-- Pairs of 4-bit codes as bytes. -/
def packNibbles : List Nat → List Byte
  | [] => []
  | [a] => [BitVec.ofNat 8 (a % 16)]
  | a :: b :: l => BitVec.ofNat 8 (a % 16 + 16 * (b % 16)) :: packNibbles l

/-- The bytes that hold elements of a format (R52). -/
def packBytes (f : NumFmt) (l : List Nat) : List Byte :=
  match f with
  | .e2m1 => packNibbles l
  | .int4 => packNibbles l
  | .fx48 => l.flatMap fun c => leBytes 8 (ofSigned 64 (toSigned 48 c))
  | .m19 => l.flatMap fun c => leBytes 4 (c / 2 ^ 13 * 2 ^ 13)
  | _ => l.flatMap fun c => leBytes (fmtBits f / 8) c

/-! ## The chunked dot product (R60 to R66) -/

/-- The exact value that a multiplier operand has after R60: an FP32 operand enters as M19. -/
def multVal (f : NumFmt) (rne : Bool) (c : Nat) : Val :=
  match f with
  | .fp32 => decodeFloat fmtM19 (toM19 rne (BitVec.ofNat 32 c)).1
  | _ => valOfCode f c

/-- floor(log2 |p|) of a finite nonzero product. -/
def expOf : Val → Int
  | .fin _ m e => Nat.log2 m + e
  | _ => 0

/-- The finite nonzero products of a chunk. -/
def nonzero (p : List Val) : List Val := p.filter fun v => match v with
  | .fin _ m _ => m != 0
  | _ => false

/-- sign(p) × floor(|p| / 2^q). -/
def alignTo (q : Int) : Val → Int
  | .fin neg m e => let n : Int := (roundAt .trunc m e q : Nat); if neg then -n else n
  | _ => 0

/-- chunk_to_a22 of R63: the A22 value of the products of one chunk. -/
def chunkToA22 (p : List Val) : Val :=
  if p.any isNan then .nan
  else if p.any (· == .inf false) && p.any (· == .inf true) then .nan
  else if p.any (· == .inf false) then .inf false
  else if p.any (· == .inf true) then .inf true
  else
    match nonzero p with
    | [] => .fin false 0 0
    | x :: z =>
      let q := z.foldl (fun a v => max a (expOf v)) (expOf x) - 24
      let sum := (x :: z).foldl (fun a v => a + alignTo q v) (0 : Int)
      if sum = 0 then .fin false 0 0
      else
        let e := (Nat.log2 sum.natAbs : Int) + q
        if 128 ≤ e then .inf (decide (sum < 0))
        else
          let g := if -126 ≤ e then e - 13 else -139
          let m := roundAt .trunc sum.natAbs q g
          if m = 0 then .fin false 0 0 else .fin (decide (sum < 0)) m g

/-- Lists of 8 consecutive elements; the last holds what remains. `fuel` is at least the length. -/
def chunks8 {α : Type} : Nat → List α → List (List α)
  | 0, _ => []
  | _, [] => []
  | fuel + 1, l => l.take 8 :: chunks8 fuel (l.drop 8)

/-- One chunk added to an FP32 accumulator (R63, steps 3 and 4). -/
def addChunk (acc : F32 × Ev) (ab : List (Val × Val)) : F32 × Ev :=
  let c := chunkToA22 (ab.map fun p => valMul p.1 p.2)
  let r := f32Add acc.1 (f32Of c)
  let ops := ab.flatMap fun p => [p.1, p.2]
  (r.1, evAdd acc.2 (evAdd (opEv (c :: ops)) r.2))

/-- The dot product of one pass from an accumulator (R63). -/
def dotFloat (acc : F32) (ab : List (Val × Val)) : F32 × Ev := (chunks8 ab.length ab).foldl addChunk (acc, {})

/-- The sum of the exact products of one chunk (R68). -/
def chunkInt (ab : List (Int × Int)) : Int := ab.foldl (fun a p => a + p.1 * p.2) 0

/-- One chunk sum added to an INT32 accumulator, which keeps the value at which it saturated (R69). -/
def addChunkInt (acc : Int × Bool) (ab : List (Int × Int)) : Int × Bool :=
  if acc.2 then acc
  else
    let t := acc.1 + chunkInt ab
    let r := clampInt (-2 ^ 31) (2 ^ 31 - 1) t
    (r, decide (r ≠ t))

/-- An integer dot product of one pass; the second part says whether it has saturated (R68, R69). -/
def dotInt (acc : Int × Bool) (ab : List (Int × Int)) : Int × Bool :=
  (chunks8 ab.length ab).foldl addChunkInt acc

/-! ## The lane tree (R73) -/

/-- One level of the tree: adjacent results added, low index first; a missing partner is +0. -/
def laneLevel : List (F32 × Ev) → List (F32 × Ev)
  | [] => []
  | [a] => let r := f32Add a.1 0; [(r.1, evAdd a.2 r.2)]
  | a :: b :: l => let r := f32Add a.1 b.1; (r.1, evAdd (evAdd a.2 b.2) r.2) :: laneLevel l

/-- The tree of `levels` levels. -/
def laneTree : Nat → List (F32 × Ev) → List (F32 × Ev)
  | 0, l => l
  | n + 1, l => laneTree n (laneLevel l)

/-- A reduction over at most 1,024 lanes: ten levels, absent lanes +0 (R73). -/
def laneSum (l : List F32) : F32 × Ev := (laneTree 10 (l.map fun x => (x, {}))).headD (0, {})

/-! ## Vector programs (R72, R170) -/

/-- The FMT values of a descriptor (R171). -/
def fmtOf : Nat → Option NumFmt
  | 0 => some .fp32
  | 1 => some .m19
  | 2 => some .bf16
  | 3 => some .fp16
  | 4 => some .e4m3
  | 5 => some .e5m2
  | 6 => some .e2m1
  | 7 => some .int8
  | 8 => some .int4
  | 9 => some .int32
  | 10 => some .fx48
  | _ => none

/-- A conversion of FP32 into a format under RNE (R57) and back. INT32 is the integer of R57's integer rows with its own range; FX48
has the exponent 0. -/
def convF32 (f : NumFmt) (x : F32) : F32 × Ev :=
  let via := fun r : Nat × Ev => (f32Of (valOfCode f r.1), r.2)
  let int := fun r : Int × Ev => (intToF32 r.1, r.2)
  match f with
  | .fp32 => (x, opEv [f32Val x])
  | .m19 => let r := toM19 true x; via (r.1 * 2 ^ 13, r.2)
  | .bf16 => via (toBF16 .rne x)
  | .fp16 => via (toFP16 .rne x)
  | .e4m3 => via (encodeFloat fmtE4M3 true .rne (f32Val x))
  | .e5m2 => via (encodeFloat fmtE5M2 true .rne (f32Val x))
  | .e2m1 => via (encodeFloat fmtE2M1 true .rne (f32Val x))
  | .int8 => int (toInt8 .rne x)
  | .int4 => int (toInt4 .rne x)
  | .int32 => int (toIntScaled .rne 1 0 (-2 ^ 31) (2 ^ 31 - 1) (f32Val x))
  | .fx48 => let r := toFX48 0 x; let y := fx48ToF32 0 r.1; (y.1, evAdd r.2 y.2)

/-- A truth value as an FP32 number. -/
def f32Bool (b : Bool) : F32 := if b then 0x3F800000 else 0

/-- One basic operation (R72) with its event; a compare reads its operands. -/
def vecOp (o : VecOp) (a b c : F32) : F32 × Ev :=
  match o with
  | .add => f32Add a b
  | .sub => f32Sub a b
  | .mul => f32Mul a b
  | .fma => f32Fma a b c
  | .div => f32Div a b
  | .sqrt => f32Sqrt a
  | .min => f32Min a b
  | .max => f32Max a b
  | .lt => (f32Bool (f32Lt a b), opEv [f32Val a, f32Val b])
  | .le => (f32Bool (f32Le a b), opEv [f32Val a, f32Val b])
  | .eq => (f32Bool (f32Eq a b), opEv [f32Val a, f32Val b])
  | .conv n => match fmtOf n with
    | some f => convF32 f a
    | none => (a, opEv [f32Val a])

/-- The value of an operand in a lane: a register or an element that is not there is +0. -/
def vecSrc (ins : List (List F32)) (lane : Nat) (regs : List F32) : VecSrc → F32
  | .reg n => regs.getD n 0
  | .elem i => (ins.getD i []).getD lane 0
  | .lane i j => (ins.getD i []).getD j 0
  | .const x => x

/-- The registers of a lane after a program's operations, with their events. -/
def vecLane (p : VecProg) (ins : List (List F32)) (lane : Nat) : List F32 × Ev :=
  p.steps.foldl (fun a x =>
    let v := vecSrc ins lane a.1
    let r := vecOp x.op (v x.a) (v x.b) (v x.c)
    (a.1 ++ [r.1], evAdd a.2 r.2)) ([], {})

/-- A vector program over its operand rows: one result for each lane of the first row; a program of no operation gives the row. -/
def vecRun (p : VecProg) (ins : List (List F32)) : List F32 × Ev :=
  let l := (List.range (ins.headD []).length).map fun i =>
    let r := vecLane p ins i
    (r.1.getLastD ((ins.headD []).getD i 0), r.2)
  (l.map Prod.fst, evSum l)

/-- A program over the rows of a unit: its operands are taken from consecutive rows, and a group of rows that the unit's end cuts
short passes on unchanged. `fuel` is at least the number of rows. -/
def vecRows (p : VecProg) : Nat → List (List F32) → List (List F32) × Ev
  | 0, _ => ([], {})
  | _, [] => ([], {})
  | fuel + 1, l =>
    if l.length < p.inputs then (l, {})
    else
      let r := vecRun p (l.take (max 1 p.inputs))
      let s := vecRows p fuel (l.drop (max 1 p.inputs))
      (r.1 :: s.1, evAdd r.2 s.2)

/-! ## The merging tree of a history (R387, R388) -/

/-- The height of the tree for a segment length (R388). -/
def segHeight (seg : Nat) : Nat := Nat.log2 (8192 / seg)

/-- The lowest present segment that node `i` of a level covers (R388), among partial states in ascending segment index. -/
def segLowest (states : List (Option (List F32))) (level i : Nat) : Option Nat :=
  ((List.range (2 ^ level)).map (· + i * 2 ^ level)).find? fun j => ((states[j]?).join).isSome

/-! ## Keyed dither (R74, R75) -/

/-- mix64 of R74. -/
def mix64 (x0 : BitVec 64) : BitVec 64 :=
  let x1 := x0 ^^^ (x0 >>> 31)
  let x2 := x1 * 0xA3B195354A39B70D
  let x3 := x2 ^^^ (x2 >>> 29)
  let x4 := x3 * 0x8CB92BA72F3D8DD7
  x4 ^^^ (x4 >>> 32)

/-- dither24 of R74; `dense` is the domain bit (R75). -/
def dither24 (seed step table row element : Nat) (dense : Bool) : Nat :=
  let a0 := mix64 (BitVec.ofNat 64 seed ^^^ 0x5EC27A19C3E40B61)
  let a1 := mix64 (a0 ^^^ BitVec.ofNat 64 step)
  let a2 := mix64 (a1 ^^^ ((BitVec.ofNat 64 table <<< 40) ^^^ BitVec.ofNat 64 row))
  let a3 := mix64 (a2 ^^^ ((BitVec.ofNat 64 (bit dense) <<< 63) ^^^ BitVec.ofNat 64 element))
  (a3 >>> 40).toNat

end Sys2Proof.Machine
end

