-- ==== Sys2Proof/Machine/Flags.lean ====
section
/-! DEFINITION. Flags: arithmetic events recorded against a step and in the counters of a unit (R55, R77), the vote word
and its decision (R34 to R36). -/

namespace Sys2Proof.Machine

/-- Either set of flags. -/
def flagsOr (a b : Flags) : Flags :=
  { nan := a.nan || b.nan, inf := a.inf || b.inf, sat := a.sat || b.sat, opt := a.opt || b.opt }

/-- Whether any data flag is set. -/
def flagsAny (a : Flags) : Bool := a.nan || a.inf || a.sat || a.opt

/-- NAN, INF, SAT, OPT in bits 0 to 3. -/
def flagsNat (a : Flags) : Nat := bit a.nan + 2 * bit a.inf + 4 * bit a.sat + 8 * bit a.opt

/-- The vote flags that arithmetic events set (R55): an INT32 saturation sets INF; narrow saturation sets none. -/
def evFlags (e : Ev) : Flags :=
  { nan := decide (0 < e.nan), inf := decide (0 < e.inf + e.i32), sat := decide (0 < e.sat) }

/-- The counters of R77 after events; each stops at 0xFFFF. -/
def numAdd (n : NumEvents) (e : Ev) : NumEvents :=
  { nan := satAdd 0xFFFF n.nan e.nan, inf := satAdd 0xFFFF n.inf e.inf, i32 := satAdd 0xFFFF n.i32 e.i32,
    narrow := satAdd 0xFFFF n.narrow e.narrow }

/-- Flags recorded against a step (R55). -/
def State.markFlags (s : State) (n : Nat) (f : Flags) : State :=
  if flagsAny f then s.updStep n fun p => { p with flags := flagsOr p.flags f } else s

/-- Events of a core's arithmetic for step `n`. -/
def State.coreEv (s : State) (c : CoreId) (n : Nat) (e : Ev) : State :=
  (s.updCore c fun k => { k with num := numAdd k.num e }).markFlags n (evFlags e)
/-- Events of a Quern's arithmetic for step `n`. -/
def State.quernEv (s : State) (q : QuernId) (n : Nat) (e : Ev) : State :=
  (s.updQuern q fun k => { k with num := numAdd k.num e }).markFlags n (evFlags e)
/-- Events of Weir's arithmetic for step `n`. -/
def State.weirEv (s : State) (n : Nat) (e : Ev) : State :=
  (s.updWeir fun w => { w with num := numAdd w.num e }).markFlags n (evFlags e)

/-- The 256 bits of a vote word (R34). -/
def voteBits (v : VoteWord) : Nat :=
  flagsNat v.flags + fld 4 1 (bit v.fatal) + fld 32 32 v.memEpoch + fld 64 32 v.layEpoch + fld 96 48 v.step
    + fld 160 32 v.count + fld 192 64 v.view

/-- The reduction of two vote words (R34): flags by OR, COUNT by sum; what must be equal is kept from the first. -/
def voteJoin (a b : VoteWord) : VoteWord :=
  { a with flags := flagsOr a.flags b.flags, fatal := a.fatal || b.fatal, count := a.count + b.count }

/-- Whether membership epoch or view differ; whether layout epoch or step differ (R36). -/
def voteDiffEpoch (a b : VoteWord) : Bool := a.memEpoch != b.memEpoch || a.view != b.view
def voteDiffLayout (a b : VoteWord) : Bool := a.layEpoch != b.layEpoch || a.step != b.step

/-- The decision of the vote root (R36): HALT, then ABORT, then SKIP, then APPLY. -/
def decide36 (v : VoteWord) (members : Nat) (diffEpoch diffLayout : Bool) : Decision :=
  if v.fatal || diffLayout then .halt
  else if v.count ≠ members ∨ diffEpoch = true then .abort
  else if flagsAny v.flags then .skip
  else .apply

/-- The Value column of R36. -/
def decisionNo : Decision → Nat
  | .apply => 0
  | .skip => 1
  | .abort => 2
  | .halt => 3

end Sys2Proof.Machine
end

