-- ==== Sys2Proof/Machine/Scales.lean ====
section
/-! DEFINITION. Scales (R78 to R100): deriving a step, backoff, entry into a narrow format, rescaling, column sums, FX48
exponents. -/

namespace Sys2Proof.Machine

/-- A clamp of ε to −126 .. 126, and whether it acted (R83). -/
def clampEps (e : Int) : Int × Bool := (clampInt (-126) 126 e, decide (e < -126 ∨ 126 < e))

/-- Mantissa and exponent of a finite FP32 magnitude. -/
def f32Parts (x : F32) : Nat × Int := match f32Val x with
  | .fin _ m e => (m, e)
  | _ => (0, 0)

/-- derive_float (R83) for B = amax × 2^k: ε and whether it was clamped. -/
def deriveFloat (fmt : ScaleFmt) (amax : F32) (k : Int) : Int × Bool :=
  let p := f32Parts amax
  let l := Nat.log2 p.1
  let eb : Int := l + p.2 + k
  match fmt with
  | .e4m3 => clampEps (if 4 * p.1 ≤ 7 * 2 ^ l then eb - 8 else eb - 7)
  | .e5m2 => clampEps (if 4 * p.1 ≤ 7 * 2 ^ l then eb - 15 else eb - 14)
  | _ => clampEps (if 2 * p.1 ≤ 3 * 2 ^ l then eb - 2 else eb - 1)

/-- q_span of R83. -/
def qSpan (i4 : Bool) (z : Int) : Nat := ((if i4 then 7 else 127) - z).toNat

/-- derive_int (R83) for B = amax × 2^k: μ, ε and whether ε was clamped. -/
def deriveInt (i4 : Bool) (amax : F32) (k z : Int) : Nat × Int × Bool :=
  let p := f32Parts amax
  let q := qSpan i4 z
  let big := p.1 * 2 ^ 40
  let l : Int := (Nat.log2 (big / q) : Int) - 40
  let eps := l - 14
  let x := ratOf p.1 (-eps)
  let mu := (x.1 + (x.2 * q - 1)) / (x.2 * q)
  let e := eps + p.2 + k
  if mu = 2 ^ 15 then (2 ^ 14, clampEps (e + 1)) else (mu, clampEps e)

/-- Whether a format's step has the form μ × 2^ε (R78). -/
def scaleInt : ScaleFmt → Bool
  | .i8 => true
  | .i4 => true
  | _ => false

/-- The policy of a record from the image fields that govern a step (R102). -/
structure ScalePolicy where
  fmt : ScaleFmt
  kind : ScaleKind
  margin : Nat
  epsInit : Int
  zp : Int
  deriving DecidableEq, Repr

/-- The encoding of FMT (R79). -/
def scaleFmtOf : Nat → ScaleFmt
  | 1 => .e4m3
  | 2 => .e5m2
  | 3 => .e2m1
  | 4 => .i8
  | 5 => .i4
  | _ => .none

/-- Number of a FMT and of a KIND (R79). -/
def scaleFmtNo : ScaleFmt → Nat
  | .none => 0
  | .e4m3 => 1
  | .e5m2 => 2
  | .e2m1 => 3
  | .i8 => 4
  | .i4 => 5
def scaleKindNo : ScaleKind → Nat
  | .weight => 0
  | .activation => 1
  | .gradient => 2

/-- The 8 bytes of a scale record (R79). -/
def scaleRecBytes (r : ScaleRec) : List Byte :=
  leBytes 8 (fld 0 16 r.mu + fld 16 16 (ofSigned 16 r.eps) + fld 32 3 (scaleFmtNo r.fmt)
    + fld 35 2 (scaleKindNo r.kind) + fld 37 8 (ofSigned 8 r.zp))

/-- The largest observation of a history (R82). -/
def histMax (h : List F32) : F32 := h.foldl obsMax 0

/-- A record derived from its history (R83, R84), and whether ε was clamped. -/
def deriveRec (p : ScalePolicy) (hist : List F32) (backoff : Nat) : ScaleRec × Bool :=
  let b : Int := if p.kind = .weight then 0 else backoff
  let zp := if p.kind = .activation then p.zp else 0
  let a := histMax hist
  if p.fmt = .none then ({ mu := 0, eps := 0, fmt := p.fmt, kind := p.kind, zp := zp }, false)
  else if hist = [] ∨ a.toNat = 0 then
    ({ mu := if scaleInt p.fmt then 2 ^ 14 else 0, eps := p.epsInit, fmt := p.fmt, kind := p.kind, zp := zp }, false)
  else if scaleInt p.fmt then
    let d := deriveInt (p.fmt == .i4) a (p.margin + b) zp
    ({ mu := d.1, eps := d.2.1, fmt := p.fmt, kind := p.kind, zp := zp }, d.2.2)
  else
    let d := deriveFloat p.fmt a (p.margin + b)
    ({ mu := 0, eps := d.1, fmt := p.fmt, kind := p.kind, zp := zp }, d.2)

/-- A history after an applied step (R82): the observation joins, and the H most recent stay; no observation leaves it. -/
def histPush (h : Nat) (obs : F32) (hist : List F32) : List F32 :=
  if f32Lt obs 0 then hist else (hist ++ [obs]).drop ((hist.length + 1) - h)

/-- Backoff and decay count after a decision (R87), and whether SCALE_BACKOFF_LIMIT is raised. -/
def backoffNext (skip : Bool) (max decayField b decay : Nat) : Nat × Nat × Bool :=
  if skip then (if b < max then (b + 1, 0, false) else (b, 0, true))
  else if decayField ≤ decay + 1 ∧ 0 < b then (b - 1, 0, false)
  else (b, min (decay + 1) decayField, false)

/-! ## Entry into a narrow format (R90) -/

/-- A value multiplied by 2^k. -/
def valScale (k : Int) : Val → Val
  | .fin n m e => .fin n m (e + k)
  | v => v

/-- The code that x takes under a record with a rounding (R90). An activation code adds the zero point to the rounded
quotient and then clamps. -/
def narrowCode (r : ScaleRec) (rnd : Rnd) (x : F32) : Nat × Ev :=
  match r.fmt with
  | .e4m3 => encodeFloat fmtE4M3 true rnd (valScale (-r.eps) (f32Val x))
  | .e5m2 => encodeFloat fmtE5M2 true rnd (valScale (-r.eps) (f32Val x))
  | .e2m1 => encodeFloat fmtE2M1 true rnd (valScale (-r.eps) (f32Val x))
  | .i8 =>
    let c := toIntScaled rnd r.mu r.eps (-128 - r.zp) (127 - r.zp) (f32Val x)
    (ofSigned 8 (c.1 + if isNan (f32Val x) then 0 else r.zp), c.2)
  | .i4 =>
    let c := toIntScaled rnd r.mu r.eps (-8 - r.zp) (7 - r.zp) (f32Val x)
    (ofSigned 4 (c.1 + if isNan (f32Val x) then 0 else r.zp), c.2)
  | .none => (x.toNat, {})

/-- The exact value that a code stands for under a record: c × Δ (R78). -/
def scaledVal (r : ScaleRec) (c : Nat) : Val :=
  match r.fmt with
  | .e4m3 => valScale r.eps (decodeFloat fmtE4M3 c)
  | .e5m2 => valScale r.eps (decodeFloat fmtE5M2 c)
  | .e2m1 => valScale r.eps (decodeFloat fmtE2M1 c)
  | .i8 => valOfInt (toSigned 8 c * r.mu) r.eps
  | .i4 => valOfInt (toSigned 4 c * r.mu) r.eps
  | .none => decodeFloat fmtF32 c

/-! ## Rescaling after accumulation (R93 to R97) -/

/-- A float result times 2^(εa + εb), rounded RNE (R93). -/
def rescaleFloat (k : Int) (y : F32) : F32 × Ev :=
  if k = 0 then (y, {}) else f32Res [f32Val y] (valScale k (f32Val y))

/-- An INT32 sum rescaled to FP32 (R95): exact product, rounded half up to the FP32 grid. -/
def rescaleToF32 (sum z csum : Int) (m : Nat) (sh : Int) : F32 × Ev :=
  let p := (sum - z * csum) * m
  let neg := decide (p < 0)
  let c := magCode fmtF32 (.half (!neg)) p.natAbs (-sh)
  if c ≤ fmtF32.maxFin then (BitVec.ofNat 32 (withSign fmtF32 (neg && c != 0) c), {})
  else (BitVec.ofNat 32 (withSign fmtF32 neg 0x7F800000), { inf := 1 })

/-- An INT32 sum rescaled to INT32 by a pair of R97 (R95); a clamp is an INT32 saturation. -/
def rescaleToI32 (sum z csum : Int) (m : Nat) (sh : Int) : Int × Ev :=
  let p := (sum - z * csum) * m
  let y := if 0 < sh then (p + 2 ^ (sh.toNat - 1)) / 2 ^ sh.toNat else p * 2 ^ (-sh).toNat
  let r := clampInt (-2 ^ 31) (2 ^ 31 - 1) y
  (r, { i32 := bit (decide (r ≠ y)) })

/-- The rescale pair of a combination of records (R97). -/
def rescalePair (a w o : ScaleRec) : Nat × Int :=
  let num := a.mu * w.mu
  let l : Int := (Nat.log2 (num * 2 ^ 40 / o.mu) : Int) - 40
  let k := 31 - l
  let x := ratOf num k
  let m := (2 * x.1 + x.2 * o.mu) / (2 * x.2 * o.mu)
  if m = 2 ^ 32 then (2 ^ 31, k - 1 - (a.eps + w.eps - o.eps)) else (m, k - (a.eps + w.eps - o.eps))

/-- Column sums of a tile of weight codes held by k and then n (R94): one sum for each column. -/
def columnSums (f : NumFmt) (rows : List (List Nat)) : List Int :=
  match rows with
  | [] => []
  | r :: rs => rs.foldl (fun a row => List.zipWith (· + ·) a (row.map (intOfCode f))) (r.map (intOfCode f))

/-- x_t of R98: FX48_EXP and the backoff of the version. -/
def fx48Exp (base : Int) (backoff : Nat) : Int := base + backoff

end Sys2Proof.Machine
end

