-- ==== Sys2Proof/Machine/Tiers.lean ====
section
/-! DEFINITION. Memory tiers and the single range (R222 to R247): translation, access checks, reads and writes of the range,
placement, page moves, faulted pages and the ports of pooled memory. -/

namespace Sys2Proof.Machine

/-! ## Regions and translation (R225 to R231) -/

/-- Page number and offset of a range address (R222). -/
def pageOf (a : Nat) : Nat := a % 2 ^ 56 / 2 ^ 21
def offOf (a : Nat) : Nat := a % 2 ^ 21

/-- Whether a region holds a page. -/
def inRegion (p : Nat) (r : Region) : Bool := r.base ≤ p && p < r.base + r.count

/-- The region of a page. -/
def State.regionAt (s : State) (p : Nat) : Option Region := s.regions.find? (inRegion p)

/-- Whether a page lies in a region of another context's range map. -/
def State.inOtherMap (s : State) (p : Nat) : Bool := s.ldr.fields.any fun f =>
  f.inst.name == "RANGE_MAP" && f.ctx != s.atl.runCtx && (f.inst.value.map regionOf).any (inRegion p)

/-- The fault of a demand access (R227, R228): the code, or none. -/
def State.accessFault (s : State) (a : Nat) (write : Bool) : Option Nat :=
  match s.regionAt (pageOf a) with
  | none => if s.inOtherMap (pageOf a) then some 0x032 else some 0x031
  | some r =>
    if r.ctx ≠ s.ctxNo ∨ r.weir = true then some 0x032
    else if write && r.ro then some 0x033
    else none

/-- The page table entry of a page. -/
def State.page (s : State) (p : Nat) : Option Page := kvFind p s.tier.pages

/-- The physical byte address of a location and an offset: tier, device, stack or port, frame. -/
def physOf (l : Loc) (off : Nat) : Nat :=
  let t := match l.tier with
    | .hbm => 0
    | .cxl => 1
    | .remote => 2
  (((t * 2 ^ 16 + l.dev) * 16 + l.unit) * 2 ^ 24 + l.frame) * 2 ^ 21 + off

/-- Number of a page state, and of a tier (R229). -/
def pageStateNo : PageState → Nat
  | .unmapped => 0
  | .resident => 1
  | .moving => 2
  | .faulted => 3
def tierNo : TierName → Nat
  | .hbm => 0
  | .cxl => 1
  | .remote => 2

/-- The 8-byte page table entry (R229). -/
def pageWord (p : Page) : Nat :=
  fld 0 3 (pageStateNo p.state) + fld 3 1 (bit p.pin) + fld 4 2 (tierNo p.loc.tier)
    + fld 6 3 (if p.loc.tier = .cxl then 0 else p.loc.unit) + fld 9 1 (if p.loc.tier = .cxl then p.loc.unit else 0)
    + fld 10 24 p.loc.frame + fld 34 16 (if p.loc.tier = .remote then p.loc.dev else 0) + fld 50 4 p.heat

/-- The page table entry of a page; one that lies in no region reads UNMAPPED. -/
def State.pageEntry (s : State) (p : Nat) : Nat := ((s.page p).map pageWord).getD 0

/-- A page entry changed. -/
def State.updPage (s : State) (p : Nat) (f : Page → Page) : State :=
  match s.page p with
  | some e => s.updTier fun t => { t with pages := kvPut p (f e) t.pages }
  | none => s

/-- Whether an access to a page can complete now: its page is mapped, not FAULTED, and its port is up (R238, R240). -/
def State.pageReady (s : State) (p : Nat) : Bool :=
  match s.page p with
  | none => false
  | some e =>
    match e.state with
    | .unmapped => false
    | .faulted => false
    | _ => e.loc.tier != .cxl || (let k : CxlPort := kvGet {} e.loc.unit s.tier.cxl; k.up && k.ide)

/-- Bytes read from the range within one page; an unmapped page reads as nothing. -/
def State.rangeRead (s : State) (a n : Nat) : List Byte :=
  match s.page (pageOf a) with
  | some e => memRead s.tier.mem (physOf e.loc (offOf a)) n
  | none => []

/-- The migration slot that moves a page and has not flipped it. -/
def Tier.migOf (t : Tier) (p : Nat) : Option (Nat × Mig) :=
  t.migs.find? fun m => m.2.page == p && !m.2.flipped

/-- The 4 KiB sectors that a write touches (R233). -/
def sectorsOf (off n : Nat) : List Nat :=
  (List.range ((off + n - 1) / 4096 - off / 4096 + 1)).map (· + off / 4096)

/-- Sectors that the pass of a slot copies: every one in the first pass, then those that were dirty. -/
def Mig.sectors (m : Mig) : Nat := match m.work with
  | none => 512
  | some l => l.length

/-- Whether the pass has copied sector `x` already, so that a write to it makes it dirty. -/
def Mig.passed (m : Mig) (x : Nat) : Bool := match m.work with
  | none => x < m.pos
  | some l => !(l.drop m.pos).contains x

/-- The pass further on by a distance that the spec does not fix. -/
def Mig.advance (m : Mig) (free : Nat) : Mig := { m with pos := m.pos + free % (m.sectors - m.pos + 1) }

/-- Whether new writes to a page are held: its move is in the final round (R233). -/
def State.holdsWrites (s : State) (p : Nat) : Bool := match s.tier.migOf p with
  | some (_, m) => m.final
  | none => false

/-- A cycle in which a write is held, counted in the tier block (R233, R568). -/
def State.countMoving (s : State) : State := s.updTier fun t => { t with stall := stallCount 14 t.stall }

/-- Bytes written to the range within one page, at the place that the translation of the access named (R231). A write to the source of a
move makes the sectors dirty that the copy has passed (R233). -/
def State.rangeWrite (s : State) (a : Nat) (l : Loc) (b : List Byte) : State :=
  let t := s.updTier fun y => { y with mem := memWrite y.mem (physOf l (offOf a)) b }
  match s.tier.migOf (pageOf a) with
  | none => t
  | some (k, m) =>
    if m.final ∨ l ≠ m.source then t
    else
      let n := m.advance (Config.freeNat s.fresh)
      let dirty := ((sectorsOf (offOf a) b.length).filter n.passed).foldl (fun d x => insNat x d) n.dirty
      t.tick.updTier fun y => { y with migs := kvPut k { n with dirty := dirty } y.migs }

/-! ## Translation caches (R231, R235) -/

/-- The cache numbers of a core's Headrace, a Quern and a memory controller. -/
def xlatCore (c : CoreId) : Nat := c.val
def xlatQuern (q : QuernId) : Nat := 32 + q.val
def xlatStack (stack : Nat) : Nat := 44 + stack % 8

/-- One access of a unit translated: a miss fills the entry, the oldest of 1,024 makes room, and every 64th access of the cache adds to
the HEAT of its page. -/
def State.translate (s : State) (u p : Nat) : State :=
  let x : XlatCache := kvGet {} u s.tier.xlat
  let y : XlatCache := { pages := if x.pages.contains p then x.pages else (p :: x.pages).take 1024, count := (x.count + 1) % 64 }
  let t := s.updTier fun w => { w with xlat := kvPut u y w.xlat }
  if y.count = 0 then t.updPage p fun e => { e with heat := min 15 (e.heat + 1) } else t

/-- The entry of a page invalid in every translation cache. -/
def Tier.forget (t : Tier) (p : Nat) : Tier :=
  { t with xlat := kvMap (fun _ x => { x with pages := x.pages.filter (· != p) }) t.xlat }

/-! ## Accesses of other devices (R238, R242) -/

/-- An access of another device served, where its page answers now: none while it has to wait. -/
def State.serveAsk (s : State) (a : RemoteAsk) : Option State :=
  match s.page (pageOf a.addr) with
  | none => none
  | some e =>
    if s.pageReady (pageOf a.addr) = false then none
    else
      let t := s.translate (xlatStack e.loc.unit) (pageOf a.addr)
      match a.write with
      | none => some (t.emit [.rdRsp a.src a.tag (s.rangeRead a.addr a.len)])
      | some b =>
        if s.holdsWrites (pageOf a.addr) then none
        else some ((t.rangeWrite a.addr e.loc b).emit [.wrAck a.src a.tag])

/-- Waiting accesses of other devices served in order; one that has to wait holds those to its page behind it. -/
def State.serveList (s : State) : List RemoteAsk → List RemoteAsk → State
  | done, [] => s.updTier fun t => { t with asks := done }
  | done, a :: l =>
    if done.any fun x => pageOf x.addr == pageOf a.addr then State.serveList s (done ++ [a]) l
    else match s.serveAsk a with
      | some t => State.serveList t done l
      | none => State.serveList s (done ++ [a]) l
def State.serveAsks (s : State) : State := s.serveList [] s.tier.asks

/-! ## Frames and placement (R224, R230) -/

/-- Frames of a stack that regions may use: the top 256 MiB of s0 to s5 are the system area (R224). -/
def framesOf (stack : Nat) : Nat := if stack < 6 then 49024 else 49152

/-- The first number from `n` up, `fuel` steps far, that satisfies `p`. -/
def firstNat (p : Nat → Bool) : Nat → Nat → Option Nat
  | 0, _ => none
  | fuel + 1, n => if p n then some n else firstNat p fuel (n + 1)

/-- Whether a frame is open: neither used nor retired. -/
def Tier.frameOpen (t : Tier) (l : Loc) : Bool := !(t.used.contains l) && !(t.retired.contains l)

/-- The lowest open HBM frame of a stack. -/
def Tier.openHbm (t : Tier) (stack : Nat) : Option Loc :=
  (firstNat (fun f => t.frameOpen { tier := .hbm, unit := stack, frame := f }) (framesOf stack) 0).map
    fun f => { tier := .hbm, unit := stack, frame := f }

/-- The lowest open frame of a port of pooled memory; both windows together hold 8,388,608 frames (R244, R246). -/
def Tier.openCxl (t : Tier) (port : Nat) : Option Loc :=
  (firstNat (fun f => t.frameOpen { tier := .cxl, unit := port, frame := f }) 8388608 0).map
    fun f => { tier := .cxl, unit := port, frame := f }

/-- The stacks that a region's mask sets, ascending. -/
def stacksOf (r : Region) : List Nat := (List.range 8).filter fun i => r.stackMask / 2 ^ i % 2 == 1

/-- The port of page `i` of a region with CXL pages (R230). -/
def portOf (r : Region) (i : Nat) : Nat := if r.ports = 3 then i % 2 else if r.ports = 2 then 1 else 0

/-- Where page `i` of a region starts (R230); a REMOTE page takes the stack and frame that its home's map assigns, which this device
does not know (a free value). -/
def Tier.placeOf (t : Tier) (r : Region) (i : Nat) : Option Loc :=
  match r.policy with
  | 0 => t.openHbm ((stacksOf r).getD (i % max 1 (stacksOf r).length) 0)
  | 3 =>
    let n := Config.remotePlace r.dev (r.base + i)
    some { tier := .remote, unit := n % 8, frame := n / 8 % 49152, dev := r.dev }
  | _ => t.openCxl (portOf r i)

/-- Page `i` of a region placed, unless it has its place already. -/
def Tier.placePage (t : Tier) (r : Region) (i : Nat) : Tier :=
  match if kvHas (r.base + i) t.pages then none else t.placeOf r i with
  | none => t
  | some l => { t with pages := kvPut (r.base + i) { state := .resident, pin := r.pin, loc := l } t.pages,
                       used := if r.policy = 3 then t.used else l :: t.used }

/-- Pages `i` to `i + n − 1` of a region placed in ascending order. -/
def Tier.placeRegion (t : Tier) (r : Region) : Nat → Nat → Tier
  | 0, _ => t
  | n + 1, i => Tier.placeRegion (t.placePage r i) r n (i + 1)

/-- Every region placed (R230). -/
def Tier.placeAll (t : Tier) (rs : List Region) : Tier := rs.foldl (fun a r => Tier.placeRegion a r r.count 0) t

/-! ## Moves (R232 to R235) -/

/-- The cells of a memory from `lo` for `n` bytes, taken out or kept. -/
def cellsIn (lo n : Nat) (m : List Host.Cell) : List Host.Cell := m.filter fun c => lo ≤ c.1 && c.1 < lo + n
def cellsOut (lo n : Nat) (m : List Host.Cell) : List Host.Cell := m.filter fun c => !(lo ≤ c.1 && c.1 < lo + n)

/-- One frame's content copied to another. -/
def copyFrame (src dst : Loc) (m : List Host.Cell) : List Host.Cell :=
  (cellsIn (physOf src 0) (2 ^ 21) m).foldl
    (fun a c => cellWrite (c.1 - physOf src 0 + physOf dst 0) c.2 a) (cellsOut (physOf dst 0) (2 ^ 21) m)

/-- A migration slot that no move uses. -/
def Tier.freeSlot (t : Tier) : Option Nat := firstNat (fun k => !kvHas k t.migs) 8 0

/-- Whether a page belongs to a TIERED region and may move. -/
def State.movable (s : State) (p : Nat) (e : Page) : Bool :=
  match s.regionAt p with
  | some r => r.policy == 2 && !r.pin && e.state == .resident
  | none => false

/-- The page to promote (R235): the hottest CXL page at or above PROMOTE_HEAT, the lower page number on a tie. -/
def State.promotee (s : State) : Option (Nat × Page) :=
  (s.tier.pages.filter fun x => s.movable x.1 x.2 && x.2.loc.tier == .cxl && s.field "PROMOTE_HEAT" ≤ x.2.heat).foldl
    (fun best x => match best with
      | none => some x
      | some b => if b.2.heat < x.2.heat ∨ (b.2.heat = x.2.heat ∧ x.1 < b.1) then some x else some b) none

/-- The page to demote (R235): the coldest HBM page at or below DEMOTE_HEAT. -/
def State.demotee (s : State) : Option (Nat × Page) :=
  (s.tier.pages.filter fun x => s.movable x.1 x.2 && x.2.loc.tier == .hbm && x.2.heat ≤ s.field "DEMOTE_HEAT").foldl
    (fun best x => match best with
      | none => some x
      | some b => if x.2.heat < b.2.heat ∨ (b.2.heat = x.2.heat ∧ x.1 < b.1) then some x else some b) none

/-- An open HBM frame of the masked stacks of a region, lowest stack first. -/
def Tier.openIn (t : Tier) (r : Region) : Option Loc :=
  (stacksOf r).foldl (fun a k => match a with
    | some l => some l
    | none => t.openHbm k) none

/-- A move of a page to a location begun in a slot. -/
def State.beginMove (s : State) (k p : Nat) (e : Page) (l : Loc) : State :=
  (s.updPage p fun x => { x with state := .moving }).updTier fun t =>
    { t with migs := kvPut k { page := p, source := e.loc, target := l } t.migs, used := l :: t.used }

/-- One move of R235, if a slot is free and a page qualifies: promotion first; demotion when no frame is open. -/
def State.startMove (s : State) : Option State :=
  match s.tier.freeSlot, s.promotee with
  | some k, some (p, e) =>
    match s.regionAt p with
    | none => none
    | some r =>
      match s.tier.openIn r with
      | some l => some (s.beginMove k p e l)
      | none =>
        match s.demotee with
        | none => none
        | some (d, f) =>
          match s.regionAt d with
          | none => none
          | some q => (s.tier.openCxl (portOf q (d - q.base))).map fun l => s.beginMove k d f l
  | _, _ => none

/-- Moves started while slots and pages allow. -/
def State.startMoves : Nat → State → State
  | 0, s => s
  | n + 1, s => match s.startMove with
    | some t => State.startMoves n t
    | none => s

/-- PAGE_MOVE_START (R235). -/
def execPageMoveStart (s : State) : Out :=
  .next (if s.field "MIG_ENABLE" = 0 then s else s.startMoves 8)

/-- HEAT_DECAY (R235): every HEAT halved. -/
def execHeatDecay (s : State) : Out :=
  .next (s.updTier fun t => { t with pages := kvMap (fun _ e => { e with heat := e.heat / 2 }) t.pages })

/-- MIGRATION_PASS_END (R233): the final round with eight or fewer dirty sectors or after the third round, else another
round over the dirty sectors. -/
def execMigrationPassEnd (slot : Fin 8) (s : State) : Out :=
  .next (match kvFind slot.val s.tier.migs with
    | none => s
    | some m =>
      if m.final || m.flipped then s
      else
        let next : Mig := { m with work := some m.dirty, pos := 0, dirty := [] }
        let n : Mig := if m.dirty.length ≤ 8 ∨ 3 ≤ m.round then { next with final := true } else { next with round := m.round + 1 }
        s.updTier fun t => { t with migs := kvPut slot.val n t.migs })

/-- Whether a transfer accesses a page. -/
def Transfer.onPage (x : Transfer) (p : Nat) : Bool := match x.target with
  | .range a n => n != 0 && pageOf a == p
  | .ring _ _ _ => false

/-- Reads in flight on a page, as (core, ID). -/
def State.flights (s : State) (p : Nat) : List (Nat × Nat) :=
  s.cores.flatMap fun k => (k.2.feed.queue.filter fun x => x.departed && x.share != .write && x.kind != .write && x.onPage p).map
    fun x => (k.1, x.id)

/-- Departed writes to a page, released to another place (R233). -/
def Feed.redirect (f : Feed) (p : Nat) (l : Loc) : Feed :=
  let moved := fun x : Transfer => x.onPage p && x.departed && x.loc.isSome && (x.kind == .write || x.kind == .spill)
  { f with queue := f.queue.map fun x => if moved x = true then { x with loc := some l } else x }
def State.redirect (s : State) (p : Nat) (l : Loc) : State :=
  { s with cores := s.cores.map fun k => (k.1, { k.2 with feed := k.2.feed.redirect p l }) }

/-- PAGE_FLIP (R233): in the final round, the entry names the target, every translation cache forgets it, and held writes go to the
target. How long they were held is a free value. -/
def execPageFlip (slot : Fin 8) (s : State) : Out :=
  .next (match kvFind slot.val s.tier.migs with
    | none => s
    | some m =>
      if !m.final || m.flipped then s
      else
        let n := { m with flipped := true, dirty := [], work := some [], waits := s.flights m.page }
        let hold := Config.freeNat s.fresh % 2 ^ 16
        let t := (s.tick.updPage m.page fun e => { e with state := .resident, loc := m.target }).updTier fun t =>
          { t.forget m.page with
            mem := copyFrame m.source m.target t.mem, migs := kvPut slot.val n t.migs, moves := satAdd 0xFFFFFFFF t.moves 1
            heldMax := max t.heldMax hold }
        (t.redirect m.page m.target).serveAsks)

/-- SOURCE_FRAME_FREE (R233): once every access translated to the source has completed. -/
def execSourceFrameFree (slot : Fin 8) (s : State) : Out :=
  .next (match kvFind slot.val s.tier.migs with
    | none => s
    | some m =>
      if m.flipped && m.waits.all fun w => !(s.flights m.page).contains w then
        s.updTier fun t => { t with migs := kvDel slot.val t.migs, used := t.used.filter (· != m.source),
                                    mem := cellsOut (physOf m.source 0) (2 ^ 21) t.mem }
      else s)

/-! ## Faulted pages (R239 to R243) -/

/-- The UNIT of a location: its stack or its pooled-memory port (R561). -/
def locUnit (l : Loc) : Nat := match l.tier with
  | .cxl => unitNo 7 l.unit
  | _ => unitNo 5 l.unit

/-- The move of a page abandoned: the target frame is freed (R243). -/
def State.abandonMove (s : State) (k : Nat) (m : Mig) : State :=
  (s.updPage m.page fun e => if e.state = .moving then { e with state := .resident } else e).updTier fun t =>
    { t with migs := kvDel k t.migs, used := t.used.filter (· != m.target), abandons := satAdd 0xFFFF t.abandons 1 }

/-- The cells of a frame with their offsets, and offsets with bytes written over a frame. -/
def frameCells (l : Loc) (m : List Host.Cell) : List Host.Cell := (cellsIn (physOf l 0) (2 ^ 21) m).map fun c => (c.1 - physOf l 0, c.2)
def fillFrame (l : Loc) (cs : List Host.Cell) (m : List Host.Cell) : List Host.Cell :=
  (cs.filter fun c => c.1 < 2 ^ 21).foldl (fun a c => cellWrite (physOf l c.1) c.2 a) (cellsOut (physOf l 0) (2 ^ 21) m)

/-- Every unflipped move that satisfies `p` abandoned; a flipped move has no target to lose. -/
def State.abandonMoves (s : State) (p : Mig → Bool) : State :=
  (s.tier.migs.filter fun x => p x.2 && !x.2.flipped).foldl (fun a x => a.abandonMove x.1 x.2) s

/-- The pooled-memory port of a page. -/
def State.cxlPortOf (s : State) (p : Nat) : Option Nat := match s.page p with
  | some e => if e.loc.tier = .cxl then some e.loc.unit else none
  | none => none

/-- A late access in a late counter (R238): counted once when it crosses the threshold, its time beyond the threshold
added when it completes. -/
def lateCount (limit ns : Nat) (completed : Bool) (l : Late) : Late :=
  if ns ≤ limit then l
  else if completed then { l with sum := satAdd (2 ^ 40 - 1) l.sum (ns - limit) }
  else { l with late := satAdd 0xFFFFFF l.late 1 }

/-- ACCESS_LATE (R238): tier 0 HBM, 1 CXL, 2 REMOTE; others change nothing. -/
def execAccessLate (tier ns : Nat) (completed : Bool) (s : State) : Out :=
  .next (s.updTier fun t => match tier with
    | 0 => { t with lateHbm := lateCount (s.field "LATE_HBM_NS") ns completed t.lateHbm }
    | 1 => { t with lateCxl := lateCount (s.field "LATE_CXL_NS") ns completed t.lateCxl }
    | 2 => { t with lateRemote := lateCount (s.field "LATE_REMOTE_NS") ns completed t.lateRemote }
    | _ => t)

end Sys2Proof.Machine
end

