-- ==== Sys2Proof/Machine/Desc.lean ====
section
/-! DEFINITION. The command descriptor: its fields, and the checks of a stream front end at decode (R170 to R173, R179). -/

namespace Sys2Proof.Machine

/-! ## Fields (R170 to R172) -/

/-- The opcode of a number (R172). -/
def opOf : Nat → Option Op
  | 0x00 => some .nop
  | 0x01 => some .signal
  | 0x02 => some .wait
  | 0x03 => some .fwdEnd
  | 0x04 => some .bwdEnd
  | 0x10 => some .mm
  | 0x20 => some .vec
  | 0x21 => some .vred
  | 0x30 => some .lookup
  | 0x31 => some .pool
  | 0x32 => some .gradSend
  | 0x40 => some .stashWr
  | 0x41 => some .stashRd
  | 0x42 => some .stashFree
  | 0x50 => some .fetch
  | 0x51 => some .write
  | 0x52 => some .prefetch
  | 0x53 => some .cancel
  | 0x60 => some .loadScales
  | 0x61 => some .loadCsum
  | 0x62 => some .invalidate
  | 0x63 => some .prestage
  | _ => none

/-- The number of an opcode. -/
def opNo : Op → Nat
  | .nop => 0x00
  | .signal => 0x01
  | .wait => 0x02
  | .fwdEnd => 0x03
  | .bwdEnd => 0x04
  | .mm => 0x10
  | .vec => 0x20
  | .vred => 0x21
  | .lookup => 0x30
  | .pool => 0x31
  | .gradSend => 0x32
  | .stashWr => 0x40
  | .stashRd => 0x41
  | .stashFree => 0x42
  | .fetch => 0x50
  | .write => 0x51
  | .prefetch => 0x52
  | .cancel => 0x53
  | .loadScales => 0x60
  | .loadCsum => 0x61
  | .invalidate => 0x62
  | .prestage => 0x63

/-- Whether the table of R172 lists an opcode on a stream. -/
def opOnStream (o : Op) (st : Stream) : Bool :=
  match o with
  | .fwdEnd => st == .f
  | .bwdEnd => st == .b
  | .mm => st != .u
  | .vec => st != .u
  | .vred => st != .u
  | .lookup => st == .f
  | .pool => st == .f
  | .gradSend => st == .b
  | .stashWr => st == .f
  | .stashRd => st == .b
  | .stashFree => st == .b
  | .loadScales => st == .u
  | .loadCsum => st == .u
  | .invalidate => st == .u
  | .prestage => st == .u
  | _ => true

/-- Number of a stream (R170). -/
def streamNo : Stream → Nat
  | .f => 0
  | .b => 1
  | .u => 2

/-- The stream of a number. -/
def streamOf : Nat → Option Stream
  | 0 => some .f
  | 1 => some .b
  | 2 => some .u
  | _ => none

/-- The space of a number (R171). -/
def spaceOf : Nat → Option Space
  | 0 => some .none
  | 1 => some .range
  | 2 => some .loc
  | 3 => some .ring
  | 4 => some .stash
  | 5 => some .stage
  | _ => none
/-- An operand from its address, space, format and rounding bit; none when a value is reserved. -/
def operandOf (addr space fmt rnd : Nat) : Option Operand :=
  match spaceOf space, fmtOf fmt with
  | some sp, some f => some { addr := addr, space := sp, fmt := f, rne := rnd == 1 }
  | _, _ => none

/-- The orientation of a number; 3 means no matrix stage. -/
def orientOf : Nat → Option Orient
  | 0 => some .rr
  | 1 => some .cr
  | 2 => some .os
  | _ => none

/-- Whether every reserved bit of a descriptor is 0. -/
def descReservedZero (v : Nat) : Bool :=
  bits v 23 23 == 0 && bits v 63 62 == 0 && bits v 255 255 == 0 && bits v 319 319 == 0 && bits v 383 380 == 0
    && bits v 399 397 == 0 && bits v 415 413 == 0 && bits v 431 429 == 0 && bits v 511 504 == 0

/-- The opcodes of the stages after the first. -/
def chainOf (v : Nat) : List (Option Op) := [opOf (bits v 455 448), opOf (bits v 463 456), opOf (bits v 471 464)].take (bits v 21 20)

/-- A list of values that are all there. -/
def allSome {α : Type} : List (Option α) → Option (List α)
  | [] => some []
  | none :: _ => none
  | some x :: l => (allSome l).map (x :: ·)

/-- The descriptor that 512 bits hold (R170); none when a field holds a reserved value or a reserved bit is 1. -/
def decodeDesc (w : BitVec 512) : Option Desc :=
  let v := w.toNat
  match opOf (bits v 7 0), streamOf (bits v 9 8), allSome (chainOf v),
      operandOf (bits v 119 64) (bits v 122 120) (bits v 126 123) (bits v 127 127),
      operandOf (bits v 183 128) (bits v 186 184) (bits v 190 187) (bits v 191 191),
      operandOf (bits v 247 192) (bits v 250 248) (bits v 254 251) 0,
      operandOf (bits v 311 256) (bits v 314 312) (bits v 318 315) 0 with
  | some op, some st, some ch, some a, some b, some acc, some out =>
    if bits v 17 16 = 3 ∨ descReservedZero v = false then none
    else some {
      op := op, stream := st, defer := bits v 10 10 == 1,
      mb := if bits v 14 14 = 1 then some (bits v 13 11) else none,
      nOuter := bits v 15 15 == 1, engSel := bits v 17 16, orient := orientOf (bits v 19 18), chain := ch,
      pairOk := bits v 22 22 == 1,
      waitOn := if bits v 48 48 = 1 then some (bits v 27 24, bits v 47 32) else none,
      signalOn := if bits v 49 49 = 1 then some (bits v 31 28) else none,
      signalCtr := bits v 31 28, waitCtr := bits v 27 24, waitValue := bits v 47 32,
      tensor := bits v 61 50, a := a, b := b, acc := acc, out := out,
      dimK := bits v 335 320 + 1, dimN := bits v 351 336 + 1, dimR := bits v 367 352 + 1, passR := bits v 379 368 + 1,
      scaleA := bits v 396 384, scaleB := bits v 412 400, scaleOut := bits v 428 416,
      stashId := bits v 447 432, vprogA := bits v 487 472, vprogB := bits v 503 488 }
  | _, _, _, _, _, _, _ => none

/-! ## Checks at decode (R173) -/

/-- All stages of a command. -/
def Desc.stages (d : Desc) : List Op := d.op :: d.chain

/-- Whether a command has a matrix stage. -/
def Desc.hasMM (d : Desc) : Bool := d.stages.contains .mm

/-- Whether a stage may follow another (R179); `mmBefore` says that an MM stage precedes. -/
def succOk (orient : Option Orient) (mmBefore : Bool) : Op → Op → Bool
  | .lookup, .pool => true
  | .pool, .mm => orient == some .rr
  | .pool, .vec => true
  | .pool, .stashWr => true
  | .stashRd, .vec => true
  | .stashRd, .mm => orient == some .rr || orient == some .cr
  | .mm, .vec => orient != some .os
  | .mm, .stashWr => orient != some .os
  | .vec, .mm => (orient == some .rr || orient == some .cr) && !mmBefore
  | .vec, .vec => true
  | .vec, .stashWr => true
  | _, _ => false

/-- Every succession of a chain is allowed. -/
def chainSuccOk (orient : Option Orient) : Bool → Op → List Op → Bool
  | _, _, [] => true
  | mm, a, b :: l => succOk orient (mm || a == .mm) a b && chainSuccOk orient (mm || a == .mm) b l

/-- A chain keeps R179: allowed successions, at most one MM and two VEC stages. -/
def Desc.chainOk (d : Desc) : Bool :=
  chainSuccOk d.orient false d.op d.chain && (d.stages.filter (· == .mm)).length ≤ 1
    && (d.stages.filter (· == .vec)).length ≤ 2

/-- Whether a format packs 8-bit or 4-bit operands: values per cell of a pass (R128). -/
def fmtWidth (f : NumFmt) : Nat := min 16 (fmtBits f)
def packing (a b : NumFmt) : Nat :=
  let w := max (fmtWidth a) (fmtWidth b)
  if w = 8 then 2 else if w = 4 then 4 else 1

/-- A multiplier format (R60). -/
def isMult : NumFmt → Bool
  | .int32 => false
  | .fx48 => false
  | _ => true

/-- Conditions on a matrix stage that raise DESC_INVALID: an orientation, multiplier formats, an accumulate-in of FP32
or INT32 and none in OS (R113, R170, R173). -/
def Desc.mmBad (d : Desc) : Bool :=
  match d.orient with
  | none => true
  | some o =>
    !(isMult d.a.fmt) || !(isMult d.b.fmt)
      || (d.acc.space != .none && (o == .os || !(d.acc.fmt == .fp32 || d.acc.fmt == .int32)))
      || (o == .os && d.passR < d.dimR && d.passR % (8 * packing d.a.fmt d.b.fmt) != 0)

/-- Conditions on row commands (R258, R283): a table of the job with D = DIM_N + 1; GRAD_SEND only in FP32 or FX48 and
only for a table that learns. -/
def State.rowBad (s : State) (d : Desc) : Bool :=
  let rowCmd := d.stages.any fun o => o == .lookup || o == .pool || o == .gradSend
  rowCmd && ((s.fieldL "TBL_ROWS" d.tensor == []) || s.field "TBL_DIM" d.tensor != d.dimN
    || (d.op == .gradSend && (!(d.out.fmt == .fp32 || d.out.fmt == .fx48) || s.field "TBL_LEARN" d.tensor == 0)))

/-- Whether FX48 stands where only GRAD_SEND may name it (R171). -/
def Desc.fxBad (d : Desc) : Bool :=
  d.a.fmt == .fx48 || d.b.fmt == .fx48 || d.acc.fmt == .fx48 || (d.out.fmt == .fx48 && d.op != .gradSend)

/-- Commands that may belong to no micro-batch (R168): U-stream commands and control commands, the opcode family of bits [7:4] = 0. -/
def mbOptional (d : Desc) : Bool := d.stream == .u || decide (opNo d.op < 0x10)

/-- DESC_INVALID of a descriptor that decoded, on a front end's stream (R173). -/
def State.descInvalid (s : State) (st : Stream) (d : Desc) : Bool :=
  d.stream != st || !(d.stages.all (opOnStream · st))
    || (d.defer && !(d.op == .mm && d.orient == some .os && st == .b))
    || (d.hasMM && d.mmBad) || !d.chainOk || d.fxBad || s.rowBad d
    || (match d.mb with
        | some m => s.mbs ≤ m
        | none => !mbOptional d)
    || (d.op == .cancel && d.a.space != .none)

/-- The scale record of an ID in the set of a version. -/
def State.scaleRec (s : State) (v id : Nat) : Option ScaleRec :=
  match kvFind v s.weir.scaleSets with
  | some x => x.recs[id]?
  | none => none

/-- The narrow format that a descriptor format names, if it is scaled. -/
def scaledFmt : NumFmt → Option ScaleFmt
  | .e4m3 => some .e4m3
  | .e5m2 => some .e5m2
  | .e2m1 => some .e2m1
  | .int8 => some .i8
  | .int4 => some .i4
  | _ => none

/-- Whether a narrow operand disagrees with its scale record (R173). -/
def State.fmtDiffers (s : State) (v : Nat) (f : NumFmt) (id : Nat) : Bool :=
  match scaledFmt f with
  | none => false
  | some x => match s.scaleRec v id with
    | some r => r.fmt != x
    | none => true

/-- Zero point of a record. -/
def State.zpOf (s : State) (v : Nat) (f : NumFmt) (id : Nat) : Int :=
  match scaledFmt f, s.scaleRec v id with
  | some _, some r => r.zp
  | _, _ => 0

/-- Whether a record has an integer scale. -/
def State.intRec (s : State) (v id : Nat) : Bool := match s.scaleRec v id with
  | some r => scaleInt r.fmt
  | none => false

/-- Whether a record is a weight record. -/
def State.weightRec' (s : State) (v id : Nat) : Bool := match s.scaleRec v id with
  | some r => r.kind == .weight
  | none => false

/-- The product formats of reduced service (R527). -/
def reducedFmt (f : NumFmt) : Bool := f == .fp32 || f == .m19 || f == .bf16

/-- FORMAT_MISMATCH of a descriptor under the scale set of version `v` (R61, R92, R97, R173); in reduced service of another product format
than FP32, M19 or BF16 (R527). -/
def State.descMismatch (s : State) (v : Nat) (d : Desc) : Bool :=
  (d.hasMM && (intFmt d.a.fmt != intFmt d.b.fmt
    || s.zpOf v d.b.fmt d.scaleB != 0
    || (s.zpOf v d.a.fmt d.scaleA != 0 && !(d.orient == some .rr && intFmt d.b.fmt && s.weightRec' v d.scaleB))
    || (d.out.fmt == .int32 && !(s.intRec v d.scaleA && s.intRec v d.scaleB && s.intRec v d.scaleOut))))
  || (d.hasMM && s.pow.phase == 3 && !(reducedFmt d.a.fmt && reducedFmt d.b.fmt))
  || ((d.hasMM || d.a.space != .none) && s.fmtDiffers v d.a.fmt d.scaleA)
  || ((d.hasMM || d.b.space != .none) && s.fmtDiffers v d.b.fmt d.scaleB)
  || (d.out.space != .none && s.fmtDiffers v d.out.fmt d.scaleOut)

end Sys2Proof.Machine
end

