-- ==== Sys2Proof/Machine/CoreOps.lean ====
section
/-! DEFINITION. Operations of a core that its commands share: fronts, slots, the local buffer's regions, fetched operands,
output, hand-over slots, transfers and the Millpond (R160 to R208). -/

namespace Sys2Proof.Machine

/-! ## Fronts and commands -/

/-- The front end of a stream. -/
def Core.front (k : Core) : Stream → Front
  | .f => k.f
  | .b => k.b
  | .u => k.u

/-- The front end of a stream changed. -/
def Core.updFront (k : Core) (st : Stream) (g : Front → Front) : Core :=
  match st with
  | .f => { k with f := g k.f }
  | .b => { k with b := g k.b }
  | .u => { k with u := g k.u }

/-- Whether GOV_STREAM_CTL holds a stream. -/
def Core.held (k : Core) : Stream → Bool
  | .f => k.fHold
  | .b => k.bHold
  | .u => k.uHold

/-- Element `i` of a list of counts, 0 beyond its end; and the list with it one higher. -/
def nthCount (l : List Nat) (i : Nat) : Nat := l.getD i 0
def bumpCount (l : List Nat) (i : Nat) : List Nat :=
  ((l ++ List.replicate (i + 1 - l.length) 0).set i (nthCount l i + 1))

/-- Rows divided into units of PASS_R + 1. -/
def Desc.rowUnits (d : Desc) : Nat := (d.dimR + d.passR - 1) / d.passR

/-- Whether a command works on rows in hand-over units (R174, R180). -/
def rowOp : Op → Bool
  | .mm => true
  | .vec => true
  | .vred => true
  | .lookup => true
  | .pool => true
  | .gradSend => true
  | .stashWr => true
  | .stashRd => true
  | _ => false

/-! ## Tiles and passes of a matrix stage (R114, R123, R128, R130, R170) -/

/-- The number of the matrix stage in a command's chain. -/
def Desc.mmStage (d : Desc) : Nat := d.stages.findIdx (· == .mm)

/-- Values of the dot-product index in a cell (R128). -/
def Desc.pack (d : Desc) : Nat := packing d.a.fmt d.b.fmt

/-- Extents of k and of n that one tile covers (R128). -/
def Desc.tileK (d : Desc) : Nat := if d.orient = some .rr then 128 * d.pack else 128
def Desc.tileN (d : Desc) : Nat := if d.orient = some .cr then 128 * d.pack else 128

/-- The first indices of blocks of width `w` below `n`. -/
def blockStarts (n w : Nat) : List Nat := (List.range ((n + w - 1) / w)).map (· * w)

/-- The tiles of a command as (k0, n0), in the order that ORDER fixes (R122, R170). -/
def Desc.grid (d : Desc) : List (Nat × Nat) :=
  let ks := blockStarts d.dimK d.tileK
  let ns := blockStarts d.dimN d.tileN
  if d.nOuter then ns.flatMap fun n => ks.map fun k => (k, n) else ks.flatMap fun k => ns.map fun n => (k, n)

/-- Extents of a tile. -/
def Desc.knOf (d : Desc) (t : Nat × Nat) : Nat := min d.tileK (d.dimK - t.1)
def Desc.nnOf (d : Desc) (t : Nat × Nat) : Nat := min d.tileN (d.dimN - t.2)

/-- The tile whose results a tile takes as its accumulate-in (R122): the one before along the dot-product index. -/
def Desc.depOf (d : Desc) (t : Nat × Nat) : Option (Nat × Nat) :=
  match d.orient with
  | some .rr => if t.1 = 0 then none else some (t.1 - d.tileK, t.2)
  | some .cr => if t.2 = 0 then none else some (t.1, t.2 - d.tileN)
  | _ => none

/-- Whether a tile is the last along the dot-product index, so that its results are the command's. -/
def Desc.lastTile (d : Desc) (t : Nat × Nat) : Bool :=
  match d.orient with
  | some .rr => d.dimK ≤ t.1 + d.tileK
  | some .cr => d.dimN ≤ t.2 + d.tileN
  | _ => true

/-- Whether a tile fits half of the array, so that it may pair (R130). -/
def Desc.halfTile (d : Desc) (t : Nat × Nat) : Bool :=
  d.pairOk && (match d.orient with
    | some .rr => d.knOf t ≤ 64 * d.pack && d.nnOf t ≤ 128
    | some .cr => d.nnOf t ≤ 64 * d.pack && d.knOf t ≤ 128
    | _ => false)

/-- Consecutive half tiles paired where neither takes the other's results (R130). -/
def Desc.pairUp (d : Desc) : List (Nat × Nat) → List ((Nat × Nat) × Option (Nat × Nat))
  | [] => []
  | [x] => [(x, none)]
  | x :: y :: l =>
    if d.halfTile x && d.halfTile y && d.depOf y != some x && d.depOf x != some y then (x, some y) :: Desc.pairUp d l
    else (x, none) :: Desc.pairUp d (y :: l)

/-- The passes of one row unit, in order. -/
def Desc.unitPasses (d : Desc) : List ((Nat × Nat) × Option (Nat × Nat)) := d.pairUp d.grid

/-- Samples of one pass of a series, and its passes (R123, R128). -/
def Desc.passSamples (d : Desc) : Nat := d.passR * d.pack
def Desc.seriesLen (d : Desc) : Nat := (d.dimR + d.passSamples - 1) / d.passSamples

/-- Whether a command forms weight gradients (R112). -/
def Desc.isOs (d : Desc) : Bool := d.orient == some .os

/-- Passes that belong to one unit: those of a row unit, or those of a series. -/
def Desc.perUnit (d : Desc) : Nat := if d.isOs then d.seriesLen else d.unitPasses.length

/-- Units of a command. -/
def Desc.unitCount (d : Desc) : Nat :=
  if d.hasMM && d.isOs then d.grid.length else if rowOp d.op then d.rowUnits else 1

/-- Passes of the matrix stage of a command. -/
def Desc.passTotal (d : Desc) : Nat := if d.hasMM then d.unitCount * d.perUnit else 0

/-- Rows of unit `u`. -/
def Desc.rowsIn (d : Desc) (u : Nat) : Nat := min d.passR (d.dimR - u * d.passR)

/-- The running command of a stream that satisfies `p`, oldest first. -/
def Core.running (k : Core) (st : Stream) (p : Cmd → Bool) : Option Cmd := (k.front st).running.find? p

/-- A running command, named by step and index, changed. -/
def Core.updCmd (k : Core) (st : Stream) (step index : Nat) (g : Cmd → Cmd) : Core :=
  k.updFront st fun f => { f with
    running := f.running.map fun c => if c.step = step ∧ c.index = index then g c else c }

/-- The oldest running command whose stage 0 is `o` and has a unit not yet started. -/
def Core.todo (k : Core) (st : Stream) (o : Op) : Option Cmd :=
  k.running st fun c => c.desc.op == o && !c.bad && nthCount c.taken 0 < c.units

/-- A running command stopped by a step-fatal fault in unit `u`: no later unit of it runs (R173, R181). -/
def Core.stopCmd (k : Core) (st : Stream) (step index u : Nat) : Core :=
  k.updCmd st step index fun x => { x with bad := true, failed := some (x.failed.getD u) }

/-- A command anywhere in its stream changed: running, waiting or deferred. -/
def Core.updAny (k : Core) (st : Stream) (step index : Nat) (g : Cmd → Cmd) : Core :=
  let h := fun c : Cmd => if c.step = step ∧ c.index = index ∧ c.desc.stream = st then g c else c
  let m := k.updFront st fun f => { f with queue := f.queue.map h, running := f.running.map h }
  { m with deferred := m.deferred.map h }

/-- A unit of stage 0 started; a unit of a stage committed (which clears the no-progress count, R183). -/
def Core.takeUnit (k : Core) (st : Stream) (c : Cmd) (stage : Nat) : Core :=
  k.updCmd st c.step c.index fun x => { x with
    taken := bumpCount x.taken stage, issued := if stage = 0 ∨ stage = x.desc.mmStage then x.issued + 1 else x.issued }
def Core.commitUnit (k : Core) (st : Stream) (c : Cmd) (stage : Nat) : Core :=
  { k.updCmd st c.step c.index fun x => { x with done := bumpCount x.done stage } with blocked := 0 }

/-- The last stage of a command. -/
def Desc.lastStage (d : Desc) : Nat := d.chain.length

/-- Whether every unit of a command has committed. -/
def Cmd.complete (c : Cmd) : Bool := c.units ≤ nthCount c.done c.desc.lastStage

/-- The slot that holds a micro-batch (R168). -/
def State.slotOf (s : State) (step mb : Nat) : Option Nat :=
  (s.ctl.slots.find? fun x => x.2.step == step && x.2.mb == mb).map Prod.fst

/-- The slot's content. -/
def State.slot (s : State) (k : Nat) : Option Slot := kvFind k s.ctl.slots

/-- The version that a command of a step reads (R19, R24); a U command of the instance of step `v` prepares version `v`
(R30). -/
def State.cmdVersion (s : State) (c : Cmd) : Nat := if c.desc.stream = .u then c.step else s.reads c.step

/-! ## Sync counters (R178) -/

/-- A signal: the counter of the command's step rises by 1 and stops at 0xFFFF. -/
def Core.signal (k : Core) (step ctr : Nat) : Core := { k with sync := kvMod 0 (step, ctr) (satAdd 0xFFFF · 1) k.sync }

/-- Whether a wait is met. -/
def Core.waitMet (k : Core) (step ctr value : Nat) : Bool := value ≤ kvGet 0 (step, ctr) k.sync

/-! ## The local buffer (R161 to R166) -/

/-- Size in blocks of a stream's region, and of its reserve. -/
def State.regionSize (s : State) (c : CoreId) : Stream → Nat
  | .f => s.field "LB_F_BLOCKS" c.val
  | .b => s.field "LB_B_BLOCKS" c.val
  | .u => s.field "LB_U_BLOCKS" c.val
def State.reserveSize (s : State) (c : CoreId) : Stream → Nat
  | .f => s.field "LB_RET_F" c.val
  | .b => s.field "LB_RET_B" c.val
  | .u => s.field "LB_RET_U" c.val

/-- First block of a stream's region: the regions follow the 16 blocks of slice staging in the order F, B, U (R162). -/
def State.regionBase (s : State) (c : CoreId) : Stream → Nat
  | .f => 16
  | .b => 16 + s.regionSize c .f
  | .u => 16 + s.regionSize c .f + s.regionSize c .b

/-- First block and size of the Millpond, and of the shared pool (R162). -/
def State.millBase (s : State) (c : CoreId) : Nat := s.regionBase c .u + s.regionSize c .u
def State.millSize (s : State) (c : CoreId) : Nat := s.field "MP_BLOCKS" c.val
def State.poolBase (s : State) (c : CoreId) : Nat := s.millBase c + s.millSize c
def State.poolSize (s : State) (c : CoreId) : Nat := 512 - s.poolBase c

/-- Owner of the blocks of a stream's region. -/
def ownerOf : Stream → Owner
  | .f => .f
  | .b => .b
  | .u => .u

/-- Blocks from `base` for `n` that are free, ascending. -/
def LocalBuf.freeIn (l : LocalBuf) (base n : Nat) : List Nat :=
  ((List.range n).map (· + base)).filter fun b => (kvGet {} b l.blocks).owner == .free

/-- Blocks that hold `n` bytes. -/
def blocksFor (n : Nat) : Nat := (n + 16383) / 16384

/-- Blocks of a list given one content. -/
def LocalBuf.mark (l : LocalBuf) (bs : List Nat) (x : Block) : LocalBuf :=
  { l with blocks := bs.foldl (fun m b => kvPut b x m) l.blocks }

/-- Blocks, by number and content, that satisfy `p` freed; every one counts as freed (R183). -/
def LocalBuf.freeIf (l : LocalBuf) (p : Nat × Block → Bool) : LocalBuf :=
  { l with blocks := l.blocks.filter fun x => !p x, freed := l.freed + (l.blocks.filter p).length }

/-- Blocks that satisfy `p` freed. -/
def LocalBuf.freeWhere (l : LocalBuf) (p : Block → Bool) : LocalBuf := l.freeIf fun x => p x.2

/-- The blocks of a list freed. -/
def LocalBuf.freeBlocks (l : LocalBuf) (bs : List Nat) : LocalBuf := l.freeIf fun x => bs.contains x.1

/-- The free blocks of a stream's region, ascending: fetched operands take the lowest. -/
def State.freeLow (s : State) (c : CoreId) (st : Stream) : List Nat := (s.core c).lb.freeIn (s.regionBase c st) (s.regionSize c st)

/-- The free blocks in the order in which staging and outputs take them: those above the reserve first, since the reserve is the low
part of the region (R164). -/
def State.freeHigh (s : State) (c : CoreId) (st : Stream) : List Nat :=
  let top := s.regionBase c st + s.reserveSize c st
  (s.freeLow c st).filter (top ≤ ·) ++ (s.freeLow c st).filter (· < top)

/-- `n` blocks for an output of a stream: those that staged it (R163), then free ones. -/
def State.claim (s : State) (c : CoreId) (st : Stream) (keep : List Nat) (n : Nat) : List Nat :=
  keep.take n ++ (s.freeHigh c st).take (n - keep.length)

/-- `n` blocks of a stream's region taken for a content, or none when the region has too few (R166, R182). -/
def State.takeBlocks (s : State) (c : CoreId) (st : Stream) (n : Nat) (x : Block) : Option State :=
  if (s.freeLow c st).length < n then none
  else some (s.updCore c fun k => { k with lb := k.lb.mark ((s.freeHigh c st).take n) { x with owner := ownerOf st, stream := st } })

/-- The passes of an engine that have issued and not committed. -/
def Engine.passes (e : Engine) : List Pass :=
  e.assigned ++ e.inArray.map (·.pass) ++ e.ended.map (·.pass) ++ e.replay ++ e.seriesPasses

/-- The passes of a core that have issued and not committed. -/
def Core.openPasses (k : Core) : List Pass := k.eng.flatMap fun e => e.2.passes

/-- Pinned blocks of a stream: those that hold a tile, a streamed row or an accumulate-in of an uncommitted pass (R164). -/
def Core.pins (k : Core) (st : Stream) : List Nat :=
  (k.openPasses.filter (·.stream == st)).foldl (fun l p => p.pins.foldl (fun a b => insNat b a) l) []

/-- Bytes of the local buffer. -/
def State.lbRead (s : State) (c : CoreId) (a n : Nat) : List Byte := memRead (s.core c).lb.mem (a % 2 ^ 23) n

/-- Local-buffer blocks of `n` bytes from an offset. -/
def blocksAt (a n : Nat) : List Nat :=
  if n = 0 then [] else (List.range ((a % 2 ^ 23 + n - 1) / 16384 - a % 2 ^ 23 / 16384 + 1)).map (· + a % 2 ^ 23 / 16384)

/-- Bytes written into the local buffer; their blocks hold data that exists nowhere else (R165), and copies of lower tiers that a FETCH
had placed there are gone. -/
def State.lbWrite (s : State) (c : CoreId) (st : Stream) (a : Nat) (b : List Byte) : State :=
  let bs := blocksAt a b.length
  s.updCore c fun k => { k with lb :=
    { k.lb.mark bs { owner := ownerOf st, content := .dirty, stream := st } with
      mem := memWrite k.lb.mem (a % 2 ^ 23) b
      held := k.lb.held.filter fun h => !(h.loc.isSome && h.blocks.any bs.contains) } }

/-! ## Transfers (R194 to R205) -/

/-- The share that a range address uses: pooled memory and remote HBM the remote share (R195). -/
def State.shareOf (s : State) (a : Nat) (write : Bool) : Share :=
  match s.page (pageOf a) with
  | some e => if e.loc.tier = .hbm then (if write then .write else .read) else .remote
  | none => if write then .write else .read

/-- Waiting transfers of a stream's Sluice queue, which holds 64 (R198). -/
def Feed.waiting (f : Feed) (st : Stream) : Nat := (f.queue.filter fun x => x.stream == st && !x.departed).length

/-- A transfer queued on a core. -/
def State.pushXfer (s : State) (c : CoreId) (x : Transfer) : State :=
  s.updCore c fun k => { k with feed := { k.feed with
    nextXfer := k.feed.nextXfer + 1, queue := k.feed.queue ++ [{ x with id := k.feed.nextXfer, newest := k.feed.nextXfer }] } }

/-- Whether two ranges overlap. -/
def rangesMeet (a n b m : Nat) : Bool := decide (a < b + m) && decide (b < a + n)

/-- Whether a transfer names bytes of a range. -/
def Transfer.meets (x : Transfer) (a n : Nat) : Bool := match x.target with
  | .range b m => rangesMeet a n b m
  | .ring _ _ _ => false

/-- Whether a queued transfer and a new one merge (R201): reads of one sort, or writes, of one stream and share. -/
def mergeable (x y : Transfer) : Bool :=
  let kindOk := (x.kind == .demand && y.kind == .demand) || (x.kind == .write && y.kind == .write)
    || ((x.kind == .prefetch || x.kind == .hint) && (y.kind == .prefetch || y.kind == .hint))
  match x.target, y.target with
  | .range a n, .range b m =>
    kindOk && x.stream == y.stream && x.share == y.share && !x.departed && !y.departed && !x.repair && !y.repair && x.sent == 0
      && a + n == b && 64 ≤ n && 64 ≤ m && n + m ≤ 4096 && pageOf a == pageOf (b + m - 1)
      && (x.kind != .write || (x.step == y.step && x.index == y.index))
  | _, _ => false

/-- Whether a write may join the older transfer `y` of a queue: no write between them names its bytes, so that writes to one address stay
in order (R205). -/
def Feed.orderOk (f : Feed) (x y : Transfer) : Bool :=
  x.kind != .write || (match x.target with
    | .range b m => !(f.queue.any fun z => y.id < z.id && z.kind == .write && z.meets b m)
    | .ring _ _ _ => true)

/-- A transfer queued, merged into an earlier one of the queue where R201 allows it. -/
def State.queueXfer (s : State) (c : CoreId) (x : Transfer) : State :=
  match (s.core c).feed.queue.find? fun y => mergeable y x && (s.core c).feed.orderOk x y with
  | none => s.pushXfer c x
  | some y =>
    let t := match y.target with
      | .range a n => XTarget.range a (n + x.bytes)
      | t => t
    let z := { y with
                    target := t, bytes := y.bytes + x.bytes, tags := y.tags ++ x.tags, data := y.data ++ x.data
                    holds := x.holds.foldl (fun l h => addNew h l) y.holds, blocks := y.blocks ++ x.blocks
                    newest := (s.core c).feed.nextXfer }
    s.updCore c fun k => { k with feed := { k.feed with
      nextXfer := k.feed.nextXfer + 1
      queue := k.feed.queue.map (fun w => if w.id = y.id then z else w), pfMerged := satAdd 0xFFFF k.feed.pfMerged 1 } }

/-- Pieces of a range access that do not cross a page boundary (R201, R231). `fuel` bounds their number. -/
def pagePieces : Nat → Nat → Nat → List (Nat × Nat)
  | 0, _, _ => []
  | fuel + 1, a, n =>
    if n = 0 then []
    else
      let m := min n (2 ^ 21 - offOf a)
      (a, m) :: pagePieces fuel (a + m) (n - m)

/-- The pieces of `n` bytes. -/
def piecesOf (a n : Nat) : List (Nat × Nat) := pagePieces (n / 2 ^ 21 + 2) a n

/-- A transfer of a command. -/
def cmdXfer (cmd : Cmd) (kind : XKind) (cls : Nat) (share : Share) (target : XTarget) (bytes unit : Nat)
    (data : List Byte) : Transfer :=
  { id := 0, kind := kind, stream := cmd.desc.stream, cls := cls, share := share, target := target, bytes := bytes,
    step := cmd.step, index := cmd.index, unit := unit, data := data }

/-! ## Faults of a command (R173, R181) -/

/-- DETAIL of a fault against a command (R560). -/
def Cmd.detail (cmd : Cmd) (c : CoreId) : Nat :=
  detailCmd cmd.index (streamNo cmd.desc.stream) (cmd.desc.mb.getD 0) c.val

/-- A step-fatal fault of unit `u` of a command: it is stopped (R181). -/
def State.stopAt (s : State) (c : CoreId) (cmd : Cmd) (u code detail : Nat) : State :=
  (s.raise .stepFatal code (unitNo 1 c.val) cmd.step detail).updCore c fun k =>
    k.updAny cmd.desc.stream cmd.step cmd.index fun x => { x with bad := true, failed := some (x.failed.getD u) }

/-- The first access fault of pieces of the range (R228): its code and address. -/
def State.pieceFault (s : State) (write : Bool) (l : List (Nat × Nat)) : Option (Nat × Nat) :=
  (l.flatMap fun p => piecesOf p.1 p.2).findSome? fun q => (s.accessFault q.1 write).map fun k => (k, q.1)

/-! ## Fetched operands (R163, R166, R196) -/

/-- Bytes of a place. -/
def Span.bytes (p : Span) (ringBytes : Nat) : Nat := if p.ring.isSome then ringBytes else p.len * p.count

/-- The pieces of a place as addresses and lengths. -/
def Span.pieces (p : Span) : List (Nat × Nat) :=
  if p.ring.isSome then [] else ((List.range p.count).map fun i => (p.addr + i * p.stride, p.len)).filter fun x => x.2 != 0

/-- What is left of a piece `g` without a piece `x`. -/
def cutOut (x g : Nat × Nat) : List (Nat × Nat) :=
  let lo := max g.1 x.1
  let hi := min (g.1 + g.2) (x.1 + x.2)
  if hi ≤ lo then [g] else [(g.1, lo - g.1), (hi, g.1 + g.2 - hi)].filter fun y => y.2 != 0

/-- What is left of pieces without others. -/
def gapsOf (have' want : List (Nat × Nat)) : List (Nat × Nat) := have'.foldl (fun l x => l.flatMap (cutOut x)) want

/-- Bytes of pieces. -/
def pieceBytes (l : List (Nat × Nat)) : Nat := l.foldl (fun a p => a + p.2) 0

/-- Whether two lists of pieces share a byte. -/
def piecesMeet (x y : List (Nat × Nat)) : Bool := x.any fun p => y.any fun q => rangesMeet p.1 p.2 q.1 q.2

/-- The operand of a stream that is a ring tile. Tiles that the U stream has pre-staged serve every stream (R30, log entry 26). -/
def LocalBuf.heldRing (l : LocalBuf) (st : Stream) (r : Nat × Nat × Nat) : Option Held :=
  l.held.find? fun h => (h.stream == st || h.stream == .u) && h.ring == some r

/-- The range pieces that operands of a stream hold, of those that satisfy `p`. -/
def LocalBuf.heldPieces (l : LocalBuf) (st : Stream) (p : Held → Bool) : List (Nat × Nat) :=
  (l.held.filter fun h => h.stream == st && h.ring.isNone && p h).flatMap (·.pieces)

/-- Whether an operand of a stream holds part of a place. -/
def Held.serves (h : Held) (st : Stream) (p : Span) : Bool := match p.ring with
  | some r => (h.stream == st || h.stream == .u) && h.ring == some r
  | none => h.stream == st && h.ring.isNone && piecesMeet h.pieces p.pieces

/-- The byte of a range address in a stream's region. -/
def LocalBuf.heldByte (l : LocalBuf) (st : Stream) (a : Nat) : Byte :=
  match l.held.find? fun h => h.stream == st && h.ring.isNone && h.pieces.any fun p => p.1 ≤ a && a < p.1 + p.2 with
  | some h => cellRead h.mem a
  | none => 0

/-- A held operand changed. -/
def LocalBuf.updHeld (l : LocalBuf) (id : Nat) (g : Held → Held) : LocalBuf :=
  { l with held := l.held.map fun h => if h.id = id then g h else h }

/-- Held operands that satisfy `p` freed with their blocks. -/
def LocalBuf.freeHeld (l : LocalBuf) (p : Held → Bool) : LocalBuf :=
  LocalBuf.freeBlocks { l with held := l.held.filter fun h => !p h } ((l.held.filter p).flatMap (·.blocks))

/-- A use of operands ends: those that nothing uses any more, and that no FETCH keeps, are freed (R143, R196). -/
def LocalBuf.endUse (l : LocalBuf) (p : Nat × Nat × Nat → Bool) : LocalBuf :=
  LocalBuf.freeHeld { l with held := l.held.map fun h => { h with users := h.users.filter fun u => !p u } }
    fun h => h.users.isEmpty && h.keep.isNone && h.loc.isNone

/-- Whether part of a held operand is still to come. -/
def Feed.fetching (f : Feed) (id : Nat) : Bool := f.queue.any fun x => x.kind == .demand && x.holds.contains id
def Core.whole (k : Core) (h : Held) : Bool := h.todo.isEmpty && !(k.feed.fetching h.id)

/-- Whether a place is resident in a stream's region (R174, condition 4). -/
def Core.spanHere (k : Core) (st : Stream) (p : Span) : Bool := match p.ring with
  | some r => (k.lb.heldRing st r).any k.whole
  | none => gapsOf (k.lb.heldPieces st k.whole) p.pieces == []

/-- The pieces of a pool operand of the range. -/
def PoolBlock.pieces (b : PoolBlock) : List (Nat × Nat) := match b.target with
  | .range x m => [(x, m)]
  | .ring _ _ _ => []

/-- What a place needs beside the operands that are resident or on their way: the pool operands it consumes, and the pieces that a demand
fetch brings; for a ring tile the one piece stands for the tile (R166, R196). -/
def Core.need (k : Core) (st : Stream) (bytes : Nat) (p : Span) : List PoolBlock × List (Nat × Nat) :=
  match p.ring with
  | some r =>
    if (k.lb.heldRing st r).isSome then ([], [])
    else match k.feed.pool.find? fun b => b.stream == st && b.target == .ring r.1 r.2.1 r.2.2 with
      | some b => ([b], [])
      | none => ([], [(0, bytes)])
  | none =>
    let g := gapsOf (k.lb.heldPieces st fun _ => true) p.pieces
    let ps := k.feed.pool.filter fun b => b.stream == st && piecesMeet b.pieces g
    (ps, gapsOf (ps.flatMap PoolBlock.pieces) g)

/-- Blocks that a place needs in its region. -/
def needBlocks (x : List PoolBlock × List (Nat × Nat)) : Nat :=
  x.1.foldl (fun a b => a + b.blocks.length) 0 + blocksFor (pieceBytes x.2)

/-- Whether a fetch needs room: its region has too few free blocks (R166, R182). -/
def State.fetchBlocked (s : State) (c : CoreId) (st : Stream) (p : Span) (bytes : Nat) : Bool :=
  (s.freeLow c st).length < needBlocks ((s.core c).need st bytes p)

/-- An operand put into a stream's region, in the lowest free blocks. -/
def State.addHeld (s : State) (c : CoreId) (st : Stream) (n : Nat) (h : Held) : State :=
  let bs := (s.freeLow c st).take n
  s.updCore c fun k => { k with lb :=
    { k.lb.mark bs { owner := ownerOf st, content := .clean, stream := st } with
      held := k.lb.held ++ [{ h with id := k.lb.nextHeld, stream := st, blocks := bs }], nextHeld := k.lb.nextHeld + 1 } }

/-- A pool operand consumed (R166): it moves into the stream's region, and its blocks in the pool are free again. -/
def State.usePool (c : CoreId) (s : State) (b : PoolBlock) : State :=
  let t := s.updCore c fun k => { k with
    feed := { k.feed with pool := k.feed.pool.filter (fun x => x.seq != b.seq)
                          pfUsed := satAdd 0xFFFFFFFF k.feed.pfUsed b.blocks.length }
    lb := k.lb.freeBlocks b.blocks }
  t.addHeld c b.stream b.blocks.length (match b.target with
    | .range a n => { id := 0, stream := b.stream, pieces := [(a, n)], mem := memWrite [] a b.data }
    | .ring x y z => { id := 0, stream := b.stream, ring := some (x, y, z), codes := b.codes })

/-- The transfer of one piece of a held operand. -/
def State.sendPiece (s : State) (c : CoreId) (h : Held) (q : Nat × Nat) : State :=
  let u := h.users.headD (0, 0, 0)
  s.queueXfer c { id := 0, kind := .demand, stream := h.stream, cls := 1
                  share := if h.ring.isSome then .read else s.shareOf q.1 false
                  target := (match h.ring with
                    | some r => .ring r.1 r.2.1 r.2.2
                    | none => .range q.1 q.2)
                  bytes := q.2, step := u.1, index := u.2.1, unit := u.2.2, holds := [h.id] }

/-- Pieces of held operands enter the stream's Sluice queue while it holds fewer than 64 transfers (R198). `fuel` is at least 64. -/
def State.drainQueue (c : CoreId) (st : Stream) : Nat → State → State
  | 0, s => s
  | fuel + 1, s =>
    if 64 ≤ (s.core c).feed.waiting st then s
    else match (s.core c).lb.held.find? fun h => h.stream == st && !h.todo.isEmpty with
      | none => s
      | some h => State.drainQueue c st fuel ((s.updCore c fun k => { k with lb := k.lb.updHeld h.id fun x =>
          { x with todo := x.todo.drop 1 } }).sendPiece c h (h.todo.headD (0, 0)))

/-- An operand of unit `u` of a command fetched into the stream's region: what is resident there or stands in the pool is not fetched
again, and the unit becomes a user of all of it (R196). An access fault stops the command (R228). -/
def State.fetchSpan (s : State) (c : CoreId) (cmd : Cmd) (u bytes : Nat) (p : Span) : State :=
  let st := cmd.desc.stream
  let user := (cmd.step, cmd.index, u)
  let x := (s.core c).need st bytes p
  match (if p.ring.isSome then none else s.pieceFault false x.2) with
  | some e => s.stopAt c cmd u e.1 e.2
  | none =>
    let t := x.1.foldl (State.usePool c) s
    let t1 := if x.2 = [] then t else t.addHeld c st (blocksFor (pieceBytes x.2))
      { id := 0, stream := st, users := [user], ring := p.ring, pieces := if p.ring.isSome then [] else x.2
        todo := if p.ring.isSome then x.2 else x.2.flatMap fun q => piecesOf q.1 q.2 }
    let mine := fun h : Held => if h.serves st p then { h with users := addNew user h.users, keep := Option.none } else h
    State.drainQueue c st 65 (t1.updCore c fun k => { k with lb := { k.lb with held := k.lb.held.map mine } })

/-- A write-back of unit `u` of a command queued, in blocks of its stream's region that stay allocated until the acknowledgement (R205),
first those that staged the output (R163); one of the faults of R228 stops the command, and the bytes from there on are not written. -/
def State.writeBack (s : State) (c : CoreId) (cmd : Cmd) (u a : Nat) (b : List Byte) (keep : List Nat := []) : State :=
  let st := cmd.desc.stream
  let r := (piecesOf a b.length).foldl (fun (x : State × List Byte × List Nat × Bool) p =>
    if x.2.2.2 then x
    else match x.1.accessFault p.1 true with
    | some code => (x.1.stopAt c cmd u code p.1, x.2.1, x.2.2.1, true)
    | none =>
      let bs := x.1.claim c st x.2.2.1 (blocksFor p.2)
      let t := cmdXfer cmd .write 5 (x.1.shareOf p.1 true) (.range p.1 p.2) p.2 u (x.2.1.take p.2)
      let s1 := x.1.updCore c fun k => { k with lb := k.lb.mark bs { owner := ownerOf st, content := .dirty, stream := st } }
      (s1.queueXfer c { t with blocks := bs }, x.2.1.drop p.2, x.2.2.1.drop (blocksFor p.2), false)) (s, b, keep, false)
  r.1.updCore c fun k => { k with lb := k.lb.freeBlocks r.2.2.1 }

/-- The transfer of a Quern unit through a core port (R195): rows delivered, or gradients sent; its index is the unit's reference, its
unit names the micro-batch. -/
def qrnXfer (cmd : Cmd) (share : Share) (ref bytes : Nat) : Transfer :=
  { cmdXfer cmd .grad 2 share (.range 0 0) bytes (cmd.desc.mb.getD 0) [] with index := ref }

/-! ## Operands and output of a unit -/

/-- Elements of a row of operand A: in a command with a matrix stage those that the stage streams, k in RR and OS and n in CR; n for every
other command (R179). -/
def Desc.rowElems (d : Desc) : Nat :=
  if d.hasMM then (match d.orient with
    | some .cr => d.dimN
    | _ => d.dimK)
  else d.dimN

/-- Elements of an output row of the matrix stage: n in RR, k in CR. -/
def Desc.mmElems (d : Desc) : Nat := if d.orient = some .cr then d.dimK else d.dimN

/-- Elements of an output row; one for a lane reduction. -/
def Desc.outElems (d : Desc) : Nat := if d.op = .vred then 1 else if d.hasMM then d.mmElems else d.dimN

/-- Elements of a row that a stage hands to the next one. -/
def Desc.handElems (d : Desc) (stage : Nat) : Nat := if (d.stages.take (stage + 1)).contains .mm then d.mmElems else d.rowElems

/-- The format in which an operand lies in memory: FP32 for a tensor that is narrowed while it is fed (R89), else its
own format. -/
def State.memFmt (s : State) (v : Nat) (f : NumFmt) (id : Nat) : NumFmt :=
  match scaledFmt f, s.scaleRec v id with
  | some _, some r => if r.kind = .weight then f else .fp32
  | _, _ => f

/-- Bytes of `n` elements. -/
def bytesOf (f : NumFmt) (n : Nat) : Nat := (n * fmtBits f + 7) / 8

/-- The format in which an output lies in memory: results are never narrow there (R89), so that a narrow output format stands as FP32. -/
def outMem (f : NumFmt) : NumFmt := if (scaledFmt f).isSome then .fp32 else f

/-- Rows of codes cut from a list of elements, `n` elements each. -/
def rowsOf (n : Nat) : Nat → List Nat → List (List Nat)
  | 0, _ => []
  | r + 1, l => l.take n :: rowsOf n r (l.drop n)

/-- `n` bytes of an operand from offset `off`: fetched, local, stashed, or none. Stash bytes that R189 has discarded read as
free values (log entry 29). -/
def State.opBytes (s : State) (c : CoreId) (cmd : Cmd) (o : Operand) (off n : Nat) : List Byte :=
  match o.space with
  | .loc => s.lbRead c (o.addr + off) n
  | .range => (List.range n).map fun i => (s.core c).lb.heldByte cmd.desc.stream (o.addr + off + i)
  | .stash =>
    let b := ((kvGet {} (cmd.slot.getD 0, cmd.desc.stashId) (s.core c).lb.stash).bytes.drop off).take n
    b ++ (List.range (n - b.length)).map fun i => Config.freeByte s.fresh (off + b.length + i)
  | _ => []

/-- An FP32 result in the output format of a command as memory holds it (R57, R268); M19 is rounded RNE (log entry 119). -/
def outCode (d : Desc) (x : F32) : Nat × Ev :=
  match outMem d.out.fmt with
  | .m19 => let r := toM19 true x; (r.1 * 2 ^ 13, r.2)
  | .bf16 => toBF16 .rne x
  | .fp16 => toFP16 .rne x
  | _ => (x.toNat, {})

/-- Rows of a unit handed to the next stage, in a hand-over slot of a stage boundary held in blocks of the stream's region
(R180), first in those that staged them (R163). -/
def State.handOver (s : State) (c : CoreId) (cmd : Cmd) (boundary u : Nat) (rows : List (List Nat)) (keep : List Nat := []) : State :=
  let st := cmd.desc.stream
  let n := blocksFor (4 * (rows.flatMap id).length)
  let bs := s.claim c st keep n
  s.updCore c fun k => { k with
    lb := (k.lb.freeBlocks (keep.drop n)).mark bs { owner := ownerOf st, content := .dirty, stream := st }
    hand := k.hand ++ [{ stream := st, step := cmd.step, index := cmd.index, boundary := boundary, unit := u, rows := rows
                         blocks := bs }] }

/-- Whether a hand-over unit belongs to a command and boundary. -/
def HandUnit.of (h : HandUnit) (cmd : Cmd) (boundary : Nat) : Bool :=
  h.stream == cmd.desc.stream && h.step == cmd.step && h.index == cmd.index && h.boundary == boundary

/-- The rows of unit `u` at a boundary, and the core with its slot freed. -/
def Core.handRows (k : Core) (cmd : Cmd) (boundary u : Nat) : List (List Nat) :=
  match k.hand.find? fun h => h.of cmd boundary && h.unit == u with
  | some h => h.rows
  | none => []
def Core.freeHand (k : Core) (cmd : Cmd) (boundary u : Nat) : Core :=
  let gone := k.hand.filter fun h => h.of cmd boundary && h.unit == u
  let bs := gone.flatMap (·.blocks)
  { k with hand := k.hand.filter fun h => !(h.of cmd boundary && h.unit == u), lb := k.lb.freeBlocks bs }

/-- Whether a hand-over slot is free at a boundary: two for each (R180). -/
def Core.handFree (k : Core) (cmd : Cmd) (boundary : Nat) : Bool :=
  (k.hand.filter fun h => h.of cmd boundary).length < 2

/-! ## The Millpond (R185 to R189) -/

/-- Blocks of the F part, and budget of R186 in blocks. -/
def State.millF (s : State) (c : CoreId) : Nat := s.millSize c - s.field "MP_RB_BLOCKS" c.val
def State.stageOf (s : State) (c : CoreId) : Nat := s.field "STAGE_OF_CORE" c.val
def State.millBudget (s : State) (c : CoreId) : Nat := s.millF c + s.field "MP_SPILL_SIZE" (s.stageOf c) / 16384
/-- STASH_MAX of a core's stage, in blocks. -/
def State.stashMax (s : State) (c : CoreId) : Nat := s.field "STASH_MAX" (s.stageOf c) / 16384

/-- Reservations of a core, in blocks. -/
def Core.reservedSum (k : Core) : Nat := k.lb.reserves.foldl (fun a x => a + x.2.reserved) 0

/-- Cores that the image assigns to a stage (R383). -/
def State.stageCores (s : State) : List CoreId := (List.finRange 32).filter fun c => s.stageOf c != 15

/-- Whether a core has room for one more micro-batch (R186), or takes one larger than the whole budget alone (R189). -/
def State.millRoom (s : State) (c : CoreId) : Bool :=
  (s.core c).reservedSum + s.stashMax c ≤ s.millBudget c
    || (s.millBudget c < s.stashMax c && (s.core c).reservedSum == 0)

/-- A reservation taken at admission (R186, R189). -/
def State.millReserve (s : State) (slot step : Nat) (c : CoreId) : State :=
  let tooBig := s.millBudget c < s.stashMax c
  let t := s.updCore c fun k => { k with lb := { k.lb with
    reserves := kvPut slot { reserved := min (s.stashMax c) (s.millBudget c), seq := k.lb.admitSeq } k.lb.reserves,
    admitSeq := k.lb.admitSeq + 1 } }
  if tooBig then t.raise .stepFatal 0x023 (unitNo 1 c.val) step 0 else t

/-- Stash blocks resident in the Millpond or in flight from it: the F part. -/
def LocalBuf.millUsed (l : LocalBuf) : Nat := l.stash.foldl (fun a x => a + x.2.resident.length + x.2.inFlight.length) 0
/-- Blocks of the read-back part in use. -/
def LocalBuf.backUsed (l : LocalBuf) : Nat := l.stash.foldl (fun a x => a + x.2.back.length) 0

/-- Backward-order key: admission sequence, −STASH_ID, block index (R187). -/
def LocalBuf.blockKey (l : LocalBuf) (slot id b : Nat) : Nat × Nat × Nat :=
  ((kvGet {} slot l.reserves).seq, 65535 - id, b)

/-- Lexicographic order of keys. -/
def keyLt (a b : Nat × Nat × Nat) : Bool :=
  a.1 < b.1 || (a.1 == b.1 && (a.2.1 < b.2.1 || (a.2.1 == b.2.1 && a.2.2 < b.2.2)))

/-- Every block of a kind with its key: (key, slot, STASH_ID, block). -/
def LocalBuf.keyed (l : LocalBuf) (sel : Stash → List Nat) : List ((Nat × Nat × Nat) × Nat × Nat × Nat) :=
  l.stash.flatMap fun x => (sel x.2).map fun b => (l.blockKey x.1.1 x.1.2 b, x.1.1, x.1.2, b)

/-- The entry with the largest key, and with the smallest. -/
def maxKey (l : List ((Nat × Nat × Nat) × Nat × Nat × Nat)) : Option ((Nat × Nat × Nat) × Nat × Nat × Nat) :=
  l.foldl (fun a x => match a with
    | none => some x
    | some y => if keyLt y.1 x.1 then some x else some y) none
def minKey (l : List ((Nat × Nat × Nat) × Nat × Nat × Nat)) : Option ((Nat × Nat × Nat) × Nat × Nat × Nat) :=
  l.foldl (fun a x => match a with
    | none => some x
    | some y => if keyLt x.1 y.1 then some x else some y) none

/-- A stash entry changed. -/
def LocalBuf.updStash (l : LocalBuf) (slot id : Nat) (g : Stash → Stash) : LocalBuf :=
  { l with stash := kvMod {} (slot, id) g l.stash }

/-- Blocks of an entry that the Millpond does not hold. -/
def Stash.absent (e : Stash) : List Nat :=
  (List.range e.blocks).filter fun b => !(e.resident.contains b || e.inFlight.contains b || e.back.contains b)

/-- Whether every block of an entry is in the Millpond (R188). -/
def Stash.ready (e : Stash) : Bool := e.absent == []

/-- The entry of a slot on a core. -/
def Core.stashAt (k : Core) (slot id : Nat) : Stash := kvGet {} (slot, id) k.lb.stash

/-- Places of a core's spill region that its stage's cores use (R185). -/
def State.placesUsed (s : State) (c : CoreId) : List Nat :=
  s.cores.flatMap fun k => if s.stageOf (Fin.ofNat 32 k.1) = s.stageOf c then k.2.lb.stash.flatMap fun x => x.2.places.map Prod.snd else []

/-- The lowest free place. -/
def State.freePlace (s : State) (c : CoreId) : Nat :=
  let l := s.placesUsed c
  (firstNat (fun n => !l.contains n) (l.length + 1) 0).getD 0

/-- The range address of a block of an entry in the spill region of a core's stage: places of a block each from MP_SPILL_BASE up
(log entry 27). -/
def State.spillAddr (s : State) (c : CoreId) (slot id b : Nat) : Nat :=
  s.field "MP_SPILL_BASE" (s.stageOf c) + 16384 * kvGet 0 b ((s.core c).stashAt slot id).places

/-- A block of an entry given its place in the spill region, once. -/
def State.placeSpill (s : State) (c : CoreId) (slot id b : Nat) : State :=
  if kvHas b ((s.core c).stashAt slot id).places then s
  else
    let n := s.freePlace c
    s.updCore c fun k => { k with lb := k.lb.updStash slot id fun e => { e with places := kvPut b n e.places } }

/-- The spill transfer of a block queued (R185, R195). -/
def State.pushSpill (s : State) (c : CoreId) (cmd : Cmd) (slot id b : Nat) : State :=
  let t := s.placeSpill c slot id b
  t.pushXfer c
    { id := 0, kind := .spill, stream := .f, cls := 3, share := .write, target := .range (t.spillAddr c slot id b) 16384, bytes := 16384
      step := cmd.step, index := slot * 2 ^ 16 + id, unit := b }

/-- One new block of an entry placed (R187): resident where the F part has a free block; else the block with the largest
key is spilled, and when that is the block written it goes to the spill region directly. The second part is false when the
block has to wait for a spill. -/
def State.placeBlock (s : State) (c : CoreId) (cmd : Cmd) (slot id b : Nat) : State × Bool :=
  let l := (s.core c).lb
  let more := fun r : Reserve => { r with written := r.written + 1 }
  let count := fun x : LocalBuf => { x with reserves := kvMod {} slot more x.reserves }
  if l.millUsed < s.millF c then
    (s.updCore c fun k => { k with lb := count (k.lb.updStash slot id fun e =>
      { e with blocks := max e.blocks (b + 1), resident := e.resident ++ [b] }) }, true)
  else
    match maxKey (l.keyed (·.resident)) with
    | none => (s, false)
    | some v =>
      if keyLt v.1 (l.blockKey slot id b) then
        ((s.updCore c fun k => { k with lb := count (k.lb.updStash slot id fun e =>
          { e with blocks := max e.blocks (b + 1), spilled := e.spilled ++ [b] }) }).pushSpill c cmd slot id b, true)
      else if l.stash.any fun x => x.2.inFlight != [] then (s, false)
      else
        ((s.updCore c fun k => { k with lb := k.lb.updStash v.2.1 v.2.2.1 fun e =>
          { e with resident := e.resident.filter (· != v.2.2.2), inFlight := e.inFlight ++ [v.2.2.2] } }).pushSpill c cmd v.2.1 v.2.2.1 v.2.2.2,
          false)

/-- The blocks of an entry up to `n` placed in order; false when one has to wait. -/
def State.placeBlocks (s : State) (c : CoreId) (cmd : Cmd) (slot id : Nat) : Nat → Nat → State × Bool
  | 0, _ => (s, true)
  | fuel + 1, b =>
    let r := s.placeBlock c cmd slot id b
    if r.2 then State.placeBlocks r.1 c cmd slot id fuel (b + 1) else r

/-- Bytes appended to a stash entry (R185, R187, R189): blocks within the reservation are placed, bytes beyond it discarded with
STASH_OVERFLOW. A last block that has been spilled half full is spilled again. The second part is false when a block has to wait for a
spill; the state then keeps what has been placed. -/
def State.stashWrite (s : State) (c : CoreId) (cmd : Cmd) (b : List Byte) : State × Bool :=
  let n := cmd.slot.getD 0
  let id := cmd.desc.stashId
  let e := (s.core c).stashAt n id
  let r := kvGet {} n (s.core c).lb.reserves
  let total := blocksFor (e.bytes.length + b.length)
  let fit := min total (e.blocks + (r.reserved - r.written))
  let p := s.placeBlocks c cmd n id (fit - e.blocks) e.blocks
  if p.2 = false then (p.1, false)
  else
    let last := e.bytes.length / 16384
    let t := p.1.updCore c fun k => { k with lb := k.lb.updStash n id fun x => { x with bytes := (x.bytes ++ b).take (fit * 16384) } }
    let t1 := if e.bytes.length % 16384 ≠ 0 ∧ b ≠ [] ∧ (e.spilled.contains last || e.inFlight.contains last) then t.pushSpill c cmd n id last
      else t
    (if fit < total then t1.raise .stepFatal 0x023 (unitNo 1 c.val) cmd.step (cmd.detail c) else t1, true)

/-- Outputs in STASH space placed in order while the Millpond takes them (R171, R187); the blocks that held them are freed. `fuel` is at
least their number. -/
def State.payStash (c : CoreId) : Nat → State → State
  | 0, s => s
  | fuel + 1, s => match (s.core c).lb.owed with
    | [] => s
    | x :: l =>
      let t := s.stashWrite c x.cmd x.bytes
      if t.2 = false then t.1
      else State.payStash c fuel (t.1.updCore c fun k => { k with lb := { k.lb.freeBlocks x.blocks with owed := l } })

/-- An output in STASH space: it waits in the stream's region until the Millpond takes it. -/
def State.oweStash (s : State) (c : CoreId) (cmd : Cmd) (b : List Byte) (keep : List Nat) : State :=
  let st := cmd.desc.stream
  let n := blocksFor b.length
  let bs := s.claim c st keep n
  let t := s.updCore c fun k => { k with lb :=
    { (k.lb.freeBlocks (keep.drop n)).mark bs { owner := ownerOf st, content := .dirty, stream := st } with
      owed := k.lb.owed ++ [{ cmd := cmd, bytes := b, blocks := bs }] } }
  State.payStash c (t.core c).lb.owed.length t

/-- An entry freed in both places; each freed block lowers the reservation by one (R186, R188). -/
def LocalBuf.freeStash (l : LocalBuf) (slot id : Nat) : LocalBuf :=
  let e := kvGet {} (slot, id) l.stash
  let less := fun r : Reserve => { r with reserved := r.reserved - e.blocks }
  { l with stash := kvDel (slot, id) l.stash, reserves := kvMod {} slot less l.reserves, freed := l.freed + e.blocks }

/-- Every entry and the reservation of a slot freed (R188, R190). -/
def LocalBuf.freeSlot (l : LocalBuf) (slot : Nat) : LocalBuf :=
  { l with
    stash := l.stash.filter (fun x => x.1.1 != slot), reserves := kvDel slot l.reserves
    freed := l.freed + (l.stash.filter fun x => x.1.1 == slot).foldl (fun a x => a + x.2.blocks) 0 }

/-! ## The output of a unit (R163, R170, R171, R180) -/

/-- The output of the last stage for unit `u`, FP32 rows that begin at output row `row`: converted and placed in the output space. `keep`
are the blocks that staged it. Working copies are written by Weir alone, so that an output in RING space goes nowhere (log entry 32). -/
def State.putRows (s : State) (c : CoreId) (cmd : Cmd) (u row : Nat) (rows : List (List F32)) (keep : List Nat := []) : State :=
  let d := cmd.desc
  let f := outMem d.out.fmt
  let codes := rows.map fun r => r.map (outCode d)
  let b := codes.flatMap fun r => packBytes f (r.map Prod.fst)
  let at' := d.out.addr + row * bytesOf f d.outElems
  let t := s.coreEv c cmd.step (evSum (codes.flatMap id))
  match d.out.space with
  | .loc =>
    let bs := blocksAt at' b.length
    (t.updCore c fun k => { k with lb := k.lb.freeBlocks (keep.filter fun n => !bs.contains n) }).lbWrite c d.stream at' b
  | .range => t.writeBack c cmd u at' b keep
  | .stash => t.oweStash c cmd b keep
  | _ => t.updCore c fun k => { k with lb := k.lb.freeBlocks keep }

/-- A stage's result for unit `u`, whose output rows begin at `row`: to the next stage's hand-over slot, or to the output;
the unit commits (R180). -/
def State.stageRows (s : State) (c : CoreId) (cmd : Cmd) (stage u row : Nat) (rows : List (List F32)) (keep : List Nat := []) : State :=
  let t := if stage < cmd.desc.lastStage then
      s.handOver c cmd stage u (rows.map fun r => r.map BitVec.toNat) keep
    else s.putRows c cmd u row rows keep
  t.updCore c fun k => k.commitUnit cmd.desc.stream cmd stage

/-- A stage's result whose units hold PASS_R + 1 rows each. -/
def State.stageResult (s : State) (c : CoreId) (cmd : Cmd) (stage u : Nat) (rows : List (List F32)) : State :=
  s.stageRows c cmd stage u (u * cmd.desc.passR) rows

/-- The operands of a unit are no longer used by it. -/
def State.unitDone (s : State) (c : CoreId) (cmd : Cmd) (u : Nat) : State :=
  s.updCore c fun k => { k with lb := k.lb.endUse fun y => y == (cmd.step, cmd.index, u) }

/-! ## Cancelling prefetches (R206, R207) -/

/-- One tag after a cancellation: it loses validity; the bytes of a departed part are wasted at once, those of a part that is still to
depart when they arrive (R206, R208). -/
def XTag.cancel (departed : Bool) (g : XTag) : XTag :=
  if g.valid then { g with valid := false, counted := departed } else g

/-- One transfer after a cancellation: gone when it is still queued and every tag matches; else its matching tags lose
validity. -/
def cancelXfer (p : XTag → Bool) (x : Transfer) : Option Transfer :=
  if x.tags = [] then some x
  else if !x.departed && x.tags.all (fun g => p g || !g.valid) then none
  else some { x with tags := x.tags.map fun g => if p g then g.cancel x.departed else g }

/-- Bytes of valid tags that satisfy `p`. -/
def tagBytes (p : XTag → Bool) (l : List XTag) : Nat := (l.filter fun t => t.valid && p t).foldl (fun a t => a + t.bytes) 0

/-- A cancellation of every tag that satisfies `p`: queued transfers removed, departed ones invalidated, pool blocks
discarded; departed bytes are wasted. -/
def Feed.cancel (f : Feed) (p : XTag → Bool) : Feed :=
  let waste := (f.queue.filter (·.departed)).foldl (fun a x => a + tagBytes p x.tags) 0
    + (f.queue.filter fun x => !x.departed && (cancelXfer p x).isNone).foldl (fun a x => a + x.sent) 0
    + (f.pool.filter fun b => b.tags.any p).foldl (fun a b => a + b.bytes) 0
  { f with queue := f.queue.filterMap (cancelXfer p), pool := f.pool.filter (fun b => !b.tags.any p),
           wasted := satAdd stallMax f.wasted waste }

/-- A core's matching prefetches cancelled; pool blocks of discarded operands are free. -/
def Core.cancel (k : Core) (p : XTag → Bool) : Core :=
  let f := k.feed.cancel p
  let used := f.pool.flatMap (·.blocks)
  { k with feed := f, lb := k.lb.freeIf fun b => b.2.owner == .pool && !used.contains b.1 }

/-- Every core's matching prefetches cancelled. -/
def State.cancelAll (s : State) (p : XTag → Bool) : State :=
  { s with cores := s.cores.map fun x => (x.1, x.2.cancel p) }

end Sys2Proof.Machine
end

