-- ==== Sys2Proof/Machine/Rows.lean ====
section
/-! DEFINITION. Embedding rows: the record of a class, decoding and write-back, the row-wise optimizers, where a row lives,
popularity and the decisions of a Seal (R248 to R255, R272 to R276, R294 to R301). -/

namespace Sys2Proof.Machine

/-! ## Row records (R249 to R251) -/

/-- Number of a class (R249), and the class of a number. -/
def clsNo : RowClass → Nat
  | .F => 0
  | .H => 1
  | .W => 2
  | .C => 3
def clsOf : Nat → RowClass
  | 0 => .F
  | 1 => .H
  | 2 => .W
  | _ => .C

/-- Zero bytes up to a multiple of 16. -/
def pad16 (l : List Byte) : List Byte := l ++ List.replicate ((16 - l.length % 16) % 16) 0

/-- The record of a class for its scale word and element codes (R250). -/
def rowBytes (cls : RowClass) (scale : F32) (codes : List Nat) : List Byte :=
  match cls with
  | .F => pad16 (packBytes .fp32 codes)
  | .H => pad16 (packBytes .bf16 codes)
  | .W => pad16 (leBytes 4 scale.toNat ++ packBytes .e4m3 codes)
  | .C => pad16 (leBytes 4 scale.toNat ++ packBytes .int4 codes)

/-- The scale word of a record. -/
def rowScale (b : List Byte) : F32 := BitVec.ofNat 32 (leNat (b.take 4))

/-- The element codes of a record of `d` elements. -/
def rowCodes (cls : RowClass) (d : Nat) (b : List Byte) : List Nat :=
  match cls with
  | .F => (unpackBytes .fp32 b).take d
  | .H => (unpackBytes .bf16 b).take d
  | .W => (unpackBytes .e4m3 (b.drop 4)).take d
  | .C => (unpackBytes .int4 (b.drop 4)).take d

/-- Whether a scale word is positive and finite (R251). -/
def scaleGood (x : F32) : Bool := 0 < x.toNat && x.toNat ≤ 0x7F7FFFFF

/-- The value of one element, exact (R251), with its event. -/
def decodeElem (cls : RowClass) (scale : F32) (c : Nat) : F32 × Ev :=
  match cls with
  | .F => let v := f32Val (BitVec.ofNat 32 c); (if isNan v then 0x7FC00000 else BitVec.ofNat 32 c, opEv [v])
  | .H => widen (decodeFloat fmtBF16 c)
  | .W =>
    let v := decodeFloat fmtE4M3 c
    if scaleGood scale then (f32Of (valMul v (f32Val scale)), opEv [v]) else (0x7FC00000, { nan := 1 })
  | .C =>
    let v := valOfInt (toSigned 4 c) 0
    if scaleGood scale then (f32Of (valMul v (f32Val scale)), {}) else (0x7FC00000, { nan := 1 })

/-- Every element of a row of `d` elements (R251). -/
def decodeRow (d : Nat) (r : RowRec) : List (F32 × Ev) :=
  (rowCodes r.cls d r.bytes).map (decodeElem r.cls (rowScale r.bytes))

/-- The per-row step of classes W and C (R100, R301): μ and ε. -/
def rowStep (cls : RowClass) (w : List F32) : Nat × Int :=
  let a := observe w
  let zero := f32Lt a 0 || a.toNat == 0
  match cls with
  | .C => if zero then (2 ^ 14, -126) else let d := deriveInt true a 0 0; (d.1, d.2.1)
  | _ => if zero then (1, -126) else (1, (deriveFloat .e4m3 a 0).1)

/-- The conversion of an element into a class with its per-row step and dither value (R90, R100, R300): its code and the events. -/
def encodeConv (cls : RowClass) (st : Nat × Int) (u : Nat) (x : F32) : Nat × Ev :=
  match cls with
  | .F => (x.toNat, {})
  | .H => toBF16 (.kd u) x
  | .W => encodeFloat fmtE4M3 true (.kd u) (valScale (-st.2) (f32Val x))
  | .C => let r := toIntScaled (.kd u) st.1 st.2 (-8) 7 (f32Val x)
    (ofSigned 4 r.1, r.2)

/-- The code of an element. -/
def encodeElem (cls : RowClass) (st : Nat × Int) (u : Nat) (x : F32) : Nat := (encodeConv cls st u x).1

/-- The element codes of a row, keyed by (seed, step, table, row, element). -/
def encodeElems (cls : RowClass) (st : Nat × Int) (seed n table row : Nat) : Nat → List F32 → List Nat
  | _, [] => []
  | e, x :: l => encodeElem cls st (dither24 seed n table row e false) x :: encodeElems cls st seed n table row (e + 1) l

/-- The events of a row's encoding in a class (R55, R77). -/
def encodeEvents (seed n table row : Nat) (cls : RowClass) (w : List F32) : Ev :=
  evSum (w.zipIdx.map fun x => encodeConv cls (rowStep cls w) (dither24 seed n table row x.2 false) x.1)

/-- A row encoded in a class by the Apply of step `n` (R300, item 4). -/
def encodeRow (seed n table row : Nat) (cls : RowClass) (w : List F32) : RowRec :=
  let st := rowStep cls w
  { cls := cls, bytes := rowBytes cls (f32Of (.fin false st.1 st.2)) (encodeElems cls st seed n table row 0 w) }

/-! ## Row-wise optimizers (R294 to R297) -/

/-- The settings of a table's optimizer in force for a step. -/
structure OptSet where
  kind : Nat
  lr : F32
  eps : F32
  b1 : F32
  b2 : F32
  deriving DecidableEq, Repr

/-- The state of a row's optimizer: S or V, P1, P2, T and M (R295). -/
structure OptState where
  sv : F32 := 0
  p1 : F32 := 0x3F800000
  p2 : F32 := 0x3F800000
  t : Nat := 0
  m : List F32 := []
  deriving DecidableEq, Repr

/-- FP32 elements of bytes. -/
def f32s (b : List Byte) : List F32 := (unpackBytes .fp32 b).map (BitVec.ofNat 32)

/-- A state record read (R295). -/
def optRead (kind : Nat) (b : List Byte) : OptState :=
  match kind with
  | 0 => {}
  | 1 => { sv := (f32s b).headD 0 }
  | _ => let l := f32s b
    { sv := l.getD 0 0, p1 := l.getD 1 0, p2 := l.getD 2 0, t := (l.getD 3 0).toNat, m := l.drop 4 }

/-- A state record written (R295). -/
def optWrite (kind : Nat) (st : OptState) : List Byte :=
  match kind with
  | 0 => []
  | 1 => pad16 (leBytes 4 st.sv.toNat)
  | _ => pad16 (packBytes .fp32 (st.sv.toNat :: st.p1.toNat :: st.p2.toNat :: st.t :: st.m.map BitVec.toNat))

/-- The initial state record of a row of `d` elements. -/
def optInit (kind d : Nat) : List Byte := optWrite kind { m := List.replicate d 0 }

/-- The sum of the squares divided by D (R297). -/
def meanSquare (g : List F32) : F32 × Ev :=
  let sq := g.map fun x => f32Mul x x
  let t := laneSum (sq.map Prod.fst)
  let q := f32Div t.1 (intToF32 g.length)
  (q.1, evAdd (evSum sq) (evAdd t.2 q.2))

/-- The value −x. -/
def f32Neg (x : F32) : F32 := x ^^^ 0x80000000

/-- w ← fma(−a, g / den, w) for every element. -/
def stepRow (a den : F32) (w g : List F32) : List (F32 × Ev) :=
  List.zipWith (fun x y => let q := f32Div y den; let r := f32Fma (f32Neg a) q.1 x; (r.1, evAdd q.2 r.2)) w g

/-- ADAGRAD of R297. -/
def optAdagrad (o : OptSet) (w g : List F32) (st : OptState) : List F32 × OptState × Ev :=
  let q := meanSquare g
  let v := f32Add st.sv q.1
  let r := f32Sqrt v.1
  let den := f32Add r.1 o.eps
  let x := stepRow o.lr den.1 w g
  (x.map Prod.fst, { st with sv := v.1 }, evAdd q.2 (evAdd v.2 (evAdd r.2 (evAdd den.2 (evSum x)))))

/-- The moments of ADAM (R297): the new state and the events. -/
def adamState (o : OptSet) (g : List F32) (st : OptState) : OptState × Ev :=
  let one : F32 := 0x3F800000
  let p1 := f32Mul st.p1 o.b1
  let p2 := f32Mul st.p2 o.b2
  let q := meanSquare g
  let c2 := f32Sub one o.b2
  let cq := f32Mul c2.1 q.1
  let v := f32Fma o.b2 st.sv cq.1
  let c1 := f32Sub one o.b1
  let m := List.zipWith (fun x y => let z := f32Mul c1.1 y; let r := f32Fma o.b1 x z.1; (r.1, evAdd z.2 r.2)) st.m g
  ({ sv := v.1, p1 := p1.1, p2 := p2.1, t := min (2 ^ 32 - 1) (st.t + 1), m := m.map Prod.fst },
   evAdd (evAdd p1.2 p2.2) (evAdd q.2 (evAdd (evAdd c2.2 cq.2) (evAdd v.2 (evAdd c1.2 (evSum m))))))

/-- ADAM of R297. -/
def optAdam (o : OptSet) (w g : List F32) (st : OptState) : List F32 × OptState × Ev :=
  let n := adamState o g st
  let d2 := f32Sub 0x3F800000 n.1.p2
  let q := f32Div n.1.sv d2.1
  let r := f32Sqrt q.1
  let den := f32Add r.1 o.eps
  let d1 := f32Sub 0x3F800000 n.1.p1
  let a := f32Div o.lr d1.1
  let x := stepRow a.1 den.1 w n.1.m
  (x.map Prod.fst, n.1, evAdd n.2 (evAdd (evAdd d2.2 q.2) (evAdd (evAdd r.2 den.2) (evAdd d1.2 (evAdd a.2 (evSum x))))))

/-- opt_row of R297. -/
def optRow (o : OptSet) (w g : List F32) (st : OptState) : List F32 × OptState × Ev :=
  match o.kind with
  | 0 => let x := List.zipWith (fun a b => f32Fma (f32Neg o.lr) b a) w g
    (x.map Prod.fst, st, evSum x)
  | 1 => optAdagrad o w g st
  | _ => optAdam o w g st

/-- Whether every new element and every new state value is finite (R299). -/
def optFinite (kind : Nat) (w : List F32) (st : OptState) : Bool :=
  w.all f32Finite && (kind == 0 || f32Finite st.sv) && (kind != 2 || (f32Finite st.p1 && f32Finite st.p2 && st.m.all f32Finite))

/-- Whether an element lies above the largest finite BF16 value (R299). -/
def overBF16 (x : F32) : Bool := f32Lt 0x7F7F0000 (f32Abs x)

/-! ## Where a row lives (R253) -/

/-- The shard number j of a row. -/
def State.shardOf (s : State) (t r : Nat) : Nat :=
  (r / 2 ^ s.field "SHARD_SHIFT" t) % max 1 (s.fieldL "SHARD_DEV" t).length
/-- Home and mirror of shard j. -/
def State.shardHome (s : State) (t j : Nat) : DevId := (s.fieldL "SHARD_DEV" t).getD j 0
def State.shardMirror (s : State) (t j : Nat) : DevId := (s.fieldL "MIRROR_DEV" t).getD j 0
/-- Home and mirror of a row. -/
def State.homeOf (s : State) (t r : Nat) : DevId := s.shardHome t (s.shardOf t r)
def State.mirrorOf (s : State) (t r : Nat) : DevId := s.shardMirror t (s.shardOf t r)

/-- The local number ℓ of a row. -/
def State.localNo (s : State) (t r : Nat) : Nat :=
  let sh := s.field "SHARD_SHIFT" t
  r / 2 ^ sh / max 1 (s.fieldL "SHARD_DEV" t).length * 2 ^ sh + r % 2 ^ sh

/-- QLIST: the Querns that a mask enables, ascending. -/
def maskList (mask : Nat) : List QuernId := (List.finRange 12).filter fun q => mask / 2 ^ q.val % 2 == 1

/-- The serving Quern of a row on a device that holds a copy. -/
def State.quernOf (s : State) (t r : Nat) : QuernId :=
  let l := maskList (s.field "QRN_MASK" t)
  l.getD (s.localNo t r % max 1 l.length) 0

/-- The row held here, when its entry is present: a replica being added is not present before the Seal (R276). -/
def State.rowAt (s : State) (t r : Nat) : Option Row :=
  match kvFind (t, r) s.rows with
  | some x => if x.role = .replica ∧ x.pendRepl = some true then none else some x
  | none => none

/-- The optimizer settings of a table for step `n` (R297). -/
def State.optSet (s : State) (n t : Nat) : OptSet :=
  { kind := s.fieldAt n "OPT_KIND" t, lr := BitVec.ofNat 32 (s.fieldAt n "OPT_LR" t),
    eps := BitVec.ofNat 32 (s.fieldAt n "OPT_EPS" t), b1 := BitVec.ofNat 32 (s.fieldAt n "OPT_BETA1" t),
    b2 := BitVec.ofNat 32 (s.fieldAt n "OPT_BETA2" t) }

/-- The job seed of R75. -/
def State.seed (s : State) : Nat := s.field "JOB_SEED"

/-- The backoff of version `v`, which travels with its scale set (R86). -/
def State.backoffOf (s : State) (v : Nat) : Nat := match kvFind v s.weir.scaleSets with
  | some x => x.backoff
  | none => 0

/-- x_t of the version that step `n` reads (R98). -/
def State.xT (s : State) (n t : Nat) : Int :=
  fx48Exp (s.fieldIntAt (s.reads n) "FX48_EXP" t) (s.backoffOf (s.reads n))

/-! ## One row at Apply (R299, R300) -/

/-- The result of opt_row on a row for an entry's sums: new elements, new state, and the events of conversion and
optimizer (R300, items 1 to 3). -/
def State.optOn (s : State) (n t : Nat) (row : Row) (sums : List Int) : List F32 × OptState × Ev :=
  let d := s.field "TBL_DIM" t
  let o := s.optSet n t
  let g := sums.map (fx48ToF32 (s.xT n t))
  let w := decodeRow d row.record
  let x := optRow o (w.map Prod.fst) (g.map Prod.fst) (optRead o.kind row.state)
  (x.1, x.2.1, evAdd (evSum g) (evAdd (evSum w) x.2.2))

/-- The class in which the next Apply writes a row: that of a pending move, else the stored class (R276, R299). -/
def applyClass (row : Row) : RowClass := row.pendClass.getD row.record.cls

/-- The class H test of R299 on new elements. -/
def overH (row : Row) (w : List F32) : Bool := applyClass row == .H && w.any overBF16

/-- The per-row step of a class is finite (R299): it is derived from finite elements only. -/
def stepFinite (cls : RowClass) (w : List F32) : Bool :=
  match cls with
  | .F => true
  | .H => true
  | _ => let st := rowStep cls w; f32Finite (f32Of (.fin false st.1 st.2))

/-- A new slot address: the spec leaves the choice open, so a free value (log entry 5). -/
def State.newSlot (s : State) (t r : Nat) : Nat := Config.freeNat (s.fresh + t * 2 ^ 40 + r)

/-- A row with new content written by the Apply of a step: into a new slot when a move of class or tier is pending (the
entry becomes MOVING, R276), else in place. -/
def putContent (row : Row) (slot : Nat) (rec : RowRec) (st : List Byte) : Row :=
  if row.pendClass.isSome || row.pendTier.isSome then
    { row with moving := some (rec, row.pendTier.getD row.tier, slot), state := st }
  else { row with record := rec, state := st }

/-- A row with an entry at the Apply of step `n` (R300, R305). -/
def State.applyRow (s : State) (n t r : Nat) (row : Row) (sums : List Int) : Row :=
  let x := s.optOn n t row sums
  putContent row (s.newSlot t r) (encodeRow s.seed n t r (applyClass row) x.1) (optWrite (s.optSet n t).kind x.2.1)

/-- A row without an entry that a pending move takes at the Apply of step `n` (R276): a class change re-encodes it, a
tier-only move copies the bits. -/
def State.moveRow (s : State) (n t r : Nat) (row : Row) : Row :=
  let d := s.field "TBL_DIM" t
  let rec' := match row.pendClass with
    | some c => encodeRow s.seed n t r c ((decodeRow d row.record).map Prod.fst)
    | none => row.record
  putContent row (s.newSlot t r) rec' row.state

/-- The events of a class move of a row without an entry: its decoding and its encoding (R55, R58, R77). -/
def State.moveEvents (s : State) (n t r : Nat) (row : Row) : Ev :=
  match row.pendClass with
  | some c =>
    let w := decodeRow (s.field "TBL_DIM" t) row.record
    evAdd (evSum w) (encodeEvents s.seed n t r c (w.map Prod.fst))
  | none => {}

/-! ## Popularity and decisions at Seal (R272 to R275) -/

/-- E(n) of R273. -/
def State.epochOf (s : State) (n : Nat) : Nat := n / max 1 (s.field "POP_DECAY_STEPS")

/-- POP and EPOCH after the Seal of step `n` with count c (R273). -/
def popNext (e pop epoch c : Nat) : Nat × Nat :=
  let d := min 16 ((e + 2 ^ 16 - epoch % 2 ^ 16) % 2 ^ 16)
  (min 0xFFFF (pop / 2 ^ d + c), e % 2 ^ 16)

/-- The order C < W < H, F above (R252). -/
def clsRank : RowClass → Nat
  | .C => 0
  | .W => 1
  | .H => 2
  | .F => 3

/-- A class clamped to the table's bounds. -/
def clampClass (lo hi c : RowClass) : RowClass :=
  if clsRank c < clsRank lo then lo else if clsRank hi < clsRank c then hi else c

/-- The class decision of R274 from the stored class. -/
def State.classDecision (s : State) (n t : Nat) (stored : RowClass) (pop : Nat) : RowClass :=
  let lo := clsOf (s.field "TBL_CLASS_MIN" t)
  let hi := clsOf (s.field "TBL_CLASS_MAX" t)
  let c := match stored with
    | .C => if s.fieldAt n "POP_UP_W" t ≤ pop then .W else .C
    | .W => if s.fieldAt n "POP_UP_H" t ≤ pop then .H else if pop ≤ s.fieldAt n "POP_DOWN_C" t then .C else .W
    | .H => if pop ≤ s.fieldAt n "POP_DOWN_W" t then .W else .H
    | .F => .F
  clampClass lo hi c

/-- Bytes of a region that records of the device's rows use, for rows of tier `tier`. -/
def State.rowBytesUsed (s : State) (field : String) (region tier : Nat) : Nat :=
  (s.rows.filter fun x => x.2.tier == tier && s.field field x.1.1 == region).foldl
    (fun a x => a + x.2.record.bytes.length) 0

/-- Whether a table's HBM row region has room for one more record of a row (R275). -/
def State.hbmRoom (s : State) (t : Nat) (row : Row) : Bool :=
  let k := s.field "ROW_REGION_HBM" t
  s.rowBytesUsed "ROW_REGION_HBM" k 0 + row.record.bytes.length ≤ s.regionBytes k

/-- The tier decision of R275: the tier the row goes to, if it goes. -/
def State.tierDecision (s : State) (n t : Nat) (row : Row) (pop : Nat) : Option Nat :=
  if s.fieldAt n "TIER_UP_POP" t ≤ pop ∧ row.tier = 1 ∧ s.hbmRoom t row = true then some 0
  else if pop ≤ s.fieldAt n "TIER_DOWN_POP" t ∧ row.tier = 0 then some 1
  else none

/-- The replication decision of R275. -/
def State.replDecision (s : State) (n t : Nat) (row : Row) (pop : Nat) : Option Bool :=
  let up := s.fieldAt n "REPL_POP" t
  if up ≠ 0 ∧ up ≤ pop ∧ row.repl = false then some true
  else if row.repl = true ∧ pop ≤ s.fieldAt n "REPL_DROP_POP" t then some false
  else none

end Sys2Proof.Machine
end

