-- ==== Sys2Proof/Machine/Records.lean ====
section
/-! DEFINITION. The records of LKP_REQ, LKP_RSP and GRIST_ADD frames: their layout, how a sender packs them into frames, and how a
receiver joins and reads them (R404, R405). -/

namespace Sys2Proof.Machine

/-! ## Layout (R404) -/

/-- The 16-byte header of a record: TABLE, ROW and three kind bits, the halfwords of bits 64 to 111, and the last halfword. -/
def recHeader (table row kind mid last : Nat) : List Byte :=
  leBytes 16 (fld 0 12 table + fld 12 40 row + fld 52 3 kind + fld 64 48 mid + fld 112 16 last)

/-- A lookup request: VERSION_LO16 and UNIT_REF. -/
def lkpReqBytes (r : LkpReq) : List Byte := recHeader r.table r.row 0 (fld 0 16 r.ver16 + fld 16 32 r.ref) 0

/-- A lookup reply: CLASS and RECLEN, then the row record; RECLEN 0 says that the home holds no entry. -/
def lkpRspBytes (r : LkpRsp) : List Byte :=
  let mid := fld 0 16 r.ver16 + fld 16 32 r.ref
  match r.record with
  | some x => recHeader r.table r.row (clsNo x.cls) mid x.bytes.length ++ x.bytes
  | none => recHeader r.table r.row 0 mid 0

/-- The kind bits of a contribution: FMT, NONFIN and SAT. -/
def gristKind (g : Contribution) : Nat := if g.fx48 then 1 + 2 * bit g.nonfin + 4 * bit g.sat else 0

/-- A contribution: LAYOUT_EPOCH and COUNT, then its values padded with zeros to 16 B. -/
def gristBytes (g : Contribution) : List Byte :=
  recHeader g.table g.row (gristKind g) (fld 0 32 g.layEpoch + fld 32 16 g.count) (g.count / 2 ^ 16)
    ++ pad16 (packBytes (if g.fx48 then .fx48 else .fp32) g.vals)

/-! ## Sending (R405) -/

/-- A message of a record opcode sent: its record joins those that wait for the frames to that device on the opcode's virtual channel. -/
def State.emitRec (s : State) (dst : DevId) (vc opcode step : Nat) (ctx : CtxId) (bytes : List Byte) (m : Msg) : State :=
  let r : OutRec := { opcode := opcode, step := step, ctx := ctx, bytes := bytes }
  let t := s.emit [m]
  if s.fenced then t
  else { t with fab := { t.fab with outRecs := kvPut (dst, vc) (kvGet [] (dst, vc) t.fab.outRecs ++ [r]) t.fab.outRecs } }

/-- The three kinds of record sent. -/
def State.sendLkpReq (s : State) (dst : DevId) (r : LkpReq) : State := s.emitRec dst 2 0x10 r.step r.ctx (lkpReqBytes r) (.lkpReq dst r)
def State.sendLkpRsp (s : State) (dst : DevId) (step : Nat) (ctx : CtxId) (r : LkpRsp) : State :=
  s.emitRec dst 7 0x11 step ctx (lkpRspBytes r) (.lkpRsp dst r)
def State.sendGrist (s : State) (dst : DevId) (g : Contribution) : State :=
  s.emitRec dst 2 0x12 g.step g.ctx (gristBytes g) (.gristAdd dst g)

/-- Records that one frame carries: those of the first one's opcode, step and context, up to `room` bytes; what does not fit stays, marked
as begun. -/
def packFrame (room : Nat) (op step : Nat) (ctx : CtxId) : List OutRec → List Byte × List OutRec
  | [] => ([], [])
  | r :: l =>
    if r.opcode ≠ op ∨ r.step ≠ step ∨ r.ctx ≠ ctx ∨ room = 0 then ([], r :: l)
    else if r.bytes.length ≤ room then
      let x := packFrame (room - r.bytes.length) op step ctx l
      (r.bytes ++ x.1, x.2)
    else (r.bytes.take room, { r with bytes := r.bytes.drop room, begun := true } :: l)

/-- The next frame of records to a device on a virtual channel: what leads it, whether it continues a record, and its payload. -/
def State.nextPacked (s : State) (dst : DevId) (vc : Nat) : Option (OutRec × List Byte × List OutRec) :=
  match kvGet [] (dst, vc) s.fab.outRecs with
  | [] => none
  | r :: l => let x := packFrame 4096 r.opcode r.step r.ctx (r :: l)
    some (r, x.1, x.2)

/-- Records that wait dropped with the steps that `p` names (R47, R425), and parts of records of those steps received so far. -/
def State.dropRecords (s : State) (p : Nat → Bool) : State :=
  { s with fab := { s.fab with
    outRecs := s.fab.outRecs.map fun x => (x.1, x.2.filter fun r => !p r.step)
    parts := s.fab.parts.filter fun x => !p x.2.1 } }

/-! ## Receiving (R405) -/

/-- Whether frames of an opcode carry records. -/
def recordOp (op : Nat) : Bool := op == 0x10 || op == 0x11 || op == 0x12

/-- Bytes of a record by its header. -/
def State.recSize (s : State) (op h : Nat) : Nat :=
  let values := s.field "TBL_DIM" (bits h 11 0) * (if bits h 52 52 = 1 then 8 else 4)
  match op with
  | 0x11 => 16 + bits h 127 112
  | 0x12 => 16 + (values + 15) / 16 * 16
  | _ => 16

/-- The whole records at the start of bytes, and the part of a record that is left; `fuel` bounds their number. -/
def State.splitRecs (s : State) (op : Nat) : Nat → List Byte → List (List Byte) × List Byte
  | 0, b => ([], b)
  | fuel + 1, b =>
    let k := s.recSize op (leNat (b.take 16))
    if b.length < 16 ∨ b.length < k then ([], b)
    else
      let r := State.splitRecs s op fuel (b.drop k)
      (b.take k :: r.1, r.2)

/-- A record read. STEP, CONTEXT and the source are those of its frame. -/
def readRecord (f : Frame) (b : List Byte) : FabRec :=
  let h := leNat (b.take 16)
  let table := bits h 11 0
  let row := bits h 51 12
  match f.opcode with
  | 0x10 => .req { src := f.src, step := f.step, ctx := f.ctx, table := table, row := row, ver16 := bits h 79 64, ref := bits h 111 80 }
  | 0x11 =>
    let rec' : RowRec := { cls := clsOf (bits h 53 52), bytes := b.drop 16 }
    .rsp { src := f.src, table := table, row := row, ver16 := bits h 79 64, ref := bits h 111 80,
           record := if bits h 127 112 = 0 then none else some rec' }
  | _ =>
    let fx := bits h 52 52 == 1
    .add { src := f.src, table := table, row := row, step := f.step, layEpoch := bits h 95 64, ctx := f.ctx, fx48 := fx,
           nonfin := bits h 53 53 == 1, sat := bits h 54 54 == 1, count := bits h 127 96,
           vals := unpackBytes (if fx then .fx48 else .fp32) (b.drop 16) }

/-- A frame of records taken in: it is joined to the part that its predecessor of the same SRC, DST and VC left when CONT is set, the
whole records are handed to their unit, and the part left waits for the next frame. -/
def State.joinRecords (s : State) (f : Frame) : State :=
  if recordOp f.opcode then
    let old := if f.cont then (kvGet (0, []) (f.src, f.dst, f.vc) s.fab.parts).2 else []
    let b := old ++ f.payload
    let r := s.splitRecs f.opcode b.length b
    { s with fab := { s.fab with
      parts := kvPut (f.src, f.dst, f.vc) (f.step, r.2) s.fab.parts
      records := s.fab.records ++ r.1.map (readRecord f) } }
  else s

end Sys2Proof.Machine
end

