-- ==== Sys2Proof/Machine/Hash.lean ====
section
/-! DEFINITION. SHA-384 (FIPS 180-4, which the spec names), the domain-separated digest h of R341, and CRC-32C. -/

namespace Sys2Proof.Machine

/-- The initial hash value of SHA-384 (PRESUMED: FIPS 180-4, log entry 8). -/
def shaInit : List (BitVec 64) := [
  0xCBBB9D5DC1059ED8, 0x629A292A367CD507, 0x9159015A3070DD17, 0x152FECD8F70E5939,
  0x67332667FFC00B31, 0x8EB44A8768581511, 0xDB0C2E0D64F98FA7, 0x47B5481DBEFA4FA4]

/-- Round constants 0 to 19 of SHA-384. -/
def shaK0 : List (BitVec 64) := [
  0x428A2F98D728AE22, 0x7137449123EF65CD, 0xB5C0FBCFEC4D3B2F, 0xE9B5DBA58189DBBC,
  0x3956C25BF348B538, 0x59F111F1B605D019, 0x923F82A4AF194F9B, 0xAB1C5ED5DA6D8118,
  0xD807AA98A3030242, 0x12835B0145706FBE, 0x243185BE4EE4B28C, 0x550C7DC3D5FFB4E2,
  0x72BE5D74F27B896F, 0x80DEB1FE3B1696B1, 0x9BDC06A725C71235, 0xC19BF174CF692694,
  0xE49B69C19EF14AD2, 0xEFBE4786384F25E3, 0x0FC19DC68B8CD5B5, 0x240CA1CC77AC9C65]

/-- Round constants 20 to 39 of SHA-384. -/
def shaK1 : List (BitVec 64) := [
  0x2DE92C6F592B0275, 0x4A7484AA6EA6E483, 0x5CB0A9DCBD41FBD4, 0x76F988DA831153B5,
  0x983E5152EE66DFAB, 0xA831C66D2DB43210, 0xB00327C898FB213F, 0xBF597FC7BEEF0EE4,
  0xC6E00BF33DA88FC2, 0xD5A79147930AA725, 0x06CA6351E003826F, 0x142929670A0E6E70,
  0x27B70A8546D22FFC, 0x2E1B21385C26C926, 0x4D2C6DFC5AC42AED, 0x53380D139D95B3DF,
  0x650A73548BAF63DE, 0x766A0ABB3C77B2A8, 0x81C2C92E47EDAEE6, 0x92722C851482353B]

/-- Round constants 40 to 59 of SHA-384. -/
def shaK2 : List (BitVec 64) := [
  0xA2BFE8A14CF10364, 0xA81A664BBC423001, 0xC24B8B70D0F89791, 0xC76C51A30654BE30,
  0xD192E819D6EF5218, 0xD69906245565A910, 0xF40E35855771202A, 0x106AA07032BBD1B8,
  0x19A4C116B8D2D0C8, 0x1E376C085141AB53, 0x2748774CDF8EEB99, 0x34B0BCB5E19B48A8,
  0x391C0CB3C5C95A63, 0x4ED8AA4AE3418ACB, 0x5B9CCA4F7763E373, 0x682E6FF3D6B2B8A3,
  0x748F82EE5DEFB2FC, 0x78A5636F43172F60, 0x84C87814A1F0AB72, 0x8CC702081A6439EC]

/-- Round constants 60 to 79 of SHA-384. -/
def shaK3 : List (BitVec 64) := [
  0x90BEFFFA23631E28, 0xA4506CEBDE82BDE9, 0xBEF9A3F7B2C67915, 0xC67178F2E372532B,
  0xCA273ECEEA26619C, 0xD186B8C721C0C207, 0xEADA7DD6CDE0EB1E, 0xF57D4F7FEE6ED178,
  0x06F067AA72176FBA, 0x0A637DC5A2C898A6, 0x113F9804BEF90DAE, 0x1B710B35131C471B,
  0x28DB77F523047D84, 0x32CAAB7B40C72493, 0x3C9EBE0A15C9BEBC, 0x431D67C49C100D4C,
  0x4CC5D4BECB3E42B6, 0x597F299CFC657E2A, 0x5FCB6FAB3AD6FAEC, 0x6C44198C4A475817]

/-- The round constants. -/
def shaK : List (BitVec 64) := shaK0 ++ shaK1 ++ shaK2 ++ shaK3

/-- A 64-bit word of 8 bytes, most significant first. -/
def shaWord (l : List Byte) : BitVec 64 := BitVec.ofNat 64 (beNat l)

/-- The words of a byte list, `fuel` at least their number. -/
def shaWords : Nat → List Byte → List (BitVec 64)
  | 0, _ => []
  | n + 1, l => shaWord (l.take 8) :: shaWords n (l.drop 8)

/-- The padding of a message of `n` bytes. -/
def shaPad (n : Nat) : List Byte :=
  (0x80 : Byte) :: List.replicate ((239 - n % 128) % 128) 0 ++ beBytes 16 (8 * n)

/-- The message schedule after its first 16 words, newest first; `n` words remain. -/
def shaSchedule : Nat → List (BitVec 64) → List (BitVec 64)
  | 0, w => w
  | n + 1, w =>
    let g := fun i => w.getD i 0
    let a := g 14
    let b := g 1
    let s0 := (a.rotateRight 1) ^^^ (a.rotateRight 8) ^^^ (a >>> 7)
    let s1 := (b.rotateRight 19) ^^^ (b.rotateRight 61) ^^^ (b >>> 6)
    shaSchedule n ((g 15 + s0 + g 6 + s1) :: w)

/-- The eight working variables. -/
structure ShaVars where
  a : BitVec 64
  b : BitVec 64
  c : BitVec 64
  d : BitVec 64
  e : BitVec 64
  f : BitVec 64
  g : BitVec 64
  h : BitVec 64
  deriving DecidableEq, Repr

/-- One round. -/
def shaRound (v : ShaVars) (kw : BitVec 64 × BitVec 64) : ShaVars :=
  let s1 := (v.e.rotateRight 14) ^^^ (v.e.rotateRight 18) ^^^ (v.e.rotateRight 41)
  let ch := (v.e &&& v.f) ^^^ (~~~v.e &&& v.g)
  let t1 := v.h + s1 + ch + kw.1 + kw.2
  let s0 := (v.a.rotateRight 28) ^^^ (v.a.rotateRight 34) ^^^ (v.a.rotateRight 39)
  let maj := (v.a &&& v.b) ^^^ (v.a &&& v.c) ^^^ (v.b &&& v.c)
  { a := t1 + (s0 + maj), b := v.a, c := v.b, d := v.c, e := v.d + t1, f := v.e, g := v.f, h := v.g }

/-- The working variables of a hash value, and back. -/
def shaVarsOf (l : List (BitVec 64)) : ShaVars :=
  { a := l.getD 0 0, b := l.getD 1 0, c := l.getD 2 0, d := l.getD 3 0,
    e := l.getD 4 0, f := l.getD 5 0, g := l.getD 6 0, h := l.getD 7 0 }
def shaVarsList (v : ShaVars) : List (BitVec 64) := [v.a, v.b, v.c, v.d, v.e, v.f, v.g, v.h]

/-- The hash value after one block of 128 bytes. -/
def shaBlock (h : List (BitVec 64)) (block : List Byte) : List (BitVec 64) :=
  let w := (shaSchedule 64 (shaWords 16 block).reverse).reverse
  List.zipWith (· + ·) h (shaVarsList ((List.zip shaK w).foldl shaRound (shaVarsOf h)))

/-- The hash value after `n` blocks. -/
def shaBlocks : Nat → List (BitVec 64) → List Byte → List (BitVec 64)
  | 0, h, _ => h
  | n + 1, h, l => shaBlocks n (shaBlock h (l.take 128)) (l.drop 128)

/-- SHA-384 of a byte string: 48 bytes. -/
def sha384 (m : List Byte) : List Byte :=
  let p := m ++ shaPad m.length
  ((shaBlocks (p.length / 128) shaInit p).take 6).flatMap fun w => beBytes 8 w.toNat

/-- The low bit of a CRC register folded `n` times (polynomial 0x1EDC6F41, reflected). -/
def crcBits : Nat → BitVec 32 → BitVec 32
  | 0, c => c
  | n + 1, c => crcBits n (if c.getLsbD 0 then (c >>> 1) ^^^ 0x82F63B78 else c >>> 1)

/-- CRC-32C (Castagnoli) of a byte string. -/
def crc32c (m : List Byte) : Nat :=
  (~~~(m.foldl (fun c b => crcBits 8 (c ^^^ b.setWidth 32)) (0xFFFFFFFF : BitVec 32))).toNat

/-- HMAC-SHA-384 (R486; PRESUMED: RFC 2104, log entry 8). -/
def hmac384 (key msg : List Byte) : List Byte :=
  let k := if 128 < key.length then sha384 key else key
  let pad := fun x : Byte => (k ++ List.replicate (128 - k.length) 0).map fun b => b ^^^ x
  sha384 (pad 0x5C ++ sha384 (pad 0x36 ++ msg))

/-! ## The head of an image (R457, R458, R460) -/

/-- The TYPE of a section table entry (R456). -/
def sectNo : SectType → Nat
  | .device => 1
  | .context => 2
  | .job => 3
  | .member => 4
  | .layout => 5
  | .fieldIndex => 6

/-- A byte string cut or filled with zeros to `n` bytes. -/
def padTo (n : Nat) (l : List Byte) : List Byte := l.take n ++ List.replicate (n - l.length) 0

/-- A section table entry of 32 bytes (R458). -/
def sectionEntry (x : Section) : List Byte :=
  leBytes 1 (sectNo x.type) ++ leBytes 1 ((x.ctx.map (·.val)).getD 0xFF) ++ leBytes 2 0 ++ leBytes 4 x.offset ++ leBytes 4 x.length
    ++ leBytes 4 0 ++ leBytes 16 x.digest

/-- The image header of 128 bytes and the section table (R457, R458). -/
def imageHead (i : Image) : List Byte :=
  leBytes 4 1 ++ leBytes 4 i.length ++ leBytes 8 i.buildId ++ leBytes 2 i.deviceId ++ leBytes 1 (if i.package then 1 else 0) ++ leBytes 1 0
    ++ leBytes 4 i.svn ++ padTo 48 i.baseDigest ++ padTo 48 i.numericId ++ leBytes 2 i.sections.length ++ List.replicate 6 0
    ++ i.sections.flatMap sectionEntry

/-- The digest that the signature covers and that a package names as its base (R457, R460). -/
def headDigest (i : Image) : List Byte := sha384 (imageHead i)

/-- Whether the section table is well formed (R458): sections begin on 64-byte boundaries after the table, do not overlap, and end before the
signature block. -/
def tableFits (i : Image) : Bool :=
  let l := i.sections
  (l.all fun x => x.offset % 64 == 0 && decide (128 + 32 * l.length ≤ x.offset) && decide (x.offset + x.length + 128 ≤ i.length))
    && (List.range l.length).all fun a => (List.range a).all fun b => match l[a]?, l[b]? with
      | some x, some y => decide (x.offset + x.length ≤ y.offset) || decide (y.offset + y.length ≤ x.offset)
      | _, _ => true

end Sys2Proof.Machine
end

