-- ==== Sys2Proof/Machine/Weir.lean ====
section
/-! DEFINITION. Weir: the vote tree's shape, dense tensors and their homes, the reduction tree, retained roots, microprograms,
frames and scale sets (R309 to R331, R339). -/

namespace Sys2Proof.Machine

/-! ## Members and the vote tree (R339) -/

/-- A field of a member or device section of device `d`. VOTE_PARENT and BLOCK_BASE of every member are read so: a Weir
knows its children and every block range (log entry 12). -/
def State.memberField (s : State) (name : String) (d : DevId) : Nat :=
  match s.ldr.fields.find? fun f => f.inst.name == name && f.device == d
      && (f.sect == .device || (f.sect == .member && f.ctx == s.atl.runCtx)) with
  | some f => f.inst.value.headD 0
  | none => 0

/-- Parent of a device, and its children among the members. -/
def State.voteParent (s : State) (d : DevId) : DevId := s.memberField "VOTE_PARENT" d
def State.voteChildren (s : State) (d : DevId) : List DevId := s.ctl.members.filter fun c => s.voteParent c == d && c != d
/-- Whether this device is the vote root; the vote mirror's ID. -/
def State.isRoot (s : State) : Bool := s.field "VOTE_ROOT" == s.me && s.me != 0
def State.voteMirror (s : State) : DevId := s.field "VOTE_MIRROR"

/-! ## Dense tensors and their homes (R312, R313) -/

/-- Tensor numbers of the running image, ascending in the image's order. -/
def State.tensors (s : State) : List Nat :=
  (s.ldr.fields.filter fun f => f.inst.name == "DT_K" && fieldApplies s f).map fun f => f.inst.scope
/-- Tiles along n and along k; the tile index and its two parts. -/
def State.ntn (s : State) (t : Nat) : Nat := (s.field "DT_N" t + 127) / 128
def State.ntk (s : State) (t : Nat) : Nat := (s.field "DT_K" t + 127) / 128
def State.tauOf (s : State) (t tk tn : Nat) : Nat := tk * s.ntn t + tn
def State.tkOf (s : State) (t tau : Nat) : Nat := tau / max 1 (s.ntn t)
def State.tnOf (s : State) (t tau : Nat) : Nat := tau % max 1 (s.ntn t)
/-- Elements of a tile inside the tensor, along k and along n. -/
def State.tileKn (s : State) (t tau : Nat) : Nat := min 128 (s.field "DT_K" t - 128 * s.tkOf t tau)
def State.tileNn (s : State) (t tau : Nat) : Nat := min 128 (s.field "DT_N" t - 128 * s.tnOf t tau)
/-- Every tile of a tensor. -/
def State.tilesIn (s : State) (t : Nat) : List Nat := List.range (s.ntk t * s.ntn t)
/-- Whether a tensor learns. -/
def State.dtLearns (s : State) (t : Nat) : Bool := s.field "DT_LEARN" t == 1
/-- Shard, home and mirror of a tile (R313). -/
def State.tileShard (s : State) (t tau : Nat) : Nat :=
  (tau / 2 ^ s.field "DSHARD_SHIFT" t) % max 1 (s.fieldL "DSHARD_DEV" t).length
def State.tileHome (s : State) (t tau : Nat) : DevId := (s.fieldL "DSHARD_DEV" t).getD (s.tileShard t tau) 0
def State.tileMirror (s : State) (t tau : Nat) : DevId := (s.fieldL "DMIRROR_DEV" t).getD (s.tileShard t tau) 0
/-- Learning tiles that this device homes or mirrors. -/
def State.myTiles (s : State) : List (Nat × Nat) :=
  (s.tensors.filter s.dtLearns).flatMap fun t =>
    ((s.tilesIn t).filter fun u => s.tileHome t u == s.me || s.tileMirror t u == s.me).map fun u => (t, u)
/-- The tile of a frame. -/
def State.tile (s : State) (t tau : Nat) : Tile := kvGet {} (t, tau) s.weir.tiles
/-- A tile changed. -/
def State.updTile (s : State) (t tau : Nat) (f : Tile → Tile) : State :=
  s.updWeir fun w => { w with tiles := kvPut (t, tau) (f (kvGet {} (t, tau) w.tiles)) w.tiles }
/-- The frame that CUR names, and the staged one (R328). -/
def Tile.current (x : Tile) : TileFrame := if x.cur then x.b else x.a
def Tile.staged (x : Tile) : TileFrame := if x.cur then x.a else x.b
/-- A tile with its staged frame replaced. -/
def Tile.setStaged (x : Tile) (f : TileFrame) : Tile := if x.cur then { x with a := f } else { x with b := f }

/-! ## Weir's faults (R319, R347) -/

/-- WEIR_FAULT_LAST for a tile, block and kind. -/
def weirDetail (t tk tn block kind : Nat) : Nat :=
  fld 0 12 t + fld 12 16 tk + fld 28 16 tn + fld 44 16 block + fld 60 3 kind

/-- UNIT of the Weir slice that processes a tile (R309, R561). -/
def State.weirUnit (s : State) (t tau : Nat) : Nat := let _ := s; unitNo 4 ((tau + t) % 8)

/-- A fault of Weir against a tile, raised and shown in WEIR_FAULT_LAST. -/
def State.weirFault (s : State) (cls : FaultClass) (code step t tau block kind : Nat) : State :=
  let d := weirDetail t (s.tkOf t tau) (s.tnOf t tau) block kind
  (s.updWeir fun w => { w with faultLast := d }).raise cls code (s.weirUnit t tau) step d

/-- A slice or node discarded with a fault. -/
def State.weirReject (s : State) (code step t tau block kind : Nat) : State :=
  (s.updWeir fun w => { w with rejected := satAdd 0xFFFF w.rejected 1 }).weirFault .stepFatal code step t tau block kind

/-! ## The reduction tree (R315 to R320) -/

/-- BLOCK_BITS of the job. -/
def State.blockBits (s : State) : Nat := s.field "BLOCK_BITS"
/-- The members of RED_GROUP whose present blocks lie under node (level, i) of a tensor. -/
def State.under (s : State) (t level i : Nat) : List DevId :=
  (s.fieldL "RED_GROUP" t).filter fun d =>
    let b := s.memberField "BLOCK_BASE" d
    b < (i + 1) * 2 ^ level && i * 2 ^ level < b + s.mbs
/-- Whether a node has a present block. -/
def State.present (s : State) (t level i : Nat) : Bool := !(s.under t level i).isEmpty

/-- The owner that RED_ROUTE lists for a node as a triple (level, index, device), or `d` (log entry 13). -/
def routeOwner (level i : Nat) (d : DevId) : List Nat → DevId
  | l :: j :: o :: r => if l = level ∧ j = i then o else routeOwner level i d r
  | _ => d

/-- The device that computes a node (R317): a member whose range holds all its present blocks, the tile's home for the
root, else the owner in RED_ROUTE; a node that the route does not list belongs to the home. -/
def State.nodeOwner (s : State) (t tau level i : Nat) : DevId :=
  if s.blockBits ≤ level then s.tileHome t tau
  else match s.under t level i with
    | [d] => d
    | _ => routeOwner level i (s.tileHome t tau) (s.fieldL "RED_ROUTE" t)

/-- The device that a complete node goes to: the owner of its parent; the home for the root. -/
def State.nodeDest (s : State) (k : NodeKey) : DevId :=
  if s.blockBits ≤ k.level then s.tileHome k.tensor k.tau else s.nodeOwner k.tensor k.tau (k.level + 1) (k.index / 2)

/-- The bytes of FP32 values. -/
def f32Bytes (l : List F32) : List Byte := packBytes .fp32 (l.map BitVec.toNat)

/-- Reduction node `k` sent to its owner (R317). -/
def State.sendNode (s : State) (dst : DevId) (k : NodeKey) (vals : List F32) : State :=
  s.emit [.redNode dst
    { src := s.me, step := k.step, layEpoch := k.layEpoch, ctx := (s.atl.runCtx).getD 0, tensor := k.tensor,
      tileK := s.tkOf k.tensor k.tau, tileN := s.tnOf k.tensor k.tau, level := k.level, index := k.index,
      crc := crc32c (f32Bytes vals), vals := vals }]

/-- fp32_add element by element, the lower node first. -/
def addNodes (lo hi : List F32) : List F32 × Ev :=
  let l := List.zipWith f32Add lo hi
  (l.map Prod.fst, evSum l)

/-- A complete node placed (R316 to R318): sent to its owner; or, here, kept until its sibling is there, joined with it, or
passed on unchanged where the sibling is absent; a root waits for retention. `fuel` bounds the height. -/
def State.placeNode : Nat → State → NodeKey → List F32 → State
  | 0, s, _, _ => s
  | fuel + 1, s, k, vals =>
    if s.nodeDest k ≠ s.me then s.sendNode (s.nodeDest k) k vals
    else if s.blockBits ≤ k.level then
      s.updWeir fun w => { w with roots := kvPut (k.step, k.tensor, k.tau) vals w.roots }
    else
      let even := k.index % 2 == 0
      let sib := { k with index := if even then k.index + 1 else k.index - 1 }
      let par := { k with level := k.level + 1, index := k.index / 2 }
      if s.present k.tensor sib.level sib.index then
        match kvFind sib s.weir.nodes with
        | none => s.updWeir fun w => { w with nodes := kvPut k vals w.nodes }
        | some o =>
          let r := if even then addNodes vals o else addNodes o vals
          State.placeNode fuel ((s.updWeir fun w => { w with nodes := kvDel sib w.nodes }).weirEv k.step r.2) par r.1
      else State.placeNode fuel s par vals

/-- Bytes of incomplete nodes held. -/
def Weir.nodeBytes (w : Weir) : Nat := w.nodes.foldl (fun a x => a + 4 * x.2.length) 0

/-- SPILLED_KIB and CREDIT_HELD after a change (R320). -/
def State.refreshRed (s : State) : State :=
  let cap := s.field "WEIR_SRAM_RED" * 2 ^ 20
  let spill := s.weir.nodeBytes - cap
  let room := ((s.fieldL "RED_SPILL").head?.map s.regionBytes).getD 0
  s.updWeir fun w => { w with
    spilled := (spill + 1023) / 1024, creditHeld := decide (cap + room ≤ w.nodeBytes) }

/-- The checks of R319 that follow the CRC: the fault of an arriving slice or node, if it has one. `dest` is the device
that the node belongs to. -/
def State.nodeFault (s : State) (k : NodeKey) (src dest : DevId) (lay : Nat) (ctx : CtxId) : Option (Nat × Nat) :=
  if lay ≠ s.ctl.layEpoch ∨ s.atl.runCtx ≠ some ctx ∨ s.dtLearns k.tensor = false
      ∨ ¬ (src ∈ s.fieldL "RED_GROUP" k.tensor ∨ src = s.nodeOwner k.tensor k.tau k.level k.index) ∨ dest ≠ s.me then
    some (0x051, 1)
  else if k ∈ s.weir.seen then some (0x052, 2)
  else none

/-- A slice or node that passed its CRC: dropped for an aborted step, rejected, or placed in the tree. -/
def State.acceptNode (s : State) (k : NodeKey) (src dest : DevId) (lay : Nat) (ctx : CtxId) (vals : List F32) : State :=
  if (s.stepOf k.step).st = .aborting then s
  else match s.nodeFault k src dest lay ctx with
    | some f => s.weirReject f.1 k.step k.tensor k.tau k.index f.2
    | none =>
      let t := s.updWeir fun w => { w with seen := k :: w.seen }
      (State.placeNode 18 t k vals).refreshRed

/-- The key of an arriving slice: its block is BLOCK_BASE + MB (R315). -/
def State.sliceKey (s : State) (x : Slice) : NodeKey :=
  { step := x.step, tensor := x.tensor, tau := s.tauOf x.tensor x.tileK x.tileN, level := 0,
    index := s.memberField "BLOCK_BASE" x.src + x.mb, layEpoch := x.layEpoch }

/-- Whether a staged slice is the one that arrived. -/
def sliceSame (x y : Slice) : Bool :=
  x.step == y.step && x.mb == y.mb && x.tensor == y.tensor && x.tileK == y.tileK && x.tileN == y.tileN

/-- A slice leaves the staging of its engine: Weir acknowledged a good CRC. -/
def State.unstage (s : State) (x : Slice) : State :=
  { s with cores := s.cores.map fun c => (c.1, { c.2 with
      eng := c.2.eng.map fun e => (e.1, { e.2 with slices := e.2.slices.filter fun y => !sliceSame x y }) }) }

/-- SLICE_ARRIVE (R126, R319): a slice with a bad CRC is discarded and asked for again, the third time with SLICE_CRC; a
good one leaves its core's staging and is checked and placed. While credits are withheld it stays in staging (R320). -/
def execSliceArrive (x : Slice) (s : State) : Out :=
  let k := s.sliceKey x
  if s.weir.creditHeld then .next s
  else if crc32c (f32Bytes x.payload) ≠ x.crc then
    let n := kvGet 0 (k, x.src) s.weir.sliceTries + 1
    let t := s.updWeir fun w => { w with
      sliceTries := kvPut (k, x.src) n w.sliceTries, crcResends := satAdd 0xFFFF w.crcResends 1 }
    let u := t.emit [.sliceAck x.src x.step x.mb x.tensor x.tileK x.tileN false]
    .next (if n = 3 then u.weirReject 0x050 x.step x.tensor k.tau k.index 0 else u)
  else
    let t := (s.unstage x).updWeir fun w => { w with
      sliceTries := kvDel (k, x.src) w.sliceTries, slices := satAdd 0xFFFFFFFF w.slices 1 }
    .next (t.acceptNode k x.src s.me x.layEpoch x.ctx x.payload)

/-- SLICE_RESEND (R319): the core sends the staged slice again. -/
def execSliceResend (c : CoreId) (e : EngId) (step mb tensor tileK tileN : Nat) (s : State) : Out :=
  match (s.engine c e).slices.find? fun y =>
      y.step == step && y.mb == mb && y.tensor == tensor && y.tileK == tileK && y.tileN == tileN with
  | some y => .next (s.emit [.slice y])
  | none => .next s

/-- The key of an arriving node. -/
def State.redKey (s : State) (n : RedNode) : NodeKey :=
  { step := n.step, tensor := n.tensor, tau := s.tauOf n.tensor n.tileK n.tileN, level := n.level, index := n.index,
    layEpoch := n.layEpoch }

/-- RED_NODE (R317, R319): a node from another device is checked and placed; one with a bad CRC is dropped (log entry 14). -/
def execRedNode (n : RedNode) (s : State) : Out :=
  let k := s.redKey n
  if s.weir.creditHeld then .next s
  else if crc32c (f32Bytes n.vals) ≠ n.crc then .next s
  else .next (s.acceptNode k n.src (s.nodeDest k) n.layEpoch n.ctx n.vals)

/-! ## Retention (R321) -/

/-- Steps that hold a retention slot. -/
def Weir.retSteps (w : Weir) : List Nat := w.retained.foldl (fun l x => insNat x.1.1 l) []
/-- Whether a retention slot is free for a step: L + 2 slots, one for each step. -/
def State.retFree (s : State) (n : Nat) : Bool :=
  s.weir.retSteps.contains n || s.weir.retSteps.length < s.lag + 2

/-- A root written into its retention slot. -/
def State.retain (s : State) (n t tau : Nat) (vals : List F32) : State :=
  s.updWeir fun w => { w with
    retained := kvPut (n, t, tau) vals w.retained, roots := kvDel (n, t, tau) w.roots }

/-- ROOT_RETAIN (R321): the home writes a root into a free retention slot and sends it to the mirror; without a free slot
the root waits under WEIR_RET_FULL. -/
def execRootRetain (step tensor tileK tileN : Nat) (s : State) : Out :=
  let tau := s.tauOf tensor tileK tileN
  match kvFind (step, tensor, tau) s.weir.roots with
  | none => .next s
  | some v =>
    if s.retFree step then
      let m := s.tileMirror tensor tau
      .next ((s.retain step tensor tau v).emitAcked m fun tag => .retRoot m
        { src := s.me, tag := tag, step := step, tensor := tensor, tileK := tileK, tileN := tileN,
          crc := crc32c (f32Bytes v), vals := v, layEpoch := (s.stepOf step).layEpoch })
    else .next (s.weirStall [20])

/-- RET_ROOT (R321): the mirror writes the root into its own retention slot. A root with a bad CRC is dropped (log entry
14); one for a tile that the device does not mirror is misrouted, unless the device rolls the step forward as the tile's home (R358). -/
def execRetRoot (r : RetRoot) (s : State) : Out :=
  let tau := s.tauOf r.tensor r.tileK r.tileN
  if crc32c (f32Bytes r.vals) ≠ r.crc ∨ (s.stepOf r.step).st = .aborting then .next s
  else if s.tileMirror r.tensor tau ≠ s.me ∧ ¬ (s.tileHome r.tensor tau = s.me ∧ (s.stepOf r.step).rolled = true) then .next (s.weirReject 0x051 r.step r.tensor tau 0 1)
  else if s.retFree r.step then .next ((s.retain r.step r.tensor tau r.vals).emit [.ack r.src r.tag])
  else .next (s.weirStall [20])

/-! ## Microprograms (R322 to R325) -/

/-- The registers of a run. -/
structure MRegs where
  t : List F32 := List.replicate 16 0
  g : F32 := 0
  w : F32 := 0
  s : List F32 := List.replicate 4 0
  k : List F32 := List.replicate 8 0
  c : List F32 := []
  x : List F32 := List.replicate 4 0
  tcnt : F32 := 0
  deriving DecidableEq, Repr

/-- The value of an operand code (R322). -/
def MRegs.read (m : MRegs) (code : Nat) : F32 :=
  if code < 16 then m.t.getD code 0
  else if code = 16 then m.g
  else if code = 17 then m.w
  else if code < 22 then m.s.getD (code - 18) 0
  else if code < 30 then m.k.getD (code - 22) 0
  else if code < 46 then m.c.getD (code - 30) 0
  else if code = 46 then 0x3F800000
  else if code = 48 then m.tcnt
  else if 49 ≤ code ∧ code < 53 then m.x.getD (code - 49) 0
  else 0

/-- A register written. -/
def MRegs.write (m : MRegs) (code : Nat) (v : F32) : MRegs :=
  if code < 16 then { m with t := m.t.set code v }
  else if code = 17 then { m with w := v }
  else if 18 ≤ code ∧ code < 22 then { m with s := m.s.set (code - 18) v }
  else if 22 ≤ code ∧ code < 30 then { m with k := m.k.set (code - 22) v }
  else if 49 ≤ code ∧ code < 53 then { m with x := m.x.set (code - 49) v }
  else m

/-- An operand passed on by an exact operation: a NaN is canonical (R53), and reading one or an infinity is an event (R55). -/
def passF32 (ops : List F32) (x : F32) : F32 × Ev :=
  (if isNan (f32Val x) then 0x7FC00000 else x, opEv (ops.map f32Val))

/-- The result of an operation on A, B and C (R323); none writes nothing. -/
def uopResult (op : Nat) (a b c : F32) : Option F32 × Ev :=
  let one (r : F32 × Ev) : Option F32 × Ev := (some r.1, r.2)
  match op with
  | 1 => one (f32Add a b)
  | 2 => one (f32Sub a b)
  | 3 => one (f32Mul a b)
  | 4 => one (f32Fma a b c)
  | 5 => one (f32Div a b)
  | 6 => one (f32Sqrt a)
  | 7 => one (f32Min a b)
  | 8 => one (f32Max a b)
  | 9 => one (passF32 [a] (f32Neg a))
  | 10 => one (passF32 [a] (f32Abs a))
  | 11 => one (passF32 [a] a)
  | 12 => if f32Lt a b then one (passF32 [a, b, c] c) else (none, opEv [f32Val a, f32Val b])
  | _ => (none, {})

/-- One instruction (R323). -/
def uopStep (m : MRegs × Ev) (i : BitVec 32) : MRegs × Ev :=
  let v := i.toNat
  let r := uopResult (bits v 5 0) (m.1.read (bits v 17 12)) (m.1.read (bits v 23 18)) (m.1.read (bits v 29 24))
  ((r.1.map (m.1.write (bits v 11 6))).getD m.1, evAdd m.2 r.2)

/-- A program run. -/
def uopRun (p : List (BitVec 32)) (m : MRegs) : MRegs × Ev := p.foldl uopStep (m, {})

/-- An instruction word. -/
def uop (op dst a b c : Nat) : BitVec 32 :=
  BitVec.ofNat 32 (fld 0 6 op + fld 6 6 dst + fld 12 6 a + fld 18 6 b + fld 24 6 c)

/-- Preludes of the built-in programs (R325). Registers: K0 22, C0 30, ONE 46, X0 49. -/
def builtinPrelude (p : Nat) : List (BitVec 32) :=
  if p < 3 then [uop 9 22 30 0 0]
  else [uop 3 49 49 31 0, uop 3 50 50 32 0, uop 2 23 46 31 0, uop 2 24 46 32 0, uop 2 25 46 50 0, uop 2 0 46 49 0,
        uop 5 1 30 0 0, uop 9 22 1 0 0]
    ++ (if p = 4 then [uop 3 2 30 35 0, uop 9 26 2 0 0] else [])

/-- The last line of ADAM and ADAMW, and the lines before it. -/
def adamHead : List (BitVec 32) :=
  [uop 3 0 16 34 0, uop 3 1 23 0 0, uop 4 18 31 18 1, uop 3 2 0 0 0, uop 3 3 24 2 0, uop 4 19 32 19 3]
def adamTail : List (BitVec 32) := [uop 5 4 19 25 0, uop 6 5 4 0 0, uop 1 6 5 33 0, uop 5 7 18 6 0, uop 4 17 22 7 17]

/-- Main programs of the built-in programs (R325). -/
def builtinMain (p : Nat) : List (BitVec 32) :=
  match p with
  | 0 => [uop 3 0 16 34 0, uop 4 17 22 0 17]
  | 1 => [uop 3 0 16 34 0, uop 4 18 31 18 0, uop 4 17 22 18 17]
  | 2 => [uop 3 0 16 34 0, uop 4 18 0 0 18, uop 6 1 18 0 0, uop 1 2 1 33 0, uop 5 3 0 2 0, uop 4 17 22 3 17]
  | 3 => adamHead ++ adamTail
  | _ => adamHead ++ [uop 4 17 26 17 17] ++ adamTail

/-- The programs that DT_PROG names (R324). -/
def State.programs (s : State) (t : Nat) : List (BitVec 32) × List (BitVec 32) :=
  let p := s.field "DT_PROG" t
  if p < 5 then (builtinPrelude p, builtinMain p)
  else match s.jobData.uprog.find? fun x => x.1 == p with
    | some x => x.2
    | none => ([], [])

/-- DT_NSTATE with the default of the built-in program. -/
def State.nstate (s : State) (t : Nat) : Nat :=
  match s.fieldL "DT_NSTATE" t with
  | x :: _ => x
  | [] => match s.field "DT_PROG" t with
    | 1 => 1
    | 2 => 1
    | 3 => 2
    | 4 => 2
    | _ => 0

/-- X0 to X3 at job load (R325, R328). -/
def State.xInit (s : State) (t : Nat) : List F32 :=
  match s.fieldL "DT_XINIT" t with
  | [] => if s.field "DT_PROG" t = 3 ∨ s.field "DT_PROG" t = 4 then [0x3F800000, 0x3F800000, 0, 0] else [0, 0, 0, 0]
  | l => l.map (BitVec.ofNat 32)

/-- DT_CONST of a tensor in force for a step. -/
def State.dtConst (s : State) (n t : Nat) : List F32 := (s.fieldAtL n "DT_CONST" t).map (BitVec.ofNat 32)

/-! ## Working-copy formats (R89, R332; log entry 11) -/

/-- The weight record of a tensor, the format of its working copy and the rounding of its conversion. The spec names no
field that ties a tensor to its record and format; the model reads WEIGHT_RECORD and WC_FMT (log entry 11). -/
def State.weightRec (s : State) (t : Nat) : Option Nat := (s.fieldL "WEIGHT_RECORD" t).head?
def State.recFmt (s : State) (r : Nat) : ScaleFmt := scaleFmtOf (s.field "SCALE_FMT" r)
def State.wcFmt (s : State) (t : Nat) : NumFmt :=
  let plain := match fmtOf (s.field "WC_FMT" t) with
    | some .bf16 => NumFmt.bf16
    | some .fp16 => NumFmt.fp16
    | _ => NumFmt.fp32
  match s.weightRec t with
  | none => plain
  | some r => match s.recFmt r with
    | .e4m3 => .e4m3
    | .e5m2 => .e5m2
    | .e2m1 => plain
    | .i8 => .int8
    | .i4 => .int4
    | .none => plain
def State.wcKd (s : State) (n t : Nat) : Bool :=
  match s.weightRec t with
  | some r => s.fieldAt n "WC_ROUND" r == 1
  | none => false

/-- Whether a candidate master overflows in an unscaled conversion (R326). -/
def State.wcOverflow (s : State) (n t : Nat) (x : F32) : Bool :=
  let f := s.wcFmt t
  let big := if s.wcKd n t then (match f with
      | .bf16 => f32Lt 0x7F7F0000 (f32Abs x)
      | .fp16 => f32Lt 0x477FE000 (f32Abs x)
      | _ => false)
    else (match f with
      | .bf16 => f32Le 0x7F7F8000 (f32Abs x)
      | .fp16 => f32Le 0x477FF000 (f32Abs x)
      | _ => false)
  f32Finite x && big

/-! ## Candidates (R326) -/

/-- Whether version n − 1 of the masters is current on the device (R326, condition 2); a spare has it from the standby image that it
restored (R358). -/
def State.masterCurrent (s : State) (n : Nat) : Bool :=
  let p := s.stepOf (n - 1)
  decide (n - 1 ≤ s.ctl.sealed) || p.st == .seal || p.st == .sealed || (p.st == .apply && p.decided == some .skip)

/-- The scalar record of a tensor after the prelude of step `n`, run once (R325, R326), and its events. -/
def State.prelude (s : State) (n t : Nat) : Scalar × Ev :=
  let r := kvGet {} t s.weir.scalars
  if r.prelude = some n then (r, {})
  else
    let z := uopRun (s.programs t).1 { c := s.dtConst n t, x := r.xs }
    ({ r with candXs := z.1.x, ks := z.1.k, prelude := some n }, z.2)

/-- The main program on one element: gradient, master and state elements to their candidates (R326). -/
def State.mainRun (s : State) (n t : Nat) (r : Scalar) (g w : F32) (st : List F32) : F32 × List F32 × Ev :=
  let m : MRegs := { g := g, w := w, s := (st ++ [0, 0, 0, 0]).take 4, k := r.ks, c := s.dtConst n t, x := r.candXs,
                     tcnt := intToF32 (r.count + 1) }
  let z := uopRun (s.programs t).2 m
  (z.1.w, z.1.s.take st.length, z.2)

/-- The candidate frame of a tile from its current frame and its reduced gradient, with the events. -/
def State.candFrame (s : State) (n t : Nat) (r : Scalar) (f : TileFrame) (g : List F32) : TileFrame × Ev :=
  let es := (List.range f.master.length).map fun i =>
    s.mainRun n t r (g.getD i 0) (f.master.getD i 0) (f.states.map fun a => a.getD i 0)
  ({ master := es.map fun e => e.1,
     states := (List.range f.states.length).map fun j => es.map fun e => e.2.1.getD j 0 }, evSum (es.map fun e => ((), e.2.2)))

/-- OPT of a candidate (R326). -/
def State.candOpt (s : State) (n t : Nat) (r : Scalar) (f : TileFrame) : Bool :=
  !(f.master.all f32Finite && f.states.all (fun a => a.all f32Finite) && r.candXs.all f32Finite)
    || f.master.any (s.wcOverflow n t)

/-- The largest candidate magnitude noted under a weight record, at the home only (R326). -/
def State.noteMax (s : State) (n t tau : Nat) (f : TileFrame) : State :=
  match s.weightRec t with
  | none => s
  | some r =>
    if s.tileHome t tau ≠ s.me then s
    else s.updWeir fun w => { w with weightMax := kvMod noObs (n, r) (obsMax · (observe f.master)) w.weightMax }

/-- CANDIDATE_FORM (R326): with the root retained and the master current, the prelude runs once and the main program forms
the tile's candidate in the staged frame; OPT, NAN, INF and the weight maximum are noted. -/
def execCandidateForm (step tensor tileK tileN : Nat) (s : State) : Out :=
  let tau := s.tauOf tensor tileK tileN
  match kvFind (step, tensor, tau) s.weir.retained with
  | none => .next s
  | some g =>
    if s.masterCurrent step = false ∨ (s.tile tensor tau).cand = some step then .next s
    else
      let p := s.prelude step tensor
      let z := s.candFrame step tensor p.1 (s.tile tensor tau).current g
      let t := s.updWeir fun w => { w with scalars := kvPut tensor p.1 w.scalars }
      let u := t.updTile tensor tau fun x => { x.setStaged z.1 with cand := some step }
      let v := (u.weirEv step (evAdd p.2 z.2)).noteMax step tensor tau z.1
      .next (v.markFlags step { opt := s.candOpt step tensor p.1 z.1 })

/-- Learning tiles of the device without a candidate for a step (R32 item 2, WEIR_OPT_STATUS). -/
def State.candPending (s : State) (n : Nat) : List (Nat × Nat) := s.myTiles.filter fun x => (s.tile x.1 x.2).cand != some n

/-- APPLY: CUR flips, X and the counter advance (R329). -/
def State.promote (s : State) (n : Nat) : State :=
  s.updWeir fun w => { w with
    tiles := kvMap (fun _ x => if x.cand = some n then { x with cur := !x.cur, cand := none } else x) w.tiles
    scalars := kvMap (fun _ r => if r.prelude = some n then
        { r with xs := r.candXs, count := min (2 ^ 32 - 1) (r.count + 1), prelude := none } else r) w.scalars }

/-- Candidates of steps from `n` up discarded: by SKIP of their step or by an abort (R329, R47). -/
def State.dropCands (s : State) (p : Nat → Bool) : State :=
  s.updWeir fun w => { w with
    tiles := kvMap (fun _ x => if (x.cand.map p).getD false then { x with cand := none } else x) w.tiles
    scalars := kvMap (fun _ r => if (r.prelude.map p).getD false then { r with prelude := none } else r) w.scalars
    weightMax := w.weightMax.filter fun x => !p x.1.1 }

/-! ## Scale sets (R331, R338) -/

/-- Number of scale records of the job. -/
def State.recCount (s : State) : Nat :=
  (s.ldr.fields.filter fun f => f.inst.name == "SCALE_FMT" && fieldApplies s f).foldl (fun a f => max a (f.inst.scope + 1)) 0

/-- The kind of a record: the model reads SCALE_KIND (log entry 11). -/
def State.recKind (s : State) (r : Nat) : ScaleKind := match s.field "SCALE_KIND" r with
  | 0 => .weight
  | 1 => .activation
  | _ => .gradient

/-- The policy of a record that governs a step (R102). -/
def State.policy (s : State) (n r : Nat) : ScalePolicy :=
  { fmt := s.recFmt r, kind := s.recKind r, margin := s.fieldAt n "SCALE_MARGIN" r,
    epsInit := s.fieldIntAt n "EPS_INIT" r, zp := toSigned 16 (s.field "SCALE_ZP" r) }

/-- The rescale pairs of the combinations that the image names, as triples of record IDs (R97; log entry 11). -/
def pairsOf (recs : List ScaleRec) : List Nat → List RescalePair
  | a :: w :: o :: l =>
    match recs[a]?, recs[w]?, recs[o]? with
    | some x, some y, some z =>
      let p := rescalePair x y z
      { recA := a, recW := w, recO := o, m := p.1, sh := p.2 } :: pairsOf recs l
    | _, _, _ => pairsOf recs l
  | _ => []

/-- The scale digest Z (R341). -/
def scaleDigest (recs : List ScaleRec) (hist : List (List F32)) (backoff decay : Nat) : List Byte :=
  sha384 ([2] ++ recs.flatMap scaleRecBytes ++ hist.flatMap (fun h => BitVec.ofNat 8 h.length :: f32Bytes h)
    ++ leBytes 1 backoff ++ leBytes 2 decay)

/-- A record derived from its history, and whether it was clamped; a weight record with a record in `old` keeps it (R88). -/
def State.deriveOne (s : State) (n backoff : Nat) (hist : List (List F32)) (old : List ScaleRec) (r : Nat) : ScaleRec × Bool :=
  match old[r]? with
  | some x => if s.recKind r = .weight then (x, false) else deriveRec (s.policy n r) (hist.getD r []) backoff
  | none => deriveRec (s.policy n r) (hist.getD r []) backoff

/-- Scale records derived from histories, with the number of clamped derivations (R83). -/
def State.deriveSet (s : State) (n version backoff decay : Nat) (hist : List (List F32)) (old : List ScaleRec) : ScaleSet × Nat :=
  let ds := (List.range s.recCount).map (s.deriveOne n backoff hist old)
  let recs := ds.map Prod.fst
  ({ version := version, recs := recs, hist := hist, backoff := backoff, decay := decay,
     pairs := pairsOf recs (s.fieldL "RESCALE_PAIRS"), digest := scaleDigest recs hist backoff decay },
   (ds.filter Prod.snd).length)

/-- The scale set of version `n` at the vote root (R82, R87, R331, R338): the histories after the step, the backoff, and
the records, of which a skip leaves the weight records as they were (R88; log entry 115); with the clamps, and whether
SCALE_BACKOFF_LIMIT is raised. -/
def State.scaleNext (s : State) (n : Nat) (skip : Bool) (maxima weights : List F32) : (ScaleSet × Nat) × Bool :=
  match kvFind (n - 1) s.weir.scaleSets with
  | none => (s.deriveSet n n 0 0 [] [], false)
  | some p =>
    let b := backoffNext skip (s.field "BACKOFF_MAX") (s.fieldAt n "BACKOFF_DECAY") p.backoff p.decay
    let hist := (List.range s.recCount).map fun r =>
      let h := p.hist.getD r []
      let obs := if skip then noObs else (if s.recKind r = .weight then weights else maxima).getD r noObs
      histPush (s.field "SCALE_HISTORY") obs h
    (s.deriveSet n n b.1 b.2.1 hist (if skip then p.recs else []), b.2.2)

/-- Records by MAX (R81). -/
def maxRecords (a b : List F32) : List F32 :=
  (List.range (max a.length b.length)).map fun i => obsMax (a.getD i noObs) (b.getD i noObs)

/-- The weight maxima record of this device for a step (R331). -/
def State.ownWeights (s : State) (n : Nat) : List F32 :=
  (List.range s.recCount).map fun r => kvGet noObs (n, r) s.weir.weightMax

/-- The weight maxima records gathered for a step, and whether own and every child's are there. -/
def State.weightsHeld (s : State) (n : Nat) : List (DevId × List F32) := kvGet [] n s.weir.weightRecv
def State.weightsAll (s : State) (n : Nat) : Bool :=
  (s.me :: s.voteChildren s.me).all fun d => (s.weightsHeld n).any fun x => x.1 == d
/-- The reduced weight maxima of a step. -/
def State.weightsMax (s : State) (n : Nat) : List F32 := (s.weightsHeld n).foldl (fun a x => maxRecords a x.2) []

/-- A weight maxima record gathered; once all are there, a Weir below the root sends the maximum up (R331, R339). -/
def State.gatherWeights (s : State) (n : Nat) (d : DevId) (l : List F32) (word : VoteWord) : State :=
  if (s.weightsHeld n).any fun x => x.1 == d then s
  else
    let t := s.updWeir fun w => { w with weightRecv := kvMod [] n (· ++ [(d, l)]) w.weightRecv }
    if t.weightsAll n ∧ t.isRoot = false then
      t.emit [.vote (t.voteParent t.me)
        { child := t.me, weights := true, word := word, maxima := t.weightsMax n, diffEpoch := false, diffLayout := false }]
    else t

end Sys2Proof.Machine
end

