-- ==== Sys2Proof/Machine/Ring.lean ====
section
/-! DEFINITION. Working copies, source copies, the version ring and the arrival of scale sets (R331 to R338, R573). -/

namespace Sys2Proof.Machine

/-! ## Keys and digests of a unit (R341, R342) -/

/-- Keys of a row, a tile and a scalar record (R341). -/
def rowKey (t r : Nat) : Nat := t * 2 ^ 40 + r
def tileKey (t tk tn : Nat) : Nat := 2 ^ 63 + t * 2 ^ 40 + tk * 2 ^ 16 + tn
def scalarKey (t : Nat) : Nat := 2 ^ 63 + 2 ^ 62 + t * 2 ^ 40

/-- The FMT value of a format (R171). -/
def fmtNo : NumFmt → Nat
  | .fp32 => 0
  | .m19 => 1
  | .bf16 => 2
  | .fp16 => 3
  | .e4m3 => 4
  | .e5m2 => 5
  | .e2m1 => 6
  | .int8 => 7
  | .int4 => 8
  | .int32 => 9
  | .fx48 => 10

/-- Column sums as stored: 16-bit two's complement (R333). -/
def csumBytes (l : List Int) : List Byte := l.flatMap fun c => leBytes 2 (ofSigned 16 c)

/-- The bytes of a tile's codes and column sums. -/
def wcBytes (f : NumFmt) (codes : List Nat) (csums : List Int) : List Byte := packBytes f codes ++ csumBytes csums

/-- The tile digest of R342. -/
def wcDigest (f : NumFmt) (key version : Nat) (codes : List Nat) (csums : List Int) : List Byte :=
  (sha384 ([3] ++ leBytes 8 key ++ leBytes 6 version ++ leBytes 1 (fmtNo f) ++ wcBytes f codes csums)).take 16

/-! ## Conversion of a tile (R332) -/

/-- One element of a master as a code of the working copy of version `n`, with the event of its conversion (R77). -/
def State.wcConv (s : State) (n t k j : Nat) (x : F32) : Nat × Ev :=
  let rnd := if s.wcKd n t then Rnd.kd (dither24 s.seed n t k j true) else .rne
  match s.wcFmt t with
  | .fp32 => (x.toNat, {})
  | .bf16 => toBF16 rnd x
  | .fp16 => toFP16 rnd x
  | _ => match (s.weightRec t).bind (s.scaleRec n) with
    | some r => narrowCode r rnd x
    | none => (0, {})
def State.wcElem (s : State) (n t k j : Nat) (x : F32) : Nat := (s.wcConv n t k j x).1

/-- Codes of a list from index `j` up. -/
def wcRow (f : Nat → F32 → Nat) : Nat → List F32 → List Nat
  | _, [] => []
  | j, x :: l => f j x :: wcRow f (j + 1) l

/-- A row of codes padded to 128 with code 0 (R333). -/
def pad128 (l : List Nat) : List Nat := l ++ List.replicate (128 - l.length) 0

/-- Rows of `w` elements. -/
def cutRows {α : Type} (w : Nat) : Nat → List α → List (List α)
  | 0, _ => []
  | r + 1, l => l.take w :: cutRows w r (l.drop w)

/-- Rows from index `i` up. -/
def wcRows (f : Nat → Nat → F32 → Nat) : Nat → List (List F32) → List (List Nat)
  | _, [] => []
  | i, r :: l => pad128 (wcRow (f i) 0 r) :: wcRows f (i + 1) l

/-- The 128 rows of codes of a tile of version `n`. -/
def State.wcCodeRows (s : State) (n t tau : Nat) (master : List F32) : List (List Nat) :=
  let k0 := 128 * s.tkOf t tau
  let n0 := 128 * s.tnOf t tau
  let rows := wcRows (fun i j x => s.wcElem n t (k0 + i) (n0 + j) x) 0 (cutRows (s.tileNn t tau) (s.tileKn t tau) master)
  rows ++ List.replicate (128 - rows.length) (List.replicate 128 0)

/-- The events of converting a master (R77). -/
def State.wcEvents (s : State) (n t tau : Nat) (master : List F32) : Ev :=
  let k0 := 128 * s.tkOf t tau
  let n0 := 128 * s.tnOf t tau
  evSum ((cutRows (s.tileNn t tau) (s.tileKn t tau) master).zipIdx.flatMap fun r =>
    r.1.zipIdx.map fun x => s.wcConv n t (k0 + r.2) (n0 + x.2) x.1)

/-- A working-copy tile of version `n` formed from a master (R332, R333). -/
def State.wcForm (s : State) (n t tau tag : Nat) (master : List F32) : WcTile :=
  let f := s.wcFmt t
  let rows := s.wcCodeRows n t tau master
  let codes := rows.flatMap id
  let cs := if intFmt f then columnSums f rows else []
  { src := s.me, tag := tag, tensor := t, tileK := s.tkOf t tau, tileN := s.tnOf t tau, version := n, codes := codes,
    csums := cs, digest := wcDigest f (tileKey t (s.tkOf t tau) (s.tnOf t tau)) n codes cs,
    check := crc32c (wcBytes f codes cs) }

/-! ## The version ring (R335) -/

/-- The entry of a version: in the ring, or the one that arrives. -/
def State.entryOf (s : State) (v : Nat) : Option RingEntry :=
  match s.weir.ring.find? fun x => x.2.version == v && x.2.state != .empty with
  | some x => some x.2
  | none => match s.weir.arriving with
    | some e => if e.version = v then some e else none
    | none => none

/-- Whether a version is INSTALLED in the ring. -/
def State.installed (s : State) (v : Nat) : Bool :=
  s.weir.ring.any fun x => x.2.version == v && x.2.state == .installed

/-- Entries in use. -/
def Weir.entries (w : Weir) : List RingEntry := (w.ring.map Prod.snd).filter (·.state != .empty) ++ w.arriving.toList

/-- The entry whose storage slot holds the tiles of a version: its own, or that of a skipped version that shares them (R338). -/
def State.storedAs (s : State) (v : Nat) : Option RingEntry :=
  (s.entryOf v).orElse fun _ => s.weir.entries.find? fun e => e.origin == v

/-- The working-copy slot of a tensor in a version; a tensor that does not learn keeps that of version s0 (R573). -/
def State.wcSlotOf (s : State) (v t : Nat) : Option Nat :=
  if s.dtLearns t then (s.storedAs v).map (·.wcSlot) else some 0

/-- A stored tile of a version. -/
def State.ringTile (s : State) (v t tau : Nat) : Option StoredTile :=
  match s.wcSlotOf v t with
  | some k => kvFind (t, k, tau) s.weir.stored
  | none => none

/-- The lowest of five slots that a list does not name. -/
def freeOf5 (used : List Nat) : Nat := (firstNat (fun k => !used.contains k) 5 0).getD 0

/-- Version `v` begins to arrive (R335, R338): into slots that no entry references, or, for a skipped step, with the
storage slot of the version before. It takes an EMPTY entry while there is one. -/
def State.beginArrival (s : State) (v : Nat) (skipped : Bool) : State :=
  if (s.entryOf v).isSome then s
  else
    let es := s.weir.entries
    let prev := (s.entryOf (v - 1)).getD {}
    let e : RingEntry :=
      { version := v, wcSlot := if skipped then prev.wcSlot else freeOf5 (es.map (·.wcSlot)),
        ssSlot := freeOf5 (es.map (·.ssSlot)), state := .arriving, skipped := skipped, origin := if skipped then prev.origin else v }
    match firstNat (fun k => (kvGet {} k s.weir.ring).state == .empty) 4 0 with
    | some k => s.updWeir fun w => { w with ring := kvPut k e w.ring }
    | none => s.updWeir fun w => { w with arriving := some e }

/-- Tensors whose WC_GROUP includes the device and whose tiles version `v` brings. -/
def State.wcExpected (s : State) (v : Nat) : List Nat :=
  s.tensors.filter fun t => (s.fieldL "WC_GROUP" t).contains s.me && (s.dtLearns t || v == s.ctl.s0)

/-- Whether every tile and the scale set of a version are there (R334, R338), and no repair of it runs (R362). -/
def State.versionComplete (s : State) (e : RingEntry) : Bool :=
  s.weir.ssChecked.contains e.version && (kvGet {} e.version s.weir.digests).repairing == []
    && (e.skipped || (s.wcExpected e.version).all fun t => (s.tilesIn t).all fun u => s.weir.wcGot.contains (e.version, t, u))

/-- Whether a ring repair of a version is under way (R346). -/
def State.ringRepairs (s : State) (v : Nat) : Bool :=
  s.cores.any fun c => c.2.feed.queue.any fun x => x.repair && (match x.target with
    | .ring _ _ w => w == v
    | .range _ _ => false)

/-- The index of the oldest version in the ring. -/
def Weir.oldest (w : Weir) : Option (Nat × RingEntry) :=
  w.ring.foldl (fun a x => match a with
    | none => some x
    | some y => if x.2.version < y.2.version then some x else some y) none

/-- What no entry references any more is freed: storage, scale sets, source copies (R335, R336). -/
def State.freeRing (s : State) : State :=
  let es := s.weir.entries
  let vs := es.map (·.version)
  let slots := es.map (·.wcSlot)
  let lo := (es.map (·.origin)).foldl min (vs.headD 0)
  s.updWeir fun w => { w with
    stored := w.stored.filter fun x => slots.contains x.1.2.1 || !s.dtLearns x.1.1
    scaleSets := w.scaleSets.filter fun x => vs.contains x.1
    wcGot := w.wcGot.filter fun x => lo ≤ x.1
    ssChecked := w.ssChecked.filter fun v => lo ≤ v
    used := w.used.filter fun x => lo ≤ x.2.1
    sources := w.sources.filter fun x => lo ≤ x.1.1
      || !(w.sources.any fun y => y.1.2 == x.1.2 && x.1.1 < y.1.1 && y.1.1 ≤ lo) }

/-- Every complete arriving version installed (R334, R335): an entry in the ring in place, the arriving one over the oldest
version unless a ring repair of that version runs. -/
def State.tryInstall (s : State) : State :=
  let t := s.updWeir fun w => { w with
    ring := kvMap (fun _ e => if e.state = .arriving ∧ s.versionComplete e = true then { e with state := .installed } else e)
      w.ring }
  match t.weir.arriving, t.weir.oldest with
  | some e, some o =>
    if t.versionComplete e = true ∧ t.ringRepairs o.2.version = false then
      (t.updWeir fun w => { w with ring := kvPut o.1 { e with state := .installed } w.ring, arriving := none }).freeRing
    else t
  | _, _ => t

/-! ## Broadcast and arrival of tiles (R332 to R334) -/

/-- Devices that a home's tiles go to from one device, by triples (home, from, to) of WC_ROUTE (log entry 13). -/
def wcNext (home via : DevId) : List Nat → List DevId
  | h :: f :: d :: l => if h = home ∧ f = via then d :: wcNext home via l else wcNext home via l
  | _ => []

/-- Where this device sends or replicates a tile of a home; without a route the home sends to the whole group. -/
def State.wcTargets (s : State) (t : Nat) (home : DevId) : List DevId :=
  match s.fieldL "WC_ROUTE" t with
  | [] => if home = s.me then (s.fieldL "WC_GROUP" t).filter (· != s.me) else []
  | l => wcNext home s.me l

/-- A fresh tag for a frame that awaits an acknowledgement. -/
def State.takeTag (s : State) : Nat × State := (s.fab.counter, s.updFab fun f => { f with counter := f.counter + 1 })

/-- A tile written into the storage slot of its version (R333, R334). -/
def State.storeTile (s : State) (x : WcTile) : State :=
  let tau := s.tauOf x.tensor x.tileK x.tileN
  match s.wcSlotOf x.version x.tensor with
  | none => s
  | some k => s.updWeir fun w => { w with
      stored := kvPut (x.tensor, k, tau) { codes := x.codes, csums := x.csums, digest := x.digest, check := x.check } w.stored
      wcGot := addNew (x.version, x.tensor, tau) w.wcGot
      wcTries := kvDel (x.version, x.tensor, tau) w.wcTries }

/-- A tile sent out by its home: source copy kept, every member of the group owes an acknowledgement (R332, R334, R336). -/
def State.sendTile (s : State) (n t tau : Nat) (master : List F32) : State :=
  let g := s.takeTag
  let x := s.wcForm n t tau g.1 master
  let grp := s.fieldL "WC_GROUP" t
  let owe := grp.filter (· != s.me)
  let keep : Unacked := { msg := .wcTile 0 x, deadline := s.now + s.ackLimit, limit := s.ackLimit }
  let u := ((g.2.weirEv n (s.wcEvents n t tau master)).updWeir fun w => { w with
      sources := kvPut (n, t, tau) x w.sources
      wcAcks := owe.foldl (fun m d => kvPut (g.1, d) (n, t, tau) m) w.wcAcks }).updFab fun f => { f with
    unacked := owe.foldl (fun m d => kvPut (g.1, d) { keep with msg := .wcTile d x } m) f.unacked }
  let v := u.emit ((s.wcTargets t s.me).map fun d => .wcTile d x)
  if grp.contains s.me then v.storeTile x else v

/-- The loaded master of a tile from the tensor initialiser (R328), zeros where the image holds none. -/
def State.initTile (s : State) (t tau : Nat) : TileFrame :=
  let n := s.tileKn t tau * s.tileNn t tau
  let zero := List.replicate n 0
  let none' : TileFrame := { master := zero, states := List.replicate (s.nstate t) zero }
  match s.jobData.tileInit.find? fun x => x.tensor == t && s.tauOf t x.tileK x.tileN == tau with
  | some x => { master := x.master, states := if x.states = [] then none'.states else x.states }
  | none => none'

/-- The master that version `n`'s working copy of a tile comes from: the current frame, or the initialiser's for a tensor
that does not learn (R573). -/
def State.masterOf (s : State) (t tau : Nat) : List F32 :=
  if s.dtLearns t then (s.tile t tau).current.master else (s.initTile t tau).master

/-- Tiles that this device homes and converts for version `v`. -/
def State.homeTiles (s : State) (v : Nat) : List (Nat × Nat) :=
  (s.tensors.filter fun t => s.dtLearns t || v == s.ctl.s0).flatMap fun t =>
    ((s.tilesIn t).filter fun u => s.tileHome t u == s.me).map fun u => (t, u)

/-- Every tile of version `v` that the device homes, converted and broadcast. -/
def State.convertVersion (s : State) (v : Nat) : State :=
  (s.homeTiles v).foldl (fun a x => a.sendTile v x.1 x.2 (a.masterOf x.1 x.2)) s

/-- The source copy that serves a version: that of the newest converted version up to it, since a skipped version shares the
storage of the one before (R336, R338). -/
def State.sourceOf (s : State) (v t tau : Nat) : Option WcTile :=
  s.weir.sources.foldl (fun a x =>
    if x.1.2 = (t, tau) ∧ x.1.1 ≤ v ∧ (match a with
      | none => true
      | some y => decide (y.version ≤ x.1.1)) = true then some x.2 else a) none

/-- A repair of a step added to those that Atluta records (R366): entries of one KIND and KEY count up. -/
def addRepair (kind : Nat) (dev : DevId) (key : Nat) : List (Nat × DevId × Nat × Nat) → List (Nat × DevId × Nat × Nat)
  | [] => [(kind, dev, 1, key)]
  | x :: l =>
    if x.1 = kind ∧ x.2.2.2 = key then (x.1, x.2.1, min 255 (x.2.2.1 + 1), x.2.2.2) :: l else x :: addRepair kind dev key l

/-- A repair of step `n` recorded. -/
def State.repair (s : State) (n kind : Nat) (dev : DevId) (key : Nat) : State :=
  s.updStep n fun p => { p with repairs := addRepair kind dev key p.repairs }

/-- The digest work of a step. -/
def State.digestOf (s : State) (n : Nat) : DigestSt := kvGet {} n s.weir.digests
/-- The digest work of a step changed. -/
def State.updDigest (s : State) (n : Nat) (f : DigestSt → DigestSt) : State :=
  s.updWeir fun w => { w with digests := kvMod {} n f w.digests }

/-- A use of a tensor's tiles or of a shard's replicated rows in a version by a micro-batch noted, for R363. -/
def State.noteUse (s : State) (rows : Bool) (v table shard : Nat) : State :=
  s.updWeir fun w => { w with used := addNew (rows, v, table, shard) w.used }

/-- The entry of version `v` back to ARRIVING for a repair of this device (R362, item 2): the unit being repaired is noted,
and for working copies the tensor's tiles are awaited again. -/
def State.beginRepair (s : State) (v : Nat) (rows : Bool) (table shard : Nat) : State :=
  (s.updDigest v fun d => { d with repairing := addNew (rows, table, shard, s.me) d.repairing }).updWeir fun w => { w with
    ring := kvMap (fun _ e => if e.version = v then { e with state := .arriving } else e) w.ring
    wcGot := if rows then w.wcGot else w.wcGot.filter fun x => !(x.1 == v && x.2.1 == table) }

/-- Homes of a tensor's tiles. -/
def State.homesOf (s : State) (t : Nat) : List DevId :=
  (s.tilesIn t).foldl (fun l u => addNew (s.tileHome t u) l) []

/-- A working-copy divergence of this device: REPLICA_DIVERGE, the entry back to ARRIVING, and every home asked for the
tensor's tiles (R334, R362). -/
def State.wcDiverged (s : State) (v t : Nat) : State :=
  let u := (s.raise .correctable 0x060 (unitNo 4 0) v t).beginRepair v false t 0
  (u.updWeir fun w => { w with wcRepairs := satAdd 0xFFFF w.wcRepairs 1 }).emitEach (s.homesOf t) fun h tag =>
    .digest h tag (.differ s.me v false t 0 s.me [])

/-- A tile whose digest differs (R334): WC_ARRIVAL, and a resend asked for; after two resends it is a differing replica. -/
def State.badTile (s : State) (x : WcTile) : State :=
  let tau := s.tauOf x.tensor x.tileK x.tileN
  let k := (x.version, x.tensor, tau)
  let n := kvGet 0 k s.weir.wcTries
  let t := s.weirFault .correctable 0x053 x.version x.tensor tau 0 3
  if n < 2 then
    ((t.updWeir fun w => { w with
        wcTries := kvPut k (n + 1) w.wcTries, bcastResends := satAdd 0xFFFF w.bcastResends 1 }).repair
      x.version 0 s.me (tileKey x.tensor x.tileK x.tileN)).emit
      [.wcAsk (s.tileHome x.tensor tau) x.tensor x.tileK x.tileN x.version]
  else (t.updWeir fun w => { w with wcTries := kvDel k w.wcTries }).wcDiverged x.version x.tensor

/-- WC_TILE (R332, R334): the tile is replicated along the route; its digest is formed again over the bytes that arrived;
when they agree the tile is written, acknowledged and counted, and a complete version is installed. A tile of a version that
the ring does not hold is discarded. -/
def execWcTile (x : WcTile) (s : State) : Out :=
  let t := (s.updWeir fun w => { w with bcastTiles := satAdd 0xFFFFFFFF w.bcastTiles 1 }).emit
    ((s.wcTargets x.tensor x.src).map fun d => .wcTile d x)
  if (s.wcSlotOf x.version x.tensor).isNone then .next t
  else if wcDigest (s.wcFmt x.tensor) (tileKey x.tensor x.tileK x.tileN) x.version x.codes x.csums = x.digest then
    .next ((t.storeTile x).emit [.ack x.src x.tag]).tryInstall
  else .next (t.badTile x)

/-- WC_RESEND (R334, R336): the home sends the tile again from the source copy of the version concerned. -/
def execWcResend (dst : DevId) (tensor tileK tileN version : Nat) (s : State) : Out :=
  match s.sourceOf version tensor (s.tauOf tensor tileK tileN) with
  | some x => .next (s.emit [.wcTile dst x])
  | none => .next s

/-! ## Scale sets (R331, R338, R360) -/

/-- A scale set that passed its digest check: kept, sent on down the vote tree, and for an applied step every homed tile is
converted; a complete version is installed. -/
def State.acceptSet (s : State) (x : ScaleSet) : State :=
  if s.weir.ssChecked.contains x.version then s
  else
    let t := (s.updWeir fun w => { w with
        scaleSets := kvPut x.version x w.scaleSets, ssChecked := insNat x.version w.ssChecked, ssTries := 0 }).emitEach
      (s.voteChildren s.me) fun d tag => .scaleSet d tag x
    let skipped := ((t.entryOf x.version).map (·.skipped)).getD false
    (if skipped then t else t.convertVersion x.version).tryInstall

/-- Whether a set's scale digest is that of its content (R341). -/
def setGood (x : ScaleSet) : Bool := scaleDigest x.recs x.hist x.backoff x.decay == x.digest

/-- SCALE_SET_DERIVE (R331): once every weight maxima record is there, the vote root derives the set of an applied step and
broadcasts it. -/
def execScaleSetDerive (step : Nat) (s : State) : Out :=
  let p := s.stepOf step
  if s.isRoot ∧ p.decided = some .apply ∧ s.weightsAll step = true ∧ s.weir.ssChecked.contains step = false then
    let maxima := ((kvFind step s.ctl.rootDecided).map (·.maxima)).getD []
    let z := s.scaleNext step false maxima (s.weightsMax step)
    .next ((s.updWeir fun w => { w with clamps := satAdd 0xFFFF w.clamps z.1.2 }).acceptSet z.1.1)
  else .next s

/-- A set that failed its digest check (R360): asked for again twice, then REPLICA_FAULT against this device. -/
def State.badSet (s : State) (v : Nat) : State :=
  if s.weir.ssTries < 2 then
    (s.updWeir fun w => { w with ssTries := w.ssTries + 1 }).emit [.setAsk (s.field "VOTE_ROOT") v]
  else s.raise .deviceFatal 0x061 (unitNo 4 0) v 0

/-- SCALE_SET_ARRIVE (R331): a device checks the scale digest of the set of a version that arrives. -/
def execScaleSetArrive (tag : Nat) (x : ScaleSet) (s : State) : Out :=
  if (s.entryOf x.version).isNone then .next s
  else if setGood x then .next ((s.acceptSet x).emit [.ack (s.voteParent s.me) tag])
  else .next (s.badSet x.version)

/-! ## Version s0 (R84, R328, R573) -/

/-- Observations of step s0: the maxima of the loaded masters of every tensor under a weight record. -/
def State.loadMax (s : State) (r : Nat) : F32 :=
  (s.tensors.filter fun t => s.weightRec t == some r).foldl (fun a t =>
    (s.tilesIn t).foldl (fun b u => obsMax b (observe (s.initTile t u).master)) a) noObs

/-- The histories, backoff and decay count of version s0: a snapshot's, else the loaded masters' maxima. -/
def State.loadHist (s : State) : List (List F32) × Nat × Nat :=
  match s.jobData.histInit with
  | some h => h
  | none => ((List.range s.recCount).map fun r =>
      if s.recKind r = .weight then histPush (s.field "SCALE_HISTORY") (s.loadMax r) [] else [], 0, 0)

/-- The scalar record of a tensor at job load. -/
def State.initScalar (s : State) (t : Nat) : Scalar :=
  match s.jobData.scalarInit.find? fun x => x.1 == t with
  | some x => { count := x.2.1, xs := x.2.2 }
  | none => { xs := s.xInit t }

/-- Weir at the load of a job: frames, scalar records, the scale set of s0, and the working copies of s0 sent by their
homes. -/
def State.weirLoad (s : State) : State :=
  let t := s.updWeir fun w => { w with
    nodes := [], seen := [], sliceTries := [], retained := [], roots := [], ring := [], arriving := none, stored := []
    scaleSets := [], sources := [], wcTries := [], wcAcks := [], wcGot := [], ssChecked := [], digests := []
    weightMax := [], weightRecv := [], rebuilding := []
    tiles := s.myTiles.map fun x => (x, { a := s.initTile x.1 x.2, b := s.initTile x.1 x.2 })
    scalars := s.tensors.map fun u => (u, s.initScalar u) }
  let u := t.beginArrival s.ctl.s0 false
  let h := u.loadHist
  let z := u.deriveSet s.ctl.s0 s.ctl.s0 h.2.1 h.2.2 h.1 []
  ((u.updWeir fun w => { w with clamps := z.2, scaleSets := kvPut s.ctl.s0 z.1 w.scaleSets,
                                ssChecked := [s.ctl.s0] }).convertVersion s.ctl.s0).tryInstall

end Sys2Proof.Machine
end

