-- ==== Sys2Proof/Machine/Sparse.lean ====
section
/-! DEFINITION. Sparse updates: Grist sets, the screen and the log reservation, the Apply of rows, replicas, and what a Seal
does to rows (R263, R264, R272 to R276, R282 to R306). -/

namespace Sys2Proof.Machine

/-! ## Faults of lookups (R271, R280) -/

/-- QRN_FAULT_LAST (R280). -/
def qrnDetail (t bag pos kind core mb : Nat) : Nat :=
  fld 0 12 t + fld 12 14 bag + fld 26 13 pos + fld 39 2 kind + fld 41 5 core + fld 46 3 mb

/-- A fault of a lookup unit, raised at the front Quern and shown in its registers. -/
def State.qrnFault (s : State) (q : QuernId) (code n detail index : Nat) : State :=
  (s.updQuern q fun k => { k with faultLast := detail, faultIndex := index }).raise .stepFatal code (unitNo 3 q.val) n detail index

/-! ## Grist sets (R286 to R293) -/

/-- The set of a step at a Quern; and a set changed. -/
def Quern.set' (k : Quern) (n : Nat) : GSet := kvGet {} n k.sets
def State.updSet (s : State) (q : QuernId) (n : Nat) (f : GSet → GSet) : State :=
  s.updQuern q fun k => { k with sets := kvMod {} n f k.sets }

/-- Whether a set holds a set slot: it has received a contribution (R288). -/
def GSet.slotted (g : GSet) : Bool := !g.received.isEmpty
/-- Set slots in use. -/
def Quern.slotsUsed (k : Quern) : Nat := (k.sets.filter fun x => x.2.slotted).length
/-- Whether a contribution to step `n` finds a set slot (R288). -/
def State.slotFor (s : State) (q : QuernId) (n : Nat) : Bool :=
  ((s.quern q).set' n).slotted || (s.quern q).slotsUsed < s.lag + 2

/-- Bytes of an entry of `d` elements (R289), and of a set. -/
def entryBytes (d : Nat) : Nat := 16 + 8 * d
def GSet.bytes (g : GSet) : Nat := g.entries.foldl (fun a e => a + entryBytes e.2.vals.length) 0

/-- Whether a member is complete for a set (R286). -/
def GSet.complete (g : GSet) (d : DevId) : Bool := match kvFind d g.markers with
  | some m => m ≤ kvGet 0 d g.received
  | none => false
/-- Whether every member is complete at a Quern for a step (R32, item 1). -/
def State.setComplete (s : State) (q : QuernId) (n : Nat) : Bool :=
  s.ctl.members.all fun d => ((s.quern q).set' n).complete d

/-- GRIST_FAULT_LAST (R307). -/
def gristDetail (t r kind : Nat) : Nat := fld 0 12 t + fld 12 40 r + fld 52 2 kind
/-- A Grist condition shown in GRIST_FAULT_LAST. -/
def State.gristNote (s : State) (q : QuernId) (t r kind : Nat) : State :=
  s.updQuern q fun k => { k with gristLast := gristDetail t r kind }
/-- A Grist fault raised. -/
def State.gristFault (s : State) (q : QuernId) (code n t r kind : Nat) : State :=
  (s.gristNote q t r kind).raise .stepFatal code (unitNo 3 q.val) n (gristDetail t r kind)

/-- A contribution's values as FX48 integers, with the events of a conversion (R57, R284). -/
def State.contribVals (s : State) (g : Contribution) : List Int × Ev :=
  if g.fx48 then (g.vals.map (toSigned 48), {})
  else
    let l := g.vals.map fun v => toFX48 (s.xT g.step g.table) (BitVec.ofNat 32 v)
    (l.map Prod.fst, evSum l)

/-- An entry after a contribution (R289, R290, R293): the sums, the flags and the count. -/
def gristJoin (e : GEntry) (vals : List Int) (ev : Ev) (g : Contribution) : GEntry × Ev :=
  let old := if e.vals = [] then List.replicate vals.length 0 else e.vals
  let l := List.zipWith fxAdd old vals
  let sat := l.any Prod.snd
  ({ e with
      sat := e.sat || sat || decide (0 < ev.sat) || g.sat
      nonfin := e.nonfin || decide (0 < ev.nan + ev.inf) || g.nonfin
      count := min 0xFFFFFFFF (e.count + g.count)
      layEpoch := g.layEpoch
      vals := l.map Prod.fst }, { sat := bit sat })

/-- A contribution added into its set: counted, with events, the SAT count and GRIST_FAULT_LAST. -/
def State.gristPut (s : State) (q : QuernId) (g : Contribution) : State :=
  let old := kvGet {} (g.table, g.row) ((s.quern q).set' g.step).entries
  let v := s.contribVals g
  let j := gristJoin { old with role := if s.homeOf g.table g.row = s.me then .home else .mirror } v.1 v.2 g
  let newSat := j.1.sat && !old.sat
  let t := (s.updSet q g.step fun x => { x with entries := kvPut (g.table, g.row) j.1 x.entries }).quernEv q g.step (evAdd v.2 j.2)
  let u := t.updQuern q fun k => { k with
    satEntries := satAdd 0xFFFF k.satEntries (bit newSat)
    peakKib := max k.peakKib (((k.set' g.step).bytes + 1023) / 1024) }
  if newSat then u.gristNote q g.table g.row 0
  else if j.1.nonfin ∧ old.nonfin = false then u.gristNote q g.table g.row 1
  else u

/-- Whether a contribution is misrouted (R291). -/
def State.misrouted (s : State) (q : QuernId) (g : Contribution) : Bool :=
  g.layEpoch != s.ctl.layEpoch || s.atl.runCtx != some g.ctx
    || !(s.homeOf g.table g.row == s.me || s.mirrorOf g.table g.row == s.me)
    || ((s.quern q).set' g.step).complete g.src || g.step ≤ s.ctl.sealed

/-- A contribution that has its set slot: it is counted as received, and added unless its set would pass GRIST_SET_MAX
(R292). At the home, a row without a present entry raises DIR_ABSENT (R270, R283; log entry 128). -/
def State.gristTake (s : State) (q : QuernId) (g : Contribution) : State :=
  let t := (s.updSet q g.step fun x => { x with received := kvMod 0 g.src (· + 1) x.received }).updQuern q fun k =>
    { k with contrib := satAdd 0xFFFFFFFF k.contrib 1 }
  let set := (t.quern q).set' g.step
  let more := if kvHas (g.table, g.row) set.entries then 0 else entryBytes g.vals.length
  if s.homeOf g.table g.row = s.me ∧ (s.rowAt g.table g.row).isNone then
    t.qrnFault q 0x041 g.step (qrnDetail g.table 0 0 1 0 0) g.row
  else if s.field "GRIST_SET_MAX" q.val < set.bytes + more then t.gristFault q 0x046 g.step g.table g.row 3
  else t.gristPut q g

/-- A contribution at its Grist buffer on this device: discarded for an aborted step, misrouted, faulting for a row that
the home does not hold (R270), waiting for a set slot, or taken. -/
def State.gristAccept (s : State) (g : Contribution) : State :=
  let q := s.quernOf g.table g.row
  if (s.stepOf g.step).st = .aborting then s
  else if s.misrouted q g then
    (s.updQuern q fun k => { k with misroute := satAdd 0xFFFF k.misroute 1 }).gristFault q 0x045 g.step g.table g.row 2
  else if s.slotFor q g.step then s.gristTake q g
  else s.updQuern q fun k => { k with
    waiting := k.waiting ++ [g], fullWait := satAdd 0xFFFFFFFF k.fullWait 1, stall := stallCount 18 k.stall }

/-- GRIST_ADD (R290). -/
def execGristAdd (g : Contribution) (s : State) : Out := .next (s.gristAccept g)

/-- GRIST_SLOT_FREE (R288): contributions that waited are taken in order while they find a set slot. -/
def execGristSlotFree (q : QuernId) (s : State) : Out :=
  let l := (s.quern q).waiting
  .next (l.foldl (fun t g =>
    if t.slotFor q g.step then t.gristTake q g
    else t.updQuern q fun k => { k with
      waiting := k.waiting ++ [g], fullWait := satAdd 0xFFFFFFFF k.fullWait 1, stall := stallCount 18 k.stall })
    (s.updQuern q fun k => { k with waiting := [] }))

/-- GATHER_END (R286): a member's marker is kept; that of an aborted step is discarded. -/
def execGatherEnd (q : QuernId) (m : GatherMarker) (s : State) : Out :=
  if (s.stepOf m.step).st = .aborting ∨ m.step ≤ s.ctl.sealed then .next s
  else .next (s.updSet q m.step fun x => { x with markers := kvPut m.src m.count x.markers })

/-! ## The screen and the log reservation (R264, R299) -/

/-- Whether an entry of the set makes the screen set OPT (R299), and the events of its arithmetic. -/
def State.screenEntry (s : State) (n : Nat) (e : (Nat × Nat) × GEntry) : Bool × Ev :=
  match s.rowAt e.1.1 e.1.2 with
  | none => (false, {})
  | some row =>
    let x := s.optOn n e.1.1 row e.2.vals
    (!(optFinite (s.optSet n e.1.1).kind x.1 x.2.1 && stepFinite (applyClass row) x.1) || overH row x.1, x.2.2)

/-- Querns that serve rows: every Quern of the device takes part in the close. -/
def allQuerns : List QuernId := List.finRange 12

/-- Whether the close of step `n` runs on the device (R32). -/
def State.closing (s : State) (n : Nat) : Bool := (s.stepOf n).st == .gather && (s.stepOf n).gatherEnded

/-- FINITENESS_SCREEN (R33, R299): once the set is complete and the rows are those of version n − 1, every entry is
screened. -/
def execFinitenessScreen (q : QuernId) (step : Nat) (s : State) : Out :=
  let k := s.quern q
  if s.closing step ∧ s.setComplete q step = true ∧ step - 1 ≤ k.doneVersion ∧ k.screened.contains step = false then
    let r := (k.set' step).entries.map (s.screenEntry step)
    let t := s.updQuern q fun x => { x with screened := insNat step x.screened }
    .next ((t.quernEv q step (evSum (r.map fun e => ((), e.2)))).markFlags step { opt := r.any Prod.fst })
  else .next s

/-- Rows that a Quern serves as home or mirror with a pending move of class or tier. -/
def State.movesAt (s : State) (q : QuernId) : List ((Nat × Nat) × Row) :=
  s.rows.filter fun x => s.quernOf x.1.1 x.1.2 == q && x.2.role != .replica
    && (x.2.pendClass.isSome || x.2.pendTier.isSome)

/-- Bytes of a log record of a row: a 16-byte header and the row record (log entry 15). -/
def logBytes (r : RowRec) : Nat := 16 + r.bytes.length

/-- Log bytes that the Apply of step `n` may need at a Quern (R264). -/
def State.logNeed (s : State) (q : QuernId) (n : Nat) : Nat :=
  let es := ((s.quern q).set' n).entries.map Prod.fst
  let rows := (es ++ (s.movesAt q).map Prod.fst).foldl (fun l x => addNew x l) []
  rows.foldl (fun a x => match kvFind x s.rows with
    | some r => a + logBytes r.record
    | none => a) 0

/-- Log bytes in use and reserved. -/
def Quern.logUsed (k : Quern) : Nat :=
  k.log.foldl (fun a x => a + logBytes x.record) 0 + k.reserved.foldl (fun a x => a + x.2) 0

/-- A reservation recorded. -/
def State.logTake (s : State) (q : QuernId) (n bytes : Nat) : State :=
  s.updQuern q fun k => { k with reserved := kvPut n bytes k.reserved, logHold := false }

/-- QRN_LOG_RESERVE (R264): log space for every row that the Apply of the step may write; without room the close waits for
the Seal of the step before, and after it raises QRN_LOG_FULL. With STEP_LAG 0 no record is made. -/
def execQrnLogReserve (q : QuernId) (step : Nat) (s : State) : Out :=
  let k := s.quern q
  if s.closing step = false ∨ s.setComplete q step = false ∨ kvHas step k.reserved = true then .next s
  else if s.lag = 0 then .next (s.logTake q step 0)
  else if k.logUsed + s.logNeed q step ≤ s.field "QRN_LOG_SIZE" q.val then .next (s.logTake q step (s.logNeed q step))
  else if step ≤ s.ctl.sealed + 1 then
    .next ((s.logTake q step 0).raise .stepFatal 0x044 (unitNo 3 q.val) step 0)
  else .next (s.updQuern q fun x => { x with
    logHold := true, logWait := satAdd 0xFFFFFFFF x.logWait 1, stall := stallCount 17 x.stall })

/-! ## The Apply of rows (R300, R304, R305) -/

/-- The pre-image of a row logged for readers of versions below `n`, when L is 1 or 2 (R263). -/
def State.logRow (s : State) (q : QuernId) (n t r : Nat) (rec' : RowRec) : State :=
  if s.lag = 0 then s
  else s.updQuern q fun k => { k with log := k.log ++ [{ table := t, row := r, older := n, record := rec' }] }

/-- A row written by the Apply of step `n`: in place after its pre-image is logged, or into its new slot; APPLIED counts
it, and a changed unit is noted for the digests (R343). -/
def State.writeRow (s : State) (q : QuernId) (n t r : Nat) (old new : Row) (changed : Bool) : State :=
  let a := if new.moving.isSome then s else s.logRow q n t r old.record
  let b := { a with rows := kvPut (t, r) new a.rows }
  let c := b.updQuern q fun k => { k with applied := satAdd stallMax k.applied 1 }
  if changed then c.updStep n fun p => { p with changedRows := addNew (t, r) p.changedRows } else c

/-- The record that a row has once the step is sealed. -/
def Row.next (r : Row) : RowRec := match r.moving with
  | some m => m.1
  | none => r.record

/-- Devices that hold replicas of a table's rows: those of REPL_GROUP but the row's home and mirror. -/
def State.replDevs (s : State) (t r : Nat) : List DevId :=
  (s.fieldL "REPL_GROUP" t).filter fun d => d != s.homeOf t r && d != s.mirrorOf t r

/-- What the home of a row sends to a device with replicas: a message, or the row whole. -/
inductive ReplOut
  | msg (m : ReplMsg)
  | row (u : XferUnit)
  deriving DecidableEq, Repr

/-- A forwarded sum (R304). -/
def State.sumMsg (s : State) (n t r : Nat) (g : GEntry) : ReplOut :=
  let v := g.vals.map (ofSigned 48)
  .msg (.sum s.me n t r g.count v (crc32c (packBytes .fx48 v)))

/-- What the home of a row sends to its replicas at the Apply of step `n`: the sum of an entry to those present; the row
whole to those being added, and to every one when it moves class (log entry 17); a drop. -/
def State.replMsgs (s : State) (n t r : Nat) (old new : Row) (e : Option GEntry) : List (DevId × ReplOut) :=
  let sum := e.toList.map (s.sumMsg n t r)
  let out :=
    if old.role ≠ .home then []
    else if old.pendRepl = some true then [.row (.replica n t r new.next new.state)]
    else if old.pendRepl = some false then sum ++ [.msg (.dropped s.me n t r)]
    else if old.repl = false then []
    else if old.pendClass.isSome then [.row (.replica n t r new.next new.state)]
    else sum
  (s.replDevs t r).flatMap fun d => out.map fun o => (d, o)

/-- The leaf of a row (R343). -/
def rowLeaf (t r : Nat) (rec' : RowRec) (st : List Byte) : List Byte :=
  sha384 ([0] ++ leBytes 8 (rowKey t r) ++ leBytes 1 (clsNo rec'.cls) ++ rec'.bytes ++ st)

/-- The digest that a row sent whole carries: the move digest of R372 over its leaf. -/
def rowXferDigest (epoch : Nat) (leaf : List Byte) : List Byte := sha384 ([10] ++ leBytes 4 epoch ++ leaf)

/-- A row sent whole to a device, with its digest (R276, R372). -/
def State.sendRow (s : State) (d : DevId) (u : XferUnit) : State :=
  match u with
  | .replica _ t r rec' st => s.emitAcked d fun tag => .xfer d
      { src := s.me, tag := tag, dense := false, table := t, shard := s.shardOf t r, epoch := s.ctl.layEpoch, units := [u],
        digest := rowXferDigest s.ctl.layEpoch (rowLeaf t r rec' st) }
  | _ => s

/-- What goes to replicas sent; sums are counted for the end markers. -/
def State.sendRepl (s : State) (n : Nat) (ms : List (DevId × ReplOut)) : State :=
  ms.foldl (fun a m => match m.2 with
    | .row u => a.sendRow m.1 u
    | .msg x =>
      let b := a.emitAcked m.1 fun tag => .repl m.1 tag x
      match x with
      | .sum .. => b.updStep n fun p => { p with replSent := kvMod 0 m.1 (· + 1) p.replSent }
      | _ => b) s

/-- One row with an entry (R300) at home or mirror. -/
def State.applyEntry (s : State) (q : QuernId) (n : Nat) (e : (Nat × Nat) × GEntry) : State :=
  match s.rowAt e.1.1 e.1.2 with
  | none => s
  | some row =>
    let new := s.applyRow n e.1.1 e.1.2 row e.2.vals
    ((s.tick).writeRow q n e.1.1 e.1.2 row new true).sendRepl n (s.replMsgs n e.1.1 e.1.2 row new (some e.2))

/-- One row without an entry that a pending move takes (R276). -/
def State.applyMove (s : State) (q : QuernId) (n : Nat) (x : (Nat × Nat) × Row) : State :=
  let new := s.moveRow n x.1.1 x.1.2 x.2
  ((s.tick.quernEv q n (s.moveEvents n x.1.1 x.1.2 x.2)).writeRow q n x.1.1 x.1.2 x.2 new x.2.pendClass.isSome).sendRepl n (s.replMsgs n x.1.1 x.1.2 x.2 new none)

/-- A row without an entry whose replicas are added or dropped at the Apply of step `n`. -/
def State.applyRepl (s : State) (n : Nat) (x : (Nat × Nat) × Row) : State :=
  s.sendRepl n (s.replMsgs n x.1.1 x.1.2 x.2 x.2 none)

/-- The Apply of step `n` at a Quern for the rows that the device homes or mirrors (R300, R276). -/
def State.applyQuern (s : State) (n : Nat) (q : QuernId) : State :=
  let es := (s.quern q).set' n |>.entries
  let moves := (s.movesAt q).filter fun x => !kvHas x.1 es
  let repls := s.rows.filter fun x => s.quernOf x.1.1 x.1.2 == q && x.2.role == .home && x.2.pendRepl.isSome
    && !kvHas x.1 es && x.2.pendClass.isNone && x.2.pendTier.isNone
  let t := es.foldl (fun a e => a.applyEntry q n e) s
  let u := moves.foldl (fun a x => a.applyMove q n x) t
  let v := repls.foldl (fun a x => a.applyRepl n x) u
  v.updQuern q fun k => { k with
    reserved := kvDel n k.reserved
    sets := k.sets.map fun x => if x.1 = n then (x.1, { x.2 with retained := true }) else x }

/-! ## Replicas (R304, R306) -/

/-- Homes of the rows that this device holds as replicas. -/
def State.replHomes (s : State) : List DevId :=
  (s.rows.filter fun x => x.2.role == .replica).foldl (fun l x => addNew (s.homeOf x.1.1 x.1.2) l) []

/-- Devices that hold a present replica of a row this device homes: they get the end-of-forward marker. -/
def State.replReceivers (s : State) : List DevId :=
  (s.rows.filter fun x => x.2.role == .home && (x.2.repl || x.2.pendRepl.isSome)).foldl (fun l x =>
    (s.replDevs x.1.1 x.1.2).foldl (fun a d => addNew d a) l) []

/-- The end-of-forward markers of step `n` (R304, item 2). -/
def State.sendMarks (s : State) (n : Nat) : State :=
  s.emitEach s.replReceivers fun d tag => .repl d tag (.endMark s.me n (kvGet 0 d (s.stepOf n).replSent))

/-- Whether the replica part of the Apply of step `n` has ended: every home's marker and its counted sums are there. -/
def State.replEnded (s : State) (n : Nat) : Bool :=
  s.replHomes.all fun d => match kvFind (n, d) s.repl.marks with
    | some c => c ≤ kvGet 0 (n, d) s.repl.sums
    | none => false

/-- DONE_VERSION becomes `n` at every Quern once the rows of step `n` are applied and the replica part has ended; until then
the wait is counted (R262, R304). -/
def State.tryDone (s : State) (n : Nat) : State :=
  if (s.stepOf n).decided = some .apply ∧ s.replEnded n = false then
    allQuerns.foldl (fun t q => t.updQuern q fun k => { k with
      replWait := satAdd 0xFFFFFFFF k.replWait 1, stall := stallCount 19 k.stall }) s
  else allQuerns.foldl (fun t q => t.updQuern q fun k => { k with doneVersion := max k.doneVersion n }) s

/-- A forwarded sum applied at a replica (R304, item 3); a bad CRC is asked for again twice, and then REPLICA_DIVERGE is
raised and the row's shard repaired (R360). -/
def State.replSumIn (s : State) (src n t r : Nat) (vals : List Nat) (crc : Nat) : State :=
  let q := s.quernOf t r
  if crc32c (packBytes .fx48 vals) ≠ crc then
    let c := kvGet 0 (src, t, r) s.repl.resends
    if c < 2 then
      ({ s with repl := { s.repl with resends := kvPut (src, t, r) (c + 1) s.repl.resends } }).emit [.replAsk src n t r]
    else (s.raise .correctable 0x060 (unitNo 3 q.val) n t).beginRepair n true t (s.shardOf t r)
  else match s.rowAt t r with
    | some row =>
      if row.role ≠ .replica ∨ (n, t, r) ∈ s.repl.applied then s
      else
        let new := s.applyRow n t r row (vals.map (toSigned 48))
        let u := s.tick.writeRow q n t r row new false
        { u with repl := { u.repl with
            sums := kvMod 0 (n, src) (· + 1) u.repl.sums, resends := kvDel (src, t, r) u.repl.resends
            applied := u.repl.applied ++ [(n, t, r)] } }
    | none => s

/-- A row that a home sends whole: a new replica, which becomes present at the Seal; a replica rewritten by a class move,
which flips at the Seal; or a row under repair, which is replaced at once (R276, R362). -/
def State.replRowIn (s : State) (src n t r : Nat) (rec' : RowRec) (st : List Byte) : State :=
  let fixing := (s.digestOf n).repairing.any fun x => x.1 && x.2.1 == t && x.2.2.1 == s.shardOf t r
  let row := match kvFind (t, r) s.rows with
    | some x => if fixing then { x with record := rec', state := st } else
        { x with moving := some (rec', x.tier, s.newSlot t r), state := st }
    | none => { role := .replica, record := rec', state := st, home := src, mirror := s.mirrorOf t r,
                slot := s.newSlot t r, pendRepl := some true }
  let u := { s.tick with rows := kvPut (t, r) row s.rows }
  if fixing then u
  else { u with repl := { u.repl with applied := addNew (n, t, r) u.repl.applied } }

/-- One replica message of a step that this device applies. -/
def State.replTake (s : State) (m : ReplMsg) : State :=
  match m with
  | .sum src n t r _ vals crc => s.replSumIn src n t r vals crc
  | .endMark src n c => { s with repl := { s.repl with marks := kvPut (n, src) c s.repl.marks } }
  | .dropped _ _ t r => { s with rows := s.rows.map fun x =>
      if x.1 = (t, r) ∧ x.2.role = .replica then (x.1, { x.2 with pendRepl := some false }) else x }

/-- The step of a replica message. -/
def replStep : ReplMsg → Nat
  | .sum _ n _ _ _ _ _ => n
  | .endMark _ n _ => n
  | .dropped _ n _ _ => n

/-- The source of a replica message. -/
def replSrc : ReplMsg → DevId
  | .sum d _ _ _ _ _ _ => d
  | .endMark d _ _ => d
  | .dropped d _ _ _ => d

/-- Whether the CRC that travels with a sum is right (R360). -/
def replGood : ReplMsg → Bool
  | .sum _ _ _ _ _ vals crc => crc32c (packBytes .fx48 vals) == crc
  | _ => true

/-- REPL_SUM (R304, R306, R427): acknowledged when its content is good; held until this device's own decision; on APPLY the message takes effect; on SKIP it is
discarded. -/
def execReplSum (tag : Nat) (m : ReplMsg) (s : State) : Out :=
  let n := replStep m
  let t := if replGood m then s.emit [.ack (replSrc m) tag] else s
  match (s.stepOf n).decided with
  | some .apply => .next ((t.replTake m).tryDone n)
  | some .skip => .next t
  | _ => if (s.stepOf n).st = .aborting then .next t
    else .next { t with repl := { t.repl with held := t.repl.held ++ [m] } }

/-- The decision APPLY of step `n` for the rows: every Quern applies its set, markers go to the replicas, and messages held
for the step take effect. -/
def State.applyRows (s : State) (n : Nat) : State :=
  let t := (allQuerns.foldl (fun a q => a.applyQuern n q) s).sendMarks n
  let mine := t.repl.held.filter fun m => replStep m == n
  let u := { t with repl := { t.repl with held := t.repl.held.filter fun m => replStep m != n } }
  (mine.foldl State.replTake u).tryDone n

/-- The decision SKIP of step `n` for the rows: the sets stay for the popularity counts; held messages are discarded. -/
def State.skipRows (s : State) (n : Nat) : State :=
  let t := allQuerns.foldl (fun a q => a.updQuern q fun k => { k with
    reserved := kvDel n k.reserved
    sets := k.sets.map fun x => if x.1 = n then (x.1, { x.2 with skipped := true }) else x }) s
  { t with repl := { t.repl with held := t.repl.held.filter fun m => replStep m != n } }.tryDone n

/-- Retained sets and roots of steps below `n` released by an APPLY or SKIP decision of step `n` (R302, R321). -/
def State.releaseRetained (s : State) (n : Nat) : State :=
  (allQuerns.foldl (fun a q => a.updQuern q fun k => { k with
    sets := k.sets.filter fun x => !(x.1 < n && (x.2.retained || x.1 ≤ s.ctl.sealed)) }) s).updWeir fun w => { w with
      retained := w.retained.filter fun x => !(x.1.1 < n) }

/-! ## What a Seal does to rows (R263, R272 to R276) -/

/-- The flip of a row at the Seal of step `n`, with the log record of a moved one (R276). -/
def State.flipRow (s : State) (n t r : Nat) (row : Row) : State :=
  let q := s.quernOf t r
  match row.moving with
  | none => s
  | some m =>
    let up := decide (clsRank row.record.cls < clsRank m.1.cls)
    let down := decide (clsRank m.1.cls < clsRank row.record.cls)
    let new := { row with record := m.1, tier := m.2.1, slot := m.2.2, moving := none, pendClass := none, pendTier := none }
    let a := s.logRow q n t r row.record
    ({ a with rows := kvPut (t, r) new a.rows }).updQuern q fun k => { k with
      promoted := satAdd 0xFFFF k.promoted (bit up), demoted := satAdd 0xFFFF k.demoted (bit down) }

/-- A pending replica decision carried out at the Seal of an applied step (R276): at the home REPL changes, at a replica the
entry becomes present or goes. -/
def State.flipRepl (s : State) (t r : Nat) (row : Row) : State :=
  match row.pendRepl with
  | none => s
  | some b =>
    let q := s.quernOf t r
    let s1 := if row.role = .replica ∧ b = false then { s with rows := kvDel (t, r) s.rows }
      else { s with rows := kvMod row (t, r) (fun x => { x with repl := b, pendRepl := none }) s.rows }
    if row.role = .home then s1.updQuern q fun k => { k with
      replAdd := satAdd 0xFFFF k.replAdd (bit b), replDrop := satAdd 0xFFFF k.replDrop (bit (!b)) }
    else s1

/-- Every flip of an applied step. -/
def State.flipRows (s : State) (n : Nat) : State :=
  let t := s.rows.foldl (fun a x => a.flipRow n x.1.1 x.1.2 x.2) s
  t.rows.foldl (fun a x => a.flipRepl x.1.1 x.1.2 x.2) t

/-- The count c of a row in step `n` (R272). -/
def State.countOf (s : State) (n t r : Nat) : Nat :=
  (kvGet {} (t, r) ((s.quern (s.quernOf t r)).set' n).entries).count

/-- Whether the Seal of step `n` updates a row's popularity record (R273). -/
def State.popDue (s : State) (n t r c : Nat) : Bool :=
  s.field "TBL_LEARN" t == 1 && (0 < c || r % max 1 (s.field "POP_SWEEP_STEPS") == n % max 1 (s.field "POP_SWEEP_STEPS"))

/-- The decisions of a Seal for one row whose record was just updated (R274, R275): class and tier at home and mirror,
replication at the home. The second part is what MOVE_MAX leaves: a new placement decision uses one, and a pending one that it replaces gives
one back. -/
def State.decideRow (s : State) (n t : Nat) (row : Row) (pop left : Nat) : Row × Nat :=
  let c := s.classDecision n t row.record.cls pop
  let cls := if c = row.record.cls then none else some c
  let tier := s.tierDecision n t row pop
  let repl := if row.role = .home then s.replDecision n t row pop else none
  let place := tier.isSome || repl.isSome
  let room := left + bit (row.pendClass.isNone && (row.pendTier.isSome || row.pendRepl.isSome))
  if place = true ∧ cls.isNone ∧ room = 0 then ({ row with pendClass := none, pendTier := none, pendRepl := none }, 0)
  else ({ row with pendClass := cls, pendTier := tier, pendRepl := repl },
    if place && cls.isNone then room - 1 else room)

/-- The popularity update and decisions of a Seal for the rows of one Quern, in ascending (table, row); `left` is what
MOVE_MAX leaves. -/
def State.sealRow (s : State) (n : Nat) (acc : KV (Nat × Nat) Row × Nat) (x : (Nat × Nat) × Row) :
    KV (Nat × Nat) Row × Nat :=
  let c := s.countOf n x.1.1 x.1.2
  if s.popDue n x.1.1 x.1.2 c then
    let p := popNext (s.epochOf n) x.2.pop x.2.popEpoch c
    let d := s.decideRow n x.1.1 { x.2 with pop := p.1, popEpoch := p.2 } p.1 acc.2
    (kvPut x.1 d.1 acc.1, d.2)
  else acc

/-- Placement moves decided and still pending at a Quern: a skipped step leaves them, and they use MOVE_MAX of the step that carries them
out (R275, R276). -/
def State.placesPending (s : State) (q : QuernId) : Nat :=
  (s.rows.filter fun x => s.quernOf x.1.1 x.1.2 == q && x.2.role != .replica && x.2.pendClass.isNone
    && (x.2.pendTier.isSome || x.2.pendRepl.isSome)).length

/-- The rows of one Quern at the Seal of step `n`. -/
def State.sealQuern (s : State) (n : Nat) (q : QuernId) : State :=
  let mine := s.rows.filter fun x => s.quernOf x.1.1 x.1.2 == q && x.2.role != .replica
  let sorted := sortBy (fun x => rowKey x.1.1 x.1.2) mine
  let t := { s with rows := (sorted.foldl (s.sealRow n) (s.rows, s.fieldAt n "MOVE_MAX" q.val - s.placesPending q)).1 }
  t.updQuern q fun k => { k with
    log := k.log.filter fun x => !(x.older + s.lag ≤ n)
    sets := k.sets.filter fun x => !(x.1 == n && x.2.skipped)
    screened := k.screened.filter fun m => n < m }

/-- The Seal of step `n` for the rows: flips of an applied step, popularity and decisions, dropped log records, and the
discarded set of a skipped step (R302). -/
def State.sealRows (s : State) (n : Nat) (skip : Bool) : State :=
  allQuerns.foldl (fun a q => a.sealQuern n q) (if skip then s else s.flipRows n)

/-- The sets, reservations and replica traffic of steps that `p` names freed by an abort (R47, R302). -/
def State.dropSets (s : State) (p : Nat → Bool) : State :=
  let t := allQuerns.foldl (fun a q => a.updQuern q fun k => { k with
    sets := k.sets.filter (fun x => !p x.1), reserved := k.reserved.filter (fun x => !p x.1)
    screened := k.screened.filter (fun m => !p m), waiting := k.waiting.filter (fun g => !p g.step)
    held := k.held.filter fun r => !p r.step }) s
  { t with
    repl := { t.repl with held := t.repl.held.filter fun m => !p (replStep m) }
    units := t.units.filter fun u => !p u.step }.dropRecords p

/-! ## Rows at job load (R256, R295) -/

/-- A row created at job load with its role on this device. -/
def State.loadRow (s : State) (t r : Nat) (rec' : RowRec) (st : Option (List Byte)) (pop epoch : Nat) :
    KV (Nat × Nat) Row → KV (Nat × Nat) Row :=
  let h := s.homeOf t r
  let m := s.mirrorOf t r
  let role := if h = s.me then Role.home else .mirror
  let st' := st.getD (optInit (s.field "OPT_KIND" t) (s.field "TBL_DIM" t))
  if h = s.me ∨ m = s.me then
    kvPut (t, r) { role := role, record := rec', state := st', home := h, mirror := m,
                   slot := s.newSlot t r, pop := pop, popEpoch := epoch }
  else id

/-- One initial row of the image. -/
def State.loadInit (s : State) (rows : KV (Nat × Nat) Row) (x : RowInit) : KV (Nat × Nat) Row :=
  let e := s.epochOf s.ctl.s0 % 2 ^ 16
  match x with
  | .record t r rec' => s.loadRow t r rec' none 0 e rows
  | .values t r cls vals =>
    s.loadRow t r (encodeRow s.seed s.ctl.s0 t r (cls.getD (clsOf (s.field "TBL_CLASS_MAX" t))) vals) none 0 e rows
  | .snapshot t r rec' st pop ep => s.loadRow t r rec' (some st) pop ep rows

/-- The events of encoding the rows that the image gives as FP32 values (R77), at the Quern that serves each. -/
def State.loadEvents (s : State) (q : QuernId) : Ev :=
  s.jobData.rowInit.foldl (fun e x => match x with
    | .values t r cls vals =>
      if s.quernOf t r = q ∧ (s.homeOf t r = s.me ∨ s.mirrorOf t r = s.me) then
        evAdd e (encodeEvents s.seed s.ctl.s0 t r (cls.getD (clsOf (s.field "TBL_CLASS_MAX" t))) vals)
      else e
    | _ => e) {}

/-- Quern and the rows at the load of a job. -/
def State.rowsLoad (s : State) : State :=
  let t := { s with
    rows := s.jobData.rowInit.foldl s.loadInit [], repl := {}, units := [], fresh := s.fresh + 1 }
  allQuerns.foldl (fun a q => a.updQuern q fun k => { k with
    num := numAdd k.num (s.loadEvents q), doneVersion := s.ctl.s0, log := [], reserved := [], held := [], screened := [], sets := [], waiting := [], logHold := false }) t

end Sys2Proof.Machine
end

