-- ==== Sys2Proof/Machine/Lookups.lean ====
section
/-! DEFINITION. Bag lists, lookups and pooling, and the gradients that GRAD_SEND sends (R257 to R271, R282 to R285). -/

namespace Sys2Proof.Machine

/-! ## Bag lists (R257, R258) -/

/-- The header of a bag list. -/
structure BagList where
  format : Nat
  nbags : Nat
  nidx : Nat
  mode : Nat
  resvZero : Bool
  offAt : Nat
  idxAt : Nat
  wgtAt : Nat
  deriving DecidableEq, Repr

/-- Bytes of a command's bag list at an offset from its start: those that Headrace has fetched; before they have come, what it will read
decides which fetches follow. -/
def State.listBytes (s : State) (c : CoreId) (cmd : Cmd) (off n : Nat) : List Byte :=
  match cmd.desc.a.space with
  | .loc => s.lbRead c (cmd.desc.a.addr + off) n
  | .range =>
    let k := s.core c
    let a := cmd.desc.a.addr + off
    if k.spanHere cmd.desc.stream { addr := a, len := n, count := 1 } then (List.range n).map fun i => k.lb.heldByte cmd.desc.stream (a + i)
    else s.rangeRead a n
  | _ => []

/-- The header of a command's bag list. -/
def State.bagList (s : State) (c : CoreId) (cmd : Cmd) : BagList :=
  let h := s.listBytes c cmd 0 64
  let num := fun o n => leNat ((h.drop o).take n)
  { format := num 0 4, nbags := num 4 4, nidx := num 8 4, mode := num 12 1,
    resvZero := num 13 3 == 0 && num 40 24 == 0, offAt := num 16 8, idxAt := num 24 8, wgtAt := num 32 8 }

/-- off[b], the index and the weight at an array position. -/
def State.bagOff (s : State) (c : CoreId) (cmd : Cmd) (b : Nat) : Nat :=
  leNat (s.listBytes c cmd ((s.bagList c cmd).offAt + 4 * b) 4)
def State.bagIdx (s : State) (c : CoreId) (cmd : Cmd) (i : Nat) : Nat :=
  leNat (s.listBytes c cmd ((s.bagList c cmd).idxAt + 8 * i) 8)
def State.bagWgt (s : State) (c : CoreId) (cmd : Cmd) (i : Nat) : F32 :=
  BitVec.ofNat 32 (leNat (s.listBytes c cmd ((s.bagList c cmd).wgtAt + 4 * i) 4))

/-- Whether an array offset is bad (R258). -/
def atBad (a : Nat) : Bool := a < 64 || a % 64 != 0

/-- Whether a command's stages contain POOL. -/
def Cmd.pools (cmd : Cmd) : Bool := cmd.desc.stages.contains .pool

/-- The header conditions of BAG_INVALID (R258). -/
def State.headBad (s : State) (c : CoreId) (cmd : Cmd) (h : BagList) : Bool :=
  h.format != 1 || !h.resvZero || 3 < h.mode || h.nbags != cmd.desc.dimR || h.nbags == 0 || 16384 < h.nbags
    || (cmd.desc.op == .lookup && (h.mode == 0) == cmd.pools)
    || (h.mode == 2) == (h.wgtAt == 0) || atBad h.offAt || atBad h.idxAt || (h.wgtAt != 0 && atBad h.wgtAt)
    || s.bagOff c cmd 0 != 0 || s.bagOff c cmd h.nbags != h.nidx

/-- Bags of unit `u`. -/
def Cmd.bagsOf (cmd : Cmd) (u : Nat) : List Nat := (List.range (cmd.desc.rowsIn u)).map (· + u * cmd.desc.passR)

/-- The fault of a unit's part of the list (R258, R271): code, kind, bag and the value of QRN_FAULT_INDEX. -/
def State.bagFault (s : State) (c : CoreId) (cmd : Cmd) (u : Nat) : Option (Nat × Nat × Nat × Nat) :=
  if s.headBad c cmd (s.bagList c cmd) then some (0x043, 3, 0, 0)
  else (cmd.bagsOf u).findSome? fun b =>
    let lo := s.bagOff c cmd b
    let hi := s.bagOff c cmd (b + 1)
    if hi < lo then some (0x043, 3, b, 0)
    else if 8192 < hi - lo then some (0x042, 2, b, hi - lo)
    else none

/-- An address fault of the list's arrays (R228, R258): code and address. -/
def State.listFault (s : State) (c : CoreId) (cmd : Cmd) : Option (Nat × Nat) :=
  if cmd.desc.a.space ≠ .range then none
  else
    let h := s.bagList c cmd
    let ends := [0, 63, h.offAt, h.offAt + 4 * h.nbags + 3] ++ (if h.nidx = 0 then [] else [h.idxAt, h.idxAt + 8 * h.nidx - 1])
      ++ (if h.wgtAt = 0 ∨ h.nidx = 0 then [] else [h.wgtAt, h.wgtAt + 4 * h.nidx - 1])
    ends.findSome? fun o => (s.accessFault (cmd.desc.a.addr + o) false).map fun k => (k, cmd.desc.a.addr + o)

/-- The front Quern of a core (R260). -/
def State.frontQ (s : State) (c : CoreId) : QuernId := Fin.ofNat 12 (s.field "QRN_FRONT" c.val)

/-- The items of a unit in (bag, position) order. -/
def State.unitItems (s : State) (c : CoreId) (cmd : Cmd) (u : Nat) : List LkpItem :=
  let ws := (s.bagList c cmd).mode == 2
  (cmd.bagsOf u).flatMap fun b =>
    let lo := s.bagOff c cmd b
    (List.range (s.bagOff c cmd (b + 1) - lo)).map fun p =>
      { bag := b, pos := p, index := s.bagIdx c cmd (lo + p), weight := if ws then s.bagWgt c cmd (lo + p) else 0x3F800000 }

/-! ## Serving a lookup (R260 to R265) -/

/-- The record of a row for a reader of version `v` (R262): the logged one with the smallest OVER above `v`, else the
current one. -/
def State.recordFor (s : State) (q : QuernId) (t r v : Nat) (row : Row) : RowRec :=
  let l := (s.quern q).log.filter fun x => x.table == t && x.row == r && decide (v < x.older)
  match l.foldl (fun a x => match a with
      | none => some x
      | some y => if x.older < y.older then some x else some y) (none : Option PreImage) with
  | some x => x.record
  | none => row.record

/-- The outcome of one index recorded in its unit. -/
def State.setOutcome (s : State) (ref i : Nat) (o : IdxOutcome) : State :=
  { s with units := s.units.map fun u => if u.ref = ref then { u with
      items := u.items.modify i fun x => if x.out = .waiting then { x with out := o } else x } else u }

/-- A record decoded by the front Quern for an index (R251). -/
def State.takeRecord (s : State) (q : QuernId) (n t ref i : Nat) (rec' : RowRec) : State :=
  let l := decodeRow (s.field "TBL_DIM" t) rec'
  (s.quernEv q n (evSum l)).setOutcome ref i (.vals (l.map Prod.fst))

/-- A request of this device for row `r`, unit reference `ref`. -/
def State.askOf (s : State) (n t r ref : Nat) : LkpReq :=
  { src := s.me, step := n, ctx := s.atl.runCtx.getD 0, table := t, row := r, ver16 := s.reads n % 2 ^ 16, ref := ref % 2 ^ 32 }

/-- The unit of a request reference (UNIT_REF, R404), and the item that a reply for a row answers: the first of that row that waits. -/
def State.unitOf (s : State) (ref : Nat) : Option LkpUnit := s.units.find? fun u => u.ref % 2 ^ 32 == ref
def LkpUnit.itemFor (u : LkpUnit) (row : Nat) : Nat := u.items.findIdx fun x => x.index == row && x.out == .waiting

/-- The read of a held row counted. -/
def State.countRead (s : State) (q : QuernId) : State := s.updQuern q fun k => { k with reads := satAdd stallMax k.reads 1 }

/-- A request of this device served from its own copy, or sent to the home when there is none (R260). -/
def State.serveOwn (s : State) (r : LkpReq) : State :=
  let q := s.quernOf r.table r.row
  match s.unitOf r.ref with
  | none => s
  | some u =>
    let f := s.frontQ u.core
    match s.rowAt r.table r.row with
    | some row =>
      let t := s.noteUse true (s.reads r.step) r.table (s.shardOf r.table r.row)
      (t.countRead q).takeRecord f r.step r.table u.ref (u.itemFor r.row) (s.recordFor q r.table r.row (s.reads r.step) row)
    | none =>
      if s.homeOf r.table r.row = s.me then s.setOutcome u.ref (u.itemFor r.row) (.fault 1)
      else (s.updQuern f fun k => { k with sent := satAdd 0xFFFFFFFF k.sent 1 }).sendLkpReq (s.homeOf r.table r.row) r

/-- A request of another device served at the home: the record, or none where no present entry exists (R261, R270). -/
def State.serveRemote (s : State) (r : LkpReq) : State :=
  let q := s.quernOf r.table r.row
  let rec' := (s.rowAt r.table r.row).map (s.recordFor q r.table r.row (s.reads r.step))
  (((if rec'.isSome then s.countRead q else s).updQuern q fun k => { k with served := satAdd 0xFFFFFFFF k.served 1 })).sendLkpRsp r.src r.step r.ctx
    { src := s.me, table := r.table, row := r.row, ver16 := r.ver16, ref := r.ref, record := rec' }

/-- A request served. -/
def State.serve (s : State) (r : LkpReq) : State := if r.src = s.me then s.serveOwn r else s.serveRemote r

/-- A request at a serving Quern: held, and the wait counted, until the Quern has ended the Apply of its version or received
SKIP (R262). -/
def State.holdOrServe (s : State) (r : LkpReq) : State :=
  let q := s.quernOf r.table r.row
  if (s.quern q).doneVersion < s.reads r.step then
    s.updQuern q fun k => { k with
      held := k.held ++ [r], versionWait := satAdd 0xFFFFFFFF k.versionWait 1, stall := stallCount 16 k.stall }
  else s.serve r

/-- One index of a unit asked for (R260, R270): a range fault at once; a row of which this device holds a copy from its own
Quern; any other from its home. -/
def State.askIndex (s : State) (u : LkpUnit) (i : Nat) (x : LkpItem) : State :=
  if s.field "TBL_ROWS" u.table ≤ x.index then s.setOutcome u.ref i (.fault 0)
  else
    let r := s.askOf u.step u.table x.index u.ref
    if (s.rowAt u.table x.index).isSome ∨ s.homeOf u.table x.index = s.me then s.holdOrServe r else s.serveOwn r

/-- Every index of a unit asked for, in order. -/
def State.askAll (s : State) (u : LkpUnit) : Nat → List LkpItem → State
  | _, [] => s
  | i, x :: l => State.askAll (s.askIndex u i x) u (i + 1) l

/-! ## Delivery and pooling (R259, R267, R271) -/

/-- The values of an item. -/
def LkpItem.row (x : LkpItem) : List F32 := match x.out with
  | .vals v => v
  | _ => []

/-- Whether every outcome of a unit is known, and whether one is a fault. -/
def LkpUnit.known (u : LkpUnit) : Bool := u.items.all fun x => x.out != .waiting
def LkpUnit.faulted (u : LkpUnit) : Bool := u.items.any fun x => match x.out with
  | .fault _ => true
  | _ => false

/-- pool of R267 for one element: the elements of a bag in position order with their weights. -/
def poolElem (mode : Nat) (xs : List (F32 × F32)) : F32 × Ev :=
  let a := xs.foldl (fun (a : F32 × Ev) p =>
    let r := if mode = 2 then f32Fma p.2 p.1 a.1 else f32Add a.1 p.1
    (r.1, evAdd a.2 r.2)) ((0 : F32), ({} : Ev))
  if mode = 3 ∧ xs ≠ [] then
    let q := f32Div a.1 (intToF32 xs.length)
    (q.1, evAdd a.2 q.2)
  else a

/-- A bag of rows pooled (R267). -/
def poolBag (mode d : Nat) (rows : List (List F32 × F32)) : List (F32 × Ev) :=
  (List.range d).map fun e => poolElem mode (rows.map fun r => (r.1.getD e 0, r.2))

/-- The pooled rows of a unit: `rows` in array position order, `bags` with the count of each. -/
def poolUnit (mode d : Nat) : List Nat → List (List F32 × F32) → List (List (F32 × Ev))
  | [], _ => []
  | n :: ns, rows => poolBag mode d (rows.take n) :: poolUnit mode d ns (rows.drop n)

/-- Counts of the bags of unit `u`. -/
def State.bagCounts (s : State) (c : CoreId) (cmd : Cmd) (u : Nat) : List Nat :=
  (cmd.bagsOf u).map fun b => s.bagOff c cmd (b + 1) - s.bagOff c cmd b

/-- The weights of a unit's positions. -/
def State.unitWeights (s : State) (c : CoreId) (cmd : Cmd) (u : Nat) : List F32 :=
  (s.unitItems c cmd u).map (·.weight)

/-- Rows of a unit pooled with the command's bag list, and the events of the arithmetic. -/
def State.poolRows (s : State) (c : CoreId) (cmd : Cmd) (u : Nat) (rows : List (List F32)) : List (List F32) × Ev :=
  let l := poolUnit (s.bagList c cmd).mode cmd.desc.dimN (s.bagCounts c cmd u) (rows.zip (s.unitWeights c cmd u))
  (l.map fun r => r.map Prod.fst, evSum (l.flatMap id))

/-- The running command that a unit belongs to. -/
def State.unitCmd (s : State) (u : LkpUnit) : Option Cmd :=
  ((s.core u.core).front u.stream).running.find? fun c => c.step == u.step && c.index == u.index

/-- One contribution to a home or mirror: on chip when it is this device, else over the fabric; counted for the marker
(R282, R286). -/
def State.sendContribution (s : State) (g : Contribution) (dst : DevId) : State :=
  let q := s.quernOf g.table g.row
  let t := s.updStep g.step fun p => { p with sentTo := kvMod 0 (dst, q.val) (· + 1) p.sentTo }
  if dst = s.me then t.gristAccept g else t.sendGrist dst g

/-- A contribution sent to both. -/
def State.sendBoth (s : State) (g : Contribution) : State :=
  (s.sendContribution g (s.homeOf g.table g.row)).sendContribution g (s.mirrorOf g.table g.row)

/-- A unit leaves the front Quern through the core port: looked-up rows go to the unit's stage, one for each index in array position order
(R259), gradients to their homes and mirrors (R282). -/
def State.completeUnit (s : State) (u : LkpUnit) : State :=
  let t := { s with units := s.units.filter fun x => x.ref != u.ref }
  match s.unitCmd u with
  | none => t
  | some cmd =>
    if cmd.desc.op = .gradSend then (u.grads.foldl State.sendBoth t).updCore u.core fun k => k.commitUnit cmd.desc.stream cmd 0
    else
      let r := t.stageRows u.core cmd 0 u.unit (s.bagOff u.core cmd (u.unit * cmd.desc.passR)) (u.items.map LkpItem.row)
      if cmd.desc.chain = [] then r.unitDone u.core cmd u.unit else r

/-- The unit with a reference, completed. -/
def State.completeRef (s : State) (ref : Nat) : State := match s.units.find? fun u => u.ref == ref with
  | some u => s.completeUnit u
  | none => s

/-- Bytes that a unit moves through the core port: its rows, or one gradient for each index, as FP32 elements. -/
def LkpUnit.bytes (u : LkpUnit) (cmd : Cmd) : Nat :=
  4 * (if cmd.desc.op = .gradSend then u.items.length * cmd.desc.dimN else (u.items.flatMap LkpItem.row).length)

/-- A unit whose every index is known without a fault goes to the core port, where its transfer waits for tokens (R195, R203). -/
def State.deliverUnit (s : State) (u : LkpUnit) : State :=
  if u.known = false ∨ u.faulted = true ∨ u.sending = true then s
  else match s.unitCmd u with
    | none => { s with units := s.units.filter fun x => x.ref != u.ref }
    | some cmd =>
      if u.bytes cmd = 0 then s.completeUnit u
      else
        let share : Share := if cmd.desc.op = .gradSend then .remote else .read
        ({ s with units := s.units.map fun (x : LkpUnit) => if x.ref = u.ref then { x with sending := true } else x }).pushXfer u.core
          (qrnXfer cmd share u.ref (u.bytes cmd))

/-- Every deliverable unit delivered. -/
def State.deliverAll (s : State) : State := s.units.foldl State.deliverUnit s

/-- A unit of a bag-list command whose list breaks R258, or whose arrays lie outside the regions: the fault is raised and
no lookup is sent. -/
def State.unitFault (s : State) (c : CoreId) (cmd : Cmd) (u : Nat) : Option State :=
  let mb := cmd.desc.mb.getD 0
  match s.listFault c cmd with
  | some f => some ((s.raise .stepFatal f.1 (unitNo 1 c.val) cmd.step f.2).updCore c fun k =>
      k.stopCmd cmd.desc.stream cmd.step cmd.index u)
  | none => match s.bagFault c cmd u with
    | some f => some ((s.qrnFault (s.frontQ c) f.1 cmd.step (qrnDetail cmd.desc.tensor f.2.2.1 0 f.2.1 c.val mb) f.2.2.2).updCore c
        fun k => k.stopCmd cmd.desc.stream cmd.step cmd.index u)
    | none => none

/-- The unit record of unit `u` of a command. -/
def State.newUnit (s : State) (c : CoreId) (cmd : Cmd) (u : Nat) (items : List LkpItem) : LkpUnit :=
  { ref := s.nextRef, core := c, stream := cmd.desc.stream, step := cmd.step, mb := cmd.desc.mb.getD 0, index := cmd.index,
    unit := u, table := cmd.desc.tensor, mode := (s.bagList c cmd).mode,
    bf16 := cmd.desc.out.fmt == .bf16, bags := s.bagCounts c cmd u, items := items }

/-- A unit record added. -/
def State.addUnit (s : State) (u : LkpUnit) : State := { s with units := s.units ++ [u], nextRef := s.nextRef + 1 }

/-- Unit `u` of a LOOKUP at its front Quern (R258 to R260). -/
def State.lookupUnit (s : State) (c : CoreId) (cmd : Cmd) (u : Nat) : State :=
  match s.unitFault c cmd u with
  | some t => t
  | none =>
    let x := s.newUnit c cmd u (s.unitItems c cmd u)
    ((s.addUnit x).askAll x 0 x.items).deliverAll

/-- LKP_REQ (R261, R262): the serving Quern of the home holds or serves a request. -/
def execLkpReq (r : LkpReq) (s : State) : Out :=
  if (s.stepOf r.step).st = .aborting then .next s else .next (s.holdOrServe r)

/-- LKP_RSP (R260, R270): the record is decoded and recorded for its index; a complete unit is delivered. A reply for a unit
that is gone is dropped. -/
def execLkpRsp (r : LkpRsp) (s : State) : Out :=
  match s.unitOf r.ref with
  | none => .next s
  | some u => match r.record with
    | none => .next (s.setOutcome u.ref (u.itemFor r.row) (.fault 1))
    | some x => .next (s.takeRecord (s.frontQ u.core) u.step u.table u.ref (u.itemFor r.row) x).deliverAll

/-- LOOKUP_HOLD_RELEASE (R262): requests held for a version that the Quern has reached are served in order. -/
def execLookupHoldRelease (q : QuernId) (s : State) : Out :=
  let k := s.quern q
  let go := k.held.filter fun r => s.reads r.step ≤ k.doneVersion
  let t := s.updQuern q fun x => { x with held := x.held.filter fun r => k.doneVersion < s.reads r.step }
  .next (go.foldl State.serve t).deliverAll

/-- INDEX_FAULT_REPORT (R271): with every outcome of the unit known, the fault of its lowest (bag, position) is recorded and
the unit is dropped. -/
def execIndexFaultReport (ref : Nat) (s : State) : Out :=
  match s.units.find? fun u => u.ref == ref with
  | none => .next s
  | some u =>
    if u.known = false then .next s
    else
      match u.items.findSome? fun x => match x.out with
          | .fault k => some (x, k)
          | _ => none with
      | none => .next s
      | some f =>
        let t := ({ s with units := s.units.filter fun x => x.ref != ref }).updCore u.core fun k =>
          k.stopCmd u.stream u.step u.index u.unit
        .next (t.qrnFault (s.frontQ u.core) (0x040 + f.2) u.step
          (qrnDetail u.table f.1.bag f.1.pos f.2 u.core.val u.mb) f.1.index)

/-! ## GRAD_SEND (R269, R282 to R286) -/

/-- The gradient of an item from the upstream rows of its unit (R269): row `own` of its own output row for NONE, else the row
of its bag; with the events. -/
def gradOf (mode n : Nat) (w : F32) (dy : List F32) : List (F32 × Ev) :=
  match mode with
  | 2 => dy.map fun y => f32Mul w y
  | 3 => dy.map fun y => f32Div y (intToF32 n)
  | _ => dy.map fun y => (y, {})

/-- The gradients of a unit's items with their row index, in array position order; `dy` holds the unit's upstream rows. The quotient of MEAN
is formed once for a bag, so its events are those of the bag's first item. -/
def unitGrads (mode d : Nat) (bag0 : Nat) (counts : List Nat) (items : List LkpItem) (dy : List (List F32)) :
    List (Nat × List (F32 × Ev)) :=
  items.zipIdx.map fun x =>
    let b := x.1.bag - bag0
    let row := dy.getD (if mode = 0 then x.2 else b) (List.replicate d 0)
    let g := gradOf mode (counts.getD b 0) x.1.weight row
    (x.1.index, if mode = 3 ∧ x.1.pos ≠ 0 then g.map (fun y => (y.1, {})) else g)

/-- The contribution of one per-lookup gradient as FP32 (R284). -/
def State.contribF32 (s : State) (n lay t r : Nat) (vals : List F32) : Contribution :=
  { src := s.me, table := t, row := r, step := n, layEpoch := lay, ctx := s.atl.runCtx.getD 0, fx48 := false,
    nonfin := false, sat := false, count := 1, vals := vals.map BitVec.toNat }

/-- Gradients of one row joined at the front Quern in FX48 (R284): sums, count, events of conversion and addition. -/
def joinFX (x : Int) (gs : List (List F32)) : List Int × Nat × Ev :=
  gs.foldl (fun (a : List Int × Nat × Ev) g =>
    let c := g.map (toFX48 x)
    let old := if a.1 = [] then List.replicate c.length 0 else a.1
    let l := List.zipWith fxAdd old (c.map Prod.fst)
    (l.map Prod.fst, a.2.1 + 1, evAdd a.2.2 (evAdd (evSum c) { sat := bit (l.any Prod.snd) }))) ([], 0, {})

/-- The contributions of a unit in FX48: one for each row, rows in the order of their first index; with the events of the front Quern. -/
def State.contribsFX (s : State) (n lay t : Nat) (gs : List (Nat × List F32)) : List Contribution × Ev :=
  let rows := gs.foldl (fun l g => addNew g.1 l) []
  let l := rows.map fun r => (r, joinFX (s.xT n t) ((gs.filter fun g => g.1 == r).map Prod.snd))
  let one := fun x : Nat × List Int × Nat × Ev => ({
    src := s.me, table := t, row := x.1, step := n, layEpoch := lay, ctx := s.atl.runCtx.getD 0, fx48 := true
    nonfin := decide (0 < x.2.2.2.nan + x.2.2.2.inf), sat := decide (0 < x.2.2.2.sat), count := x.2.2.1
    vals := x.2.1.map (ofSigned 48) } : Contribution)
  (l.map one, evSum (l.map fun x => (0, x.2.2.2)))

/-- The items of a GRAD_SEND unit with the faults of R270 known to this device: an index beyond the table, or a row that it
homes without an entry (R283). -/
def State.gradItems (s : State) (c : CoreId) (cmd : Cmd) (u : Nat) : List LkpItem :=
  let t := cmd.desc.tensor
  (s.unitItems c cmd u).map fun x =>
    { x with out :=
        if s.field "TBL_ROWS" t ≤ x.index then .fault 0
        else if s.homeOf t x.index = s.me ∧ (s.rowAt t x.index).isNone then .fault 1
        else .vals [] }

end Sys2Proof.Machine
end

