-- ==== Sys2Proof/Machine/StepOps.lean ====
section
/-! DEFINITION. Operations over the steps that several commands share: the record of a step, discarding steps (R47, R190,
R350), re-running them, and events of steps (R563). -/

namespace Sys2Proof.Machine

/-! ## Discarding the work of steps (R47, R190, R207) -/

/-- A front end without the commands of discarded steps; `lo` is the lowest of them, and an instance from `lo` up starts
again. -/
def Front.discard (f : Front) (lo : Nat) (p : Nat → Bool) : Front :=
  { inst := if lo ≤ f.inst then lo else f.inst, next := if lo ≤ f.inst then 0 else f.next
    queue := f.queue.filter fun c => !p c.step, running := f.running.filter fun c => !p c.step }

/-- An engine without the passes and slices of discarded steps that have not started; those in the array or awaiting their
verdict run to their end and are discarded at the verdict. -/
def Engine.discard (e : Engine) (p : Nat → Bool) : Engine :=
  let mark := fun r : RunPass => if p r.pass.step then { r with pass := { r.pass with discard := true } } else r
  { e with
    assigned := e.assigned.filter (fun x => !p x.step), slices := e.slices.filter (fun x => !p x.step)
    inArray := e.inArray.map mark, ended := e.ended.map mark, replay := e.replay.filter (fun x => !p x.step)
    seriesPasses := e.seriesPasses.filter (fun x => !p x.step), series := if e.seriesPasses.any (fun x => p x.step) then none else e.series }

/-- Whether a transfer without tags leaves with its step: one that is queued, and one that waits for another device (R241). -/
def Transfer.leaves (x : Transfer) (p : Nat → Bool) : Bool := p x.step && x.tags.isEmpty && (!x.departed || x.remote.isSome)

/-- Transfers of discarded steps: queued ones go, departed ones are dropped on arrival. Tagged ones are cancelled apart. -/
def Feed.discard (f : Feed) (p : Nat → Bool) : Feed :=
  let drop := fun x : Transfer => if p x.step && x.tags.isEmpty then { x with dropped := true } else x
  { f with queue := (f.queue.filter fun x => !x.leaves p).map drop }

/-- Blocks of the hand-over slots of discarded steps, staging blocks of their committed passes and of their passes that
have not started, and blocks of their writes that leave and of their outputs that wait for the stash. -/
def Core.discardBlocks (k : Core) (p : Nat → Bool) : List Nat :=
  let gone := (k.carries.filter fun x => p x.step).map (·.pass)
    ++ ((k.eng.flatMap fun e => e.2.assigned ++ e.2.replay).filter fun x => p x.step).map (·.id)
  (k.hand.filter fun h => p h.step).flatMap (·.blocks)
    ++ (k.feed.queue.filter fun x => x.leaves p).flatMap (·.blocks) ++ (k.lb.owed.filter fun x => p x.cmd.step).flatMap (·.blocks)
    ++ (k.lb.blocks.filter fun b => b.2.content == .stage && gone.contains b.2.pass).map Prod.fst

/-- The local buffer without the operands of discarded steps and without the listed blocks. -/
def discardLb (p : Nat → Bool) (bs : List Nat) (l : LocalBuf) : LocalBuf :=
  let m : LocalBuf := { l.freeBlocks bs with owed := l.owed.filter fun x => !p x.cmd.step }
  LocalBuf.freeHeld
    { m with held := m.held.map fun h => { h with users := h.users.filter (fun u => !p u.1), keep := h.keep.filter (fun n => !p n) } }
    fun h => h.users.isEmpty && h.keep.isNone && h.loc.isNone

/-- A core without the work of discarded steps. `slots` are the micro-batch slots freed. -/
def Core.discard (k : Core) (lo : Nat) (p : Nat → Bool) (slots : List Nat) : Core :=
  Core.cancel { k with
    f := k.f.discard lo p, b := k.b.discard lo p, u := k.u.discard lo p
    deferred := k.deferred.filter fun c => !p c.step
    sync := k.sync.filter fun x => !p x.1.1
    hand := k.hand.filter fun h => !p h.step
    carries := k.carries.filter fun x => !p x.step
    eng := k.eng.map fun e => (e.1, e.2.discard p)
    lb := discardLb p (k.discardBlocks p) (slots.foldl LocalBuf.freeSlot k.lb)
    feed := k.feed.discard p } fun t => p t.step

/-- Weir without the nodes, roots and candidates of discarded steps. -/
def State.discardWeir (s : State) (p : Nat → Bool) : State :=
  ((s.updWeir fun w => { w with
    nodes := w.nodes.filter fun x => !p x.1.step
    seen := w.seen.filter fun k => !p k.step
    sliceTries := w.sliceTries.filter fun x => !p x.1.1.step
    retained := w.retained.filter fun x => !p x.1.1
    roots := w.roots.filter fun x => !p x.1.1 }).dropCands p).refreshRed

/-- The work of every step that `p` names discarded on this device; `lo` is the lowest of them. -/
def State.discardWork (s : State) (lo : Nat) (p : Nat → Bool) : State :=
  let slots := (s.ctl.slots.filter fun x => p x.2.step).map Prod.fst
  let t : State := { s with cores := s.cores.map fun x => (x.1, Core.discard x.2 lo p slots) }
  let u := (t.dropSets p).discardWeir p
  u.updCtl fun c => { c with
    slots := c.slots.filter fun x => !p x.2.step
    stageOut := c.stageOut.filter fun x => !p x.2.2.1
    rxSteps := c.rxSteps.filter fun n => !p n
    acc := c.acc.filter fun x => !p x.1
    mirrorHeld := c.mirrorHeld.filter fun x => !p x.1
    rootDecided := c.rootDecided.filter fun x => !p x.1
    broadcast := c.broadcast.filter fun n => !p n }

/-! ## Events of steps (R563) -/

/-- An event of the running context for a step. -/
def State.event (s : State) (code n detail : Nat) : State :=
  s.raise1 { code := code, cls := .event, unit := unitNo 0 0, ctx := s.atl.runCtx, step := n, detail := detail, detail2 := 0 }

/-! ## Aborting and re-running (R350) -/

/-- Whether a step is open and its Vote has not completed here, so that an abort reaches it. -/
def StepRec.undecided (p : StepRec) : Bool := p.st == .gather || p.st == .closed || p.st == .vote

/-- Open steps from `n` up that an abort reaches, ascending. -/
def State.abortable (s : State) (n : Nat) : List Nat :=
  sortBy id ((s.ctl.steps.filter fun x => n ≤ x.1 && x.2.undecided).map Prod.fst)

/-- The steps of a list discarded: they go to ABORTING and each is reported (R47, R350). -/
def State.abortList (s : State) (l : List Nat) : State :=
  match l with
  | [] => s
  | lo :: _ =>
    let t := s.discardWork lo l.contains
    l.foldl (fun a m => (a.updStep m fun p => { p with st := .aborting }).event 0x0F3 m 0) t

/-- Step `n` and every later open step whose Vote has not completed discarded (R47), with the conditions recorded against later steps
that are not admitted yet (R46). -/
def State.abortFrom (s : State) (n : Nat) : State :=
  (s.abortList (s.abortable n)).updCtl fun c => { c with
    steps := c.steps.map fun x => if n ≤ x.1 && x.2.st == .idle then (x.1, { x.2 with fatal := false }) else x }

/-- The steps in ABORTING go to IDLE, to be re-run with the same samples (R350). -/
def State.rerun (s : State) : State :=
  s.updCtl fun c => { c with steps := c.steps.filter fun x => x.2.st != .aborting }

/-- A halt at step `n` (R48): the step is HALTED and keeps its retained sets and roots (R302, R321); later open steps are
discarded, and the job stops. -/
def State.haltAt (s : State) (n : Nat) : State :=
  (((s.abortFrom (n + 1)).updStep n fun p => { p with st := .halted }).updCtl (fun c => { c with halted := true })).event
    0x0F4 n 0

/-- Host software resumes a halted job (R48, R350): the halted step is discarded and goes to IDLE with those after it. -/
def State.unhalt (s : State) : State :=
  let l := sortBy id ((s.ctl.steps.filter fun x => x.2.st == .halted).map Prod.fst)
  let t := match l with
    | [] => s
    | lo :: _ => s.discardWork lo l.contains
  t.updCtl fun c => { c with halted := false, steps := c.steps.filter fun x => x.2.st != .halted && x.2.st != .aborting }

/-! ## Progress (R41, R49) -/

/-- The micro-batch to admit next, in (STEP, MB) order: that of the lowest open or new step that lacks one (R26). -/
def nextAdmit (s : State) : Nat → Nat → Nat × Nat
  | 0, n => (n, (s.stepOf n).admitted)
  | fuel + 1, n => if (s.stepOf n).admitted < s.mbs then (n, (s.stepOf n).admitted) else nextAdmit s fuel (n + 1)
def State.toAdmit (s : State) : Nat × Nat := nextAdmit s 5 (s.ctl.sealed + 1)

/-- Open steps (R43, R49). -/
def State.openSteps (s : State) : List Nat :=
  (s.ctl.steps.filter fun x => x.2.st != .idle && x.2.st != .sealed && s.ctl.sealed < x.1).map Prod.fst

/-- Whether a decision has made version `n` of the rows and masters current (R19). -/
def State.applied (s : State) (n : Nat) : Bool :=
  let p := (s.stepOf n).st
  n ≤ s.ctl.sealed || p == .seal || p == .sealed

end Sys2Proof.Machine
end

