-- ==== Sys2Proof/Machine/Digests.lean ====
section
/-! DEFINITION. Digests and the checks between Apply and Seal: unit leaves, the change and parameter digests, comparisons,
repairs, replays and rebuilds (R341 to R345, R360 to R365). -/

namespace Sys2Proof.Machine

/-! ## Units and their leaves (R343) -/

/-- The content of a row, a tile and a scalar record in the layout of its leaf. -/
def rowUnit (t r : Nat) (rec' : RowRec) (st : List Byte) : List Byte :=
  leBytes 8 (rowKey t r) ++ leBytes 1 (clsNo rec'.cls) ++ rec'.bytes ++ st
def tileUnit (t tk tn : Nat) (f : TileFrame) : List Byte :=
  leBytes 8 (tileKey t tk tn) ++ f32Bytes f.master ++ f.states.flatMap f32Bytes
def scalarUnit (t : Nat) (r : Scalar) : List Byte := leBytes 8 (scalarKey t) ++ leBytes 4 r.count ++ f32Bytes (r.xs.take 4)

/-- The leaf of a unit's content. -/
def leafOf (content : List Byte) : List Byte := sha384 (0 :: content)

/-- The parts of a unit key (R341): rows lie below 2^52; bit 62 marks a scalar record. -/
def keyIsRow (key : Nat) : Bool := key < 2 ^ 52
def keyIsScalar (key : Nat) : Bool := bits key 62 62 == 1
def keyTable (key : Nat) : Nat := bits key 51 40
def keyRow (key : Nat) : Nat := key % 2 ^ 40
def State.keyTau (s : State) (key : Nat) : Nat := s.tauOf (keyTable key) (bits key 31 16) (bits key 15 0)

/-- The content of a unit held here as step `n` leaves it. -/
def State.unitContent (s : State) (key : Nat) : Option (List Byte) :=
  if keyIsRow key then
    (kvFind (keyTable key, keyRow key) s.rows).map fun x => rowUnit (keyTable key) (keyRow key) x.next x.state
  else if keyIsScalar key then (kvFind (keyTable key) s.weir.scalars).map (scalarUnit (keyTable key))
  else (kvFind (keyTable key, s.keyTau key) s.weir.tiles).map fun x =>
    tileUnit (keyTable key) (bits key 31 16) (bits key 15 0) x.current

/-- Keys with their leaves, in ascending key. -/
def State.leavesOf (s : State) (keys : List Nat) : List (Nat × List Byte) :=
  (sortBy id keys).filterMap fun k => (s.unitContent k).map fun c => (k, leafOf c)

/-- Tables that learn. -/
def State.learnTables (s : State) : List Nat :=
  (s.ldr.fields.filter fun f => f.inst.name == "TBL_ROWS" && fieldApplies s f && s.field "TBL_LEARN" f.inst.scope == 1).map
    fun f => f.inst.scope
/-- Tensors that learn. -/
def State.learnTensors (s : State) : List Nat := s.tensors.filter s.dtLearns

/-- The first device of DSHARD_DEV, which sends the leaf of a tensor's scalar record and compares working copies. -/
def State.firstHome (s : State) (t : Nat) : DevId := (s.fieldL "DSHARD_DEV" t).headD 0

/-- Keys of the rows that step `n` changed here. -/
def State.changedKeys (s : State) (n : Nat) : List Nat := (s.stepOf n).changedRows.map fun x => rowKey x.1 x.2

/-- Keys of the learning tiles of the device. -/
def State.tileKeys (s : State) (p : Nat → Nat → Bool) : List Nat :=
  (s.myTiles.filter fun x => p x.1 x.2).map fun x => tileKey x.1 (s.tkOf x.1 x.2) (s.tnOf x.1 x.2)

/-- Keys of the units that this device sends leaves of for step `n` (R343). -/
def State.homeKeys (s : State) (n : Nat) : List Nat :=
  ((s.stepOf n).changedRows.filter fun x => s.homeOf x.1 x.2 == s.me).map (fun x => rowKey x.1 x.2)
    ++ s.tileKeys (fun t u => s.tileHome t u == s.me)
    ++ (s.learnTensors.filter fun t => s.firstHome t == s.me).map scalarKey

/-! ## Buckets, the change digest and P (R343, R344) -/

/-- The bucket of a key, and its owner (R343). -/
def bucketOf (key : Nat) : Nat := (mix64 (BitVec.ofNat 64 key) >>> 48).toNat
def State.bucketOwner (s : State) (q : Nat) : DevId :=
  let m := sortBy id s.ctl.members
  m.getD (q % max 1 m.length) 0

/-- One level of the tree of R316 over digests, with h(0x01 || lower || upper) in place of addition. -/
def hashLevel : List (Nat × List Byte) → List (Nat × List Byte)
  | [] => []
  | [x] => [(x.1 / 2, x.2)]
  | x :: y :: l =>
    if x.1 / 2 = y.1 / 2 then (x.1 / 2, sha384 (1 :: (x.2 ++ y.2))) :: hashLevel l
    else (x.1 / 2, x.2) :: hashLevel (y :: l)

/-- Levels of the tree. -/
def hashTree : Nat → List (Nat × List Byte) → List (Nat × List Byte)
  | 0, l => l
  | n + 1, l => hashTree n (hashLevel l)

/-- 48 zero bytes. -/
def zero48 : List Byte := List.replicate 48 0

/-- The change digest of bucket digests (R343). -/
def changeDigest (buckets : List (Nat × List Byte)) : List Byte :=
  ((hashTree 16 (sortBy Prod.fst buckets)).head?.map Prod.snd).getD zero48

/-- The bucket digest of leaves in ascending key. -/
def bucketDigest (leaves : List (Nat × List Byte)) : List Byte :=
  sha384 (7 :: (leBytes 8 leaves.length ++ (sortBy Prod.fst leaves).flatMap Prod.snd))

/-- The bucket digests of leaves. -/
def bucketsOf (leaves : List (Nat × List Byte)) : List (Nat × List Byte) :=
  let qs := leaves.foldl (fun l x => insNat (bucketOf x.1) l) []
  qs.map fun q => (q, bucketDigest (leaves.filter fun x => bucketOf x.1 == q))

/-- P_n of R344. -/
def paramDigest (prev : List Byte) (n : Nat) (skip : Bool) (c z : List Byte) : List Byte :=
  sha384 (4 :: (prev ++ leBytes 6 n ++ leBytes 1 (bit skip) ++ c ++ z))

/-- P_s0 of R344 for the full digest F. -/
def loadDigest (s0 : Nat) (f z : List Byte) : List Byte := sha384 (5 :: (leBytes 6 s0 ++ f ++ z))

/-- Z of a version. -/
def State.scaleZ (s : State) (n : Nat) : List Byte := ((kvFind n s.weir.scaleSets).map (·.digest)).getD zero48

/-- P_n formed at the vote root and broadcast to every member. -/
def State.rootParam (s : State) (n : Nat) (skip : Bool) (c : List Byte) : State :=
  let p := paramDigest s.weir.param n skip c (s.scaleZ n)
  (s.updDigest n fun d => { d with param := some p }).emitEach (s.ctl.members.filter (· != s.me)) fun d tag =>
    .digest d tag (.param s.me n p)

/-- Whether every member's end marker and its counted items are there. -/
def endsMet (members : List DevId) (ends counts : KV DevId Nat) : Bool :=
  members.all fun d => match kvFind d ends with
    | some c => c ≤ kvGet 0 d counts
    | none => false

/-- The vote root forms C_n and P_n once every bucket digest is there (R343, R344). -/
def State.tryRoot (s : State) (n : Nat) : State :=
  let d := s.digestOf n
  if s.isRoot ∧ d.param = none ∧ endsMet s.ctl.members d.bucketEnds d.bucketCount = true
      ∧ s.weir.ssChecked.contains n = true then
    s.rootParam n false (changeDigest d.buckets)
  else s

/-- A bucket digest, or a bucket end marker, at the vote root. -/
def State.takeBucket (s : State) (src : DevId) (n q : Nat) (x : List Byte) : State :=
  (s.updDigest n fun d => if d.buckets.any (fun b => b.1 == q) then d else
    { d with buckets := d.buckets ++ [(q, x)], bucketCount := kvMod 0 src (· + 1) d.bucketCount }).tryRoot n
def State.takeBucketEnd (s : State) (src : DevId) (n c : Nat) : State :=
  (s.updDigest n fun d => { d with bucketEnds := kvPut src c d.bucketEnds }).tryRoot n

/-- A digest frame sent to a device, or none when it is this one. -/
def State.sendDigest (s : State) (dst : DevId) (f : DigestFrame) : State :=
  if dst = s.me then s else s.emitAcked dst fun tag => .digest dst tag f

/-- The owner of buckets forms their digests once every member's leaves are there, and sends them to the root. -/
def State.tryBuckets (s : State) (n : Nat) : State :=
  let d := s.digestOf n
  if d.sentBuckets = false ∧ endsMet s.ctl.members d.leafEnds d.leafCount = true then
    let bs := bucketsOf d.leaves
    let t := s.updDigest n fun x => { x with sentBuckets := true }
    if s.isRoot then (bs.foldl (fun a b => a.takeBucket s.me n b.1 b.2) t).takeBucketEnd s.me n bs.length
    else
      let root := s.field "VOTE_ROOT"
      (bs.foldl (fun a b => a.sendDigest root (.bucket s.me n b.1 b.2)) t).sendDigest root (.bucketEnd s.me n bs.length)
  else s

/-- A leaf, or a leaf end marker, at the owner of its bucket. -/
def State.takeLeaf (s : State) (src : DevId) (n key : Nat) (x : List Byte) : State :=
  (s.updDigest n fun d => if d.leaves.any (fun l => l.1 == key) then d else
    { d with leaves := d.leaves ++ [(key, x)], leafCount := kvMod 0 src (· + 1) d.leafCount }).tryBuckets n
def State.takeLeafEnd (s : State) (src : DevId) (n c : Nat) : State :=
  (s.updDigest n fun d => { d with leafEnds := kvPut src c d.leafEnds }).tryBuckets n

/-- The leaves of step `n` sent to the owners of their buckets among the devices that satisfy `dst`, then an end marker to each of those
members (R343). -/
def State.sendLeaves (s : State) (n : Nat) (dst : DevId → Bool) : State :=
  let ls := (s.leavesOf (s.homeKeys n)).filter fun x => dst (s.bucketOwner (bucketOf x.1))
  let u := ls.foldl (fun a x =>
    let o := s.bucketOwner (bucketOf x.1)
    if o = s.me then a.takeLeaf s.me n x.1 x.2 else a.sendDigest o (.leaf s.me n x.1 x.2)) s
  (s.ctl.members.filter dst).foldl (fun a m =>
    let c := (ls.filter fun x => s.bucketOwner (bucketOf x.1) == m).length
    if m = s.me then a.takeLeafEnd s.me n c else a.sendDigest m (.leafEnd s.me n c)) u

/-! ## Comparison digests (R345, R360, R361) -/

/-- Keys of the units of a shard that step `n` changed here. -/
def State.shardKeys (s : State) (n : Nat) (dense : Bool) (t j : Nat) : List Nat :=
  if dense then s.tileKeys fun u tau => u == t && s.tileShard t tau == j
  else ((s.stepOf n).changedRows.filter fun x => x.1 == t && s.shardOf t x.2 == j).map fun x => rowKey x.1 x.2

/-- The shard digest of R345. -/
def State.shardDigest (s : State) (n : Nat) (dense : Bool) (t j : Nat) : List Byte :=
  sha384 (6 :: (s.leavesOf (s.shardKeys n dense t j)).flatMap Prod.snd)

/-- The working-copy digest of a tensor over tile digests in ascending τ (R345). -/
def wcDigestOf (t n : Nat) (tiles : List (Nat × List Byte)) : List Byte :=
  sha384 (8 :: (leBytes 2 t ++ leBytes 6 n ++ (sortBy Prod.fst tiles).flatMap Prod.snd))

/-- The tile digests of version `n` as they arrived here. -/
def State.ownWc (s : State) (n t : Nat) : List (Nat × List Byte) :=
  (s.tilesIn t).filterMap fun u => (s.ringTile n t u).map fun x => (u, x.digest)

/-- The tile digests of the source copies of version `n` that this device homes, formed again (R360). -/
def State.ownSources (s : State) (n t : Nat) : List (Nat × List Byte) :=
  ((s.tilesIn t).filter fun u => s.tileHome t u == s.me).filterMap fun u => (s.sourceOf n t u).map fun x =>
    (u, wcDigest (s.wcFmt t) (tileKey t x.tileK x.tileN) x.version x.codes x.csums)

/-- The replica digest over the leaves of rows (R361). -/
def replicaDigest (n t j : Nat) (leaves : List (Nat × List Byte)) : List Byte :=
  sha384 (9 :: (leBytes 2 t ++ leBytes 4 j ++ leBytes 6 n ++ leaves.flatMap Prod.snd))

/-- Keys of the replicated rows of a shard that step `n` changed: as home, and as a device with replicas. -/
def State.replHomeKeys (s : State) (n t j : Nat) : List Nat :=
  ((s.stepOf n).changedRows.filter fun x => x.1 == t && s.shardOf t x.2 == j && (match kvFind x s.rows with
    | some r => r.role == .home && (r.repl || r.pendRepl == some true)
    | none => false)).map fun x => rowKey x.1 x.2
def State.replOwnKeys (s : State) (n t j : Nat) : List Nat :=
  (s.repl.applied.filter fun x => x.1 == n && x.2.1 == t && s.shardOf t x.2.2 == j).map fun x => rowKey x.2.1 x.2.2

/-- Shards (table, j) of rows that this device applied as replicas at step `n`. -/
def State.replShards (s : State) (n : Nat) : List (Nat × Nat) :=
  (s.repl.applied.filter fun x => x.1 == n).foldl (fun l x => addNew (x.2.1, s.shardOf x.2.1 x.2.2) l) []
/-- Shards of replicated rows that this device homes and step `n` changed, with the devices they were sent to. -/
def State.sentShards (s : State) (n : Nat) : List CmpKey :=
  (s.stepOf n).changedRows.foldl (fun l x =>
    let j := s.shardOf x.1 x.2
    if (rowKey x.1 x.2) ∈ s.replHomeKeys n x.1 j then
      (s.replDevs x.1 x.2).foldl (fun a d => addNew { kind := 3, table := x.1, shard := j, dev := d } a) l
    else l) []

/-- Shard numbers of a list of devices where a device stands. -/
def shardsWhere (l : List Nat) (d : DevId) : List Nat := (l.zipIdx.filter fun x => x.1 == d).map Prod.snd

/-- The comparisons that this device makes for an applied step `n` (R360). -/
def State.comparisons (s : State) (n : Nat) : List CmpKey :=
  s.learnTensors.flatMap (fun t => (shardsWhere (s.fieldL "DSHARD_DEV" t) s.me).map fun j =>
      { kind := 0, table := t, shard := j, dev := (s.fieldL "DMIRROR_DEV" t).getD j 0 })
    ++ s.learnTables.flatMap (fun t => (shardsWhere (s.fieldL "SHARD_DEV" t) s.me).map fun j =>
      { kind := 1, table := t, shard := j, dev := s.shardMirror t j })
    ++ (s.learnTensors.filter fun t => s.firstHome t == s.me).flatMap (fun t => (s.fieldL "WC_GROUP" t).map fun d =>
      { kind := 2, table := t, shard := 0, dev := d })
    ++ s.sentShards n

/-- The reference of a comparison, once this device can form it. -/
def State.reference (s : State) (n : Nat) (k : CmpKey) : Option (List Byte) :=
  match k.kind with
  | 0 => some (s.shardDigest n true k.table k.shard)
  | 1 => some (s.shardDigest n false k.table k.shard)
  | 2 =>
    let tiles := ((s.digestOf n).wcSrc.filter fun x => x.1 == k.table).flatMap fun x => x.2.2
    if tiles.length = (s.tilesIn k.table).length then some (wcDigestOf k.table n tiles) else none
  | _ => some (replicaDigest n k.table k.shard (s.leavesOf (s.replHomeKeys n k.table k.shard)))

/-- Tiles of a version sent again to a device from this home's source copies (R362). -/
def State.resendTiles (s : State) (n t : Nat) (d : DevId) : State :=
  ((s.tilesIn t).filter fun u => s.tileHome t u == s.me).foldl (fun a u => match s.sourceOf n t u with
    | some x => a.emit [.wcTile d x]
    | none => a) s

/-- Rows of a shard of step `n` sent whole to a device (R362). -/
def State.resendRows (s : State) (n t j : Nat) (d : DevId) : State :=
  (s.replHomeKeys n t j).foldl (fun a k => match kvFind (t, keyRow k) s.rows with
    | some r => a.sendRow d (.replica n t (keyRow k) r.next r.state)
    | none => a) s

/-- The report of a differing copy at a device: the device itself takes its entry back to ARRIVING and keeps the reference; a
home sends the content again (R362). -/
def State.takeDiffer (s : State) (n : Nat) (rows : Bool) (t j : Nat) (dev : DevId) (ref : List Byte) : State :=
  if dev = s.me then
    let u := (s.beginRepair n rows t j).updDigest n fun d => { d with
      refs := (d.refs.filter fun x => !(x.1 == rows && x.2.1 == t && x.2.2.1 == j)) ++ [(rows, t, j, ref)] }
    let v := if rows then u.repair n 2 s.me (t + j * 2 ^ 12) else u.repair n 1 s.me t
    v.updWeir fun w => if rows then { w with rowRepairs := satAdd 0xFFFF w.rowRepairs 1 }
      else { w with wcRepairs := satAdd 0xFFFF w.wcRepairs 1 }
  else if rows then s
  else s.resendTiles n t dev

/-- Differing leaves are exchanged for a master rebuild (R365, items 1 and 2). -/
def State.startRebuild (s : State) (n : Nat) (dense : Bool) (t j : Nat) (partner : DevId) : State :=
  let u := s.raise .correctable 0x062 (unitNo 4 0) n t
  u.sendDigest partner (.shardLeaves s.me n dense t j (s.leavesOf (s.shardKeys n dense t j)))

/-- A comparison that differs (R360): a master rebuild, a working-copy repair or a replica repair. -/
def State.diverged (s : State) (n : Nat) (k : CmpKey) (ref : List Byte) : State :=
  match k.kind with
  | 0 => s.startRebuild n true k.table k.shard k.dev
  | 1 => s.startRebuild n false k.table k.shard k.dev
  | 2 =>
    let t := s.raise .correctable 0x060 (unitNo 4 0) n k.table
    let f := DigestFrame.differ s.me n false k.table 0 k.dev ref
    let dests := addNew k.dev (s.homesOf k.table)
    (dests.foldl (fun a d => a.sendDigest d f) t).takeDiffer n false k.table 0 k.dev ref
  | _ =>
    let t := s.raise .correctable 0x060 (unitNo 4 0) n k.table
    (t.sendDigest k.dev (.differ s.me n true k.table k.shard k.dev ref)).resendRows n k.table k.shard k.dev

/-- One received digest compared, when this device expects it and can form the reference. -/
def State.compareOne (s : State) (n : Nat) (x : CmpKey × List Byte) : State :=
  let d := s.digestOf n
  if x.1 ∈ d.pendingCmp ∧ (s.stepOf n).st = .seal then
    match s.reference n x.1 with
    | none => s
    | some ref =>
      let t := s.updDigest n fun y => { y with recv := y.recv.filter fun z => z.1 != x.1 }
      if ref = x.2 then t.updDigest n fun y => { y with pendingCmp := y.pendingCmp.filter (· != x.1) }
      else t.diverged n x.1 ref
  else s

/-- Every received digest of step `n` compared. -/
def State.compareAll (s : State) (n : Nat) : State := (s.digestOf n).recv.foldl (fun a x => a.compareOne n x) s

/-- A comparison digest at the device that compares it. -/
def State.takeCmp (s : State) (n : Nat) (k : CmpKey) (x : List Byte) : State :=
  (s.updDigest n fun d => { d with recv := (d.recv.filter fun z => z.1 != k) ++ [(k, x)] }).compareAll n

/-- The source digests of a home at DSHARD_DEV[0]. -/
def State.takeSource (s : State) (n : Nat) (src : DevId) (t : Nat) (tiles : List (Nat × List Byte)) : State :=
  (s.updDigest n fun d => { d with
    wcSrc := (d.wcSrc.filter fun x => !(x.1 == t && x.2.1 == src)) ++ [(t, src, tiles)] }).compareAll n

/-- A digest frame to a device that satisfies `dst`. -/
def State.digestTo (s : State) (dst : DevId → Bool) (d : DevId) (f : DigestFrame) : State := if dst d then s.sendDigest d f else s

/-- The working-copy digests of a tensor for its comparison at DSHARD_DEV[0]: of the source copies, and of the copies that arrived. -/
def State.sendWcCmp (s : State) (n : Nat) (dst : DevId → Bool) (t : Nat) : State :=
  let d := s.firstHome t
  let src := s.ownSources n t
  let x := wcDigestOf t n (s.ownWc n t)
  let a := if src = [] ∨ dst d = false then s
    else if d = s.me then s.takeSource n s.me t src else s.sendDigest d (.wcSource s.me n t src)
  if (s.fieldL "WC_GROUP" t).contains s.me = false ∨ dst d = false then a
  else if d = s.me then a.takeCmp n { kind := 2, table := t, shard := 0, dev := s.me } x
  else a.sendDigest d (.wc s.me n t x)

/-- The comparison digests that this device sends, to the devices that satisfy `dst`, for an applied step (R345, R360, R361). -/
def State.sendCmps (s : State) (n : Nat) (dst : DevId → Bool) : State :=
  let dense := s.learnTensors.flatMap fun t => (shardsWhere (s.fieldL "DMIRROR_DEV" t) s.me).map fun j => (t, j)
  let rows := s.learnTables.flatMap fun t => (shardsWhere (s.fieldL "MIRROR_DEV" t) s.me).map fun j => (t, j)
  let a := dense.foldl (fun a x => a.digestTo dst ((s.fieldL "DSHARD_DEV" x.1).getD x.2 0)
    (.shard s.me n true x.1 x.2 (s.shardDigest n true x.1 x.2))) s
  let b := rows.foldl (fun a x => a.digestTo dst (s.shardHome x.1 x.2)
    (.shard s.me n false x.1 x.2 (s.shardDigest n false x.1 x.2))) a
  let c := s.learnTensors.foldl (fun a t => a.sendWcCmp n dst t) b
  (s.replShards n).foldl (fun a x => a.digestTo dst (s.shardHome x.1 x.2)
    (.replica s.me n x.1 x.2 (replicaDigest n x.1 x.2 (s.leavesOf (s.replOwnKeys n x.1 x.2))))) c

/-- The Seal's digest work begins for an applied step: comparisons are awaited, leaves and comparison digests sent. -/
def State.sealDigests (s : State) (n : Nat) : State :=
  let all := fun _ : DevId => true
  ((s.updDigest n fun d => { d with pendingCmp := s.comparisons n }).sendLeaves n all).sendCmps n all |>.compareAll n

/-- Survivors of a failure continue the Seal of step `n` with the spares (R358, R374): what the failed devices had been sent is sent to
their spares, and a rebuild with a failed partner starts again when its digest comes. -/
def State.resendSeal (s : State) (failed : List DevId) (n : Nat) : State :=
  let to' := fun d : DevId => failed.contains d
  let d := s.digestOf n
  let root := s.field "VOTE_ROOT"
  if (s.stepOf n).st ≠ .seal ∨ (s.stepOf n).decided ≠ some .apply then s
  else
    let a := s.updWeir fun w => { w with rebuilding := w.rebuilding.filter fun r => !(r.step == n && to' r.cmp.dev) }
    let b := (a.sendLeaves n to').sendCmps n to'
    let bs := if to' root && d.sentBuckets then bucketsOf d.leaves else []
    let c := bs.foldl (fun x q => x.sendDigest root (.bucket s.me n q.1 q.2)) b
    let e := if to' root && d.sentBuckets then c.sendDigest root (.bucketEnd s.me n bs.length) else c
    match d.param with
    | some p => if s.isRoot then failed.foldl (fun x m => x.sendDigest m (.param s.me n p)) e else e
    | none => e

/-! ## Replays (R363) -/

/-- A replay asked of the vote root because a micro-batch used a superseded copy of version `n`. -/
def State.askReplay (s : State) (n : Nat) (rows : Bool) (t j : Nat) : State :=
  if s.weir.used.contains (rows, n, t, j) then
    (((s.updWeir fun w => { w with replays := satAdd 0xFFFF w.replays 1 }).repair n 5 s.me (n + 1 + s.lag)).emit
      [.replayAsk (s.field "VOTE_ROOT") n])
  else s

/-- A REPLAY order at a member (R352, R363): the named step and every later open step are discarded; they are re-run at once
unless a repair runs here. A void order has no effect. -/
def State.takeReplay (s : State) (o : OrderMsg) : State :=
  if o.memEpoch ≠ s.ctl.memEpoch then s
  else
    let t := s.abortFrom o.step
    if t.weir.digests.any fun x => x.2.repairing != [] then t else t.rerun

/-- An order of the vote root sent to the vote mirror; it is final, and goes down the tree, once the mirror holds it (R352). -/
def State.issueOrder (s : State) (name : String) (o : OrderMsg) : State :=
  let p : OrderMsg := { o with tag := s.fab.counter, src := s.me }
  let t := s.updCtl fun c => { c with orderPend := c.orderPend ++ [(name, p)] }
  if s.voteMirror = s.me then t else t.emitAcked s.voteMirror fun tag => .order s.voteMirror name { p with tag := tag }

/-- Whether an order was issued, or received, already (R374). -/
def State.orderKnown (s : State) (name : String) (o : OrderMsg) : Bool :=
  (s.ctl.orderFinal ++ s.ctl.orderPend).any fun x => x.1 == name && { x.2 with tag := 0, src := 0 } == { o with tag := 0, src := 0 }

/-- An order of the running epochs for a step. -/
def State.orderFor (s : State) (n : Nat) : OrderMsg := { tag := 0, step := n, memEpoch := s.ctl.memEpoch, layEpoch := s.ctl.layEpoch }

/-! ## Rebuilding a master (R365) -/

/-- The standby image of the running context. -/
def State.standby (s : State) : Standby := match s.atl.runCtx with
  | some c => (s.ctx c).standby
  | none => {}

/-- The content of a unit in a standby image as of version `v`: the newest journal record up to it, else the base. -/
def Standby.unitAt (b : Standby) (key v : Nat) : Option (List Byte) :=
  let of := fun l : List Journal => (l.filter fun j => j.key == key && j.kind ≤ 2 && j.step ≤ v).getLast?.map (·.content)
  match of b.journal with
  | some x => some x
  | none => of b.base

/-- Bytes of a row record of `d` elements in a class (R250). -/
def recLen (cls : RowClass) (d : Nat) : Nat := match cls with
  | .F => 4 * d
  | .H => (2 * d + 15) / 16 * 16
  | .W => (4 + d + 15) / 16 * 16
  | .C => (4 + d / 2 + 15) / 16 * 16

/-- A row, a tile frame and a scalar record read from unit content. -/
def rowFrom (d : Nat) (b : List Byte) : RowRec × List Byte :=
  let cls := clsOf (leNat ((b.drop 8).take 1))
  ({ cls := cls, bytes := (b.drop 9).take (recLen cls d) }, b.drop (9 + recLen cls d))
def frameFrom (n states : Nat) (b : List Byte) : TileFrame :=
  let x := f32s (b.drop 8)
  { master := x.take n, states := (List.range states).map fun i => (x.drop (n * (i + 1))).take n }
def scalarFrom (b : List Byte) : Scalar :=
  { count := leNat ((b.drop 8).take 4), xs := f32s (b.drop 12) }

/-- A row with its content as before the step. -/
def preRow (row : Row) (p : RowRec × List Byte) : Row := { row with record := p.1, state := p.2, moving := none }

/-- Step `n` done again for a row from its content before the step (R365, item 5). -/
def State.redoRow (s : State) (n t r : Nat) (pre : List Byte) : Option Row :=
  match kvFind (t, r) s.rows with
  | none => none
  | some row =>
    let x := preRow row (rowFrom (s.field "TBL_DIM" t) pre)
    match kvFind (t, r) ((s.quern (s.quernOf t r)).set' n).entries with
    | some e => some (s.applyRow n t r x e.vals)
    | none => some (s.moveRow n t r x)

/-- Step `n` done again for a tile: the programs run from the content before the step over the retained root. -/
def State.redoTile (s : State) (n t tau : Nat) (pre : List Byte) : Option TileFrame :=
  match kvFind (n, t, tau) s.weir.retained with
  | none => none
  | some g =>
    let f := frameFrom (s.tileKn t tau * s.tileNn t tau) (s.nstate t) pre
    let r := match s.standby.unitAt (scalarKey t) (n - 1) with
      | some b => scalarFrom b
      | none => s.initScalar t
    let z := uopRun (s.programs t).1 { c := s.dtConst n t, x := r.xs }
    some (s.candFrame n t { r with candXs := z.1.x, ks := z.1.k } f g).1

/-- The leaf of a unit after the step is done again from a content. -/
def State.redoLeaf (s : State) (n key : Nat) (pre : List Byte) : List Byte :=
  if keyIsRow key then
    match s.redoRow n (keyTable key) (keyRow key) pre with
    | some r => leafOf (rowUnit (keyTable key) (keyRow key) r.next r.state)
    | none => []
  else match s.redoTile n (keyTable key) (s.keyTau key) pre with
    | some f => leafOf (tileUnit (keyTable key) (bits key 31 16) (bits key 15 0) f)
    | none => []

/-- A tile with its current frame replaced. -/
def Tile.setCurrent (x : Tile) (f : TileFrame) : Tile := if x.cur then { x with b := f } else { x with a := f }

/-- A journal record appended to a standby image. -/
def Standby.append (b : Standby) (j : Journal) : Standby := { b with journal := b.journal ++ [j] }

/-- The standby image of the running context changed. -/
def State.updStandby (s : State) (f : Standby → Standby) : State := match s.atl.runCtx with
  | some c => s.updCtx c fun x => { x with standby := f x.standby }
  | none => s

/-- The rebuilt unit put in place of the Apply's result and into the standby image; at the home a result that differs is
broadcast or forwarded again (R365). -/
def State.putRebuilt (s : State) (n key : Nat) (pre : List Byte) : State :=
  let t := keyTable key
  let j := fun c : List Byte => { step := n, kind := if keyIsRow key then 0 else 1, key := key, content := c : Journal }
  if keyIsRow key then
    let r := keyRow key
    match s.redoRow n t r pre, kvFind (t, r) s.rows with
    | some new, some old =>
      let differs := old.next != new.next || old.state != new.state
      let u := ({ s with rows := kvPut (t, r) new s.rows }).updStandby (·.append (j (rowUnit t r new.next new.state)))
      let v := if differs ∧ old.role = .home ∧ old.repl = true then
          (s.replDevs t r).foldl (fun a d => a.sendRow d (.replica n t r new.next new.state)) u
        else u
      if differs then v.askReplay n true t (s.shardOf t r) else v
    | _, _ => s
  else
    let tau := s.keyTau key
    match s.redoTile n t tau pre with
    | some f =>
      let u := (s.updTile t tau (·.setCurrent f)).updStandby
        (·.append (j (tileUnit t (bits key 31 16) (bits key 15 0) f)))
      if (s.tile t tau).current ≠ f ∧ s.tileHome t tau = s.me then (u.sendTile n t tau f.master).askReplay n false t 0 else u
    | none => s

/-- A unit under rebuild changed. -/
def State.updRebuild (s : State) (key : Nat) (f : Rebuild → Rebuild) : State :=
  s.updWeir fun w => { w with rebuilding := w.rebuilding.map fun r => if r.key = key then f r else r }

/-- The leaves before and after the step sent to the partner of a rebuild (R365, items 3 and 6). -/
def State.sendRedo (s : State) (r : Rebuild) : State :=
  s.sendDigest r.cmp.dev (.redo s.me r.step r.key (leafOf r.pre) (s.redoLeaf r.step r.key r.pre))

/-- A partner's leaves of a shard (R365, item 2): units whose leaves differ are rebuilt from the content of the standby image
before the step. The mirror raises MASTER_REBUILD and answers with its own leaves. -/
def State.takeLeaves (s : State) (src : DevId) (n : Nat) (dense : Bool) (t j : Nat) (ls : List (Nat × List Byte)) : State :=
  let own := s.leavesOf (s.shardKeys n dense t j)
  let home := if dense then (s.fieldL "DSHARD_DEV" t).getD j 0 else s.shardHome t j
  let keys := (own.filter fun x => !ls.contains x).map Prod.fst
    ++ (ls.filter fun x => !(own.any fun y => y.1 == x.1)).map Prod.fst
  let cmp : CmpKey := { kind := if dense then 0 else 1, table := t, shard := j, dev := src }
  let rs := keys.map fun k => { key := k, step := n, cmp := cmp, pre := (s.standby.unitAt k (n - 1)).getD [] : Rebuild }
  let u := if home = s.me then s else s.startRebuild n dense t j src
  let v := u.updWeir fun w => { w with rebuilding := w.rebuilding ++ rs.filter fun r => !(w.rebuilding.any fun y => y.key == r.key) }
  rs.foldl State.sendRedo v

/-- A rebuilt unit whose leaves agree: it replaces the Apply's result, is counted and noted, and with the last unit of its
shard the comparison is settled. -/
def State.endRebuild (s : State) (r : Rebuild) : State :=
  let t := (s.putRebuilt r.step r.key r.pre).updWeir fun w => { w with
    rebuilding := w.rebuilding.filter (fun x => x.key != r.key), rebuilds := satAdd 0xFFFF w.rebuilds 1 }
  let u := t.repair r.step 3 s.me r.key
  let v := if r.fromHost then u.repair r.step 4 s.me r.key else u
  if v.weir.rebuilding.any fun x => x.cmp == r.cmp then v
  else v.updDigest r.step fun d => { d with pendingCmp := d.pendingCmp.filter (· != r.cmp) }

/-- Whether MASTER_DIVERGE of a unit is raised against this device (R365): the home, or the mirror once a spare holds the home's ID. -/
def State.diverges (s : State) (key : Nat) : Bool :=
  let row := keyIsRow key
  let h := if row then s.homeOf (keyTable key) (keyRow key) else s.tileHome (keyTable key) (s.keyTau key)
  let m := if row then s.mirrorOf (keyTable key) (keyRow key) else s.tileMirror (keyTable key) (s.keyTau key)
  (if s.rcv.bindings.any fun x => x.1 == h && x.2 != h then m else h) == s.me

/-- REBUILD_REDO (R365, items 3 to 6): with the partner's leaf from before the step equal to this device's, or host content in
place, the step is done again and the new leaves compared. Differing earlier leaves ask host software for the unit; differing
new leaves raise MASTER_DIVERGE. -/
def execRebuildRedo (key : Nat) (partnerPre partnerLeaf : List Byte) (s : State) : Out :=
  match s.weir.rebuilding.find? fun r => r.key == key with
  | none => .next s
  | some r =>
    if leafOf r.pre ≠ partnerPre then
      if r.fromHost ∨ r.askedAt ≠ none then .next s
      else .next (s.updRebuild key fun x => { x with askedAt := some s.now })
    else if s.redoLeaf r.step key r.pre = partnerLeaf then .next (s.endRebuild r)
    else
      let t := s.updWeir fun w => { w with rebuilding := w.rebuilding.filter fun x => x.key != key }
      if s.diverges key then .next (t.raise .deviceFatal 0x063 (unitNo 4 0) r.step key) else .next t

/-- REBUILD_HOST_LIMIT (R365): a unit asked of host software and not supplied in time raises MASTER_DIVERGE at the home. -/
def execRebuildHostLimit (at' : Nat) (s : State) : Out :=
  let late := s.weir.rebuilding.filter fun r => !r.fromHost && (match r.askedAt with
    | some t => t + s.field "REBUILD_HOST_LIMIT" * 1000000 ≤ at'
    | none => false)
  let t := (s.at' at').updWeir fun w => { w with rebuilding := w.rebuilding.filter fun r => !late.contains r }
  .next (late.foldl (fun a r => if s.diverges r.key then a.raise .deviceFatal 0x063 (unitNo 4 0) r.step r.key else a) t)

/-! ## The commands -/

/-- The effect of a digest frame. -/
def State.takeDigest (s : State) (f : DigestFrame) : State :=
  match f with
  | .leaf src n key x => s.takeLeaf src n key x
  | .leafEnd src n c => s.takeLeafEnd src n c
  | .bucket src n q x => s.takeBucket src n q x
  | .bucketEnd src n c => s.takeBucketEnd src n c
  | .shard src n dense t j x => s.takeCmp n { kind := if dense then 0 else 1, table := t, shard := j, dev := src } x
  | .wc src n t x => s.takeCmp n { kind := 2, table := t, shard := 0, dev := src } x
  | .wcSource src n t tiles => s.takeSource n src t tiles
  | .shardLeaves src n dense t j ls => s.takeLeaves src n dense t j ls
  | .redo .. => s
  | .differ _ n rows t j dev ref => s.takeDiffer n rows t j dev ref
  | .replica src n t j x => s.takeCmp n { kind := 3, table := t, shard := j, dev := src } x
  | .param _ n x => s.updDigest n fun d => { d with param := some x }

/-- The sender of a digest frame. -/
def digestSrc : DigestFrame → DevId
  | .leaf d .. => d
  | .leafEnd d .. => d
  | .bucket d .. => d
  | .bucketEnd d .. => d
  | .shard d .. => d
  | .wc d .. => d
  | .wcSource d .. => d
  | .shardLeaves d .. => d
  | .redo d .. => d
  | .differ d .. => d
  | .replica d .. => d
  | .param d .. => d

/-- DIGEST (R343 to R345, R360 to R362, R365, R427): a frame of the digest traffic is stored, acknowledged and acted on. The
leaves of a redone step come to REBUILD_REDO. -/
def execDigest (tag : Nat) (f : DigestFrame) (s : State) : Out := .next ((s.emit [.ack (digestSrc f) tag]).takeDigest f)

/-- The digest of a repaired copy, and the comparison it is sent for. -/
def State.repaired (s : State) (n : Nat) (rows : Bool) (t j : Nat) : List Byte :=
  if rows then replicaDigest n t j (s.leavesOf (s.replOwnKeys n t j)) else wcDigestOf t n (s.ownWc n t)

/-- Whether everything that a repair awaits has arrived: for working copies every tile of the tensor. -/
def State.repairReady (s : State) (n : Nat) (rows : Bool) (t : Nat) : Bool :=
  rows || (s.tilesIn t).all fun u => s.weir.wcGot.contains (n, t, u)

/-- A repaired copy that agrees: the repair ends, the entry is installed, the digest goes to the comparing device again, and
a replay is asked for if a micro-batch used the superseded copy (R362, R363). -/
def State.repairOk (s : State) (n : Nat) (rows : Bool) (t j : Nat) : State :=
  let a := (s.updDigest n fun d => { d with
    repairing := d.repairing.filter (fun x => !(x.1 == rows && x.2.1 == t && x.2.2.1 == j))
    refs := d.refs.filter fun x => !(x.1 == rows && x.2.1 == t && x.2.2.1 == j) }).tryInstall
  let x := s.repaired n rows t j
  let b := if rows then a.sendDigest (s.shardHome t j) (.replica s.me n t j x)
    else if s.firstHome t = s.me then a.takeCmp n { kind := 2, table := t, shard := 0, dev := s.me } x
    else a.sendDigest (s.firstHome t) (.wc s.me n t x)
  let c := b.askReplay n rows t j
  if c.weir.digests.any fun y => y.2.repairing != [] then c else c.rerun

/-- REPLICA_REPAIR_DONE (R362): the repaired device forms the digest again; agreement installs the entry, a difference raises
REPLICA_FAULT against this device. A repair begun on arrival has no reference yet: its tiles passed their digests (R334). -/
def execReplicaRepairDone (step : Nat) (rows : Bool) (table shard : Nat) (s : State) : Out :=
  let d := s.digestOf step
  if (d.repairing.any fun x => x.1 == rows && x.2.1 == table && x.2.2.1 == shard) = false
      ∨ s.repairReady step rows table = false then .next s
  else match d.refs.find? fun x => x.1 == rows && x.2.1 == table && x.2.2.1 == shard with
    | none => .next (s.repairOk step rows table shard)
    | some x =>
      if x.2.2.2 = [] ∨ x.2.2.2 = s.repaired step rows table shard then .next (s.repairOk step rows table shard)
      else .next (s.raise .deviceFatal 0x061 (unitNo 4 0) step table)

/-! ## Digests at job load (R344) -/

/-- Every unit of the loaded parameters that this device can form: the image holds the initial rows, tiles and scalar records
of the whole job (log entry 19). -/
def State.loadLeaves (s : State) : List (Nat × List Byte) :=
  let e := fun t => s.field "TBL_DIM" t
  let rows := s.jobData.rowInit.map fun x => match x with
    | .record t r rec' => (rowKey t r, leafOf (rowUnit t r rec' (optInit (s.field "OPT_KIND" t) (e t))))
    | .values t r cls vals =>
      (rowKey t r, leafOf (rowUnit t r
        (encodeRow s.seed s.ctl.s0 t r (cls.getD (clsOf (s.field "TBL_CLASS_MAX" t))) vals) (optInit (s.field "OPT_KIND" t) (e t))))
    | .snapshot t r rec' st _ _ => (rowKey t r, leafOf (rowUnit t r rec' st))
  let tiles := s.learnTensors.flatMap fun t => (s.tilesIn t).map fun u =>
    (tileKey t (s.tkOf t u) (s.tnOf t u), leafOf (tileUnit t (s.tkOf t u) (s.tnOf t u) (s.initTile t u)))
  let scalars := s.learnTensors.map fun t => (scalarKey t, leafOf (scalarUnit t (s.initScalar t)))
  rows ++ tiles ++ scalars

/-- P_s0 (R344). -/
def State.loadParam (s : State) : List Byte :=
  loadDigest s.ctl.s0 (changeDigest (bucketsOf s.loadLeaves)) (s.scaleZ s.ctl.s0)

end Sys2Proof.Machine
end

