-- ==== Sys2Proof/Machine/PageFaults.lean ====
section
/-! DEFINITION. Lost pages and the links of pooled memory: HBM errors, poison, links that go down and return, FAULTED pages and their
refill (R239 to R243). -/

namespace Sys2Proof.Machine

/-! ## FAULTED pages (R242) -/

/-- The fault of a lost page by its region's kind (R242): PAGE_LOST for state and scratch, else PAGE_REFILL. -/
def State.raiseLost (s : State) (c : Option CtxId) (kind unit p : Nat) : State :=
  s.raise1 { code := if kind ≤ 1 then 0x034 else 0x035, cls := if kind ≤ 1 then .deviceFatal else .correctable, unit := unit, ctx := c
             step := 0, detail := p * 2 ^ 21, detail2 := 0 }

/-- The kind of the region of a page; a page of no region holds state. -/
def kindIn (rs : List Region) (p : Nat) : Nat := ((rs.find? (inRegion p)).map (·.kind)).getD 0

/-- A page marked FAULTED and treated by its region's kind (R242). -/
def State.faultPage (s : State) (p : Nat) : State :=
  match s.page p with
  | none => s
  | some e =>
    if e.state = .faulted ∨ e.loc.tier = .remote then s
    else ((s.abandonMoves fun m => m.page == p).updPage p fun x => { x with state := .faulted }).raiseLost s.atl.runCtx
      (kindIn s.regions p) (locUnit e.loc) p

/-- The regions of a context's range map. -/
def State.regionsFor (s : State) (c : CtxId) : List Region :=
  ((s.ldr.fields.find? fun f => f.inst.name == "RANGE_MAP" && f.ctx == some c).map fun f => f.inst.value.map regionOf).getD []

/-- A pooled page kept for a context that is switched out marked FAULTED. -/
def State.faultKept (s : State) (c : CtxId) (p : Nat) (e : Page) : State :=
  if e.state = .faulted then s
  else (s.updCtx c fun x => { x with kept := kvPut p { e with state := .faulted } x.kept }).raiseLost (some c)
    (kindIn (s.regionsFor c) p) (locUnit e.loc) p

/-- Every page at locations that satisfy `q` marked FAULTED, those kept for contexts that are switched out among them. -/
def State.faultWhere (s : State) (q : Loc → Bool) : State :=
  let t := (s.tier.pages.filter fun x => q x.2.loc).foldl (fun a x => a.faultPage x.1) s
  t.atl.ctxs.foldl (fun a c => (c.2.kept.filter fun x => q x.2.loc).foldl (fun b x => b.faultKept (Fin.ofNat 16 c.1) x.1 x.2) a) t

/-- A frame retired under R239: never used again, in the retirement list, its page FAULTED, moves into it abandoned. -/
def State.retireFrame (s : State) (l : Loc) : State :=
  let a := (s.updTier fun t => { t with retired := addNew l t.retired }).updAtl fun x =>
    { x with frameRetired := addNew l x.frameRetired }
  (a.abandonMoves fun m => m.target == l).faultWhere (· == l)

/-! ## Working copies on a page (R242, R333, R336) -/

/-- Bytes of a working-copy tile area: codes, column sums of an integer format, and the trailer (R333). -/
def wcArea (f : NumFmt) : Nat := bytesOf f 16384 + (if f = .int8 ∨ f = .int4 then 256 else 0) + 64

/-- Whether the area of a tile in a storage slot lies on a page. -/
def State.areaOn (s : State) (p t slot tau : Nat) : Bool :=
  let n := wcArea (s.wcFmt t)
  let a := s.field "RING_BASE" t + slot * s.field "RING_STRIDE" t + tau * n
  pageOf a ≤ p && p ≤ pageOf (a + n - 1)

/-- The working-copy tiles that a page holds, as the version whose tile the area holds, tensor and tile. -/
def State.tilesOn (s : State) (p : Nat) : List (Nat × Nat × Nat) :=
  (s.weir.wcGot.filter fun x => match s.wcSlotOf x.1 x.2.1 with
    | some k => s.areaOn p x.2.1 k x.2.2
    | none => false)

/-- Whether the area of a tile holds it. -/
def State.tileThere (s : State) (x : Nat × Nat × Nat) : Bool := (s.ringTile x.1 x.2.1 x.2.2).isSome

/-- The tiles of a lost COPY_WEIR page are gone, and their homes are asked to send them again from the source copies of their
versions; a tile that this device homes is written again from its own. -/
def State.askTiles (s : State) (p : Nat) : State :=
  let l := s.tilesOn p
  let gone := l.filterMap fun x => (s.wcSlotOf x.1 x.2.1).map fun k => (x.2.1, k, x.2.2)
  let t := s.updWeir fun w => { w with stored := w.stored.filter fun x => !gone.contains x.1 }
  l.foldl (fun a x =>
    let home := a.tileHome x.2.1 x.2.2
    if home = a.me then match a.sourceOf x.1 x.2.1 x.2.2 with
      | some y => a.storeTile y
      | none => a
    else a.emit [.wcAsk home x.2.1 (a.tkOf x.2.1 x.2.2) (a.tnOf x.2.1 x.2.2) x.1]) t

/-- The recovery of FAULTED COPY_WEIR pages begun. -/
def State.askLost (s : State) (before : State) : State :=
  (s.tier.pages.filter fun x => x.2.state == .faulted && kindIn s.regions x.1 == 3
    && !((before.page x.1).any fun e => e.state == .faulted)).foldl (fun a x => a.askTiles x.1) s

/-- HBM_ECC_ERROR (R239): a single-symbol error is corrected; an uncorrectable one retires the frame. -/
def execHbmEccError (st : StackId) (frame : Nat) (uncorrectable : Bool) (s : State) : Out :=
  .next (if uncorrectable then (s.retireFrame { tier := .hbm, unit := st.val, frame := frame }).askLost s else s)

/-- HBM_PATROL (R239): what a patrol finds acts as a read would. -/
def execHbmPatrol (bad : List (StackId × Nat × Bool)) (s : State) : Out :=
  .next ((bad.foldl (fun a b => if b.2.2 then a.retireFrame { tier := .hbm, unit := b.1.val, frame := b.2.1 } else a) s).askLost s)

/-! ## Refill (R242) -/

/-- A refilled page: a new frame of its tier under R230, RESIDENT; the frame that lost it is open again unless it is retired, and
accesses that waited are served. What the page holds then is what it held (log entry 120). -/
def State.refillPage (s : State) (p : Nat) : State :=
  match s.page p, s.regionAt p with
  | some e, some r =>
    let loc := match e.loc.tier with
      | .hbm => s.tier.openHbm ((stacksOf r).getD ((p - r.base) % max 1 (stacksOf r).length) 0)
      | _ => s.tier.openCxl (portOf r (p - r.base))
    match loc with
    | none => s
    | some l => (s.updTier fun t => { t.forget p with
        pages := kvPut p { e with state := .resident, loc := l } t.pages, used := l :: t.used.filter (· != e.loc)
        mem := cellsOut (physOf e.loc 0) (2 ^ 21) (copyFrame e.loc l t.mem), refills := satAdd 0xFFFF t.refills 1 }).serveAsks
  | _, _ => s

/-- Whether a page is FAULTED and its region's kind satisfies `q`. -/
def State.faultedKind (s : State) (p : Nat) (q : Nat → Bool) : Bool :=
  match s.page p, s.regionAt p with
  | some e, some r => e.state == .faulted && q r.kind
  | _, _ => false

/-- Whether a page of the standby image is lost, so that the image does not reflect a sealed step (R41, R242). -/
def State.standbyLost (s : State) : Bool := s.tier.pages.any fun x => s.faultedKind x.1 (· == 4)

/-- PAGE_REFILL_DONE (R242): a re-broadcast, each of whose tiles has passed its arrival digest check, or a rewrite of a standby page has
completed. -/
def execPageRefillDone (page : Nat) (s : State) : Out :=
  .next (if s.faultedKind page (· == 4) || (s.faultedKind page (· == 3) && (s.tilesOn page).all s.tileThere) then s.refillPage page
    else s)

/-- TIER_REFILL_DONE (R242, R246): host software has rewritten a COPY_HOST page. -/
def execTierRefillDone (value : W64) (s : State) : Out :=
  let p := value.toNat % 2 ^ 35
  .next (if s.faultedKind p (· == 2) then s.refillPage p else s)

/-! ## Pooled memory (R240, R244) -/

/-- CXL_POISON (R240): the read is counted and its page marked FAULTED. -/
def execCxlPoison (page : Nat) (s : State) : Out :=
  .next (match s.cxlPortOf page with
    | none => s
    | some k =>
      let count := fun x : CxlPort => { x with poison := satAdd 0xFFFF x.poison 1 }
      ((s.updTier fun t => { t with cxl := kvMod {} k count t.cxl }).faultPage page).askLost s)

/-- CXL_COMPLETION_TIMEOUT (R240). -/
def execCxlCompletionTimeout (page : Nat) (s : State) : Out :=
  .next (match s.cxlPortOf page with
    | none => s
    | some _ => (s.faultPage page).askLost s)

/-- CXL_LINK_DOWN (R240, R243): accesses wait; a move into the port is abandoned. -/
def execCxlLinkDown (p : CxlId) (at' : Nat) (s : State) : Out :=
  .next (if (s.cxl p).up then
    ((s.updCxl p fun x => { x with up := false, downWait := true, downAt := at' }).abandonMoves fun m =>
      m.target.tier == .cxl && m.target.unit == p.val).at' at'
  else s)

/-- Nanoseconds of CXL_DOWN_LIMIT for a port. -/
def State.cxlLimit (s : State) (p : CxlId) : Nat := s.field "CXL_DOWN_LIMIT" p.val * 1000000

/-- The link of a port trained for the first time after its PERST# release (R244, R489): generation and width are what the memory
device allows, and IDE runs where it has IDE; each is a free value. -/
def State.trainCxl (s : State) (p : CxlId) : State :=
  let n := s.fresh
  let w := Config.freeNat (n + 1) % 3
  let t : State := { s with fresh := n + 3 }
  t.updCxl p fun x => { x with
    up := true, gen := 1 + Config.freeNat n % 2, width := if w = 0 then 16 else if w = 1 then 8 else 4, ide := Config.freeBool (n + 2)
    downWait := false }

/-- CXL_LINK_RETURN (R240, R489, R525): the link trains in phase 4 once its PERST# is released, or returns after a loss: the waiting
accesses are reissued and nothing is lost; pages already FAULTED stay so. -/
def execCxlLinkReturn (p : CxlId) (at' : Nat) (s : State) : Out :=
  .next (if (s.cxl p).up then s
  else if (s.cxl p).gen = 0 then
    (if (s.cxl p).perstN = true ∧ 4 ≤ s.pow.phase then (s.trainCxl p).at' at' else s)
  else (s.updCxl p fun x => { x with up := true, downWait := false, retrains := satAdd 0xFFFF x.retrains 1 }).serveAsks.at' at')

/-- CXL_DOWN_LIMIT (R240): a link that has not returned in time marks every page of its port FAULTED. -/
def execCxlDownLimit (p : CxlId) (at' : Nat) (s : State) : Out :=
  .next (if (s.cxl p).downWait && (s.cxl p).downAt + s.cxlLimit p ≤ at' then
    (((s.updCxl p fun x => { x with downWait := false }).faultWhere fun l => l.tier == .cxl && l.unit == p.val).askLost s).at' at'
  else s)

end Sys2Proof.Machine
end

