-- ==== Sys2Proof/Machine/Steps.lean ====
section
/-! DEFINITION. The commands of a step: admission, release, close, Vote, decision, Apply and Seal (R17 to R49, R349 to
R355, R441 to R444). -/

namespace Sys2Proof.Machine

/-! ## The step boundary (R15, R16, R44, R473) -/

/-- The step-targeted write that governs step `n` for a field: the highest target up to `n`, then the latest accepted
(R474). -/
def governing (i n : Nat) (ws : List StepWrite) : Option StepWrite :=
  (ws.filter fun w => w.index == i && w.target ≤ n).foldl (fun a w => match a with
    | none => some w
    | some b => if w.target < b.target ∨ (w.target = b.target ∧ w.serial < b.serial) then some b else some w) none

/-- The control cycle of an instant in ns (R14: 500 MHz). -/
def controlCycle (ns : Nat) : Nat := ns / 2

/-- Whether a step-targeted write comes after the last plain write of its field: it governs from a later step, or from the same one and
was held later (R16: the last write takes effect). -/
def FieldSt.yields (f : FieldSt) (w : StepWrite) : Bool :=
  decide (f.plainFrom < w.target) || (f.plainFrom == w.target && decide (f.plainAfter ≤ w.serial))

/-- The value of a shadowed field from step boundary `n` on: a step-targeted write, or the value in force where a plain write took effect
after it (R15, R16, R474). -/
def boundaryValue (n : Nat) (ws : List StepWrite) (x : FieldSt × Nat) : Nat × List Nat :=
  match governing x.2 n (ws.filter x.1.yields) with
  | some w => (x.2, w.value)
  | none => (x.2, x.1.inst.value)

/-- Whether the owner of a field takes a plain write at a pass boundary and not at a step boundary (R15: engine fields). -/
def engineField (name : String) : Bool := name == "CHK_RECUR_LIMIT"

/-- A plain write of an earlier control cycle in force from step `n` on; one of the same cycle waits for the following boundary (R16). -/
def FieldSt.take (n cycle : Nat) (f : FieldSt) : FieldSt := match f.shadow with
  | some w => if w.cycle < cycle then
      { f with inst := { f.inst with value := w.value }, shadow := none, plainFrom := n, plainAfter := w.after } else f
  | none => f

/-- The step boundary of step `n`: plain shadowed writes take effect, and the step keeps the values of every shadowed field
until it is sealed. Engine fields take theirs at a pass boundary (R15). -/
def State.boundary (s : State) (n : Nat) : State :=
  let t := s.updLdr fun l => { l with
    fields := l.fields.map fun f => if engineField f.inst.name then f else f.take n (controlCycle s.now) }
  let fs := (t.ldr.fields.zipIdx).filter fun x => x.1.inst.cls == .shadowed
  t.updStep n fun p => { p with govern := fs.map (boundaryValue n t.ldr.memberWrites) }

/-- Step-targeted writes with a target up to `n` become the values in force once step `n` is sealed, but for a field that a plain write has
changed since. -/
def State.settleWrites (s : State) (n : Nat) : State :=
  s.updLdr fun l =>
    let set := fun x : FieldSt × Nat => match governing x.2 n (l.memberWrites.filter x.1.yields) with
      | some w => { x.1 with inst := { x.1.inst with value := w.value }, plainFrom := 0, plainAfter := 0 }
      | none => x.1
    { l with fields := l.fields.zipIdx.map set, memberWrites := l.memberWrites.filter fun w => n < w.target }

/-! ## Admission (R26, R30, R169, R186, R496) -/

/-- Whether a core's U commands for version `v` have retired (R30): the U instance of step `v` prepares version `v`, and neither a
decoded nor a running command of it is left. -/
def State.uReady (s : State) (v : Nat) (c : CoreId) : Bool :=
  let u := (s.core c).u
  let left := u.queue.any (fun x => x.step == v) || u.running.any (fun x => x.step == v)
  s.field "CMD_LEN_U" == 0 || ((v < u.inst || (v == u.inst && s.field "CMD_LEN_U" ≤ u.next)) && !left)

/-- The most samples that a micro-batch holds (R11, R22). -/
def maxSamples : Nat := 16384

/-- Whether bytes form a sample list (R496) of at most 16,384 samples (R22). -/
def SampleList.valid (l : SampleList) : Bool :=
  l.format == 1 && l.restZero && l.count == l.ids.length && decide (l.count ≤ maxSamples)

/-- SAMPLE_DIGEST of a list (R496). -/
def sampleDigest (b : Nat) (l : SampleList) : List Byte :=
  sha384 ([0x0B] ++ leBytes 2 b ++ leBytes 4 l.count ++ l.ids.flatMap (leBytes 8))

/-- The lowest free slot in core cycle `cyc`: one released in a core cycle is free in the following one (R169). -/
def State.freeMbSlot (s : State) (cyc : Nat) : Option Nat :=
  firstNat (fun k => !kvHas k s.ctl.slots && ((kvFind k s.ctl.freedAt).all fun c => decide (c < cyc))) 8 0

/-- Whether the forward stream of some core has come to a micro-batch, and so requests its admission (R169): its front has decoded a command
of it, decodes one next, or runs a later step. A job without forward program asks at once. -/
def State.requested (s : State) (n mb : Nat) : Bool :=
  let mine := fun c : Cmd => c.step == n && c.desc.mb == some mb
  let words := ((s.jobData.progs.find? fun x => x.1 == .f).map Prod.snd).getD []
  s.field "CMD_LEN_F" == 0 || s.cores.any fun x =>
    let f := x.2.f
    f.queue.any mine || f.running.any mine || decide (n < f.inst)
      || (f.inst == n && (words[f.next]?).any fun w => bits w.toNat 14 14 == 1 && bits w.toNat 13 11 == mb)

/-- Whether a held step waits: a target that a step has reached. -/
def reached (target : Option Nat) (n : Nat) : Bool := match target with
  | some t => decide (t ≤ n)
  | none => false

/-- Whether the device may admit at all: a member of a running, unhalted job, not fenced. -/
def State.admits (s : State) : Bool :=
  s.ctl.started && !s.ctl.halted && s.atl.runCtx.isSome && s.rcv.role == .member

/-- Whether the sample data of step `n` have reached a device that holds no first stage (R384): its first stage takes its inputs from another
device, and writes of that step have come into the receive region (log entry 131). A device with a first stage, or without stages, reads no
receive region for it. -/
def State.inputsHere (s : State) (n : Nat) : Bool :=
  let gs := (s.stageCores.map s.stageOf).dedup
  let prev := fun g : Nat => (s.fieldL "STAGE_PREV" g).headD 0
  gs.isEmpty || gs.any (fun g => prev g == 0) || !(gs.any fun g => prev g != s.me) || s.ctl.rxSteps.contains n

/-- The causes that hold admission of step `n` (R568), lowest first. -/
def State.admitCauses (s : State) (n cyc : Nat) (feed : Option SampleList) : List Nat :=
  let v := s.reads n
  let slot := (s.freeMbSlot cyc).isSome
  let apply0 := s.lag != 0 || s.ctl.s0 + 1 == n || s.applied (n - 1)
  let ver := s.installed v && s.stageCores.all (s.uReady v) && apply0
  let mill := s.stageCores.all s.millRoom
  let repairs := s.weir.digests.any fun x => x.2.repairing != []
  let recovery := !repairs && (s.rcv.jobWait || s.rcv.taking != [] || s.ctl.steps.any fun x => x.2.st == .aborting)
  let snap := !s.ctl.snapDone && (match s.ctl.snapTarget with
    | some t => decide (t ≤ s.ctl.sealed)
    | none => false)
  let lay := s.ctl.layout.target != 0 && s.ctl.layout.target ≤ n
  [(slot, 3), (ver, 4), ((feed.map SampleList.valid).getD false && s.inputsHere n, 5), (mill, 6), (!lay, 22),
   (!reached s.ctl.switchTarget n, 23), (!snap, 24), (!reached s.ctl.releaseTarget n, 25), (!recovery, 26)].filterMap
    fun x => if x.1 then none else some x.2

/-- A micro-batch admitted into a slot (R24, R26, R44, R169). -/
def State.admitMb (s : State) (k n mb : Nat) (l : SampleList) : State :=
  let a := if mb = 0 then s.boundary n else s
  let b := a.updStep n fun p => { p with
    st := .gather, admitted := mb + 1, memEpoch := s.ctl.memEpoch, layEpoch := s.ctl.layEpoch
    samples := p.samples ++ [sampleDigest (s.memberField "BLOCK_BASE" s.me + mb) l] }
  let slot : Slot := { step := n, mb := mb, ctx := Fin.ofNat 16 s.ctxNo, layEpoch := s.ctl.layEpoch, version := s.reads n }
  let c := b.updCtl fun x => { x with slots := kvPut k slot x.slots, admStep := n }
  let d := s.stageCores.foldl (fun t x => t.millReserve k n x) c
  if l.step = n ∧ l.mb = mb then d else d.raise .stepFatal 0x047 (unitNo 4 0) n 0

/-- MB_ADMIT (R26, R169): the next micro-batch in (STEP, MB) order, once the forward stream asks for it, takes the lowest free slot when every condition holds; else the lowest unmet cause is counted. -/
def execMbAdmit (ask : AdmitAsk) (s : State) : Out :=
  let x := s.toAdmit
  if s.admits = false ∨ s.requested x.1 x.2 = false then .next s
  else
    let t := s.at' ask.at'
    match t.admitCauses x.1 ask.cyc ask.feed, t.freeMbSlot ask.cyc, ask.feed with
    | [], some k, some l => .next (t.admitMb k x.1 x.2 l)
    | cs, _, _ => .next (t.weirStall cs)

/-! ## Release and the end of Gather (R23, R32, R286) -/

/-- Whether a command belongs to a micro-batch. -/
def Cmd.ofMb (c : Cmd) (n mb : Nat) : Bool := c.step == n && c.desc.mb == some mb

/-- Whether a core has no work of a micro-batch left: no command, and no slice in an engine's staging (R23). -/
def Core.mbDone (k : Core) (n mb : Nat) : Bool :=
  !(k.deferred.any fun c => c.ofMb n mb) && !(k.f.running.any fun c => c.ofMb n mb)
    && !(k.b.queue.any fun c => c.ofMb n mb) && !(k.b.running.any fun c => c.ofMb n mb)
    && !(k.eng.any fun e => e.2.slices.any fun x => x.step == n && x.mb == mb)
    && !(k.feed.queue.any fun x => x.kind == .grad && x.share == .remote && x.step == n && x.unit == mb)

/-- Whether a slot may be released (R23). -/
def State.releasable (s : State) (x : Slot) : Bool :=
  s.stageCores.all fun c => x.bwdDone.contains c.val && (s.core c).mbDone x.step x.mb

/-- End-of-Gather markers for step `n` to every Grist buffer of the job (R286). -/
def State.sendMarkers (s : State) (n : Nat) : State :=
  let p := s.stepOf n
  s.ctl.members.foldl (fun a d => allQuerns.foldl (fun b q =>
    let m : GatherMarker := { src := s.me, step := n, layEpoch := p.layEpoch, count := kvGet 0 (d, q.val) p.sentTo }
    if d = s.me then b.updSet q n fun g => { g with markers := kvPut s.me m.count g.markers }
    else b.emit [.gatherEnd d q m]) a) s

/-- A slot freed in core cycle `cyc` with its stash entries and reservations (R188); its prefetches are cancelled
(R207); with the last micro-batch the Gather ends (R32). -/
def State.release (s : State) (k cyc : Nat) (x : Slot) : State :=
  let a : State := { s with cores := s.cores.map fun c => (c.1, { c.2 with lb := c.2.lb.freeSlot k }) }
  let b := (a.cancelAll fun g => g.step == x.step && g.mb == some x.mb).updCtl fun c => { c with
    slots := kvDel k c.slots, freedAt := kvPut k cyc c.freedAt
    stageOut := c.stageOut.filter fun y => !(y.2.2.1 == x.step && y.2.2.2 == x.mb) }
  let p := b.cores.foldl (fun t c => State.payStash (Fin.ofNat 32 c.1) c.2.lb.owed.length t) b
  let c := p.updStep x.step fun p => { p with released := p.released + 1 }
  if (c.stepOf x.step).released = s.mbs then (c.updStep x.step fun p => { p with gatherEnded := true }).sendMarkers x.step
  else c

/-- SLOT_RELEASE (R23): the slot is released once its last backward command has retired on every core of the stages and its
gradients have left; stash entries it still holds are freed with it (R188, log entry 20). -/
def execSlotRelease (rel : SlotAt) (s : State) : Out :=
  match s.slot rel.slot.val with
  | some x => if s.releasable x then .next (s.release rel.slot.val rel.cyc x) else .next s
  | none => .next s

/-! ## The close (R32, R264, R299) -/

/-- Whether the close of step `n` is complete (R32): every marker and its contributions, every candidate, every screen and
log reservation. -/
def State.closed (s : State) (n : Nat) : Bool :=
  s.closing n && (s.candPending n).isEmpty && allQuerns.all fun q =>
    s.setComplete q n && (s.quern q).screened.contains n && kvHas n (s.quern q).reserved

/-- GATHER_CLOSE (R32, R350): GATHER to CLOSED. -/
def execGatherClose (step : Nat) (s : State) : Out :=
  if s.closed step then .next (s.updStep step fun p => { p with st := .closed }) else .next s

/-! ## The Vote (R34 to R37, R81, R331, R339) -/

/-- The membership view digest as a number, its byte 0 least significant (R35). -/
def viewDigest (members : List DevId) : Nat := leNat ((sha384 ((sortBy id members).flatMap (beBytes 2))).take 8)

/-- This device's vote word of a step (R34). -/
def State.ownWord (s : State) (n : Nat) : VoteWord :=
  let p := s.stepOf n
  { flags := p.flags, fatal := p.fatal, memEpoch := s.ctl.memEpoch, layEpoch := p.layEpoch, step := n, count := 1,
    view := viewDigest s.ctl.members }

/-- This device's maxima record of a step (R81): −1.0 under every record without an observation. -/
def State.ownMaxima (s : State) (n : Nat) : List F32 :=
  (List.range s.recCount).map fun r => kvGet noObs r (s.stepOf n).maxima

/-- Whether a class move carried out by the Apply of step `n` would overflow BF16 in a row of the set; the screen saw the
decisions before the Seal of step n − 1 (R299). -/
def State.lateOpt (s : State) (n : Nat) : Bool :=
  allQuerns.any fun q => ((s.quern q).set' n).entries.any fun e => (s.screenEntry n e).1

/-- The round of the vote tree that a frame belongs to: the lowest step whose reduced word this Weir has not sent up. -/
def State.voteRound (s : State) : Nat :=
  let n := s.ctl.sealed + 1
  if (kvGet {} n s.ctl.acc).sentUp then n + 1 else n

/-- A word joined into the words gathered for a round, with the DIFF bits of R339 against this device's own values. -/
def VoteAcc.join (a : VoteAcc) (own : VoteWord) (f : VoteFrame) : VoteAcc :=
  { a with
    got := a.got ++ [f.child]
    word := some (match a.word with
      | none => f.word
      | some w => voteJoin w f.word)
    maxima := maxRecords a.maxima f.maxima
    diffEpoch := a.diffEpoch || f.diffEpoch || voteDiffEpoch own f.word
    diffLayout := a.diffLayout || f.diffLayout || voteDiffLayout own f.word }

/-- What a Weir compares a child's word of round `n` with (R339). -/
def State.ownCheck (s : State) (n : Nat) : VoteWord :=
  { flags := {}, fatal := false, memEpoch := s.ctl.memEpoch, layEpoch := s.ctl.layEpoch, step := n, count := 0,
    view := viewDigest s.ctl.members }

/-- The lowered scale set that a SKIP of step `n` binds to version `n` (R88, R338). -/
def State.skipSet (s : State) (n : Nat) : (ScaleSet × Nat) × Bool := s.scaleNext n true [] []

/-- The decision formed at the vote root (R36); a SKIP derives the scale set and may raise SCALE_BACKOFF_LIMIT (R87). -/
def State.formDecision (s : State) (n : Nat) (a : VoteAcc) (w : VoteWord) : State :=
  let d := decide36 w s.ctl.members.length a.diffEpoch a.diffLayout
  let z := s.skipSet n
  let msg : DecisionMsg :=
    { tag := s.fab.counter, step := n, decision := d, flags := w.flags, maxima := a.maxima, memEpoch := s.ctl.memEpoch,
      layEpoch := s.ctl.layEpoch, writes := [], scaleSet := if d = .skip then some z.1.1 else none }
  let t := s.updCtl fun c => { c with rootDecided := kvPut n msg c.rootDecided, rootLast := n }
  let u := if d = .skip then
      let v := t.updWeir fun x => { x with clamps := satAdd 0xFFFF x.clamps z.1.2 }
      if z.2 then v.raise .correctable 0x027 (unitNo 4 0) n 0 else v
    else t
  u.emitAcked s.voteMirror fun tag => .decision s.voteMirror { msg with tag := tag, src := s.me }

/-- A round complete once its own device and every child are in: the result goes up, or the root decides. -/
def State.tryReduce (s : State) (n : Nat) : State :=
  let a := kvGet {} n s.ctl.acc
  let all := (s.me :: s.voteChildren s.me).all fun d => a.got.contains d
  match a.word with
  | some w =>
    if all && !a.sentUp then
      let t := s.updCtl fun c => { c with acc := kvPut n { a with sentUp := true } c.acc }
      if s.isRoot then t.formDecision n a w
      else t.emit [.vote (s.voteParent s.me)
        { child := s.me, weights := false, word := w, maxima := a.maxima, diffEpoch := a.diffEpoch, diffLayout := a.diffLayout }]
    else s
  | none => s

/-- A word taken into a round, once for each sender. -/
def State.takeWord (s : State) (n : Nat) (own : VoteWord) (f : VoteFrame) : State :=
  if (kvGet {} n s.ctl.acc).got.contains f.child then s
  else (s.updCtl fun c => { c with acc := kvMod {} n (fun a => a.join own f) c.acc }).tryReduce n

/-- VOTE_SEND (R34, R81, R299): with the Gather closed and the previous step sealed, the word and the maxima record go toward
the vote root. -/
def execVoteSend (step : Nat) (s : State) : Out :=
  if (s.stepOf step).st = .closed ∧ s.ctl.sealed + 1 = step then
    let a := if s.lateOpt step then s.updStep step fun p => { p with flags := { p.flags with opt := true } } else s
    let w := a.ownWord step
    let b := a.updStep step fun p => { p with st := .vote, voteSent := true }
    .next (b.takeWord step w
      { child := s.me, weights := false, word := w, maxima := b.ownMaxima step, diffEpoch := false, diffLayout := false })
  else .next s

/-- VOTE (R339): a child's word joins the round, or its weight maxima record those of an applied step (R331). A frame of a
device that is no child is dropped. -/
def execVote (v : VoteFrame) (s : State) : Out :=
  if v.child ∉ s.voteChildren s.me then .next s
  else if v.weights then .next (s.gatherWeights v.word.step v.child v.maxima (s.ownWord v.word.step))
  else .next (s.takeWord s.voteRound (s.ownCheck s.voteRound) v)

/-- VOTE_MIRROR_STORE (R37): the vote mirror stores the decision and acknowledges it. -/
def execVoteMirrorStore (d : DecisionMsg) (s : State) : Out :=
  if s.voteMirror = s.me then
    .next ((s.updCtl fun c => { c with mirrorHeld := kvPut d.step d c.mirrorHeld }).emit [.ack d.src d.tag])
  else .next s

/-! ## The decision (R39, R40, R45 to R48, R350, R355) -/

/-- A LAYOUT_TARGET write that reaches the device (R370, R373): refused when the step was admitted or the move runs. -/
def State.takeTarget (s : State) (t : Nat) : State :=
  let l := s.ctl.layout
  if (t ≠ 0 ∧ 0 < (s.stepOf t).admitted) ∨ l.lstate = .moving ∨ l.lstate = .doneSent then
    (s.updCtl fun c => { c with layout := { c.layout with refusedTarget := true } }).raise .correctable 0x065 (unitNo 4 0) 0 t
  else s.updCtl fun c => { c with layout := { c.layout with
    target := t, refusedTarget := false, lstate := if t = 0 then .none else .staged } }

/-- The index numbers under which the targets of JOB_SWITCH, SNAPSHOT and TRAY_RELEASE travel with a decision (log entry 22). -/
def idxSwitch : Nat := 0xFFFFFFFF
def idxSnapshot : Nat := 0xFFFFFFFE
def idxRelease : Nat := 0xFFFFFFFD

/-- A target that came with a decision: of a switch, a snapshot, a release, or a LAYOUT_TARGET write. -/
def State.takeTargetWrite (s : State) (w : StepWrite) : State :=
  let g := fun i : Nat => w.value.getD i 0
  if w.index = idxSwitch then
    s.updCtl fun c => { c with
      switchTarget := some w.target
      layout := { c.layout with switchTo := some (Fin.ofNat 16 (g 0), Fin.ofNat 16 (g 1)) } }
  else if w.index = idxSnapshot then s.updCtl fun c => { c with snapTarget := some w.target, snapDone := false }
  else if w.index = idxRelease then
    (s.updCtl fun c => { c with releaseTarget := some w.target }).updRcv fun r => { r with
      releases := r.releases ++ [{ pod := g 0, tray := g 1, dev := g 2, target := w.target }] }
  else match s.ldr.fields[w.index]? with
    | some f => if f.inst.name = "LAYOUT_TARGET" then s.takeTarget (w.value.headD 0) else s
    | none => s

/-- Step-targeted writes held pending on a member (R473). -/
def State.holdWrites (s : State) (ws : List StepWrite) : State :=
  ws.foldl State.takeTargetWrite (s.updLdr fun l => { l with
    memberWrites := l.memberWrites ++ ws.filter fun w => w.index < idxRelease })

/-- APPLY of step `n` on a device (R39). -/
def State.doApply (s : State) (n : Nat) : State :=
  let a := (s.promote n).beginArrival n false
  let b := a.gatherWeights n s.me (a.ownWeights n) (a.ownWord n)
  (b.applyRows n).releaseRetained n

/-- The scale set that came with a SKIP: kept when its digest is right (R338, R360). -/
def State.skipArrive (s : State) (n : Nat) (z : Option ScaleSet) : State :=
  match z with
  | some x => if setGood x then s.acceptSet x else s.badSet n
  | none => s.badSet n

/-- SKIP of step `n` on a device (R40, R338). -/
def State.doSkip (s : State) (n : Nat) (z : Option ScaleSet) : State :=
  let a := ((s.beginArrival n true).skipArrive n z).dropCands fun m => m == n
  ((a.skipRows n).releaseRetained n).event 0x0F2 n 0

/-- The effect of a decision on a step (R350). -/
def State.act (s : State) (d : DecisionMsg) : State :=
  match d.decision with
  | .apply => (s.updStep d.step fun p => { p with st := .apply }).doApply d.step
  | .skip => (s.updStep d.step fun p => { p with st := .apply }).doSkip d.step d.scaleSet
  | .abort =>
    let t := s.abortFrom d.step
    if d.memEpoch < s.ctl.memEpoch then t.rerun else t
  | .halt => s.haltAt d.step

/-- Whether a decision concerns a step of the device: its word is sent, or an abort or halt covers the step (R350). -/
def State.awaits (s : State) (d : DecisionMsg) : Bool :=
  let p := s.stepOf d.step
  p.st == .vote || (p.undecided && (d.decision == .abort || d.decision == .halt))

/-- A decision received: shown in WEIR_SEAL_STATUS, passed on down the tree, its writes held, and acted on. -/
def State.takeDecision (s : State) (d : DecisionMsg) : State :=
  let a := s.updCtl fun c => { c with lastDecision := decisionNo d.decision, lastFlags := d.flags, lastDecided := d.step }
  let b := a.updStep d.step fun p => { p with decided := some d.decision, decFlags := d.flags }
  let c := b.emitEach (s.voteChildren s.me) fun x tag => .decision x { d with tag := tag, src := s.me }
  (c.holdWrites d.writes).act d

/-- Writes that the root attaches to an APPLY or SKIP of step `n` (R473): complete, unattached, with target n + L + 2. -/
def State.attach (s : State) (n : Nat) (w : RootWrite) : Bool := w.complete && !w.attached && w.w.target == n + s.lag + 2

/-- The decision with its writes. -/
def State.withWrites (s : State) (d : DecisionMsg) : DecisionMsg :=
  if d.decision = .apply ∨ d.decision = .skip then
    { d with writes := (s.ldr.rootWrites.filter (s.attach d.step)).map (·.w) }
  else d

/-- The writes of a broadcast marked attached. -/
def State.markAttached (s : State) (d : DecisionMsg) : State :=
  if d.decision = .apply ∨ d.decision = .skip then
    s.updLdr fun l => { l with
      rootWrites := l.rootWrites.map fun w => if s.attach d.step w then { w with attached := true } else w }
  else s

/-- DECISION_BROADCAST (R37, R339, R473): once the mirror has acknowledged the decision, the root broadcasts it with its
writes and acts on it. -/
def execDecisionBroadcast (step : Nat) (s : State) : Out :=
  match kvFind step s.ctl.rootDecided with
  | some d =>
    if s.ctl.broadcast.contains step ∨ kvHas (d.tag, s.voteMirror) s.fab.unacked = true then .next s
    else
      let t := (s.markAttached d).updCtl fun c => { c with broadcast := step :: c.broadcast }
      if s.awaits d then .next (t.takeDecision (s.withWrites d)) else .next t
  | none => .next s

/-- Whether this device takes over an ID and has not restored its state yet, so that it acknowledges no decision (R447). -/
def State.restoring (s : State) : Bool := match s.rcv.takeover with
  | some t => !t.pulled
  | none => false

/-- DECISION (R352): acknowledged, and acted on once. -/
def execDecision (d : DecisionMsg) (s : State) : Out :=
  if s.restoring then .next s else
  let t := s.emit [.ack d.src d.tag]
  if s.awaits d then .next (t.takeDecision d) else .next t

/-! ## The end of Apply (R351) -/

/-- Whether the Weir part has ended (R334): the version is installed and every copy that a home sent is acknowledged. -/
def State.weirPartEnded (s : State) (n : Nat) : Bool := s.installed n && s.weir.wcAcks.all fun x => x.2.1 != n

/-- Whether the Apply of step `n` has ended (R351). -/
def State.applyEnded (s : State) (n : Nat) : Bool :=
  (s.stepOf n).st == .apply && s.weirPartEnded n && s.weir.ssChecked.contains n
    && allQuerns.all fun q => n ≤ (s.quern q).doneVersion

/-- APPLY_END (R350, R351): APPLY to SEAL. An applied step begins its digest work; on a skip the root forms P_n at once
(R344, R355). -/
def execApplyEnd (step : Nat) (s : State) : Out :=
  if s.applyEnded step then
    let t := s.updStep step fun p => { p with st := .seal }
    if (s.stepOf step).decided = some .skip then .next (if s.isRoot then t.rootParam step true zero48 else t)
    else .next (t.sealDigests step)
  else .next s

/-! ## The standby image at a Seal (R441 to R444) -/

/-- A directory entry of a row (R254); SLOT is the address in 16 B units. -/
def dirBytes (r : Row) (mirror : DevId) : List Byte :=
  let role := match r.role with
    | .home => 0
    | .mirror => 1
    | .replica => 2
  leBytes 16 (1 + fld 1 2 role + fld 3 2 (clsNo r.record.cls) + fld 5 1 (bit r.moving.isSome) + fld 6 1 r.tier
    + fld 7 1 (bit r.repl) + fld 8 16 r.home + fld 24 16 mirror + fld 40 52 r.slot)

/-- A popularity record (R272). -/
def popBytes (r : Row) : List Byte := leBytes 2 r.pop ++ leBytes 2 r.popEpoch

/-- The content of a scale set in the order of its digest (R341). -/
def scaleSetBytes (x : ScaleSet) : List Byte :=
  x.recs.flatMap scaleRecBytes ++ x.hist.flatMap (fun h => BitVec.ofNat 8 h.length :: f32Bytes h)
    ++ leBytes 1 x.backoff ++ leBytes 2 x.decay

/-- The 64 bytes of a standby header (R442). -/
def StbyHeader.body (h : StbyHeader) : List Byte :=
  leBytes 4 1 ++ leBytes 2 h.device ++ leBytes 2 0 ++ leBytes 8 h.jobId ++ leBytes 8 h.seq ++ leBytes 6 h.baseStep ++ leBytes 6 h.sealedStep
    ++ leBytes 4 h.memEpoch ++ leBytes 4 h.layEpoch ++ leBytes 8 h.head ++ leBytes 8 h.tail
def StbyHeader.bytes (h : StbyHeader) : List Byte := h.body ++ leBytes 4 (crc32c h.body)

/-- A standby header read from bytes: valid when its CRC, FORMAT, DEVICE_ID and JOB_ID are right (R442). -/
def headerFrom (b : List Byte) (dev job : Nat) : Option StbyHeader :=
  let g := fun lo n : Nat => leNat ((b.drop lo).take n)
  if g 60 4 = crc32c (b.take 60) ∧ g 0 4 = 1 ∧ g 4 2 = dev ∧ g 8 8 = job then
    some { device := g 4 2, jobId := g 8 8, seq := g 16 8, baseStep := g 24 6, sealedStep := g 30 6, memEpoch := g 36 4, layEpoch := g 40 4,
           head := g 44 8, tail := g 52 8 }
  else none

/-- A journal record read from bytes, and whether its CRC is right (R443). -/
def journalFrom (b : List Byte) : Bool × Journal :=
  let g := fun lo n : Nat => leNat ((b.drop lo).take n)
  let c := (b.drop 32).take (g 16 4)
  (g 20 4 == crc32c c, { step := g 0 6, kind := g 6 1, key := g 8 8, content := c })

/-- Bytes of a journal record in the journal (R443). -/
def Journal.size (j : Journal) : Nat := (32 + j.content.length + 63) / 64 * 64
/-- The 32-byte record header and content of a journal record, padded to 64 B (R443). -/
def Journal.bytes (j : Journal) : List Byte :=
  let h := leBytes 6 j.step ++ leBytes 1 j.kind ++ [0] ++ leBytes 8 j.key ++ leBytes 4 j.content.length
    ++ leBytes 4 (crc32c j.content) ++ List.replicate 8 0
  h ++ j.content ++ List.replicate (j.size - 32 - j.content.length) 0

/-- The pending move of a row as the job state of the image holds it (log entry 21). -/
def pendBytes (x : (Nat × Nat) × Row) : List Byte :=
  let opt := fun o : Option Nat => match o with
    | some v => v + 1
    | none => 0
  leBytes 8 (rowKey x.1.1 x.1.2) ++ leBytes 1 (opt (x.2.pendClass.map clsNo)) ++ leBytes 1 (opt x.2.pendTier)
    ++ leBytes 1 (opt (x.2.pendRepl.map bit)) ++ List.replicate 5 0

/-- Whether a row has a decision pending. -/
def Row.pending (r : Row) : Bool := r.pendClass.isSome || r.pendTier.isSome || r.pendRepl.isSome

/-- The job state of the image after step `n` (R441; its layout is log entry 21). -/
def State.jobState (s : State) (n diffSeq : Nat) : List Byte :=
  leBytes 6 n ++ leBytes 2 0 ++ leBytes 4 s.ctl.memEpoch ++ leBytes 4 s.ctl.layEpoch ++ leBytes 8 diffSeq
    ++ ((sortBy (fun x => rowKey x.1.1 x.1.2) s.rows).filter fun x => x.2.pending).flatMap pendBytes

/-- The context that runs. -/
def State.runC (s : State) : Ctx := match s.atl.runCtx with
  | some c => s.ctx c
  | none => {}

/-- Rows in ascending key. -/
def State.sortedRows (s : State) : List ((Nat × Nat) × Row) := sortBy (fun x => rowKey x.1.1 x.1.2) s.rows

/-- Unit records of step `n` for the rows and tiles that satisfy `p`, given a row's or tile's key (R444). -/
def State.unitRecords (s : State) (n : Nat) (rowOk : Nat → Nat → Bool) (tileOk : Nat → Nat → Bool)
    (scalarOk : Nat → Bool) : List Journal :=
  let rows := ((s.stepOf n).changedRows.filter fun x => rowOk x.1 x.2).map fun x => (0, rowKey x.1 x.2)
  let tiles := (s.tileKeys tileOk).map fun k => (1, k)
  let scalars := (s.learnTensors.filter scalarOk).map fun t => (2, scalarKey t)
  (sortBy Prod.snd (rows ++ tiles ++ scalars)).filterMap fun x =>
    (s.unitContent x.2).map fun c => { step := n, kind := x.1, key := x.2, content := c : Journal }

/-- DIRECTORY and POPULARITY records of what the Seal of step `n` changes, from the rows before (`s`) and after (`t`). -/
def State.placeRecords (s t : State) (n : Nat) (ok : Nat → Nat → Bool) : List Journal :=
  let pairs := t.sortedRows.filterMap fun x => match kvFind x.1 s.rows with
    | some r => if ok x.1.1 x.1.2 then some (x, r) else none
    | none => none
  let dirs := pairs.filter fun y => dirBytes y.1.2 0 != dirBytes y.2 0
  let pops := pairs.filter fun y => popBytes y.1.2 != popBytes y.2
  (dirs.map fun y => { step := n, kind := 3, key := rowKey y.1.1.1 y.1.1.2,
                       content := dirBytes y.1.2 (s.mirrorOf y.1.1.1 y.1.1.2) : Journal })
    ++ pops.map fun y => { step := n, kind := 4, key := rowKey y.1.1.1 y.1.1.2, content := popBytes y.1.2 : Journal }

/-- The scale set record of version `n`. -/
def State.setRecord (s : State) (n : Nat) : Journal :=
  { step := n, kind := 5, key := 0, content := ((kvFind n s.weir.scaleSets).map scaleSetBytes).getD [] }
/-- The COMMIT record of step `n` (R443). -/
def State.commitRecord (s : State) (n : Nat) : Journal :=
  { step := n, kind := 7, key := 0, content := (s.digestOf n).param.getD zero48 }

/-- Whether step `n` was skipped. -/
def State.skipped (s : State) (n : Nat) : Bool := (s.stepOf n).decided == some .skip

/-- Whether the device is home or mirror of a row, or of a tile. -/
def State.holdsRow (s : State) (t r : Nat) : Bool := s.homeOf t r == s.me || s.mirrorOf t r == s.me
def State.holdsScalar (s : State) (t : Nat) : Bool :=
  (s.fieldL "DSHARD_DEV" t).contains s.me || (s.fieldL "DMIRROR_DEV" t).contains s.me

/-- The records that the Seal of step `n` appends (R444). -/
def State.stbyRecords (s : State) (n : Nat) : List Journal :=
  let t := s.sealRows n (s.skipped n)
  let job : Journal := { step := n, kind := 6, key := 0, content := t.jobState n (s.runC.diffSeq + 1) }
  let tail := [s.setRecord n, job, s.commitRecord n]
  if s.skipped n then tail
  else s.unitRecords n s.holdsRow (fun _ _ => true) s.holdsScalar ++ State.placeRecords s t n s.holdsRow ++ tail

/-- The header in force (R442). -/
def Standby.header (b : Standby) : Option StbyHeader := match b.hdr0, b.hdr1 with
  | some x, some y => if x.seq < y.seq then some y else some x
  | some x, none => some x
  | none, y => y

/-- A header written over the copy that is not in force. -/
def Standby.write (b : Standby) (h : StbyHeader) : Standby := match b.hdr0, b.hdr1 with
  | some x, some y => if x.seq < y.seq then { b with hdr0 := some h } else { b with hdr1 := some h }
  | some _, none => { b with hdr1 := some h }
  | none, _ => { b with hdr0 := some h }

/-- Bytes of the journal. -/
def Standby.used (b : Standby) : Nat := b.journal.foldl (fun a j => a + j.size) 0

/-- The header of step `n` after `add` bytes were appended. -/
def State.nextHeader (s : State) (b : Standby) (n add : Nat) : StbyHeader :=
  let size := max 64 (s.field "STBY_JOURNAL_SIZE")
  let old := b.header
  { device := s.me, jobId := s.field "JOB_ID", seq := ((old.map (·.seq)).getD 0) + 1,
    baseStep := (old.map (·.baseStep)).getD s.ctl.s0, sealedStep := n, memEpoch := s.ctl.memEpoch, layEpoch := s.ctl.layEpoch,
    head := (old.map (·.head)).getD 0, tail := (((old.map (·.tail)).getD 0) + add) % size }

/-- Whether every comparison and repair of step `n` is settled (R41, item 1). -/
def State.compared (s : State) (n : Nat) : Bool :=
  let d := s.digestOf n
  d.pendingCmp.isEmpty && d.repairing.isEmpty && !(s.weir.rebuilding.any fun r => r.step == n) && d.param.isSome

/-- STBY_HEADER_WRITE (R444, R445): once the comparisons are settled and P_n is known, the records of step `n` are appended
and the header is written; without room the Seal waits under STBY_FULL. In reduced service there is no standby image (R527). -/
def execStbyHeaderWrite (step : Nat) (s : State) : Out :=
  let p := s.stepOf step
  if p.st ≠ .seal ∨ p.stbyDone = true ∨ s.ctl.sealed + 1 ≠ step ∨ s.compared step = false ∨ s.fenced = true ∨ s.standbyLost = true then .next s
  else if s.pow.phase = 3 then .next (s.updStep step fun q => { q with stbyDone := true })
  else
    let js := s.stbyRecords step
    let add := js.foldl (fun a j => a + j.size) 0
    let b := s.standby
    if s.field "STBY_JOURNAL_SIZE" < b.used + add then
      .next ((s.updStandby fun x => { x with fullWait := true }).weirStall [27])
    else
      let u := s.updStandby fun x =>
        ({ x with journal := x.journal ++ js, fullWait := false } : Standby).write (s.nextHeader x step add)
      .next (u.updStep step fun q => { q with stbyDone := true })

/-! ## Commit (R41, R350) -/

/-- Whether every condition of R41 holds for step `n`, and no ID waits for a spare (R437). A lost standby page holds the step back until
the image is whole (R41, R242). -/
def State.sealable (s : State) (n : Nat) : Bool :=
  let p := s.stepOf n
  !s.rcv.jobWait && !s.standbyLost && p.st == .seal && s.ctl.sealed + 1 == n && s.compared n && p.stbyDone && p.signed && p.logged && p.spooled

/-- The takeover of this spare ends (R447, item 8): it reports TAKEOVER_DONE and serves as a member. -/
def State.endTakeover (s : State) (id' : DevId) : State :=
  ((s.updRcv fun r => { r with
    role := .member, takeover := none, takeovers := satAdd 0xFFFF r.takeovers 1 }).event 0x0F6 0 id').emit
      [.takeoverDone s.rcv.jobCoord id']

/-- A takeover whose rolling step is the one just sealed ends. -/
def State.endRoll (s : State) (n : Nat) : State := match s.rcv.takeover with
  | some t => if t.roll = some n then s.endTakeover t.id else s
  | none => s

/-- SEAL_COMPLETE (R21, R41, R302): the step is committed: rows flip and popularity advances, SEALED_STEP and the parameter
digest move on, and step-targeted writes up to the step are settled. -/
def execSealComplete (step : Nat) (s : State) : Out :=
  if s.sealable step then
    let skip := s.skipped step
    let a := (s.sealRows step skip).settleWrites step
    let b := a.updStep step fun p => { p with st := .sealed }
    let c := b.updWeir fun w => { w with
      param := ((s.digestOf step).param).getD w.param
      consecSkips := if skip then satAdd 0xFFFF w.consecSkips 1 else 0
      digests := w.digests.filter fun x => step < x.1 }
    .next ((c.updCtl fun x => { x with sealed := step, lastSkipped := skip, acc := x.acc.filter fun y => step < y.1 }).endRoll step)
  else .next s

end Sys2Proof.Machine
end

