-- ==== Sys2Proof/Machine/Layout.lean ====
section
/-! DEFINITION. Re-sharding under a new layout epoch (R369 to R373), the barrier of a context switch (R492), and what a
context leaves behind when it is switched out or stopped (R493). -/

namespace Sys2Proof.Machine

/-! ## The layout to come -/

/-- The layout state changed. -/
def State.updLayout (s : State) (f : Layout → Layout) : State := s.updCtl fun c => { c with layout := f c.layout }

/-- A field instance of the same name and scope in a section. -/
def inSection (l : List FieldInst) (f : FieldInst) : Option FieldInst := l.find? fun x => x.name == f.name && x.scope == f.scope

/-- A field with the value that a section gives it. -/
def FieldSt.fromSection (l : List FieldInst) (f : FieldSt) : FieldSt := match inSection l f.inst with
  | some x => { f with inst := { f.inst with value := x.value } }
  | none => f

/-- The state with the placement fields of the staged section in force. -/
def State.withLayout (s : State) : State :=
  s.updLdr fun l => { l with
    fields := l.fields.map fun f => if fieldApplies s f then f.fromSection s.ctl.layout.staged else f }

/-- Tables of the job. -/
def State.tables (s : State) : List Nat :=
  (s.ldr.fields.filter fun f => f.inst.name == "TBL_ROWS" && fieldApplies s f).map fun f => f.inst.scope

/-! ## Barrier words (R370, R492) -/

/-- The step t of the barrier in progress: of a switch, or of a re-shard. -/
def State.barrierTarget (s : State) : Option Nat := match s.ctl.switchTarget with
  | some t => some t
  | none => if s.ctl.layout.target = 0 then none else some s.ctl.layout.target

/-- This device's word (R370, item 3): LAYOUT_DIGEST is 0 for a switch and from a member that refused. -/
def State.ownBarrier (s : State) (t : Nat) : BarrierWord :=
  let l := s.ctl.layout
  { child := s.me, step := t - 1, memEpoch := s.ctl.memEpoch, view := viewDigest s.ctl.members, layEpoch := s.ctl.layEpoch,
    layDigest := if s.ctl.switchTarget.isSome || l.refusedTarget then 0 else l.sectionDigest, count := 1, differs := false }

/-- Whether two words agree in every field that must be equal. -/
def barrierSame (a b : BarrierWord) : Bool :=
  a.step == b.step && a.memEpoch == b.memEpoch && a.view == b.view && a.layEpoch == b.layEpoch && a.layDigest == b.layDigest

/-- Words reduced as vote words are (R339): COUNT summed, differences noted. -/
def barrierSum (l : List (DevId × BarrierWord)) : Option BarrierWord :=
  l.foldl (fun a x => match a with
    | none => some x.2
    | some b => some { b with count := b.count + x.2.count, differs := b.differs || x.2.differs || !barrierSame b x.2 }) none

/-- Whether words of this device and every child are there. -/
def State.allWords (s : State) (l : List (DevId × BarrierWord)) : Bool :=
  (s.me :: s.voteChildren s.me).all fun d => l.any fun x => x.1 == d

/-- The reduced word of a Weir below the root sent up. -/
def State.sendUp (s : State) (isDone : Bool) (w : BarrierWord) : State :=
  s.emit [.barrier (s.voteParent s.me) isDone { w with child := s.me }]

/-! ## What a context leaves behind (R493) -/

/-- An engine without work; its integrity record, repairs and counters stay, and so does what the next pass must wait for after the last one
(R118). -/
def Engine.idle (e : Engine) : Engine :=
  { e with assigned := [], loading := none, loaded := none, inArray := [], ended := [], prom := []
           series := none, seriesPasses := [], readyAt := 0, slices := [], replay := [], coldNext := false, notBefore := 0 }

/-- A core whose local buffer is scrubbed and whose streams, sync counters, Sluice buckets and arithmetic counters are
reset. -/
def Core.scrub (k : Core) : Core :=
  { k with
    eng := k.eng.map (fun e => (e.1, e.2.idle)), f := {}, b := {}, u := {}, deferred := [], sync := [], hand := []
    carries := [], blocked := 0, fired := false, num := {}, scalesOf := 0, csumsOf := []
    lb := { k.lb with blocks := [], mem := [], stash := [], reserves := [], held := [] }
    feed := { k.feed with queue := [], pool := [], levelRead := 0, levelWrite := 0, levelRemote := 0, portBusy := 0 } }

/-- A Quern without the job's rows, log and sets. -/
def Quern.scrub (k : Quern) : Quern :=
  { k with log := [], reserved := [], held := [], screened := [], sets := [], waiting := [], logHold := false, num := {} }

/-- Weir without the job's state; its counters of R347 and its stall array stay. -/
def Weir.scrub (w : Weir) : Weir :=
  { w with
    nodes := [], seen := [], sliceTries := [], retained := [], roots := [], tiles := [], scalars := [], weightMax := []
    weightRecv := [], ring := [], arriving := none, stored := [], scaleSets := [], sources := [], wcTries := [], wcAcks := []
    wcGot := [], ssTries := 0, ssChecked := [], digests := [], rebuilding := [], used := [], num := {}, creditHeld := false }

/-- The memory behind a set of pages zeroed. -/
def zeroPages (pages : KV Nat Page) (p : Page → Bool) (m : List Host.Cell) : List Host.Cell :=
  (pages.filter fun x => p x.2).foldl (fun a x => cellsOut (physOf x.2.loc 0) (2 ^ 21) a) m

/-- Whether a page lies in HBM of this device. -/
def Page.inHbm (p : Page) : Bool := p.loc.tier == .hbm

/-- Every move of the outgoing context ended: an unflipped one is abandoned, a flipped one frees its source (R243). -/
def State.endMoves (s : State) : State :=
  let t := s.abandonMoves fun _ => true
  t.updTier fun y => { y with migs := [], used := y.used.filter fun l => !(y.migs.any fun x => x.2.source == l) }

/-- The running context leaves the device: local buffers, Grist stores, Weir SRAM and HBM pages are scrubbed (R493). On a
stop the pooled pages go too. -/
def State.scrub (s : State) (stop : Bool) : State :=
  let s := (s.cancelAll fun _ => true).endMoves
  let pages := s.tier.pages
  let gone := fun p : Page => p.inHbm || (stop && p.loc.tier == .cxl)
  let t : State := { s with
    cores := s.cores.map fun c => (c.1, c.2.scrub)
    querns := s.querns.map fun q => (q.1, q.2.scrub)
    weir := s.weir.scrub
    rows := [], repl := {}, units := [], ctl := {} }
  let freed := (pages.filter fun x => gone x.2).map fun x => x.2.loc
  let u := t.updTier fun y => { y with
    mem := zeroPages pages gone y.mem, pages := [], xlat := [], used := y.used.filter fun l => !freed.contains l }
  u.updAtl fun a => { a with scrubs := satAdd 0xFFFF a.scrubs 1 }

/-- The STATE pages of HBM as the standby image holds them (R441), with their offsets. -/
def State.imagedPages (s : State) : KV Nat (List Host.Cell) :=
  (s.tier.pages.filter fun x => x.2.inHbm && (s.regionAt x.1).any fun r => r.kind == 0).map fun x => (x.1, frameCells x.2.loc s.tier.mem)

/-- The running context switched out (R492, R493): its pooled pages, among them the standby image, and its keys are kept. -/
def State.switchOut (s : State) : State :=
  match s.atl.runCtx with
  | none => s
  | some c =>
    let ended := s.endMoves
    let keep := ended.tier.pages.filter fun x => x.2.loc.tier == .cxl
    let t := ended.updCtx c fun x => { x with
      switchedOut := true, kept := keep, imaged := ended.imagedPages, ready := false, members := s.ctl.members, memEpoch := s.ctl.memEpoch }
    (t.scrub false).updAtl fun a => { a with runCtx := none, switchIn := s.ctl.layout.switchTo.map Prod.snd }

/-! ## MOVE (R370 item 5, R371, R372) -/

/-- Whether the shards of a table, or of a tensor, are cut differently under the new layout `z`. -/
def cutDiffers (s z : State) (shift home : String) (t : Nat) : Bool :=
  s.field shift t != z.field shift t || (s.fieldL home t).length != (z.fieldL home t).length

/-- Whether shard `j` of the new layout moves: it is cut differently, or its home or mirror changes. -/
def shardMoves (s z : State) (shift home mirror : String) (t j : Nat) : Bool :=
  cutDiffers s z shift home t || (s.fieldL home t).getD j 0 != (z.fieldL home t).getD j 0
    || (s.fieldL mirror t).getD j 0 != (z.fieldL mirror t).getD j 0

/-- Old homes that hold units of shard `j` of the new layout. -/
def shardSources (s z : State) (shift home : String) (t j : Nat) : List DevId :=
  if cutDiffers s z shift home t then (s.fieldL home t).foldl (fun l d => addNew d l) []
  else [(s.fieldL home t).getD j 0]

/-- The field names of a kind of shard: 0 rows, 1 dense tiles. -/
def shardNames (kind : Nat) : String × String × String :=
  if kind = 0 then ("SHARD_SHIFT", "SHARD_DEV", "MIRROR_DEV") else ("DSHARD_SHIFT", "DSHARD_DEV", "DMIRROR_DEV")

/-- Every moving shard (kind, table or tensor, j, sources) of tables and learning tensors. -/
def movingShards (s z : State) : List (Nat × Nat × Nat × List DevId) :=
  let of := fun (kind t : Nat) =>
    let n := shardNames kind
    ((List.range (z.fieldL n.2.1 t).length).filter fun j => shardMoves s z n.1 n.2.1 n.2.2 t j).map fun j =>
      (kind, t, j, shardSources s z n.1 n.2.1 t j)
  s.tables.flatMap (of 0) ++ s.learnTensors.flatMap (of 1)

/-- Where a moved shard goes: its new home and new mirror. -/
def shardDests (z : State) (kind t j : Nat) : List DevId :=
  let n := shardNames kind
  addNew ((z.fieldL n.2.2 t).getD j 0) [(z.fieldL n.2.1 t).getD j 0]

/-- Devices that join the WC_GROUP of a tensor. -/
def joiners (s z : State) (t : Nat) : List DevId :=
  (z.fieldL "WC_GROUP" t).filter fun d => !(s.fieldL "WC_GROUP" t).contains d

/-- The device that sends a joiner the working copies of shard `j`: the new home, or the home of a tensor that does not
learn. -/
def wcSender (s z : State) (t j : Nat) : DevId :=
  if s.dtLearns t then (z.fieldL "DSHARD_DEV" t).getD j 0 else (s.fieldL "DSHARD_DEV" t).getD j 0

/-- Transfers that this device expects (R370, item 6): kind 2 stands for working copies. -/
def expectedXfers (s z : State) : List (Nat × Nat × Nat × DevId) :=
  let shards := (movingShards s z).filter fun x => (shardDests z x.1 x.2.1 x.2.2.1).contains s.me
  let a := shards.flatMap fun x => (x.2.2.2.filter (· != s.me)).map fun d => (x.1, x.2.1, x.2.2.1, d)
  let joins := s.tensors.filter fun t => (joiners s z t).contains s.me
  let b := joins.flatMap fun t =>
    let js := (List.range (z.fieldL "DSHARD_DEV" t).length).filter fun j => wcSender s z t j != s.me
    js.map fun j => (2, t, j, wcSender s z t j)
  a ++ b

/-- The leaf or log digest of a moved unit with its place in the order of the move digest (R372). -/
def unitLeaf (u : XferUnit) : Option (Nat × Nat × List Byte) := match u with
  | .row t r rec' st _ _ _ => some (rowKey t r, 0, leafOf (rowUnit t r rec' st))
  | .tile t tk tn m xs => some (tileKey t tk tn, 0, leafOf (tileUnit t tk tn { master := m, states := xs }))
  | .log t r older rec' =>
    some (2 ^ 64 + rowKey t r, older, sha384 ([0] ++ leBytes 8 (rowKey t r) ++ leBytes 6 older ++ leBytes 1 (clsNo rec'.cls)
      ++ rec'.bytes))
  | .replica _ t r rec' st => some (rowKey t r, 0, leafOf (rowUnit t r rec' st))
  | .scalar .. => none
  | .wcTile _ => none

/-- The move digest of a shard's units under an epoch (R372). -/
def moveDigest (epoch : Nat) (us : List XferUnit) : List Byte :=
  let ls := sortBy (fun x : Nat × Nat × List Byte => x.1 * 2 ^ 48 + x.2.1) (us.filterMap unitLeaf)
  sha384 ([0x0A] ++ leBytes 4 epoch ++ ls.flatMap fun x => x.2.2)

/-- Bytes of a moved unit, for WEIR_LAYOUT_MOVE. -/
def xferBytes (u : XferUnit) : Nat := match u with
  | .row _ _ rec' st _ _ _ => rec'.bytes.length + st.length + 20
  | .log _ _ _ rec' => rec'.bytes.length + 16
  | .tile _ _ _ m xs => 4 * (m.length + xs.foldl (fun a x => a + x.length) 0)
  | .scalar _ _ xs => 4 + 4 * xs.length
  | .wcTile t => t.codes.length + 64
  | .replica _ _ _ rec' st => rec'.bytes.length + st.length

/-- Versions that move: t − 1 − L to t − 1. -/
def moveVersions (s : State) (t : Nat) : List Nat := ((List.range (s.lag + 1)).map fun i => t - 1 - i).reverse

/-- Source copies of a tile that the ring's versions refer to. -/
def State.movedSources (s : State) (target t tau : Nat) : List WcTile :=
  (moveVersions s target).foldl (fun l v => match s.sourceOf v t tau with
    | some x => addNew x l
    | none => l) []

/-- The units of a table shard of the new layout that this device sends as old home. -/
def rowUnits (s z : State) (target t j : Nat) : List XferUnit :=
  let mine := s.sortedRows.filter fun x => x.1.1 == t && x.2.role == .home && z.shardOf t x.1.2 == j
  let log := fun r : Nat => ((s.quern (s.quernOf t r)).log.filter fun p =>
    p.table == t && p.row == r && target ≤ p.older + s.lag && p.older < target).map fun p => XferUnit.log t r p.older p.record
  (mine.map fun x => .row t x.1.2 x.2.record x.2.state x.2.pop x.2.popEpoch x.2.pendClass)
    ++ mine.flatMap fun x => log x.1.2

/-- The units of a dense shard of the new layout that this device sends as old home. -/
def denseUnits (s z : State) (target t j : Nat) : List XferUnit :=
  let mine := (s.tilesIn t).filter fun u => s.tileHome t u == s.me && z.tileShard t u == j
  let r := kvGet {} t s.weir.scalars
  let tiles := mine.map fun u =>
    let f := (s.tile t u).current
    XferUnit.tile t (s.tkOf t u) (s.tnOf t u) f.master f.states
  let copies := mine.flatMap fun u => (s.movedSources target t u).map XferUnit.wcTile
  tiles ++ [.scalar t r.count r.xs] ++ copies

/-- A transfer sent to its destinations; the bytes count in SENT_MIB. -/
def State.sendXfer (s : State) (dests : List DevId) (dense : Bool) (t j : Nat) (us : List XferUnit) : State :=
  let e := s.ctl.layEpoch + 1
  let x : ShardXfer := { src := s.me, tag := 0, dense := dense, table := t, shard := j, epoch := e, units := us,
                         digest := moveDigest e us }
  let to' := dests.filter (· != s.me)
  let n := (us.foldl (fun a u => a + xferBytes u) 0) * to'.length
  (s.emitEach to' fun d tag => .xfer d { x with tag := tag }).updLayout fun l => { l with sentBytes := l.sentBytes + n }

/-- Working copies of a shard sent to the devices that join the group, from source copies held or received. -/
def State.sendCopies (s z : State) (target t j : Nat) (have' : List WcTile) : State :=
  let ds := joiners s z t
  if ds.isEmpty || wcSender s z t j != s.me then s
  else
    let own := ((s.tilesIn t).filter fun u => z.tileShard t u == j).flatMap fun u => s.movedSources target t u
    let all := have'.foldl (fun l x => addNew x l) own
    s.sendXfer ds true t j (all.map .wcTile)

/-- Pending moves of the rows of moving shards resolved by the old home (R371). -/
def resolveRow (s z : State) (x : (Nat × Nat) × Row) : (Nat × Nat) × Row :=
  let moves := shardMoves s z "SHARD_SHIFT" "SHARD_DEV" "MIRROR_DEV" x.1.1 (z.shardOf x.1.1 x.1.2)
  if moves && x.2.role == .home then
    (x.1, { x.2 with pendTier := none, pendRepl := none, repl := x.2.repl && x.2.pendRepl != some false })
  else x

/-! ### FLIP (R370, item 7) -/

/-- The placement of rows of a table changes who replicates them. -/
def replChanges (s z : State) (t : Nat) : Bool := s.fieldL "REPL_GROUP" t != z.fieldL "REPL_GROUP" t

/-- A row that the device held before the FLIP under the new layout: kept with its new role, or freed. -/
def flipKeep (s z : State) (x : (Nat × Nat) × Row) : Option ((Nat × Nat) × Row) :=
  let t := x.1.1
  let r := x.1.2
  let h := z.homeOf t r
  let m := z.mirrorOf t r
  let moves := shardMoves s z "SHARD_SHIFT" "SHARD_DEV" "MIRROR_DEV" t (z.shardOf t r)
  let again := moves || replChanges s z t
  let base := if again then { x.2 with repl := false, pendRepl := none } else x.2
  let row := { base with home := h, mirror := m }
  if h = s.me then some (x.1, { row with role := .home, pendTier := if moves then none else row.pendTier })
  else if m = s.me then some (x.1, { row with role := .mirror, pendTier := if moves then none else row.pendTier })
  else if x.2.role = .replica ∧ again = false then some (x.1, row)
  else none

/-- One received unit put in place under the new layout. A working copy joins the source copies of the tiles that the device
now homes, and the ring storage of the versions that it serves where the device reads the tensor. -/
def State.installUnit (s : State) (target : Nat) (u : XferUnit) : State :=
  match u with
  | .row t r rec' st pop ep cls =>
    let role := if s.homeOf t r = s.me then Role.home else .mirror
    let row : Row := { role := role, record := rec', state := st, home := s.homeOf t r, mirror := s.mirrorOf t r,
                       slot := s.newSlot t r, pop := pop, popEpoch := ep, pendClass := cls }
    { s.tick with rows := kvPut (t, r) row s.rows }
  | .log t r older rec' =>
    let p : PreImage := { table := t, row := r, older := older, record := rec' }
    s.updQuern (s.quernOf t r) fun k => { k with log := if k.log.contains p then k.log else k.log ++ [p] }
  | .tile t tk tn m xs =>
    let f : TileFrame := { master := m, states := xs }
    s.updWeir fun w => { w with tiles := kvPut (t, s.tauOf t tk tn) { a := f, b := f } w.tiles }
  | .scalar t n xs => s.updWeir fun w => { w with scalars := kvMod {} t (fun r => { r with count := n, xs := xs }) w.scalars }
  | .wcTile x =>
    let tau := s.tauOf x.tensor x.tileK x.tileN
    let a := if s.tileHome x.tensor tau = s.me then
        s.updWeir fun w => { w with sources := kvPut (x.version, x.tensor, tau) x w.sources } else s
    let y : StoredTile := { codes := x.codes, csums := x.csums, digest := x.digest, check := x.check }
    let vs := (moveVersions s target).filter fun v => x.version ≤ v && (s.ringTile v x.tensor tau).isNone
    if (s.fieldL "WC_GROUP" x.tensor).contains s.me then
      vs.foldl (fun b v => match b.wcSlotOf v x.tensor with
        | some k => b.updWeir fun w => { w with stored := kvPut (x.tensor, k, tau) y w.stored,
                                                wcGot := addNew (v, x.tensor, tau) w.wcGot }
        | none => b) a
    else a
  | .replica .. => s

/-- Received units in the order of their versions, newest working copies first, so that each version takes the newest copy up
to it. -/
def receivedUnits (l : Layout) : List XferUnit :=
  let us := l.received.flatMap (·.units)
  let copies := us.filter fun u => match u with
    | .wcTile _ => true
    | _ => false
  let rest := us.filter fun u => match u with
    | .wcTile _ => false
    | _ => true
  rest ++ (sortBy (fun u => match u with
    | .wcTile x => x.version
    | _ => 0) copies).reverse

/-- What the device no longer homes or reads is freed under the new layout. -/
def State.freeUnits (s : State) : State :=
  s.updWeir fun w => { w with
    tiles := w.tiles.filter fun x => s.myTiles.contains x.1
    sources := w.sources.filter fun x => s.tileHome x.1.2.1 x.1.2.2 == s.me
    stored := w.stored.filter fun x => (s.fieldL "WC_GROUP" x.1.1).contains s.me }

/-- Whether a FLIP takes effect: the move runs under the epochs of the order, or DONE was sent before an epoch increment and the order was
final before it (R352, R373). -/
def State.flips (s : State) (o : OrderMsg) : Bool :=
  let l := s.ctl.layout
  (o.memEpoch == s.ctl.memEpoch && (l.lstate == .moving || l.lstate == .doneSent))
    || (l.flipReady && decide (o.memEpoch ≤ s.ctl.memEpoch) && o.layEpoch == s.ctl.layEpoch && o.step == l.target)

/-- FLIP on a device (R370, item 7): the new layout epoch, the retained data of earlier steps released, units installed and
freed. -/
def State.takeFlip (s : State) (o : OrderMsg) : State :=
  let l := s.ctl.layout
  if s.flips o = false then s
  else
    let a := s.releaseRetained l.target
    let z := a.withLayout
    let kept : State := { z with rows := a.rows.filterMap (flipKeep a z) }
    let b := (receivedUnits l).foldl (fun u x => u.installUnit l.target x) kept
    b.freeUnits.updCtl fun c => { c with layEpoch := c.layEpoch + 1, layout := {} }

/-- DONE words complete: they go up, or the root issues FLIP (R370, item 6). -/
def State.settleDone (s : State) (acc : List (DevId × BarrierWord)) : State :=
  if s.allWords acc = false then s
  else match barrierSum acc with
    | none => s
    | some r =>
      if s.isRoot = false then s.sendUp true r
      else if r.count = s.ctl.members.length ∧ r.differs = false then
        let o := s.orderFor s.ctl.layout.target
        if s.orderKnown "FLIP" o then s else s.issueOrder "FLIP" o
      else s

/-- A DONE word taken in. -/
def State.takeDone (s : State) (d : DevId) (w : BarrierWord) : State :=
  let acc := (s.ctl.layout.doneAcc.filter fun x => x.1 != d) ++ [(d, w)]
  (s.updLayout fun l => { l with doneAcc := acc }).settleDone acc

/-- DONE of this device sent once nothing is owed to it. -/
def State.tryDoneSent (s : State) : State :=
  let l := s.ctl.layout
  if l.lstate = .moving ∧ l.xferOwed.isEmpty = true then
    (s.updLayout fun y => { y with lstate := .doneSent }).takeDone s.me { s.ownBarrier l.target with layDigest := 0 }
  else s

/-- Movement begins (R370, items 5 and 6). -/
def State.beginXfers (s : State) : State :=
  let target := s.ctl.layout.target
  let a : State := { s with rows := s.rows.map (resolveRow s s.withLayout) }
  let z := a.withLayout
  let b := a.updLayout fun l => { l with lstate := .moving, xferOwed := expectedXfers a z, received := [], xferTries := [], flipReady := false }
  let c := (movingShards a z).foldl (fun u x =>
    if x.2.2.2.contains a.me then
      let us := if x.1 = 0 then rowUnits a z target x.2.1 x.2.2.1 else denseUnits a z target x.2.1 x.2.2.1
      u.sendXfer (shardDests z x.1 x.2.1 x.2.2.1) (x.1 != 0) x.2.1 x.2.2.1 us
    else u) b
  let d := a.tensors.foldl (fun u t =>
    let js := List.range (z.fieldL "DSHARD_DEV" t).length
    js.foldl (fun v j =>
      let stays := !shardMoves a z "DSHARD_SHIFT" "DSHARD_DEV" "DMIRROR_DEV" t j
        || (shardSources a z "DSHARD_SHIFT" "DSHARD_DEV" t j == [a.me]) || !a.dtLearns t
      if stays then v.sendCopies z target t j [] else v) u) c
  d.tryDoneSent

/-- MOVE on a device: of a switch, the context is switched out; of a re-shard, movement begins. -/
def State.takeMove (s : State) (o : OrderMsg) : State :=
  if o.memEpoch ≠ s.ctl.memEpoch then s
  else match s.ctl.switchTarget with
    | some _ => (s.releaseRetained (s.ctl.sealed + 1)).switchOut
    | none => if s.ctl.layout.target = 0 ∨ s.ctl.layout.lstate = .moving ∨ s.ctl.layout.lstate = .doneSent then s
      else s.beginXfers

/-! ## CANCEL (R370 item 4, R492) -/

/-- CANCEL on a device: the staged section is discarded and the target cleared; a switch is abandoned. -/
def State.takeCancel (s : State) (o : OrderMsg) : State :=
  if o.memEpoch ≠ s.ctl.memEpoch then s
  else match s.ctl.switchTarget with
    | some _ => s.updCtl fun c => { c with switchTarget := none, layout := { c.layout with
        switchTo := none, barrierSent := false, barrierAcc := [] } }
    | none =>
      if s.ctl.layout.target = 0 then s
      else (s.updCtl fun c => { c with layout := {} }).raise .correctable 0x066 (unitNo 4 0) 0 0

/-! ## BARRIER_SEND and BARRIER -/

/-- The root decides a barrier: MOVE when every member's word is there and all agree, else CANCEL (R370, item 4). -/
def State.decideBarrier (s : State) (w : BarrierWord) : State :=
  s.issueOrder (if w.count = s.ctl.members.length ∧ w.differs = false then "MOVE" else "CANCEL") (s.orderFor (w.step + 1))

/-- A word taken into the barrier, once for each sender; when all are there it goes up, or the root decides. -/
def State.takeBarrier (s : State) (d : DevId) (w : BarrierWord) : State :=
  if s.ctl.layout.barrierAcc.any fun x => x.1 == d then s
  else
    let acc := s.ctl.layout.barrierAcc ++ [(d, w)]
    let t := s.updLayout fun l => { l with barrierAcc := acc }
    if t.allWords acc then
      match barrierSum acc with
      | some r => if t.isRoot then t.decideBarrier r else t.sendUp false r
      | none => t
    else t

/-! ## Orders of the vote root (R352) -/

/-- The effect of an order on a device. -/
def State.actOrder (s : State) (name : String) (o : OrderMsg) : State :=
  if name = "REPLAY" then s.takeReplay o
  else if name = "MOVE" then s.takeMove o
  else if name = "FLIP" then s.takeFlip o
  else s.takeCancel o

/-- An order sent to the children, apart from the device that brought it, and carried out, once. -/
def State.spreadOrder (s : State) (name : String) (o : OrderMsg) (but : DevId) : State :=
  let t := s.updCtl fun c => { c with orderFinal := c.orderFinal ++ [(name, { o with tag := 0 })] }
  (t.emitEach ((s.voteChildren s.me).filter (· != but)) fun d tag => .order d name { o with tag := tag, src := s.me }).actOrder name o

/-- The orders of this root that the mirror holds become final: they go down the tree and take effect here (R352). `fuel` bounds how
many follow one another. -/
def State.settleOrders : Nat → State → State
  | 0, s => s
  | fuel + 1, s => match s.ctl.orderPend.find? fun x => !kvHas (x.2.tag, s.voteMirror) s.fab.unacked with
    | none => s
    | some x => State.settleOrders fuel
        ((s.updCtl fun c => { c with orderPend := c.orderPend.filter (· != x) }).spreadOrder x.1 x.2 s.voteMirror)
def State.settled (s : State) : State := State.settleOrders 3 s

/-- An order received: acknowledged, and the first time passed on down the tree and carried out (R352, R374). -/
def State.takeOrder (s : State) (name : String) (o : OrderMsg) : State :=
  let t := s.emit [.ack o.src o.tag]
  if s.orderKnown name o then t else t.spreadOrder name o o.src

/-- REPLAY_REQUEST (R363, R374): the vote root issues REPLAY for step n + 1 + L, once. -/
def execReplayRequest (src : DevId) (step : Nat) (s : State) : Out :=
  let o := s.orderFor (step + 1 + s.lag)
  if s.isRoot ∧ src ∈ s.ctl.members ∧ s.orderKnown "REPLAY" o = false then .next (s.issueOrder "REPLAY" o).settled
  else .next s

/-- REPLAY (R352, R363). -/
def execReplay (o : OrderMsg) (s : State) : Out := .next (s.takeOrder "REPLAY" o)

/-- BARRIER_SEND (R370 item 3, R492 item 2): once step t − 1 is sealed, the word goes up, once. -/
def execBarrierSend (s : State) : Out :=
  match s.barrierTarget with
  | some t =>
    if s.ctl.sealed + 1 = t ∧ s.ctl.layout.barrierSent = false ∧ s.ctl.halted = false then
      let u := s.updLayout fun l => { l with
        barrierSent := true, lstate := if s.ctl.switchTarget.isSome then l.lstate else .barrier }
      .next (u.takeBarrier s.me (s.ownBarrier t)).settled
    else .next s
  | none => .next s

/-- BARRIER (R370): a child's word joins. -/
def execBarrier (w : BarrierWord) (s : State) : Out :=
  if w.child ∈ s.voteChildren s.me then .next (s.takeBarrier w.child w).settled else .next s

/-- MOVE (R352, R370): passed on, acknowledged and carried out. -/
def execMove (o : OrderMsg) (s : State) : Out := .next (s.takeOrder "MOVE" o)

/-- LAYOUT_CANCEL (R370): passed on, acknowledged and carried out. -/
def execLayoutCancel (o : OrderMsg) (s : State) : Out := .next (s.takeOrder "CANCEL" o)

/-! ## SHARD_XFER (R276, R372) -/

/-- Whether the working copies among units match their tile digests (R333). -/
def State.copiesGood (s : State) (us : List XferUnit) : Bool := us.all fun u => match u with
  | .wcTile t => wcDigest (s.wcFmt t.tensor) (tileKey t.tensor t.tileK t.tileN) t.version t.codes t.csums == t.digest
  | _ => true

/-- Whether a transfer brings rows whole to a device with replicas rather than a shard. -/
def xferReplica (x : ShardXfer) : Bool := !x.units.isEmpty && x.units.all fun u => match u with
  | .replica .. => true
  | _ => false

/-- The kind of a transfer: 0 rows, 1 dense tiles, 2 working copies. -/
def xferKind (x : ShardXfer) : Nat :=
  if x.dense = false then 0
  else if !x.units.isEmpty && x.units.all fun u => (match u with
    | .wcTile _ => true
    | _ => false) then 2 else 1

/-- Rows whole at a device with replicas (R276, R362). -/
def State.takeReplicas (s : State) (x : ShardXfer) : State :=
  x.units.foldl (fun a u => match u with
    | .replica n t r rec' st => a.replRowIn x.src n t r rec' st
    | _ => a) s

/-- A shard that passed its move digest is kept until the FLIP; a new home passes working copies on; DONE follows the last
one owed. -/
def State.takeShard (s : State) (x : ShardXfer) : State :=
  let key := (xferKind x, x.table, x.shard, x.src)
  if s.ctl.layout.xferOwed.contains key then
    let n := x.units.foldl (fun a u => a + xferBytes u) 0
    let t := s.updLayout fun l => { l with
      received := l.received ++ [x], xferOwed := l.xferOwed.filter (· != key), recvBytes := l.recvBytes + n }
    let copies := x.units.filterMap fun u => match u with
      | .wcTile w => some w
      | _ => none
    let others := t.ctl.layout.xferOwed.any fun k => k.1 == 1 && k.2.1 == x.table && k.2.2.1 == x.shard
    let u := if xferKind x = 1 && !others then t.sendCopies t.withLayout t.ctl.layout.target x.table x.shard copies else t
    u.tryDoneSent
  else s

/-- SHARD_XFER (R276, R372): the move digest is formed again; agreement takes the units in and acknowledges them. A
difference raises MOVE_DIGEST, and the transfer comes again when its acknowledgement stays out; the second raises
MOVE_FAULT against this device. -/
def execShardXfer (x : ShardXfer) (s : State) : Out :=
  let key := (xferKind x, x.table, x.shard, x.src)
  if moveDigest x.epoch x.units = x.digest ∧ s.copiesGood x.units = true then
    let t := s.emit [.ack x.src x.tag]
    .next (if xferReplica x then t.takeReplicas x else t.takeShard x).settled
  else
    let n := kvGet 0 key s.ctl.layout.xferTries + 1
    let t := s.updLayout fun l => { l with xferTries := kvPut key n l.xferTries }
    .next (if n = 1 then t.raise .correctable 0x068 (unitNo 4 0) 0 x.table
      else t.raiseDev .deviceFatal 0x069 (unitNo 4 0) x.table)

/-! ## DONE and FLIP -/

/-- DONE (R370, item 6): a child's DONE joins. -/
def execDone (w : BarrierWord) (s : State) : Out :=
  if w.child ∈ s.voteChildren s.me then .next (s.takeDone w.child w).settled else .next s

/-- FLIP (R352, R370): passed on, acknowledged and carried out. -/
def execFlip (o : OrderMsg) (s : State) : Out := .next (s.takeOrder "FLIP" o)

end Sys2Proof.Machine
end

