-- ==== Sys2Proof/Machine/Fetch.lean ====
section
/-! DEFINITION. Where the operands of a command's units lie, and their demand fetches: the window of four units beyond the
unit most recently issued (R171, R196, R197). -/

namespace Sys2Proof.Machine

/-! ## Operands in the ring -/

/-- First k-block and n-block of a RING operand (R171). -/
def Operand.ringK (o : Operand) : Nat := o.addr % 2 ^ 16
def Operand.ringN (o : Operand) : Nat := o.addr / 2 ^ 16 % 2 ^ 16

/-- The place of the ring tile that holds element (k, n) of a RING operand. -/
def State.ringPlace (s : State) (cmd : Cmd) (o : Operand) (k n : Nat) : Span :=
  { ring := some (cmd.desc.tensor, s.tauOf cmd.desc.tensor (o.ringK + k / 128) (o.ringN + n / 128), s.cmdVersion cmd) }

/-- Bytes of a ring tile in the storage slot's padded form (R333). -/
def ringBytes (f : NumFmt) : Nat := bytesOf f (128 * 128)

/-- Numbers of the 128-wide blocks that `n` indices from `i` up touch. -/
def blocksOver (i n : Nat) : List Nat := if n = 0 then [] else (List.range ((i + n - 1) / 128 - i / 128 + 1)).map (· + i / 128)

/-- The places of the ring tiles that hold rows `r` to `r + n - 1` and columns `c0` to `c0 + m - 1` of a RING operand. A row of a RING
operand is an index of k, a column an index of n (log entry 32). -/
def State.ringRect (s : State) (cmd : Cmd) (o : Operand) (r n c0 m : Nat) : List (Span × Nat) :=
  (blocksOver r n).flatMap fun i => (blocksOver c0 m).map fun j => (s.ringPlace cmd o (128 * i) (128 * j), ringBytes o.fmt)

/-! ## Where the operands of a pass lie (R196) -/

/-- Rows `first` to `first + n - 1` of a RANGE operand with `w` elements a row, as one place. -/
def rangeRows (o : Operand) (f : NumFmt) (w first n : Nat) : Span × Nat :=
  let b := bytesOf f w
  ({ addr := o.addr + first * b, len := n * b, stride := 0, count := 1 }, n * b)

/-- The places of rows `first` to `first + n - 1` of an operand whose rows hold `w` elements in format `f`: those in the range and in the
ring. -/
def State.rowPlaces (s : State) (cmd : Cmd) (o : Operand) (f : NumFmt) (w first n : Nat) : List (Span × Nat) :=
  match o.space with
  | .range => [rangeRows o f w first n]
  | .ring => s.ringRect cmd o first n 0 w
  | _ => []

/-- The places of a stationary tile. -/
def State.statSpans (s : State) (cmd : Cmd) (t : Nat × Nat) : List (Span × Nat) :=
  let d := cmd.desc
  match d.b.space with
  | .ring => s.ringRect cmd d.b t.1 (d.knOf t) t.2 (d.nnOf t)
  | .range =>
    let f := s.memFmt (s.cmdVersion cmd) d.b.fmt d.scaleB
    let len := bytesOf f (d.nnOf t)
    [({ addr := d.b.addr + t.1 * bytesOf f d.dimN + bytesOf f t.2, len := len, stride := bytesOf f d.dimN
        count := d.knOf t }, len * d.knOf t)]
  | _ => []

/-- The places of the streamed rows of a unit, where the matrix stage is the first. -/
def State.streamSpan (s : State) (cmd : Cmd) (first n : Nat) : List (Span × Nat) :=
  let d := cmd.desc
  if d.mmStage = 0 then s.rowPlaces cmd d.a (s.memFmt (s.cmdVersion cmd) d.a.fmt d.scaleA) d.rowElems first n else []

/-- The places of the accumulate-in of a unit. -/
def State.accSpan (s : State) (cmd : Cmd) (u : Nat) : List (Span × Nat) :=
  s.rowPlaces cmd cmd.desc.acc cmd.desc.acc.fmt cmd.desc.outElems (u * cmd.desc.passR) (cmd.desc.rowsIn u)

/-- First sample of pass `i` of a series, and its samples (R123). -/
def Desc.seriesRows (d : Desc) (i : Nat) : Nat × Nat := (i * d.passSamples, min d.passSamples (d.dimR - i * d.passSamples))

/-- The tiles of pass `i` of a row unit. -/
def Desc.passTiles (d : Desc) (i : Nat) : List (Nat × Nat) := match d.unitPasses[i]? with
  | some (t, some x) => [t, x]
  | some (t, none) => [t]
  | none => []

/-- The places in the range and in the ring that pass `j` of a command reads, with their bytes (R196). -/
def State.passSpans (s : State) (cmd : Cmd) (j : Nat) : List (Span × Nat) :=
  let d := cmd.desc
  if d.isOs then
    let x := d.seriesRows (j % max 1 d.perUnit)
    s.streamSpan cmd x.1 x.2 ++ s.rowPlaces cmd d.b (s.memFmt (s.cmdVersion cmd) d.b.fmt d.scaleB) d.dimN x.1 x.2
  else
    let u := j / max 1 d.perUnit
    let tiles := d.passTiles (j % max 1 d.perUnit)
    s.streamSpan cmd (u * d.passR) (d.rowsIn u)
      ++ tiles.flatMap (s.statSpans cmd)
      ++ (if tiles.any fun t => (d.depOf t).isNone then s.accSpan cmd u else [])

/-- Blocks of a LOCAL operand of `rows` rows with `w` elements. -/
def localBlocks (o : Operand) (f : NumFmt) (w first rows : Nat) : List Nat :=
  if o.space = .loc then blocksAt (o.addr + first * bytesOf f w) (rows * bytesOf f w) else []

/-- The passes, uncommitted or committed, that give unit `u` of a command the results of tile `t`. -/
def Core.suppliers (k : Core) (cmd : Cmd) (u : Nat) (t : Nat × Nat) : List Nat :=
  let tile := fun x : TileOp => x.k0 == t.1 && x.n0 == t.2
  (k.carries.filter fun x => x.stream == cmd.desc.stream && x.step == cmd.step && x.index == cmd.index && x.unit == u
      && x.k0 == t.1 && x.n0 == t.2).map (·.pass)
    ++ (k.openPasses.filter fun p => p.stream == cmd.desc.stream && p.step == cmd.step && p.index == cmd.index && p.unit == u
      && (tile p.tile || p.pair.any tile)).map (·.id)

/-- The staging blocks of passes. -/
def Core.stageBlocks (k : Core) (ids : List Nat) : List Nat :=
  (k.lb.blocks.filter fun b => b.2.content == .stage && ids.contains b.2.pass).map Prod.fst

/-- The blocks that hold the operands of pass `j` (R164): fetched operands, LOCAL operands, hand-over rows and the staged results that
it takes as its accumulate-in. -/
def State.passPins (s : State) (c : CoreId) (cmd : Cmd) (j : Nat) : List Nat :=
  let d := cmd.desc
  let k := s.core c
  let v := s.cmdVersion cmd
  let u := j / max 1 d.perUnit
  let i := j % max 1 d.perUnit
  let spans := s.passSpans cmd j
  let held := (k.lb.held.filter fun h => spans.any fun p => h.serves d.stream p.1).flatMap (·.blocks)
  let fb := s.memFmt v d.b.fmt d.scaleB
  let fa := s.memFmt v d.a.fmt d.scaleA
  let x := d.seriesRows i
  let local' := if d.isOs then localBlocks d.a fa d.dimK x.1 x.2 ++ localBlocks d.b fb d.dimN x.1 x.2
    else (if d.mmStage = 0 then localBlocks d.a fa d.rowElems (u * d.passR) (d.rowsIn u) else [])
      ++ localBlocks d.b fb d.dimN 0 d.dimK ++ localBlocks d.acc d.acc.fmt d.outElems (u * d.passR) (d.rowsIn u)
  let hand := if d.mmStage = 0 then [] else
    (k.hand.filter fun h => h.of cmd (d.mmStage - 1) && h.unit == u).flatMap (·.blocks)
  let carry := if d.isOs then [] else k.stageBlocks (((d.passTiles i).filterMap d.depOf).flatMap (k.suppliers cmd u))
  (held ++ local' ++ hand ++ carry).foldl (fun l b => insNat b l) []

/-- Whether every operand of pass `j` in the range or the ring is resident (R174, condition 4). -/
def State.passResident (s : State) (c : CoreId) (cmd : Cmd) (j : Nat) : Bool :=
  (s.passSpans cmd j).all fun p => (s.core c).spanHere cmd.desc.stream p.1

/-- The stall cause of a demand transfer that has not arrived (R238, R568): a departed one waits for its tier, one of a FAULTED page for
the refill, one of a port that is down for pooled memory, a repair for the ring; else tokens are awaited. -/
def State.xferCause (s : State) (x : Transfer) : Nat :=
  if x.repair then 21
  else match x.target with
  | .ring _ _ _ => if x.departed then 11 else 1
  | .range a _ => match s.page (pageOf a) with
    | none => 0
    | some e =>
      let tier := match e.loc.tier with
        | .hbm => 11
        | .cxl => 12
        | .remote => 13
      if x.departed then tier
      else if e.state = .faulted then 15
      else if s.pageReady (pageOf a) then 1 else tier

/-- The cause under which a core counts the wait for operands of a command: that of the oldest demand transfer of its stream; without one
the operand is not yet resident (R568). -/
def State.fetchCause (s : State) (c : CoreId) (cmd : Cmd) : Nat :=
  match (s.core c).feed.queue.find? fun x => x.kind == .demand && x.stream == cmd.desc.stream with
  | some x => s.xferCause x
  | none => 0

/-! ## The fetch units of a command (R196, R197) -/

/-- The ring tiles of operand A over DIM_K rows and DIM_N columns. -/
def State.ringSpansA (s : State) (cmd : Cmd) : List (Span × Nat) := s.ringRect cmd cmd.desc.a 0 cmd.desc.dimK 0 cmd.desc.dimN

/-- The places of operand A of unit `u` of a stage that is no matrix stage, or of a whole command. -/
def State.rowSpans (s : State) (cmd : Cmd) (u : Nat) : List (Span × Nat) :=
  let d := cmd.desc
  let f := s.memFmt (s.cmdVersion cmd) d.a.fmt d.scaleA
  let unit := s.rowPlaces cmd d.a f d.rowElems (u * d.passR) (d.rowsIn u)
  match d.op with
  | .vec => unit
  | .vred => unit
  | .stashWr => unit
  | .fetch => if d.a.space = .ring then s.ringSpansA cmd else s.rowPlaces cmd d.a d.a.fmt d.rowElems 0 d.dimR
  | .write => s.rowPlaces cmd d.a d.a.fmt d.rowElems 0 d.dimR
  | _ => []

/-- The places of the bag list of a command in the range that unit `u` reads: the header; and where the header can stand, the offsets,
and the indices and weights of the unit's bags (R258). -/
def State.listSpans (s : State) (c : CoreId) (cmd : Cmd) (u : Nat) : List (Span × Nat) :=
  let d := cmd.desc
  if d.a.space ≠ .range ∨ !(d.op == .lookup || d.op == .pool || d.op == .gradSend) then []
  else
    let at' := fun o n : Nat => (({ addr := d.a.addr + o, len := n, count := 1 } : Span), n)
    let h := s.bagList c cmd
    if h.nbags != d.dimR || atBad h.offAt || atBad h.idxAt || (h.wgtAt != 0 && atBad h.wgtAt) then [at' 0 64]
    else
      let lo := s.bagOff c cmd (u * d.passR)
      let hi := s.bagOff c cmd (u * d.passR + d.rowsIn u)
      let body := if lo < hi ∧ hi ≤ h.nidx ∧ hi - lo ≤ 8192 * d.rowsIn u then
          at' (h.idxAt + 8 * lo) (8 * (hi - lo)) :: (if h.wgtAt = 0 then [] else [at' (h.wgtAt + 4 * lo) (4 * (hi - lo))])
        else []
      at' 0 64 :: at' h.offAt (4 * (h.nbags + 1)) :: body

/-- First upstream or looked-up row of unit `u` in operand B, and their number: one row for each bag, or for each index in
mode NONE and for POOL. -/
def State.bagRows (s : State) (c : CoreId) (cmd : Cmd) (u : Nat) : Nat × Nat :=
  if (s.bagList c cmd).mode = 0 ∨ cmd.desc.op = .pool then
    (s.bagOff c cmd (u * cmd.desc.passR), (s.unitItems c cmd u).length)
  else (u * cmd.desc.passR, cmd.desc.rowsIn u)

/-- The places of the rows of operand B of a bag-list command. -/
def State.bagSpans (s : State) (c : CoreId) (cmd : Cmd) (u : Nat) : List (Span × Nat) :=
  let d := cmd.desc
  if d.op = .gradSend ∨ d.op = .pool then
    s.rowPlaces cmd d.b (s.memFmt (s.cmdVersion cmd) d.b.fmt d.scaleB) d.dimN (s.bagRows c cmd u).1 (s.bagRows c cmd u).2
  else []

/-- Whether a VEC command finishes histories: its program is SEQ_FINISH of the history table that it names (log entry 125). -/
def State.finishes (s : State) (d : Desc) : Bool :=
  d.op == .vec && s.fieldL "SEQ_FINISH" d.tensor == [d.vprogA]

/-- Segments of a history of a table. -/
def State.segments (s : State) (t : Nat) : Nat := 8192 / max 1 (s.field "SEQ_SEG" t)

/-- The places of the counts of present segments that a unit of histories reads from operand B. -/
def State.countSpans (s : State) (cmd : Cmd) (u : Nat) : List (Span × Nat) :=
  let d := cmd.desc
  let g := s.segments d.tensor
  if s.finishes d then s.rowPlaces cmd d.b .int32 1 (u * d.passR / g) (d.rowsIn u / g) else []

/-- The places that unit `u` of stage 0 reads where that is no matrix stage. -/
def State.unitSpans (s : State) (c : CoreId) (cmd : Cmd) (u : Nat) : List (Span × Nat) :=
  if cmd.desc.op = .prestage then cmd.desc.grid.flatMap (s.statSpans cmd)
  else s.rowSpans cmd u ++ s.listSpans c cmd u ++ s.bagSpans c cmd u ++ s.countSpans cmd u

/-- Fetch units of a command: its passes where the matrix stage is the first; the units of stage 0, each followed by the passes
of its matrix stage, where that comes later; else its units. -/
def Desc.fetchTotal (d : Desc) : Nat :=
  if d.op = .mm then d.passTotal else if d.hasMM then d.unitCount * (1 + d.perUnit) else d.unitCount

/-- Fetch unit `x`: the unit of the command that uses it, and its places. -/
def State.fetchPlan (s : State) (c : CoreId) (cmd : Cmd) (x : Nat) : Nat × List (Span × Nat) :=
  let d := cmd.desc
  if d.op = .mm then (x / max 1 d.perUnit, s.passSpans cmd x)
  else if d.hasMM then
    let u := x / (1 + d.perUnit)
    let i := x % (1 + d.perUnit)
    (u, if i = 0 then s.unitSpans c cmd u else s.passSpans cmd (u * d.perUnit + (i - 1)))
  else (x, s.unitSpans c cmd x)

/-- Whether every operand of unit `u` of stage 0 that is no matrix stage is resident (R174, condition 4). -/
def State.unitResident (s : State) (c : CoreId) (cmd : Cmd) (u : Nat) : Bool :=
  (s.unitSpans c cmd u).all fun p => (s.core c).spanHere cmd.desc.stream p.1

/-- VERSION_EXPIRED of a command in its unit `u` (R25): it is stopped. -/
def State.expired (s : State) (c : CoreId) (cmd : Cmd) (u : Nat := 0) : State := s.stopAt c cmd u 0x024 (cmd.detail c)

/-- The places of a fetch unit fetched in order; none when the region has no room for one of them. -/
def State.fetchAll (c : CoreId) (cmd : Cmd) (u : Nat) : List (Span × Nat) → State → Option State
  | [], s => some s
  | p :: l, s => if s.fetchBlocked c cmd.desc.stream p.1 p.2 then none else State.fetchAll c cmd u l (s.fetchSpan c cmd u p.2 p.1)

/-- Fetch units queued from the next one on, up to four beyond the unit most recently issued (R196). `fuel` is at least 4. -/
def State.fetchWindow (c : CoreId) : Nat → State → Cmd → State
  | 0, s, _ => s
  | fuel + 1, s, cmd =>
    if cmd.bad ∨ cmd.desc.fetchTotal ≤ cmd.queued ∨ cmd.issued + 4 ≤ cmd.queued then s
    else
      let p := s.fetchPlan c cmd cmd.queued
      if p.2.any (fun x => x.1.ring.isSome) ∧ !s.installed (s.cmdVersion cmd) then s.expired c cmd p.1
      else match State.fetchAll c cmd p.1 p.2 s with
        | none => s
        | some t =>
          let next := { cmd with queued := cmd.queued + 1, fetchBegun := true }
          State.fetchWindow c fuel
            (t.updCore c fun k => k.updAny cmd.desc.stream cmd.step cmd.index fun x =>
              { x with queued := x.queued + 1, fetchBegun := true }) next

/-- The command of an order whose fetches come next: the first with fetch units left, once every earlier one has committed its
last unit (R197). -/
def fetchNext : List Cmd → Option Cmd
  | [] => none
  | x :: l => if x.queued < x.desc.fetchTotal ∧ x.bad = false then some x else if x.complete ∨ x.bad then fetchNext l else none

/-- The order of a stream for R197, and that of the deferred pool. -/
def Core.streamOrder (k : Core) (st : Stream) : List Cmd :=
  ((k.front st).running ++ (k.front st).queue).filter fun x => !x.desc.defer
def Core.poolOrder (k : Core) : List Cmd := k.b.running.filter (·.desc.defer) ++ k.deferred

/-- After a unit of a command has issued, the window moves on (R196). -/
def State.fetchMore (s : State) (c : CoreId) (cmd : Cmd) : State :=
  match ((s.core c).front cmd.desc.stream).running.find? fun x => x.step == cmd.step && x.index == cmd.index with
  | some x => if x.fetchBegun then State.fetchWindow c 5 s x else s
  | none => s

end Sys2Proof.Machine
end

