-- ==== Sys2Proof/Machine/Engines.lean ====
section
/-! DEFINITION. The matrix engines: forming and issuing passes, tile loads, starts and ends of passes, the checksum verdict,
commit, replay, retirement and pre-emption (R104 to R159, R174, R177). -/

namespace Sys2Proof.Machine

/-! ## The soft repair map in the persistent store (R150 to R152) -/

/-- The number of an entry's kind, and the kind of a number (R151). -/
def repairKindNo : RepairKind → Nat
  | .column => 0
  | .row => 1
  | .retire => 2
  | .reserved => 3
def repairKindOf : Nat → RepairKind
  | 0 => .column
  | 1 => .row
  | 2 => .retire
  | _ => .reserved

/-- A soft repair map entry (R151). -/
def repairEntryBytes (e : RepairEntry) : List Byte :=
  leBytes 4 (fld 0 5 e.core.val + fld 5 1 e.eng.val + fld 6 2 (repairKindNo e.kind) + fld 8 8 e.index + fld 16 2 e.origin)
    ++ leBytes 4 e.stepLo
def repairEntryOf (b : List Byte) : RepairEntry :=
  let w := leNat (b.take 8)
  { core := Fin.ofNat 32 (bits w 4 0), eng := Fin.ofNat 2 (bits w 5 5), kind := repairKindOf (bits w 7 6), index := bits w 15 8,
    origin := bits w 17 16, stepLo := bits w 63 32 }

/-- A copy of the map (R151): a 32-byte header whose CRC covers bytes 0 to 15 and 20 onward, and the entries. -/
def repairCopy (seq : Nat) (l : List RepairEntry) : List Byte :=
  let head := leBytes 4 1 ++ leBytes 2 l.length ++ leBytes 2 0 ++ leBytes 8 seq
  let rest := List.replicate 12 0 ++ l.flatMap repairEntryBytes
  head ++ leBytes 4 (crc32c (head ++ rest)) ++ rest

/-- A copy read: its SEQ and entries, when its format, its count and its CRC are right. -/
def repairCopyOf (b : List Byte) : Option (Nat × List RepairEntry) :=
  let n := leNat ((b.drop 4).take 2)
  let body := b.take (32 + 8 * n)
  if leNat (b.take 4) = 1 ∧ n ≤ 256 ∧ body.length = 32 + 8 * n ∧ leNat ((b.drop 16).take 4) = crc32c (body.take 16 ++ body.drop 20) then
    some (leNat ((b.drop 8).take 8), (List.range n).map fun i => repairEntryOf ((body.drop (32 + 8 * i)).take 8))
  else none

/-- The map in force at a boot (R150): the valid copy with the higher SEQ; empty when neither is valid. -/
def Atluta.readRepairs (a : Atluta) : Nat × List RepairEntry := match repairCopyOf a.repairA, repairCopyOf a.repairB with
  | some x, some y => if x.1 < y.1 then y else x
  | some x, none => x
  | none, some y => y
  | none, none => (0, [])

/-- The map written (R152): the copy with the lower SEQ, or one that is not valid, is replaced, with SEQ one above the other. -/
def Atluta.writeRepairs (a : Atluta) (l : List RepairEntry) : Atluta :=
  let seq := a.repairSeq + 1
  let b := repairCopy seq l
  let overA := match repairCopyOf a.repairA, repairCopyOf a.repairB with
    | some x, some y => decide (x.1 < y.1)
    | some _, none => false
    | none, _ => true
  let c := { a with repairMap := l, repairSeq := seq }
  if overA then { c with repairA := b } else { c with repairB := b }

/-! ## Events -/

/-- Events kept with a pass until it commits. -/
def evKeep (e : Ev) : NumEvents := { nan := e.nan, inf := e.inf, i32 := e.i32, narrow := e.narrow }
def evOf (n : NumEvents) : Ev := { nan := n.nan, inf := n.inf, i32 := n.i32, narrow := n.narrow }

/-- A core cycle in which a core issues no unit, counted under the first unmet condition (R568). -/
def State.coreStall (s : State) (c : CoreId) (cause : Nat) : State :=
  s.updCore c fun k => { k with stall := stallCount cause k.stall }

/-- The core clock of core `c` has reached cycle `cyc`: each engine counts the cycles in which it was assigned to a running
context (R131). -/
def State.clockTo (s : State) (c : CoreId) (cyc : Nat) : State :=
  s.updCore c fun k =>
    let d := if s.atl.runCtx.isSome then cyc - k.lastCyc else 0
    let count := fun e : Engine => { e with elapsed := satAdd stallMax e.elapsed d }
    { k with lastCyc := max k.lastCyc cyc
             eng := kvPut 0 (count (kvGet {} 0 k.eng)) (kvPut 1 (count (kvGet {} 1 k.eng)) k.eng) }

/-! ## The operands of a pass -/

/-- The binary exponent of an operand's step; 0 for an unscaled operand (R93). -/
def State.epsOf (s : State) (v : Nat) (f : NumFmt) (id : Nat) : Int :=
  match scaledFmt f, s.scaleRec v id with
  | some _, some r => r.eps
  | _, _ => 0

/-- Integer multiplier of an operand's step; 1 for an unscaled operand (R95). -/
def State.muOf (s : State) (v : Nat) (f : NumFmt) (id : Nat) : Nat :=
  match scaledFmt f, s.scaleRec v id with
  | some _, some r => r.mu
  | _, _ => 1

/-- An element of memory as it is fed: an operand whose record is no weight record lies as FP32 and is narrowed under RNE
(R89, R90). -/
def State.feedCode (s : State) (v : Nat) (f : NumFmt) (id code : Nat) : Nat × Ev :=
  match scaledFmt f, s.scaleRec v id with
  | some _, some r => if r.kind = .weight then (code, {}) else narrowCode r .rne (BitVec.ofNat 32 code)
  | _, _ => (code, {})

/-- Rows fed, and the events of narrowing and of conversion to M19 at the array edge (R107). -/
def State.feedRows (s : State) (v : Nat) (f : NumFmt) (rid : Nat) (rne : Bool) (rows : List (List Nat)) :
    List (List Nat) × Ev :=
  let l := rows.map fun r => r.map fun c => s.feedCode v f rid c
  let conv := if f = .fp32 then evSum ((rows.flatMap id).map fun c => toM19 rne (BitVec.ofNat 32 c)) else {}
  (l.map fun r => r.map Prod.fst, evAdd (evSum (l.flatMap id)) conv)

/-- Codes of row `k`, columns `c0` to `c0 + m - 1`, of a RING operand from its resident tiles. -/
def State.ringRow (s : State) (c : CoreId) (cmd : Cmd) (o : Operand) (k c0 m : Nat) : List Nat :=
  let l := (blocksOver c0 m).flatMap fun j =>
    let p := s.ringPlace cmd o k (128 * j)
    match (p.ring.bind ((s.core c).lb.heldRing cmd.desc.stream)) with
    | some h => (h.codes.drop (k % 128 * 128)).take 128
    | none => List.replicate 128 0
  (l.drop (c0 % 128)).take m

/-- Rows `first` to `first + n - 1` of a matrix with `w` elements a row, held from an operand's address on in a memory
format, elements `lo` to `lo + m - 1` of each; rows lie one after another, each in whole bytes (PRESUMED, log entry 23). -/
def State.opRows (s : State) (c : CoreId) (cmd : Cmd) (o : Operand) (f : NumFmt) (w first n lo m : Nat) : List (List Nat) :=
  (List.range n).map fun i =>
    if o.space = .ring then s.ringRow c cmd o (first + i) lo m
    else
      let at' := (first + i) * bytesOf f w + bytesOf f lo
      (unpackBytes f (s.opBytes c cmd o at' (bytesOf f m))).take m

/-- Rows of unit `u` of operand A of a stage that is no matrix stage. -/
def State.unitRows (s : State) (c : CoreId) (cmd : Cmd) (u : Nat) : List (List Nat) :=
  let d := cmd.desc
  s.opRows c cmd d.a (s.memFmt (s.cmdVersion cmd) d.a.fmt d.scaleA) d.rowElems (u * d.passR) (d.rowsIn u) 0 d.rowElems

/-- The stationary elements of a tile as they lie in memory, by k and then n (R111). -/
def State.statRows (s : State) (c : CoreId) (cmd : Cmd) (t : Nat × Nat) : List (List Nat) :=
  let d := cmd.desc
  s.opRows c cmd d.b (s.memFmt (s.cmdVersion cmd) d.b.fmt d.scaleB) d.dimN t.1 (d.knOf t) t.2 (d.nnOf t)

/-- The format in which the streamed operand enters a matrix stage: rows of a previous stage are FP32. -/
def Desc.streamFmt (d : Desc) : NumFmt :=
  if d.mmStage = 0 then d.a.fmt else if (scaledFmt d.a.fmt).isSome then d.a.fmt else .fp32

/-- Streamed rows of a pass in memory form: `n` rows from row `first`, `m` elements from element `lo`. -/
def State.streamRows (s : State) (c : CoreId) (cmd : Cmd) (first n lo m : Nat) : List (List Nat) :=
  let d := cmd.desc
  if d.mmStage = 0 then
    s.opRows c cmd d.a (s.memFmt (s.cmdVersion cmd) d.a.fmt d.scaleA) d.rowElems first n lo m
  else (((s.core c).handRows cmd (d.mmStage - 1) (first / d.passR)).take n).map fun r => (r.drop lo).take m

/-- A code of an accumulate-in in the code domain of a product (R93): a float product multiplies it by 2^−(εa + εb); where the
format is not that of the product's accumulator the value is converted (DESIGN CHOICE, log entry 24). -/
def accCode (int : Bool) (f : NumFmt) (k : Int) (code : Nat) : Nat × Ev :=
  if int then
    (if f = .int32 then (code, {})
     else let r := toIntScaled .rne 1 0 (-2 ^ 31) (2 ^ 31 - 1) (f32Val (BitVec.ofNat 32 code)); (ofSigned 32 r.1, r.2))
  else
    let x := if f = .int32 then intToF32 (toSigned 32 code) else BitVec.ofNat 32 code
    let r := rescaleFloat (-k) x
    (r.1.toNat, r.2)

/-- The accumulate-in of a tile (R109, R122), and the events of its conversion. -/
def State.accOf (s : State) (c : CoreId) (cmd : Cmd) (u : Nat) (t : Nat × Nat) : AccSrc × Ev :=
  let d := cmd.desc
  match d.depOf t with
  | some p => (.carry p.1 p.2, {})
  | none =>
    if d.acc.space = .none then (.zero, {})
    else
      let v := s.cmdVersion cmd
      let lo := if d.orient = some .cr then t.1 else t.2
      let m := if d.orient = some .cr then d.knOf t else d.nnOf t
      let k := s.epsOf v d.a.fmt d.scaleA + s.epsOf v d.b.fmt d.scaleB
      let l := (s.opRows c cmd d.acc d.acc.fmt d.outElems (u * d.passR) (d.rowsIn u) lo m).map fun r =>
        r.map (accCode (intFmt d.b.fmt) d.acc.fmt k)
      (.data (l.map fun r => r.map Prod.fst), evSum (l.flatMap fun r => r))

/-- The operands of a tile of unit `u` in RR or CR, and the events of feeding them. -/
def State.tileOp (s : State) (c : CoreId) (cmd : Cmd) (u : Nat) (t : Nat × Nat) : TileOp × Ev :=
  let d := cmd.desc
  let v := s.cmdVersion cmd
  let lo := if d.orient = some .cr then t.2 else t.1
  let m := if d.orient = some .cr then d.nnOf t else d.knOf t
  let w := s.feedRows v d.b.fmt d.scaleB d.b.rne (s.statRows c cmd t)
  let x := s.feedRows v d.streamFmt d.scaleA d.a.rne (s.streamRows c cmd (u * d.passR) (d.rowsIn u) lo m)
  let a := s.accOf c cmd u t
  ({ k0 := t.1, n0 := t.2, kn := d.knOf t, nn := d.nnOf t, stat := w.1, rows := x.1, acc := a.1 },
    evAdd w.2 (evAdd x.2 a.2))

/-- The operands of pass `j` of the series of an output tile: activations by sample, and gradients (R112, R123). -/
def State.osOp (s : State) (c : CoreId) (cmd : Cmd) (j : Nat) (t : Nat × Nat) : TileOp × Ev :=
  let d := cmd.desc
  let v := s.cmdVersion cmd
  let first := j * d.passSamples
  let n := min d.passSamples (d.dimR - first)
  let fa := s.memFmt v d.a.fmt d.scaleA
  let fb := s.memFmt v d.b.fmt d.scaleB
  let x := s.feedRows v d.a.fmt d.scaleA d.a.rne (s.opRows c cmd d.a fa d.dimK first n t.1 (d.knOf t))
  let g := s.feedRows v d.b.fmt d.scaleB d.b.rne (s.opRows c cmd d.b fb d.dimN first n t.2 (d.nnOf t))
  ({ k0 := t.1, n0 := t.2, kn := d.knOf t, nn := d.nnOf t, rows := x.1, grads := g.1 }, evAdd x.2 g.2)

/-! ## Issue of a pass (R163, R164, R174, R177) -/

/-- The pass number `j` of a command, formed from its resident operands. -/
def State.formPass (s : State) (c : CoreId) (cmd : Cmd) (j cyc : Nat) : Pass :=
  let d := cmd.desc
  let lay := ((cmd.slot.bind s.slot).map (·.layEpoch)).getD s.ctl.layEpoch
  let u := j / max 1 d.perUnit
  let i := j % max 1 d.perUnit
  let id := (s.core c).nextPass
  let base : Pass :=
    { id := id, stream := d.stream, step := cmd.step, mb := d.mb.getD 0, index := cmd.index, stage := d.mmStage, unit := u,
      orient := d.orient.getD .rr, fmtA := d.streamFmt, fmtB := d.b.fmt, rneA := d.a.rne, rneB := d.b.rne,
      n := d.rowsIn u, tile := {}, layEpoch := lay, tensor := d.tensor, scaleA := d.scaleA, scaleB := d.scaleB,
      pins := s.passPins c cmd j, issuedAt := cyc }
  if d.isOs then
    let x := s.osOp c cmd i (d.grid.getD u (0, 0))
    { base with
      n := (x.1.rows.length + d.pack - 1) / max 1 d.pack, tile := x.1, ev := evKeep x.2
      series := if i = 0 then id else cmd.series, firstOfSeries := i == 0, lastOfSeries := i + 1 == d.perUnit }
  else
    match d.unitPasses[i]? with
    | none => base
    | some (t, none) =>
      let x := s.tileOp c cmd u t
      { base with tile := x.1, ev := evKeep x.2, deps := (d.depOf t).toList, series := id }
    | some (t, some y) =>
      let x := s.tileOp c cmd u t
      let z := s.tileOp c cmd u y
      { base with
        tile := x.1, pair := some z.1, ev := evKeep (evAdd x.2 z.2), deps := (d.depOf t).toList ++ (d.depOf y).toList
        series := id }

/-- Whether a pre-emption request holds an engine (R154). -/
def Engine.held (e : Engine) : Bool := e.reqHost || e.reqGov || e.reqAtl || e.reqFan

/-- Whether a pass is closed when it follows `prev` (R118, R144, R155). -/
def closedAfter (cold : Bool) (prev : Option PrevPass) (p : Pass) : Bool :=
  p.pair.isSome || (p.replay && p.firstOfSeries) || cold || (match prev with
    | some q => q.orient != p.orient
    | none => false)

/-- Whether a pass starts only after every earlier pass has ended: a closed pass, and one that follows a pair (R118). -/
def afterEnd (cold : Bool) (prev : Option PrevPass) (p : Pass) : Bool := closedAfter cold prev p || prev.any (·.pair)

/-- The bound that open or closed passing puts on the start of a pass (R117, R118). -/
def passBound (cold : Bool) (prev : Option PrevPass) (p : Pass) : Nat := match prev with
  | none => 0
  | some q => if afterEnd cold prev p then q.t0 + q.n + 256 else q.t0 + q.n

/-- A pass as the most recently started one. -/
def prevOf (p : Pass) (t0 tag : Nat) (closed : Bool) : PrevPass :=
  { id := p.id, t0 := t0, n := p.n, orient := p.orient, pair := p.pair.isSome, closed := closed, tag := tag }

/-- Whether pass `q` gives pass `p` a carry. -/
def suppliesTo (q p : Pass) : Bool :=
  q.stream == p.stream && q.step == p.step && q.index == p.index && q.unit == p.unit
    && (p.deps.contains (q.tile.k0, q.tile.n0) || (match q.pair with
      | some x => p.deps.contains (x.k0, x.n0)
      | none => false))

/-- The first core cycle after the verdicts of the passes that `p` depends on, among passes with known starts (R122). -/
def depBound (starts : List (Pass × Nat)) (p : Pass) : Nat :=
  (starts.filter fun x => suppliesTo x.1 p).foldl (fun a x => max a (x.2 + x.1.n + 288)) 0

/-- An estimate of an engine's order: the pass before, whether a cold load comes next, the first cycles after the ends of its passes,
newest first, and the passes with known starts. -/
structure EngPlan where
  prev : Option PrevPass := none
  cold : Bool := false
  ends : List Nat := []
  known : List (Pass × Nat) := []
  deriving DecidableEq, Repr

/-- The cycle in which the tile load of a pass is ready: that of a load which is ready or runs, else 160 cycles after the earliest cycle
in which it can begin; a cold one begins with an empty array (R116, R155). -/
def Engine.loadReady (e : Engine) (now : Nat) (x : EngPlan) (p : Pass) : Nat :=
  let free := match e.loading with
    | some (_, l) => l + 160
    | none => now
  let begun := match x.prev with
    | some q => if x.cold then q.t0 + q.n + 256 else q.t0
    | none => 0
  if p.orient = .os then 0
  else if e.loaded = some p.id then e.readyAt
  else if e.loading.map Prod.fst = some p.id then free
  else max (max now free) begun + 160

/-- The earliest start of a pass in an estimated order (R115 to R118): after its tile load, the bound of open and closed passes and the
verdicts that it depends on, and with no more than three passes in the array (R119). -/
def Engine.earliest (e : Engine) (now : Nat) (x : EngPlan) (p : Pass) : Nat :=
  max (max (max now e.notBefore) (max (e.loadReady now x p) (x.ends.getD 2 0))) (max (passBound x.cold x.prev p) (depBound x.known p))

/-- The order with one more pass. -/
def Engine.planPass (e : Engine) (now : Nat) (x : EngPlan) (p : Pass) : EngPlan :=
  let t := e.earliest now x p
  { prev := some (prevOf p t 0 false), cold := false, ends := (t + p.n + 256) :: x.ends, known := x.known ++ [(p, t)] }

/-- Passes in the array or awaiting their verdicts, with their starts. -/
def Engine.runs (e : Engine) : List (Pass × Nat) := (e.inArray ++ e.ended).map fun r => (r.pass, r.t0)

/-- The estimated order of an engine's replay and assigned passes, given the passes of the core with known starts. -/
def Engine.plan (e : Engine) (now : Nat) (known : List (Pass × Nat)) : EngPlan :=
  (e.replay ++ e.assigned).foldl (e.planPass now)
    { prev := e.prev, cold := e.coldNext, ends := (e.inArray.map fun r => r.t0 + r.pass.n + 256).reverse, known := known }

/-- The estimated start of a new pass at an engine, and whether the pass before it has the same orientation. -/
def State.estimate (s : State) (c : CoreId) (e : EngId) (p : Pass) (now : Nat) : Nat × Bool :=
  let k := s.engine c e
  let x := k.plan now ((s.engine c 0).runs ++ (s.engine c 1).runs)
  (k.earliest now x p, x.prev.any fun q => q.orient == p.orient)

/-- The other engine of a core. -/
def sibling (e : EngId) : EngId := if e = 0 then 1 else 0

/-- The engine itself, or its sibling when it is retired (R146, R177). -/
def State.liveEng (s : State) (c : CoreId) (e : EngId) : Option EngId :=
  if (s.engine c e).retired = false then some e
  else if (s.engine c (sibling e)).retired = false then some (sibling e) else none

/-- The engine that a pass issues to (R176, R177): the one of its series; the one that ENG_SEL names; else the one at which
it can start earliest, then the one with the same orientation, then e0. -/
def State.chooseEngine (s : State) (c : CoreId) (cmd : Cmd) (p : Pass) (now : Nat) : Option EngId :=
  if p.firstOfSeries = false then s.liveEng c (Fin.ofNat 2 cmd.eng)
  else if cmd.desc.engSel = 1 then s.liveEng c 0
  else if cmd.desc.engSel = 2 then s.liveEng c 1
  else
    let a := s.estimate c 0 p now
    let b := s.estimate c 1 p now
    let live0 := !(s.engine c 0).retired
    let live1 := !(s.engine c 1).retired
    let ok0 := live0 && !(s.engine c 0).held
    let ok1 := live1 && !(s.engine c 1).held
    if ok0 && ok1 then (if b.1 < a.1 ∨ (a.1 = b.1 ∧ a.2 = false ∧ b.2 = true) then some 1 else some 0)
    else if ok0 then some 0 else if ok1 then some 1 else if live0 then some 0 else if live1 then some 1 else none

/-- Bytes of output staging of a pass (R163); a series drains into slice staging. -/
def stagingBytes (p : Pass) : Nat :=
  match p.orient with
  | .os => 0
  | .rr => 4 * p.n * (p.tile.nn + (p.pair.map (·.nn)).getD 0)
  | .cr => 4 * p.n * (p.tile.kn + (p.pair.map (·.kn)).getD 0)

/-- Hand-over slots of the boundary after a stage that are taken or that a unit in work will need (R180). -/
def Core.handNeed (k : Core) (cmd : Cmd) (stage : Nat) : Nat :=
  (k.hand.filter fun h => h.of cmd stage).length + (nthCount cmd.taken stage - nthCount cmd.done stage)

/-- The observations of R80 that feeding a pass makes: FP32 values narrowed under a record that is no weight record. -/
def State.observed (s : State) (v : Nat) (f : NumFmt) (id : Nat) (rows : List (List Nat)) : List F32 :=
  match scaledFmt f, s.scaleRec v id with
  | some _, some r => if r.kind = .weight then [] else (rows.flatMap fun x => x).map (BitVec.ofNat 32)
  | _, _ => []

/-- Observations under a record noted for a step; NaN and infinite values are not noted (R80). -/
def State.noteScale (s : State) (n id : Nat) (l : List F32) : State :=
  if l.any f32Finite then s.updStep n fun p => { p with maxima := kvMod noObs id (obsMax · (observe l)) p.maxima } else s

/-- The observations of both operands of pass `j` noted for the step (R80). -/
def State.notePass (s : State) (c : CoreId) (cmd : Cmd) (j : Nat) : State :=
  let d := cmd.desc
  let v := s.cmdVersion cmd
  let i := j % max 1 d.perUnit
  let u := j / max 1 d.perUnit
  let one := fun (t : Nat × Nat) => if d.isOs then
      let x := d.seriesRows i
      (s.opRows c cmd d.a (s.memFmt v d.a.fmt d.scaleA) d.dimK x.1 x.2 t.1 (d.knOf t),
        s.opRows c cmd d.b (s.memFmt v d.b.fmt d.scaleB) d.dimN x.1 x.2 t.2 (d.nnOf t))
    else
      let lo := if d.orient = some .cr then t.2 else t.1
      let m := if d.orient = some .cr then d.nnOf t else d.knOf t
      (s.streamRows c cmd (u * d.passR) (d.rowsIn u) lo m, s.statRows c cmd t)
  let tiles := if d.isOs then [d.grid.getD u (0, 0)] else d.passTiles i
  tiles.foldl (fun a t =>
    (a.noteScale cmd.step d.scaleA (s.observed v d.streamFmt d.scaleA (one t).1)).noteScale cmd.step d.scaleB
      (s.observed v d.b.fmt d.scaleB (one t).2)) s

/-- Pass `j` issued to an engine: its staging blocks are taken, and it joins the engine's order. -/
def State.assignPass (s : State) (c : CoreId) (cmd : Cmd) (e : EngId) (p : Pass) (j : Nat) : State :=
  let first := j % max 1 cmd.desc.perUnit = 0
  let t := (s.notePass c cmd j).updEngine c e fun k => { k with assigned := k.assigned ++ [p] }
  t.updCore c fun k =>
    let k1 := { k with nextPass := k.nextPass + 1 }
    let k2 := if first then k1.takeUnit cmd.desc.stream cmd cmd.desc.mmStage else k1.updCmd cmd.desc.stream cmd.step
      cmd.index fun x => { x with issued := x.issued + 1 }
    k2.updCmd cmd.desc.stream cmd.step cmd.index fun x => { x with passes := j + 1, eng := e.val, series := p.series }

/-- Whether the stash entry of a command is resident (R188). -/
def State.stashReady (s : State) (c : CoreId) (cmd : Cmd) : Bool := ((s.core c).stashAt (cmd.slot.getD 0) cmd.desc.stashId).ready

/-- Whether a command reads its stash entry. -/
def Desc.readsStash (d : Desc) : Bool := d.op == .stashRd || d.a.space == .stash || d.b.space == .stash || d.acc.space == .stash

/-- The LOCAL blocks that the results of a pass fill, where the pass is the last along the dot-product index and its matrix stage writes
the command's output to LOCAL space: they stage it in place (R163). -/
def Desc.localStage (d : Desc) (u i : Nat) : Option (List Nat) :=
  let row := bytesOf (outMem d.out.fmt) d.outElems
  if d.mmStage = d.lastStage ∧ d.out.space = .loc ∧ d.isOs = false ∧ (d.passTiles i).all d.lastTile then
    some (blocksAt (d.out.addr + u * d.passR * row) (d.rowsIn u * row))
  else none

/-- The output staging of a pass taken (R163); none when the region has no room. -/
def State.takeStage (s : State) (c : CoreId) (cmd : Cmd) (j : Nat) (p : Pass) : Option State :=
  let x : Block := { content := .stage, pass := p.id }
  match cmd.desc.localStage (j / max 1 cmd.desc.perUnit) (j % max 1 cmd.desc.perUnit) with
  | some bs =>
    let own : Block := { x with owner := ownerOf cmd.desc.stream, stream := cmd.desc.stream }
    let free := fun (k : Core) (b : Nat) => (kvGet {} b k.lb.blocks).owner == .free
    some (s.updCore c fun k => { k with lb := k.lb.mark (bs.filter (free k)) own })
  | none => s.takeBlocks c cmd.desc.stream (blocksFor (stagingBytes p)) x

/-- Why the next pass of a command cannot issue, as a condition of R174 and a stall cause (R568), or the engine to which it issues and the
state in which it has. -/
def State.tryPass (s : State) (c : CoreId) (cmd : Cmd) (cyc : Nat) : (Nat × Nat) ⊕ (EngId × State) :=
  let d := cmd.desc
  let j := cmd.passes
  let u := j / max 1 d.perUnit
  let k := s.core c
  let handed := d.mmStage == 0 || k.hand.any fun h => h.of cmd (d.mmStage - 1) && h.unit == u
  let slotOk := !(j % max 1 d.perUnit == 0 && d.mmStage < d.lastStage) || k.handNeed cmd d.mmStage < 2
  if !(s.passResident c cmd j) then .inl (4, s.fetchCause c cmd)
  else if !(handed && slotOk) then .inl (5, 7)
  else if d.readsStash && !(s.stashReady c cmd) then .inl (6, 32)
  else
    let p := s.formPass c cmd j cyc
    let pins := p.pins.foldl (fun l b => insNat b l) (k.pins d.stream)
    if s.reserveSize c d.stream < pins.length then .inl (5, 7)
    else match s.takeStage c cmd j p with
      | none => .inl (5, 7)
      | some t => match t.chooseEngine c cmd p cyc with
        | none => .inl (7, 9)
        | some e => if (t.engine c e).held then .inl (7, 9) else .inr (e, t.assignPass c cmd e p j)

end Sys2Proof.Machine
end

