-- ==== Sys2Proof/Machine/Passes.lean ====
section
/-! DEFINITION. What happens to a pass at an engine: tile load, start, end, checksum verdict, commit, replay, retirement and
pre-emption (R114 to R159). -/

namespace Sys2Proof.Machine

/-! ## The arithmetic of a pass (R109 to R112) -/

/-- A sum code of a product: 32 bits, and bit 32 where an INT32 sum has saturated (R69). -/
def satCode (r : Int × Bool) : Nat := ofSigned 32 r.1 + fld 32 1 (bit r.2)

/-- The dot product of one pass for one output, from an accumulator code (R63, R68). -/
def passDot (p : Pass) (acc : Nat) (xw : List (Nat × Nat)) : Nat × Ev :=
  if intFmt p.fmtB then
    let a : Int × Bool := (toSigned 32 acc, decide (2 ^ 32 ≤ acc))
    let r := dotInt a (xw.map fun z => (intOfCode p.fmtA z.1, intOfCode p.fmtB z.2))
    (satCode r, { i32 := bit (r.2 && !a.2) })
  else
    let r := dotFloat (BitVec.ofNat 32 acc) (xw.map fun z => (multVal p.fmtA p.rneA z.1, multVal p.fmtB p.rneB z.2))
    (r.1.toNat, r.2)

/-- The `w` columns of a list of rows. -/
def columns {α : Type} (d : α) (w : Nat) (rows : List (List α)) : List (List α) :=
  (List.range w).map fun j => rows.map fun r => r.getD j d

/-- The stationary elements that each output of a tile meets, along the dot-product index: columns in RR, rows in CR. -/
def tileOuts (p : Pass) (t : TileOp) : List (List Nat) := if p.orient = .cr then t.stat else columns 0 t.nn t.stat

/-- The results of a tile in RR or CR from its accumulate-in rows (R109, R110). -/
def tileResults (p : Pass) (t : TileOp) (acc : List (List Nat)) : List (List (Nat × Ev)) :=
  let outs := tileOuts p t
  t.rows.zipIdx.map fun x => outs.zipIdx.map fun o => passDot p ((acc.getD x.2 []).getD o.2 0) (x.1.zip o.1)

/-- The accumulators of a series after one more of its passes (R112); +0 before the first. -/
def seriesNext (p : Pass) (prom : List (List Nat)) : List (List (Nat × Ev)) :=
  let xs := columns 0 p.tile.kn p.tile.rows
  let gs := columns 0 p.tile.nn p.tile.grads
  xs.zipIdx.map fun x => gs.zipIdx.map fun g => passDot p ((prom.getD x.2 []).getD g.2 0) (x.1.zip g.1)

/-- Results altered on their way to staging by faults in the array, for one tile of a pair. -/
def upsetRows (half : Nat) (ups : List Upset) (rows : List (List Nat)) : List (List Nat) :=
  (ups.filter (·.half == half)).foldl (fun l u => l.modify u.row fun r => r.set u.col u.value.toNat) rows

/-! ## The check (R134 to R141) -/

/-- A check group: whether it is unchecked, whether it mismatches, its difference D and E (R136 to R139). -/
structure Chk where
  skip : Bool := false
  bad : Bool := false
  d : Val := .fin false 0 0
  e : Int := 0
  deriving DecidableEq, Repr

/-- |v| > 2^q. -/
def absOver (v : Val) (q : Int) : Bool := match v with
  | .fin _ m e => if q ≤ e then decide (1 < m * 2 ^ (e - q).toNat) else decide (2 ^ (q - e).toNat < m)
  | _ => true

/-- Whether an exact value is zero. -/
def valZero : Val → Bool
  | .fin _ m _ => m == 0
  | _ => false

/-- λ of R137 for `c` chunks. -/
def chkLambda (c : Nat) : Int := if c ≤ 16 then 0 else (Nat.log2 (c - 1) : Int) - 3

/-- The larger of two optional exponents. -/
def maxExp (a : Option Int) (b : Int) : Option Int := some (match a with
  | some x => max x b
  | none => b)

/-- E of R137 from the exact products and accumulate-in values of a group; none where none is nonzero. -/
def chkE (prods accs : List Val) (c : Nat) : Option Int :=
  let a := (nonzero prods).foldl (fun m v => maxExp m (expOf v + 8 + chkLambda c)) none
  (nonzero accs).foldl (fun m v => maxExp m (expOf v + 8)) a

/-- The sum of FP32 values in ascending index (R64). -/
def sumF32 (l : List F32) : F32 := l.foldl (fun a x => (f32Add a x).1) 0

/-- A floating-point group (R136, R137, R139). A sum S beyond FP32 leaves it unchecked (DEDUCED from R140, log entry 25). -/
def floatChk (results accs : List F32) (line : F32) (prods : List Val) (c : Nat) : Chk :=
  let sum := sumF32 results
  if !(results.all f32Finite && accs.all f32Finite && f32Finite line && f32Finite sum) then { skip := true }
  else
    let d := valAdd (f32Val sum) (valNeg (f32Val line))
    match chkE prods (accs.map f32Val) c with
    | none => { bad := !valZero d, d := d }
    | some e => { bad := absOver d (max (e - 2) (-112)), d := d, e := e }

/-- An integer group (R138, R139). -/
def intChk (results accs : List Nat) (line : Int) : Chk :=
  if results.any (2 ^ 32 ≤ ·) || accs.any (2 ^ 32 ≤ ·) || decide (line < -2 ^ 31 ∨ 2 ^ 31 ≤ line) then { skip := true }
  else
    let d := results.foldl (fun a c => a + toSigned 32 c) (0 : Int) - line
    { bad := decide (d ≠ 0), d := valOfInt d 0 }

/-- A value rounded once to M19 under RNE. -/
def roundM19 (v : Val) : Val := decodeFloat fmtM19 (encodeFloat fmtM19 false .rne v).1

/-- The exact sum of values, each times its weight where `weighted` (R134). -/
def exactSum (weighted : Bool) (l : List Val) : Val :=
  l.zipIdx.foldl (fun a x => valAdd a (if weighted then valMul (valOfInt ((x.2 : Int) + 1) 0) x.1 else x.1)) (.fin false 0 0)
def exactSumInt (weighted : Bool) (l : List Int) : Int :=
  l.zipIdx.foldl (fun a x => a + (if weighted then x.1 * ((x.2 : Int) + 1) else x.1)) 0

/-- The accumulate-in entry of a line (R135). -/
def lineAcc (weighted : Bool) (accs : List F32) : F32 :=
  sumF32 (accs.zipIdx.map fun x => if weighted then (f32Mul (intToF32 ((x.2 : Int) + 1)) x.1).1 else x.1)

/-- Line A, or line B where `weighted`, of one streamed row in a floating-point tile. -/
def floatLine (p : Pass) (weighted : Bool) (outs : List (List Nat)) (x : List Nat) (accs : List F32) : F32 :=
  let w := (columns 0 x.length outs).map fun l => roundM19 (exactSum weighted (l.map (multVal p.fmtB p.rneB)))
  (dotFloat (lineAcc weighted accs) ((x.map (multVal p.fmtA p.rneA)).zip w)).1

/-- Line A or B of one streamed row in an integer tile, exact. -/
def intLine (p : Pass) (weighted : Bool) (outs : List (List Nat)) (x : List Nat) (accs : List Nat) : Int :=
  let w := (columns 0 x.length outs).map fun l => exactSumInt weighted (l.map (intOfCode p.fmtB))
  (x.zip w).foldl (fun a z => a + intOfCode p.fmtA z.1 * z.2) (exactSumInt weighted (accs.map (toSigned 32)))

/-- Every exact product of a streamed row with the outputs of a tile. -/
def rowProducts (p : Pass) (outs : List (List Nat)) (x : List Nat) : List Val :=
  outs.flatMap fun o => (x.zip o).map fun z => valMul (multVal p.fmtA p.rneA z.1) (multVal p.fmtB p.rneB z.2)

/-- FP32 values of codes. -/
def f32List (l : List Nat) : List F32 := l.map (BitVec.ofNat 32)

/-- The check of one streamed row of a tile in RR or CR. -/
def rowChk (p : Pass) (outs : List (List Nat)) (x results accs : List Nat) : Chk :=
  if intFmt p.fmtB then intChk results accs (intLine p false outs x accs)
  else floatChk (f32List results) (f32List accs) (floatLine p false outs x (f32List accs)) (rowProducts p outs x)
    ((x.length + 7) / 8)

/-- The estimate of the faulty line, where the B line gives one (R141). -/
def locate (p : Pass) (outs : List (List Nat)) (x results accs : List Nat) (d : Val) : Option Nat :=
  let db := if intFmt p.fmtB then
      valOfInt (exactSumInt true (results.map (toSigned 32)) - intLine p true outs x accs) 0
    else valAdd (f32Val (lineAcc true (f32List results))) (valNeg (f32Val (floatLine p true outs x (f32List accs))))
  match db, d with
  | .fin nb mb eb, .fin na ma ea =>
    if ma = 0 then none
    else if nb ≠ na ∨ mb = 0 then some 0
    else
      let q := eb - ea
      let r := roundDiv .rne (mb * 2 ^ q.toNat) (ma * 2 ^ (-q).toNat)
      some (min 127 (r - 1))
  | _, _ => none

/-- What a verdict finds: mismatch, groups left unchecked, and ENG_CHK_LAST without the TAG and REPLAY fields. -/
structure Finding where
  bad : Bool := false
  unchecked : Nat := 0
  word : Nat := 0
  deriving DecidableEq, Repr

/-- floor(log2 |D|) − E, saturating, in 8 bits. -/
def dExp (d : Val) (e : Int) : Nat := match d with
  | .fin _ m x => if m = 0 then 0x80 else ofSigned 8 (clampInt (-128) 127 (Nat.log2 m + x - e))
  | _ => 0x7F

/-- ENG_CHK_LAST (R158) but for TAG and REPLAY. -/
def chkWord (orient half : Nat) (line : Option Nat) (group : Nat) (k : Chk) : Nat :=
  orient + fld 6 1 half + fld 7 1 (bit line.isSome) + fld 8 12 group + fld 20 8 (line.getD 0) + fld 32 16 (ofSigned 16 k.e)
    + fld 48 8 (dExp k.d k.e)

/-- Number of an orientation (R131). -/
def orientNo : Orient → Nat
  | .rr => 0
  | .cr => 1
  | .os => 2

/-- The check of one tile in RR or CR; `bLine` says whether its B line is present (R149). -/
def tileFinding (p : Pass) (half : Nat) (bLine : Bool) (t : TileOp) (acc results : List (List Nat)) : Finding :=
  let outs := tileOuts p t
  let chks := t.rows.zipIdx.map fun x => (x, rowChk p outs x.1 (results.getD x.2 []) (acc.getD x.2 []))
  let skips := (chks.filter fun z => z.2.skip).length
  match chks.find? fun z => z.2.bad with
  | none => { unchecked := skips }
  | some z =>
    let line := if bLine then locate p outs z.1.1 (results.getD z.1.2 []) (acc.getD z.1.2 []) z.2.d else none
    { bad := true, unchecked := skips, word := chkWord (orientNo p.orient) half line z.1.2 z.2 }

/-- A group of a series: over its passes, the samples of the group's own index and of every index across, and its results. -/
def seriesChk (p : Pass) (own : List (List Nat)) (across : List (List (List Nat))) (ownA : Bool) (results : List Nat) : Chk :=
  let fo := if ownA then p.fmtA else p.fmtB
  let fx := if ownA then p.fmtB else p.fmtA
  let ro := if ownA then p.rneA else p.rneB
  let rx := if ownA then p.rneB else p.rneA
  let k := own.foldl (fun a l => a + l.length) 0
  if intFmt p.fmtB then
    let line := (own.zip across).foldl (fun (a : Int) z =>
      (z.1.zip (columns 0 z.1.length z.2)).foldl (fun b y =>
        b + intOfCode fo y.1 * exactSumInt false (y.2.map (intOfCode fx))) a) 0
    intChk results [] line
  else
    let line := (own.zip across).foldl (fun (a : F32) z =>
      (dotFloat a ((z.1.map (multVal fo ro)).zip
        ((columns 0 z.1.length z.2).map fun l => roundM19 (exactSum false (l.map (multVal fx rx)))))).1) 0
    let prods := (own.zip across).flatMap fun z => z.2.flatMap fun o =>
      (z.1.zip o).map fun y => valMul (multVal fo ro y.1) (multVal fx rx y.2)
    floatChk (f32List results) [] line prods ((k + 7) / 8)

/-- The check of a series: `ps` are its passes in order, `dw` its elements (R134, R136). -/
def seriesFinding (p : Pass) (ps : List Pass) (dw : List (List Nat)) : Finding :=
  let xs := ps.map fun q => columns 0 q.tile.kn q.tile.rows
  let gs := ps.map fun q => columns 0 q.tile.nn q.tile.grads
  let rows := (List.range p.tile.kn).map fun i => seriesChk p (xs.map fun l => l.getD i []) gs true (dw.getD i [])
  let cols := (List.range p.tile.nn).map fun j =>
    seriesChk p (gs.map fun l => l.getD j []) xs false (dw.map fun r => r.getD j 0)
  let skips := ((rows ++ cols).filter (·.skip)).length
  match rows.zipIdx.find? (·.1.bad), cols.zipIdx.find? (·.1.bad) with
  | none, none => { unchecked := skips }
  | some r, some c => { bad := true, unchecked := skips, word := chkWord 2 0 (some c.2) r.2 r.1 }
  | some r, none => { bad := true, unchecked := skips, word := chkWord 2 0 none r.2 r.1 }
  | none, some c => { bad := true, unchecked := skips, word := chkWord 2 0 none 0 c.1 + fld 20 8 c.2 }

/-- The ended passes of a series. -/
def Engine.ofSeries (e : Engine) (n : Nat) : List Pass := e.seriesPasses.filter fun q => q.series == n

/-- An engine without the ended passes of a series. -/
def Engine.dropSeries (e : Engine) (n : Nat) : Engine :=
  { e with seriesPasses := e.seriesPasses.filter fun q => q.series != n }

/-- The findings of a pass or series at its verdict, the tiles of a pair checked separately (R142). -/
def Engine.finding (e : Engine) (r : RunPass) : Finding :=
  let p := r.pass
  let bLine := if p.orient = .cr then e.rowRep.isNone else e.colRep.isNone
  if p.orient = .os then seriesFinding p (e.ofSeries p.series ++ [p]) (r.results.headD [])
  else
    let a := tileFinding p 0 bLine p.tile (r.accIn.headD []) (r.results.headD [])
    match p.pair with
    | none => a
    | some t =>
      let b := tileFinding p 1 bLine t (r.accIn.getD 1 []) (r.results.getD 1 [])
      { bad := a.bad || b.bad, unchecked := a.unchecked + b.unchecked, word := if a.bad then a.word else b.word }

/-! ## The order of an engine (R115 to R118, R144, R176) -/

/-- The committed results of a tile. -/
def Core.carryOf (k : Core) (p : Pass) (t : Nat × Nat) : Option Carry :=
  k.carries.find? fun x => x.stream == p.stream && x.step == p.step && x.index == p.index && x.unit == p.unit
    && x.k0 == t.1 && x.n0 == t.2

/-- Whether every pass that `p` depends on has committed (R122). -/
def Core.depsMet (k : Core) (p : Pass) : Bool := p.deps.all fun t => (k.carryOf p t).isSome

/-- Whether a replay has started and awaits its verdict (R144). -/
def Engine.replaying (e : Engine) : Bool := (e.inArray ++ e.ended).any fun r => r.pass.replay && !r.pass.discard

/-- Whether a pass of an engine's order lets later ones pass it: results that it takes have not committed, and no pass that forms them is
on its way to a first verdict, because it is replayed or has not started (R144, R146). -/
def State.stuck (s : State) (c : CoreId) (p : Pass) : Bool :=
  let runs := ([0, 1] : List EngId).flatMap fun e => (s.engine c e).inArray ++ (s.engine c e).ended
  p.deps.any fun t => ((s.core c).carryOf p t).isNone
    && !(runs.any fun r => !r.pass.replay && !r.pass.discard && suppliesTo r.pass { p with deps := [t] })

/-- The pass that an engine loads and starts next: the head of its replay; the next pass of a series that runs; the pass whose tile is
loaded or loading, while nothing holds it back; else the oldest assigned pass that nothing holds back, or the oldest. -/
def State.nextPass (s : State) (c : CoreId) (e : EngId) : Option Pass :=
  let k := s.engine c e
  match k.replay, k.series with
  | p :: _, _ => some p
  | [], some n => k.assigned.find? fun p => p.series == n
  | [], none =>
    let chosen := k.loading.elim k.loaded fun x => some x.1
    match k.assigned.find? fun p => some p.id == chosen && !s.stuck c p with
    | some p => some p
    | none => (k.assigned.find? fun p => !s.stuck c p).orElse fun _ => k.assigned.head?

/-- Whether an engine may start work in cycle `cyc`: not retired, not pre-empted, its clock running (R154, R215). -/
def Engine.mayRun (e : Engine) (cyc : Nat) : Bool := !e.retired && !e.held && !e.gated && e.wakeAt ≤ cyc

/-- Whether a tile load of a pass may begin in cycle `cyc` (R116): one load at a time, none before the previous pass has started, a cold
one with an empty array alone (R155). A tile in STAT_NXT of a pass that does not start next is abandoned (R144). -/
def Engine.mayLoad (e : Engine) (p : Pass) (cyc : Nat) : Bool :=
  p.orient != .os && e.loading.isNone && e.loaded != some p.id && (!e.coldNext || e.inArray.isEmpty) && (match e.prev with
    | some q => q.t0 ≤ cyc
    | none => true)

/-- A tile load begun (R116). -/
def Engine.load (e : Engine) (p : Pass) (cyc : Nat) : Engine :=
  { e with loading := some (p.id, cyc), loaded := none, loads := ({ begun := cyc, pass := p } :: e.loads).take 4 }

/-- TILE_LOAD_START (R116): the load for the engine's next pass begins. -/
def execTileLoadStart (c : CoreId) (e : EngId) (cyc : Nat) (s : State) : Out :=
  let t := s.clockTo c cyc
  let k := t.engine c e
  match t.nextPass c e with
  | none => .next t
  | some p => .next (if k.mayRun cyc && k.mayLoad p cyc && !p.replay then t.updEngine c e fun x => x.load p cyc else t)

/-- TILE_LOAD_READY (R116): 160 core cycles after it began, the load is ready. A tile of a pass that is not to start next is
abandoned (R144). -/
def execTileLoadReady (c : CoreId) (e : EngId) (cyc : Nat) (s : State) : Out :=
  let t := s.clockTo c cyc
  match (t.engine c e).loading with
  | none => .next t
  | some (id, l) =>
    if cyc < l + 160 then .next t
    else
      let k := t.engine c e
      let wanted := match k.replay with
        | [] => k.assigned.any fun p => p.id == id
        | p :: _ => p.id == id
      .next (t.updEngine c e fun x => { x with
        loading := none, loaded := if wanted then some id else none, readyAt := l + 160 })

/-- REPLAY_START (R144): the tile load of the replay begins when the tile loader is free. A series has no tile load. -/
def execReplayStart (c : CoreId) (e : EngId) (cyc : Nat) (s : State) : Out :=
  let t := s.clockTo c cyc
  let k := t.engine c e
  match k.replay with
  | [] => .next t
  | p :: _ => .next (if k.mayRun cyc && k.mayLoad p cyc then t.updEngine c e fun x => x.load p cyc else t)

/-! ## Start and end of a pass -/

/-- Slices in staging, with those of series that have drained or will drain into it (R126). -/
def Engine.staged (e : Engine) : Nat :=
  e.slices.length + ((e.inArray ++ e.ended).filter fun r => r.pass.orient == .os && r.pass.lastOfSeries).length

/-- Whether slice staging lets a pass start: no new series beside two slices, and drains 160 core cycles apart (R126). -/
def Engine.drainOk (e : Engine) (p : Pass) (cyc : Nat) : Bool :=
  p.orient != .os || ((!p.firstOfSeries || e.staged < 2) && (!p.lastOfSeries || (match e.lastDrain with
    | some t => t + 160 ≤ cyc + p.n
    | none => true)))

/-- The cycle after which every carry of a pass stands committed. -/
def Core.carryAt (k : Core) (p : Pass) : Nat :=
  p.deps.foldl (fun a t => max a (((k.carryOf p t).map fun x => x.at' + 1).getD 0)) 0

/-- Whether the operands of a pass in the local buffer are resident: none is being fetched again (R115, R165). -/
def Core.pinsReady (k : Core) (p : Pass) : Bool :=
  k.lb.held.all fun h => !(k.feed.fetching h.id) || !(h.blocks.any p.pins.contains)

/-- Whether a verdict of the engine is due in cycle `cyc` or before and has not been taken: what it finds decides what starts (R144). -/
def Engine.verdictDue (e : Engine) (cyc : Nat) : Bool :=
  (e.inArray ++ e.ended).any fun r => r.t0 + r.pass.n + 287 ≤ cyc && (r.pass.orient != .os || r.pass.lastOfSeries)

/-- Whether a replay lets a pass start: until its verdict no other pass starts (R144). -/
def Engine.replayLets (e : Engine) (p : Pass) (cyc : Nat) : Bool :=
  e.notBefore ≤ cyc && (!e.replaying || (p.replay && e.series == some p.series))

/-- Whether a pass may start in cycle `cyc` (R115 to R118). -/
def State.mayStart (s : State) (c : CoreId) (e : EngId) (p : Pass) (cyc : Nat) : Bool :=
  let k := s.engine c e
  k.mayRun cyc && !(k.verdictDue cyc) && k.replayLets p cyc && k.inArray.length < 3
    && (p.orient == .os || (k.loaded == some p.id && k.readyAt ≤ cyc))
    && (s.core c).depsMet p && (s.core c).pinsReady p && (s.core c).carryAt p ≤ cyc
    && (!(afterEnd k.coldNext k.prev p) || k.inArray.isEmpty) && passBound k.coldNext k.prev p ≤ cyc && k.drainOk p cyc

/-- The stall cause that keeps the next pass of an engine from starting, where it is one of R568. -/
def Engine.startStall (e : Engine) (p : Pass) (cyc : Nat) : Option Nat :=
  if e.held then some 9 else if !(e.drainOk p cyc) then some 8 else none

/-- The accumulate-in rows of a tile at the start of its pass. -/
def Core.accRows (k : Core) (p : Pass) (t : TileOp) : List (List Nat) := match t.acc with
  | .zero => []
  | .data rows => rows
  | .carry k0 n0 => ((k.carryOf p (k0, n0)).map (·.rows)).getD []

/-- Core cycles before cycle `now` in which a closed or dependent pass with its tile ready has waited for the array to empty or for a
carry to commit (R131). -/
def State.closeWait (s : State) (c : CoreId) (e : EngId) (p : Pass) (now : Nat) : Nat :=
  let k := s.engine c e
  let closed := closedAfter k.coldNext k.prev p
  let bound := passBound k.coldNext k.prev p
  let ready := max p.issuedAt (if p.orient = .os then 0 else k.readyAt)
  let base := if closed then ready else max ready bound
  let carry := if (s.core c).depsMet p then (s.core c).carryAt p else now
  if p.orient ≠ .os ∧ k.loaded ≠ some p.id then 0 else min now (max (if closed then bound else 0) carry) - base

/-- CHK_RECUR_LIMIT taken at a pass boundary: a plain write of an earlier control cycle is in force (R15, R16, R119). -/
def State.passBoundary (s : State) : State := s.updLdr fun l => { l with
  fields := l.fields.map fun f => if engineField f.inst.name then f.take 0 (controlCycle s.now) else f }

/-- A pass started in cycle `cyc` (R114, R119, R131). A series that a replay interrupts starts again from its first pass, whose
rows are still resident (R143, R144). -/
def State.startPass (s : State) (c : CoreId) (e : EngId) (p : Pass) (cyc : Nat) : State :=
  let t := s.passBoundary
  let acc := p.tile :: p.pair.toList
  let rows := acc.map ((s.core c).accRows p)
  let wait := s.closeWait c e p cyc
  t.updEngine c e fun k =>
    let closed := closedAfter k.coldNext k.prev p
    let tag := k.started % 8
    let cut := match k.series with
      | some n => if n = p.series then [] else k.ofSeries n
      | none => []
    let run : RunPass := { pass := p, t0 := cyc, tag := tag, closed := closed, accIn := rows, limit := t.field "CHK_RECUR_LIMIT" }
    let rec' : StartRec := { run := run, prom := k.prom, before := k.prev, loaded := k.loaded, cold := k.coldNext, quiet := k.quiet
                             series := k.series, close := k.close, lastDrain := k.lastDrain }
    { k with
      assigned := cut ++ k.assigned.filter (fun x => x.id != p.id)
      seriesPasses := k.seriesPasses.filter fun x => !cut.contains x
      replay := k.replay.filter fun x => x.id != p.id
      loaded := none, coldNext := false, quiet := false
      inArray := k.inArray ++ [run], starts := (rec' :: k.starts).take 4
      prev := some (prevOf p cyc tag closed), started := satAdd (2 ^ 48 - 1) k.started 1
      close := satAdd stallMax k.close (wait - k.closeCut), closeCut := 0
      series := if p.orient = .os ∧ p.lastOfSeries = false then some p.series else none
      lastDrain := if p.orient = .os ∧ p.lastOfSeries then some (cyc + p.n) else k.lastDrain }

/-- A pass that started in cycle `cyc` has not started after all (R154): the engine holds what it held before; a series that the start
had cut is to run again from its first pass. -/
def Engine.unstart (e : Engine) (cyc : Nat) : Engine :=
  match e.starts with
  | [] => e
  | x :: l =>
    if x.run.t0 ≠ cyc ∨ (e.inArray.getLast?.map fun r => (r.pass.id, r.t0)) ≠ some (x.run.pass.id, cyc) then e
    else
      let p := x.run.pass
      let again := x.series.filter fun n => n = p.series
      { e with
        inArray := e.inArray.dropLast, starts := l, prev := x.before, loaded := x.loaded, coldNext := x.cold, quiet := x.quiet
        close := x.close, lastDrain := x.lastDrain, started := e.started - 1, series := again
        assigned := if p.replay then e.assigned else p :: e.assigned
        replay := if p.replay then p :: e.replay else e.replay }

/-- PASS_START (R114): the engine's next pass starts when every condition of R115 to R118 and R126 holds. -/
def execPassStart (c : CoreId) (e : EngId) (cyc : Nat) (s : State) : Out :=
  let t := s.clockTo c cyc
  match t.nextPass c e with
  | none => .next t
  | some p =>
    if t.mayStart c e p cyc then .next (t.startPass c e p cyc)
    else match (t.engine c e).startStall p cyc with
      | some cause => .next (t.coreStall c cause)
      | none => .next t

/-- Quarters of ENG_WORK that a product of a pass adds, and those of a whole pass (R131). -/
def passQuarter (p : Pass) : Nat := 4 / max 1 (packing p.fmtA p.fmtB)
def passWork (p : Pass) : Nat :=
  let one := fun t : TileOp => t.rows.length * t.kn * t.nn
  passQuarter p * (one p.tile + (p.pair.map one).getD 0)

/-- The results of a pass, and the events of its arithmetic, from the accumulators of its series. -/
def RunPass.compute (r : RunPass) (prom : List (List Nat)) : List (List (List Nat)) × Ev :=
  let p := r.pass
  let l := if p.orient = .os then [seriesNext p (if p.firstOfSeries then [] else prom)]
    else (p.tile :: p.pair.toList).zipIdx.map fun t => tileResults p t.1 (r.accIn.getD t.2 [])
  (l.map fun x => x.map fun y => y.map Prod.fst, evSum (l.flatMap fun x => x.flatMap id))

/-- The oldest pass in the array ended, its results staged (R114, R121). A pass of a series that is not the last leaves its
accumulators in the cells (R123). -/
def Engine.endPass (e : Engine) (r : RunPass) (ups : List Upset) : Engine :=
  let x := r.compute e.prom
  let res := x.1.zipIdx.map fun y => upsetRows y.2 ups y.1
  let f := { e with inArray := e.inArray.drop 1, work := satAdd stallMax e.work (passWork r.pass) }
  let p := r.pass
  if p.orient = .os ∧ p.lastOfSeries = false then
    { f with prom := res.headD [], seriesPasses := f.seriesPasses ++ [{ p with ev := evKeep (evAdd (evOf p.ev) x.2) }] }
  else { f with
    prom := if p.orient = .os then [] else f.prom
    ended := f.ended ++ [{ r with results := res, ev := evKeep x.2 }] }

/-- PASS_END (R114): the oldest pass of the array ends when its last result enters output staging, at T0 + N + 255. -/
def execPassEnd (c : CoreId) (e : EngId) (cyc : Nat) (upsets : List Upset) (s : State) : Out :=
  let t := s.clockTo c cyc
  match (t.engine c e).inArray with
  | [] => .next t
  | r :: _ =>
    if cyc < r.t0 + r.pass.n + 255 then .next t
    else .next (t.updEngine c e fun k => k.endPass r upsets)

/-! ## Commit (R121, R125, R127, R142) -/

/-- A carry put into the core. -/
def Core.addCarry (k : Core) (p : Pass) (t : TileOp) (rows : List (List Nat)) (cyc : Nat) : Core :=
  { k with carries := k.carries ++ [{ stream := p.stream, step := p.step, index := p.index, unit := p.unit, k0 := t.k0
                                      n0 := t.n0, rows := rows, pass := p.id, at' := cyc }] }

/-- Staging blocks of passes kept as output in place (R163): they hold committed results that exist nowhere else. -/
def Core.keepStage (k : Core) (bs : List Nat) : Core :=
  { k with lb := { k.lb with blocks := k.lb.blocks.map fun b => if bs.contains b.1 then (b.1, { b.2 with content := .dirty }) else b } }

/-- Carries that satisfy `q` freed, and the staging blocks of passes whose results are all gone (R163). -/
def Core.dropCarries (k : Core) (q : Carry → Bool) : Core :=
  let left := k.carries.filter fun x => !q x
  let gone := (k.carries.filter q).map (·.pass)
  let dead := fun id : Nat => gone.contains id && !(left.any fun x => x.pass == id)
  { k with carries := left, lb := k.lb.freeWhere fun b => b.content == .stage && dead b.pass }

/-- Whether a carry belongs to a unit of a command. -/
def Carry.of (x : Carry) (st : Stream) (step index unit : Nat) : Bool :=
  x.stream == st && x.step == step && x.index == index && x.unit == unit

/-- Sums of the weight codes of output column `j` over the k that a command covers (R94). -/
def State.csums (s : State) (c : CoreId) (cmd : Cmd) : List Int :=
  let d := cmd.desc
  (blockStarts d.dimN d.tileN).flatMap fun n0 =>
    ((blockStarts d.dimK d.tileK).map fun k0 => columnSums d.b.fmt (s.statRows c cmd (k0, n0))).foldl
      (fun a l => List.zipWith (· + ·) a l) (List.replicate (d.nnOf (0, n0)) 0)

/-- The rescale pair of an INT32 output: the one that Weir derived for the combination (R97). -/
def State.pairOf (s : State) (v a b o : Nat) : Nat × Int :=
  let derived := match s.scaleRec v a, s.scaleRec v b, s.scaleRec v o with
    | some x, some y, some z => rescalePair x y z
    | _, _, _ => (0, 0)
  match kvFind v s.weir.scaleSets with
  | none => derived
  | some x => match x.pairs.find? fun p => p.recA == a && p.recW == b && p.recO == o with
    | some p => (p.m, p.sh)
    | none => derived

/-- One result of a command's final pass through the output path (R93, R95). -/
def State.outValue (s : State) (cmd : Cmd) (csum : Int) (code : Nat) : F32 × Ev :=
  let d := cmd.desc
  let v := s.cmdVersion cmd
  let ea := s.epsOf v d.a.fmt d.scaleA
  let eb := s.epsOf v d.b.fmt d.scaleB
  if intFmt d.b.fmt then
    let z := s.zpOf v d.a.fmt d.scaleA
    let sum := toSigned 32 code
    if d.out.fmt = .int32 ∧ d.mmStage = d.lastStage then
      let p := s.pairOf v d.scaleA d.scaleB d.scaleOut
      let r := rescaleToI32 sum z csum p.1 p.2
      (BitVec.ofNat 32 (ofSigned 32 r.1), r.2)
    else rescaleToF32 sum z csum (s.muOf v d.a.fmt d.scaleA * s.muOf v d.b.fmt d.scaleB) (-(ea + eb))
  else rescaleFloat (ea + eb) (BitVec.ofNat 32 code)

/-- The final tiles of a unit, in ascending output index. -/
def Desc.finals (d : Desc) : List (Nat × Nat) :=
  sortBy (fun t => if d.orient = some .cr then t.1 else t.2) (d.grid.filter d.lastTile)

/-- The code rows of a unit once every final tile has committed. -/
def Core.unitCodes (k : Core) (cmd : Cmd) (u : Nat) : Option (List (List Nat)) :=
  let get := fun t : Nat × Nat => k.carries.find? fun x => x.of cmd.desc.stream cmd.step cmd.index u && x.k0 == t.1 && x.n0 == t.2
  let l := cmd.desc.finals.map get
  if l.any (·.isNone) then none
  else some ((List.range (cmd.desc.rowsIn u)).map fun r => l.flatMap fun x => ((x.map fun y => y.rows.getD r []).getD []))

/-- A unit whose final tiles have all committed leaves the matrix stage: the output path, then the next stage or the output;
the blocks that staged its results become the output, and its operands, carries and hand-over rows are freed (R121, R143, R163, R180). -/
def State.finishUnit (s : State) (c : CoreId) (cmd : Cmd) (u : Nat) : State :=
  match (s.core c).unitCodes cmd u with
  | none => s
  | some codes =>
    let d := cmd.desc
    let cs := if s.zpOf (s.cmdVersion cmd) d.a.fmt d.scaleA = 0 then [] else s.csums c cmd
    let rows := codes.map fun r => r.zipIdx.map fun x => s.outValue cmd (cs.getD x.2 0) x.1
    let t := s.coreEv c cmd.step (evSum (rows.flatMap id))
    let mine := fun x : Carry => x.of d.stream cmd.step cmd.index u
    let bs := (t.core c).stageBlocks (((t.core c).carries.filter mine).map (·.pass))
    let t1 := t.updCore c fun k =>
      let k1 := (k.keepStage bs).dropCarries mine
      let k2 := if d.mmStage = 0 then k1 else k1.freeHand cmd (d.mmStage - 1) u
      { k2 with lb := k2.lb.endUse fun y => y == (cmd.step, cmd.index, u) }
    t1.stageRows c cmd d.mmStage u (u * d.passR) (rows.map fun r => r.map Prod.fst) bs

/-- The slice of a committed series with the header of R127 (R125). -/
def State.sliceOf (s : State) (p : Pass) (dw : List (List Nat)) : Slice × Ev :=
  let v := s.reads p.step
  let k := s.epsOf v p.fmtA p.scaleA + s.epsOf v p.fmtB p.scaleB
  let m := s.muOf v p.fmtA p.scaleA * s.muOf v p.fmtB p.scaleB
  let l := (dw.flatMap id).map fun x =>
    if intFmt p.fmtB then rescaleToF32 (toSigned 32 x) 0 0 m (-k) else rescaleFloat k (BitVec.ofNat 32 x)
  let body := l.map Prod.fst
  ({ src := s.me, step := p.step, mb := p.mb, ctx := Fin.ofNat 16 s.ctxNo, layEpoch := p.layEpoch, tensor := p.tensor,
     tileK := p.tile.k0 / 128, tileN := p.tile.n0 / 128, rows := p.tile.kn - 1, cols := p.tile.nn - 1,
     crc := crc32c (f32Bytes body), payload := body }, evSum l)

/-- The transfer of a slice toward Weir (R194, R195). Its unit names the engine and the micro-batch, its index the tile. -/
def sliceXfer (st : Stream) (e : EngId) (x : Slice) : Transfer :=
  { id := 0, kind := .slice, stream := st, cls := 4, share := .remote, target := .range 0 0
    bytes := 32 + 4 * x.payload.length, step := x.step, index := x.tensor * 2 ^ 32 + x.tileK * 2 ^ 16 + x.tileN
    unit := e.val * 8 + x.mb }

/-- A series committed: its slice stands in staging and leaves for Weir. -/
def State.commitSeries (s : State) (c : CoreId) (e : EngId) (r : RunPass) : State :=
  let p := r.pass
  let x := s.sliceOf p (r.results.headD [])
  let ev := ((s.engine c e).ofSeries p.series).foldl (fun a q => evAdd a (evOf q.ev)) (evAdd (evOf p.ev) (evOf r.ev))
  let t := (s.coreEv c p.step (evAdd ev x.2)).updEngine c e fun k =>
    { k.dropSeries p.series with slices := k.slices ++ [x.1] }
  let t1 := t.pushXfer c (sliceXfer p.stream e x.1)
  match (t1.core c).running p.stream fun y => y.step == p.step && y.index == p.index with
  | none => t1
  | some cmd => t1.updCore c fun k =>
      { k.commitUnit p.stream cmd 0 with lb := k.lb.endUse fun y => y == (p.step, p.index, p.unit) }

/-- A pass in RR or CR committed: its results become carries, and the unit leaves when they complete it. -/
def State.commitTiles (s : State) (c : CoreId) (r : RunPass) (cyc : Nat) : State :=
  let p := r.pass
  let t := (s.coreEv c p.step (evAdd (evOf p.ev) (evOf r.ev))).updCore c fun k =>
    let k1 := (p.tile :: p.pair.toList).zipIdx.foldl (fun a x => a.addCarry p x.1 (r.results.getD x.2 []) cyc) k
    let k2 := k1.dropCarries fun x => x.of p.stream p.step p.index p.unit && p.deps.contains (x.k0, x.n0)
    { k2 with blocked := 0 }
  match (t.core c).running p.stream fun y => y.step == p.step && y.index == p.index with
  | none => t
  | some cmd => t.finishUnit c cmd p.unit

/-! ## Replay and retirement (R144 to R147, R152) -/

/-- Staging blocks of a pass freed (R163). -/
def State.freeStage (s : State) (c : CoreId) (id : Nat) : State :=
  s.updCore c fun k => { k with lb := k.lb.freeWhere fun b => b.content == .stage && b.pass == id }

/-- Passes that an engine gives up, oldest first, as passes that have not started. -/
def Engine.leftover (e : Engine) : List Pass :=
  (e.replay ++ ((e.series.map e.ofSeries).getD []) ++ e.assigned).map fun p =>
    { p with replay := false, lbReplay := false }

/-- An engine retired (R146): what it has not committed goes to its sibling; the correctable fault, or the device-fatal one
when both engines are retired; and a RETIRE entry for the soft repair map where the rule adds one. `extra` are passes whose
verdict was a mismatch. -/
def State.retireEngine (s : State) (c : CoreId) (e : EngId) (cause : Nat) (extra : List Pass) : State :=
  let k := s.engine c e
  let moved := extra.map (fun p => { p with replay := false, lbReplay := false }) ++ k.leftover
  let t := s.updEngine c e fun x => { x with
    retired := true, cause := cause, assigned := [], replay := [], series := none, prom := [], loading := none, loaded := none
    seriesPasses := x.seriesPasses.filter (fun q => some q.series != x.series), retireWhenQuiet := none, reqGov := false, reqAtl := false }
  let t1 := t.updEngine c (sibling e) fun x => { x with assigned := x.assigned ++ moved }
  let t2 := t1.raiseDev .correctable 0x011 (unitNo 2 (2 * c.val + e.val)) (if cause = 1 then k.chkLast else 0)
  let entry : RepairEntry :=
    { core := c, eng := e, kind := .retire, index := 0, origin := 2, stepLo := s.ctl.sealed % 2 ^ 32 }
  let t3 := if cause = 3 ∨ 256 ≤ t2.atl.repairMap.length then t2 else t2.updAtl fun a =>
    a.writeRepairs (a.repairMap ++ [entry])
  if (t3.engine c (sibling e)).retired then t3.raiseDev .deviceFatal 0x013 (unitNo 1 c.val) 0 else t3

/-- A retirement that waits for the engine to be quiet takes effect once it is (R147, R152). -/
def State.retireDue (s : State) (c : CoreId) (e : EngId) : State :=
  let k := s.engine c e
  match k.retireWhenQuiet with
  | some cause => if k.quiet && k.held && !k.retired then s.retireEngine c e cause [] else s
  | none => s

/-- ENG_CHK_LAST of a mismatch. -/
def lastWord (f : Finding) (r : RunPass) : Nat :=
  (if f.bad then f.word else orientNo r.pass.orient) + fld 2 3 r.tag + fld 5 1 (bit r.pass.replay)

/-- The passes that a mismatching pass or series runs again (R144). -/
def Engine.again (e : Engine) (p : Pass) : List Pass := if p.orient = .os then e.ofSeries p.series ++ [p] else [p]

/-- The verdict of a pass found a mismatch (R144, R145, R165). -/
def State.mismatch (s : State) (c : CoreId) (e : EngId) (r : RunPass) (f : Finding) : State :=
  let k := s.engine c e
  let again := k.again r.pass
  let word := lastWord f r
  let t := s.updEngine c e fun x => { x.dropSeries r.pass.series with chkLast := word }
  if r.pass.replay then t.retireEngine c e 1 again
  else
    let t1 := (t.updEngine c e fun x => { x with mismatch := satAdd 0xFFFF x.mismatch 1 }).raiseDev .correctable 0x010
      (unitNo 2 (2 * c.val + e.val)) word
    if k.retired then t1.updEngine c (sibling e) fun x => { x with assigned := again ++ x.assigned }
    else t1.updEngine c e fun x => { x with
      loaded := none, replay := x.replay ++ again.map fun p => { p with replay := true, lbReplay := r.lbBad } }

/-- A pass or series without a mismatch commits; a replay that passes is counted, and the engine that reaches the CHK_RECUR_LIMIT in
force for the pass retires when it is quiet (R145, R147). -/
def State.passOk (s : State) (c : CoreId) (e : EngId) (r : RunPass) (cyc : Nat) : State :=
  let t := if r.pass.orient = .os then s.commitSeries c e r else s.commitTiles c r cyc
  if r.pass.replay = false then t
  else
    let u := t.updEngine c e fun x =>
      let n := if r.pass.lbReplay then x.recur else satAdd 0xFFFF x.recur 1
      let y := { x with replayOk := satAdd 0xFFFF x.replayOk 1, recur := n, notBefore := cyc + 1 }
      if r.limit ≠ 0 ∧ r.limit ≤ n ∧ r.pass.lbReplay = false then { y with reqGov := true, reqCyc := cyc, retireWhenQuiet := some 2 }
      else y
    u.retireDue c e

/-- PASS_VERDICT (R142): 32 core cycles after its end, the oldest ended pass commits, is replayed, or retires its engine;
the results of a discarded step are dropped (R190). -/
def execPassVerdict (c : CoreId) (e : EngId) (cyc : Nat) (s : State) : Out :=
  let t := s.clockTo c cyc
  match (t.engine c e).ended with
  | [] => .next t
  | r :: _ =>
    if cyc < r.t0 + r.pass.n + 287 then .next t
    else
      let k := t.engine c e
      let t1 := t.updEngine c e fun x => { x with ended := x.ended.drop 1 }
      if r.pass.discard then
        .next ((t1.freeStage c r.pass.id).updEngine c e fun x => x.dropSeries r.pass.series)
      else
        let f := k.finding r
        let t2 := t1.updEngine c e fun x => { x with unchecked := satAdd 0xFFFF x.unchecked f.unchecked }
        if f.bad || r.lbBad then .next (t2.mismatch c e r f) else .next (t2.passOk c e r cyc)

/-! ## Pre-emption (R154, R155) -/

/-- ENG_PREEMPT_REQ (R154): host software requests pre-emption; the engine starts no new pass, and one whose start falls in the cycle of
the request is held. -/
def execEngPreemptReq (c : CoreId) (e : EngId) (cyc : Nat) (s : State) : Out :=
  .next ((s.clockTo c cyc).updEngine c e fun x => { x.unstart cyc with reqHost := true, reqCyc := cyc })

/-- ENG_PREEMPT_WITHDRAW (R155): the engine resumes in its original order, with a cold tile load. -/
def execEngPreemptWithdraw (c : CoreId) (e : EngId) (cyc : Nat) (s : State) : Out :=
  .next ((s.clockTo c cyc).updEngine c e fun x =>
    let y := { x with reqHost := false }
    if x.reqHost = false ∨ y.held then y
    else { y with quiet := false, coldNext := true, loaded := none, loading := none })

/-- ENGINE_QUIET (R154): a pre-empted engine with an empty array is quiet; a retirement that waits for it takes effect
(R147, R152). -/
def execEngineQuiet (c : CoreId) (e : EngId) (cyc : Nat) (s : State) : Out :=
  let t := s.clockTo c cyc
  let k := t.engine c e
  if k.held = false ∨ k.inArray.isEmpty = false then .next t
  else
    let set := fun x : Engine => if x.quiet then x else { x with quiet := true, lastWait := min 0xFFFF (cyc - x.reqCyc) }
    .next ((t.updEngine c e set).retireDue c e)

/-! ## The efficiency counters (R131) -/

/-- Values of the dot-product index that cell (i, j) of a tile holds, counted inside the tile (R128). -/
def cellValues (p : Pass) (t : TileOp) (i j : Nat) : Nat :=
  let w := packing p.fmtA p.fmtB
  match p.orient with
  | .rr => if t.nn ≤ j then 0 else min w (t.kn - i * w)
  | .cr => if t.kn ≤ i then 0 else min w (t.nn - j * w)
  | .os => if t.kn ≤ i ∨ t.nn ≤ j then 0 else 1

/-- Products that cell (i, j) of a tile has formed once `n` streamed rows have met it. -/
def cellProducts (p : Pass) (t : TileOp) (i j n : Nat) : Nat :=
  cellValues p t i j * (if p.orient = .os then min t.rows.length (n * packing p.fmtA p.fmtB) else min t.rows.length n)

/-- Quarters of the products that a pass in the array has formed up to core cycle `cyc`: row r meets cell (i, j) in T0 + r + i + j. -/
def RunPass.workBy (r : RunPass) (cyc : Nat) : Nat :=
  let cells := (List.range 128).flatMap fun i => (List.range 128).map fun j => (i, j)
  let one := fun t : TileOp => cells.foldl (fun a x => a + cellProducts r.pass t x.1 x.2 (cyc + 1 - (r.t0 + x.1 + x.2))) 0
  passQuarter r.pass * (one r.pass.tile + (r.pass.pair.map one).getD 0)

/-- The quarters of the passes in the array; and ENG_WORK as it reads: what a clear has cut off no longer counts. -/
def Engine.workRun (e : Engine) (cyc : Nat) : Nat := e.inArray.foldl (fun a r => a + r.workBy cyc) 0
def Engine.workWord (e : Engine) (cyc : Nat) : Nat := min stallMax (e.work + e.workRun cyc) - e.workCut

/-- The wait of the next pass so far; and ENG_CLOSE as it reads. -/
def State.closeRun (s : State) (c : CoreId) (e : EngId) : Nat := match s.nextPass c e with
  | some p => s.closeWait c e p ((s.core c).lastCyc + 1)
  | none => 0
def State.closeWord (s : State) (c : CoreId) (e : EngId) : Nat :=
  satAdd stallMax (s.engine c e).close (s.closeRun c e - (s.engine c e).closeCut)

/-- ENG_CTR_CLEAR (R131): writing 1 clears the three efficiency counters. -/
def execEngCtrClear (c : CoreId) (e : EngId) (value : W64) (s : State) : Out :=
  if value.toNat % 2 = 1 then
    .next (s.updEngine c e fun x => { x with
      elapsed := 0, work := 0, close := 0, workCut := x.workRun (s.core c).lastCyc, closeCut := s.closeRun c e })
  else .next s

end Sys2Proof.Machine
end

