-- ==== Sys2Proof/Machine/Cells.lean ====
section
/-! DEFINITION. What the cells of a matrix engine hold in a core cycle: the registers of R105 as the tile loads and the swap wavefront of
the engine's passes leave them, the column buses that drain a slice, and the physical places of logical rows and columns (R104, R105, R108,
R116, R120, R124, R128, R148). -/

namespace Sys2Proof.Machine

/-! ## Physical places (R133, R148) -/

/-- The physical column or row of a logical one under a repair of its direction. -/
def physOfLine (rep : Option Nat) (j : Nat) : Nat := match rep with
  | some f => if f < 128 ∧ f ≤ j then j + 1 else j
  | none => j

/-- The physical position that carries line A of a direction, and the one that carries line B, which a repair takes out of use. -/
def lineA (rep : Option Nat) : Nat := match rep with
  | none => 128
  | some f => if f = 129 then 128 else 129
def lineB (rep : Option Nat) : Option Nat := match rep with
  | none => some 129
  | some _ => none

/-- The physical cell of a logical one. -/
def Engine.physCell (e : Engine) (i j : Nat) : Nat × Nat := (physOfLine e.rowRep i, physOfLine e.colRep j)

/-! ## Stationary elements (R105, R109, R110, R128) -/

/-- An M19-class element in the container of R52. -/
def m19Word (f : NumFmt) (rne : Bool) (code : Nat) : Nat := match f with
  | .fp32 => (toM19 rne (BitVec.ofNat 32 code)).1 * 2 ^ 13
  | .m19 => code
  | _ => (encodeFloat fmtM19 false .rne (valOfCode f code)).1 * 2 ^ 13

/-- The tile that a cell belongs to: in a pair the first tile has rows or columns 0 to 63 and the second the rest (R130); with its
accumulate-in rows and the cell's place in the tile. -/
def RunPass.tileAt (r : RunPass) (i j : Nat) : Option (TileOp × List (List Nat) × Nat × Nat) :=
  let p := r.pass
  let first := some (p.tile, r.accIn.headD [], i, j)
  match p.pair with
  | none => first
  | some t =>
    if p.orient = .cr then (if j < 64 then first else some (t, r.accIn.getD 1 [], i, j - 64))
    else if i < 64 then first else some (t, r.accIn.getD 1 [], i - 64, j)

/-- The element codes that a cell of a tile holds, by ascending index of the dot product. -/
def tileCell (p : Pass) (t : TileOp) (i j : Nat) : List Nat :=
  (List.range (cellValues p t i j)).map fun x =>
    if p.orient = .cr then (t.stat.getD i []).getD (j * packing p.fmtA p.fmtB + x) 0
    else (t.stat.getD (i * packing p.fmtA p.fmtB + x) []).getD j 0

/-- A stationary register with its elements: one M19-class element, or packed ones, the first in the low bits (log entry 124). -/
def statWord (p : Pass) (codes : List Nat) : Nat :=
  let w := packing p.fmtA p.fmtB
  if w = 1 then m19Word p.fmtB p.rneB (codes.headD 0)
  else codes.zipIdx.foldl (fun a c => a + c.1 * 2 ^ ((if w = 2 then 8 else 4) * c.2)) 0

/-- What a tile load writes for a cell. -/
def passCell (r : RunPass) (i j : Nat) : Nat := match r.tileAt i j with
  | some (t, _, a, b) => statWord r.pass (tileCell r.pass t a b)
  | none => 0

/-! ## The wavefront (R120) -/

/-- The newest pass whose first row has reached a cell. -/
def Engine.atCell (e : Engine) (i j cyc : Nat) : Option StartRec := e.starts.find? fun x => x.run.t0 + i + j ≤ cyc

/-- The streamed row that has met a cell last. -/
def RunPass.rowAt (r : RunPass) (i j cyc : Nat) : Nat := min (r.pass.n - 1) (cyc - (r.t0 + i + j))

/-- STAT_ACT: the element of the newest pass in RR or CR that has reached the cell. -/
def Engine.statAct (e : Engine) (i j cyc : Nat) : Nat :=
  match e.starts.find? fun x => x.run.pass.orient != .os && x.run.t0 + i + j ≤ cyc with
  | some x => passCell x.run i j
  | none => 0

/-- PTAG: the tag of the newest pass that has reached the cell. -/
def Engine.ptag (e : Engine) (i j cyc : Nat) : Nat := ((e.atCell i j cyc).map (·.run.tag)).getD 0

/-! ## Chunks (R63, R108) -/

/-- The operands that a cell's chunk group has multiplied for the row that met it last, those of the whole dot product up to the group's
end, and the accumulator code before them. A cell of a group that is not its end holds no chunk of its own. -/
structure CellChunk where
  pass : Pass
  acc : Nat := 0
  before : List (Nat × Nat) := []
  chunk : List (Nat × Nat) := []
  deriving DecidableEq, Repr

/-- The chunk of a cell in RR or CR: `along` is the cell's place along the dot-product index and `out` its place across. -/
def rowChunk (p : Pass) (t : TileOp) (acc : List (List Nat)) (row along out : Nat) : Option CellChunk :=
  let w := packing p.fmtA p.fmtB
  if (along + 1) * w % 8 ≠ 0 then none
  else
    let xw := (t.rows.getD row []).zip ((tileOuts p t).getD out [])
    let lo := (along + 1) * w - 8
    some { pass := p, acc := (acc.getD row []).getD out 0, before := xw.take lo, chunk := (xw.drop lo).take 8 }

/-- The chunk of a cell in OS after a row: the samples of the group that have met it, and those of the groups before. -/
def seriesChunk (x : StartRec) (i j row : Nat) : CellChunk :=
  let p := x.run.pass
  let w := packing p.fmtA p.fmtB
  let col := fun (l : List (List Nat)) (n : Nat) => l.map fun r => r.getD n 0
  let xg := ((col p.tile.rows i).zip (col p.tile.grads j)).take ((row + 1) * w)
  let lo := row * w / 8 * 8
  { pass := p, acc := if p.firstOfSeries then 0 else (x.prom.getD i []).getD j 0, before := xg.take lo, chunk := xg.drop lo }

/-- The chunk of a cell. -/
def Engine.chunkAt (e : Engine) (i j cyc : Nat) : Option CellChunk :=
  (e.atCell i j cyc).bind fun x =>
    let row := x.run.rowAt i j cyc
    if x.run.pass.orient = .os then some (seriesChunk x i j row)
    else (x.run.tileAt i j).bind fun y =>
      if x.run.pass.orient = .cr then rowChunk x.run.pass y.1 y.2.1 row y.2.2.2 y.2.2.1
      else rowChunk x.run.pass y.1 y.2.1 row y.2.2.1 y.2.2.2

/-- The exact products in a cell's product window. -/
def CellChunk.window (k : CellChunk) : List Val :=
  k.chunk.map fun z => valMul (multVal k.pass.fmtA k.pass.rneA z.1) (multVal k.pass.fmtB k.pass.rneB z.2)

/-- ACC22: the A22 result of the chunk, or its 22-bit sum for an integer product. -/
def CellChunk.acc22 (k : CellChunk) : Val ⊕ BitVec 22 :=
  if intFmt k.pass.fmtB then
    .inr (BitVec.ofInt 22 (chunkInt (k.chunk.map fun z => (intOfCode k.pass.fmtA z.1, intOfCode k.pass.fmtB z.2))))
  else .inl (chunkToA22 k.window)

/-- Whether the chunk is complete: in OS with its eighth sample or the last one of the pass. -/
def CellChunk.full (k : CellChunk) (row : Nat) : Bool := k.pass.orient != .os || k.chunk.length == 8 || row + 1 == k.pass.n

/-- PROM: the partial sum up to the last complete chunk. -/
def Engine.promAt (e : Engine) (i j cyc : Nat) : Option Nat :=
  (e.chunkAt i j cyc).map fun k =>
    let row := ((e.atCell i j cyc).map fun x => x.run.rowAt i j cyc).getD 0
    (passDot k.pass k.acc (if k.full row then k.before ++ k.chunk else k.before)).1

/-! ## The tile load and the drain (R116, R124) -/

/-- The finished element of a series in a cell. -/
def seriesElem (x : StartRec) (i j : Nat) : Nat :=
  let k := seriesChunk x i j (x.run.pass.n - 1)
  (passDot k.pass k.acc (k.before ++ k.chunk)).1

/-- STAT_NXT: what was written last, by the tile load that begins in cycle L in L + 32 + i + j, or by the end of a series in
T0 + N + i + j. -/
def Engine.statNxt (e : Engine) (i j cyc : Nat) : Nat :=
  let load := (e.loads.find? fun l => l.begun + 32 + i + j ≤ cyc).map fun l =>
    (l.begun + 32 + i + j, passCell { pass := l.pass, t0 := 0, tag := 0, closed := false } i j)
  let last := fun r : RunPass => r.pass.orient == .os && r.pass.lastOfSeries
  let drain := (e.starts.find? fun x => last x.run && x.run.t0 + x.run.pass.n + i + j ≤ cyc).map fun x =>
    (x.run.t0 + x.run.pass.n + i + j, seriesElem x i j)
  match load, drain with
  | some a, some b => if a.1 ≤ b.1 then b.2 else a.2
  | some a, none => a.2
  | none, some b => b.2
  | none, none => 0

/-- The element that the drain bus of a column carries into staging: the row of its cell, and the element. -/
def Engine.columnBus (e : Engine) (j cyc : Nat) : Option (Nat × Nat) :=
  e.starts.findSome? fun x =>
    let p := x.run.pass
    let first := x.run.t0 + p.n + j + 1
    if p.orient = .os ∧ p.lastOfSeries = true ∧ j < p.tile.nn ∧ first ≤ cyc ∧ cyc < first + p.tile.kn then
      some (cyc - first, seriesElem x (cyc - first) j)
    else none

end Sys2Proof.Machine
end

