-- ==== Sys2Proof/Machine/Feeding.lean ====
section
/-! DEFINITION. Headrace, Tailrace and Sluice, the local buffer's errors, spill and read-back (R165, R185 to R188, R194 to R208, R337). -/

namespace Sys2Proof.Machine

/-! ## The local buffer (R165) -/

/-- What the `i`-th block of the Millpond holds: stash that is not spilled in the F part, stash read back in the rest. Blocks
lie in backward order (DESIGN CHOICE, log entry 27). -/
def State.millContent (s : State) (c : CoreId) (i : Nat) : Content :=
  let l := (s.core c).lb
  if i < s.millF c then (if i < l.millUsed then .dirty else .empty)
  else if i - s.millF c < l.backUsed then .clean else .empty

/-- What a local-buffer block holds: slice staging has 8 blocks for each engine, 4 for each slice (R125, R162). -/
def State.blockContent (s : State) (c : CoreId) (b : Nat) : Content :=
  if b < 16 then (if b % 8 / 4 < (s.engine c (Fin.ofNat 2 (b / 8))).staged then .dirty else .empty)
  else if s.millBase c ≤ b ∧ b < s.poolBase c then s.millContent c (b - s.millBase c)
  else (kvGet {} b (s.core c).lb.blocks).content

/-- A held operand fetched again (R165, R337). -/
def State.refetch (s : State) (c : CoreId) (h : Held) : State :=
  let bytes := 2 * h.codes.length
  match h.ring with
  | some _ => s.sendPiece c h (0, bytes)
  | none => (h.pieces.flatMap fun p => piecesOf p.1 p.2).foldl (fun t p => t.sendPiece c h p) s

/-- A pool operand fetched again: it leaves the pool, and its prefetch is queued once more (R165). -/
def State.refetchPool (s : State) (c : CoreId) (b : PoolBlock) : State :=
  let g := b.tags.headD { ctx := s.ctxNo, stream := b.stream, step := 0, index := 0, mb := none, bytes := b.bytes }
  let share : Share := match b.target with
    | .range a _ => s.shareOf a false
    | .ring _ _ _ => .read
  let t := s.updCore c fun k => { k with
    feed := { k.feed with pool := k.feed.pool.filter fun x => x.seq != b.seq }, lb := k.lb.freeBlocks b.blocks }
  t.pushXfer c { id := 0, kind := .prefetch, stream := b.stream, cls := 1, share := share, target := b.target, bytes := b.bytes
                 step := g.step, index := g.index, unit := 0, tags := b.tags }

/-- The read-back blocks of a core in backward order, which is the order of their places in the read-back part (log entry 27). -/
def LocalBuf.backOrder (l : LocalBuf) : List (Nat × Nat × Nat) :=
  (sortBy (fun x => (x.1.1 * 2 ^ 16 + x.1.2.1) * 2 ^ 32 + x.1.2.2) (l.keyed (·.back))).map Prod.snd

/-- A read-back block fetched again (R165): it is no longer in the Millpond, and the next read-back brings it. -/
def State.refetchBack (s : State) (c : CoreId) (i : Nat) : State :=
  match (s.core c).lb.backOrder[i]? with
  | some x => s.updCore c fun k => { k with lb := k.lb.updStash x.1 x.2.1 fun e => { e with back := e.back.filter (· != x.2.2) } }
  | none => s

/-- An uncorrectable error in a clean block (R165): the block is fetched again, LB_REFETCH is raised, and a pass that streams
the block will be taken as a mismatch. -/
def State.cleanError (s : State) (c : CoreId) (b : Nat) : State :=
  let spoil := fun r : RunPass => if r.pass.pins.contains b then { r with lbBad := true } else r
  let mark := fun e : Engine => { e with inArray := e.inArray.map spoil }
  let t := (s.updCore c fun k => { k with
    lb := { k.lb with refetch := satAdd 0xFFFF k.lb.refetch 1 }, eng := k.eng.map fun e => (e.1, mark e.2) }).raiseDev .correctable 0x025 (unitNo 1 c.val) 0
  if s.millBase c ≤ b ∧ b < s.poolBase c then t.refetchBack c (b - s.millBase c - s.millF c)
  else match (t.core c).feed.pool.find? fun x => x.blocks.contains b with
    | some x => t.refetchPool c x
    | none => match (t.core c).lb.held.find? fun h => h.blocks.contains b with
      | some h => t.refetch c h
      | none => t

/-- LB_ECC_ERROR (R165). -/
def execLbEccError (c : CoreId) (block : Fin 512) (uncorrectable : Bool) (s : State) : Out :=
  if uncorrectable = false then
    .next (s.updCore c fun k => { k with lb := { k.lb with ce := satAdd 0xFFFF k.lb.ce 1 } })
  else match s.blockContent c block.val with
    | .empty => .next s
    | .clean => .next (s.cleanError c block.val)
    | _ => .next (s.raiseDev .deviceFatal 0x026 (unitNo 1 c.val) 0)

/-! ## Spill and read-back (R187, R188) -/

/-- Whether a transfer is the spill of a block, or its read-back. -/
def Transfer.stashOf (x : Transfer) (kind : XKind) (slot id b : Nat) : Bool :=
  x.kind == kind && x.index == slot * 2 ^ 16 + id && x.unit == b

/-- A transfer gone from a core's queue. -/
def State.dropXfer (s : State) (c : CoreId) (p : Transfer → Bool) : State :=
  s.updCore c fun k => { k with feed := { k.feed with queue := k.feed.queue.filter fun x => !p x } }

/-- The bytes of block `b` of a stash entry, filled up with zeros to a whole block. -/
def Stash.blockBytes (e : Stash) (b : Nat) : List Byte :=
  let l := (e.bytes.drop (16384 * b)).take 16384
  l ++ List.replicate (16384 - l.length) 0

/-- The bytes of a transfer written to the place in the range that its translation named. -/
def State.landWrite (s : State) (x : Transfer) : State := match x.target, x.loc with
  | .range a _, some l => if l.tier = .remote then s else s.rangeWrite a l x.data
  | _, _ => s

/-- Outputs that wait for the stash placed, as far as they go. -/
def State.payAll (s : State) (c : CoreId) : State := State.payStash c ((s.core c).lb.owed.length) s

/-- SPILL_WRITE_DONE (R185, R187, R191): the block is in the spill region and its Millpond block is free; a block freed
meanwhile is free in both places. -/
def execSpillWriteDone (c : CoreId) (slot : Fin 8) (stashId block : Nat) (s : State) : Out :=
  match (s.core c).feed.queue.find? fun x => x.departed && x.remote.isNone && x.stashOf .spill slot.val stashId block with
  | none => .next s
  | some x =>
    let t := (s.dropXfer c fun y => y.id == x.id).landWrite x
    match kvFind (slot.val, stashId) (t.core c).lb.stash with
    | none => .next t
    | some e =>
      if e.inFlight.contains block then
        .next ((t.updCore c fun k => { k with
          blocked := 0
          lb := { k.lb.updStash slot.val stashId fun x => { x with
              inFlight := x.inFlight.filter (· != block), spilled := insNat block x.spilled } with freed := k.lb.freed + 1 } }).payAll c)
      else .next t

/-- Read-backs in flight. -/
def Feed.readbacks (f : Feed) : Nat := (f.queue.filter fun x => x.kind == .readback).length

/-- The spilled block with the smallest backward-order key that is neither read back nor on its way (R188). -/
def Core.nextBack (k : Core) : Option (Nat × Nat × Nat) :=
  let l := (k.lb.keyed fun e => e.spilled.filter fun b => !e.back.contains b).filter fun x =>
    !(k.feed.queue.any fun t => t.stashOf .readback x.2.1 x.2.2.1 x.2.2.2)
  (minKey l).map Prod.snd

/-- STASH_READBACK (R182, R188): with a free read-back block, the next spilled block in backward order is read back from its place in the
spill region. -/
def execStashReadback (c : CoreId) (s : State) : Out :=
  let k := s.core c
  if s.field "MP_RB_BLOCKS" c.val ≤ k.lb.backUsed + k.feed.readbacks then .next s
  else match k.nextBack with
    | none => .next s
    | some (slot, id, b) => .next (s.pushXfer c
        { id := 0, kind := .readback, stream := .b, cls := 1, share := .read, target := .range (s.spillAddr c slot id b) 16384
          bytes := 16384, step := ((s.slot slot).map (·.step)).getD 0, index := slot * 2 ^ 16 + id, unit := b })

/-! ## Demand fetches (R196, R197) -/

/-- DEMAND_FETCH_BEGIN (R197): the next command of the stream's order, and of the deferred pool's, fetches the units of its
window. -/
def execDemandFetchBegin (c : CoreId) (st : Stream) (s : State) : Out :=
  let go := fun (t : State) (l : List Cmd) => match fetchNext l with
    | some cmd => State.fetchWindow c 5 t cmd
    | none => t
  let t := go s ((s.core c).streamOrder st)
  .next (if st = .b then go t (t.core c).poolOrder else t)

/-! ## Sluice (R202, R203) -/

/-- Units of 1/256 token that a share adds for each cycle, and the largest level (R202). -/
def sluiceRate (percent : Nat) : Nat := 2048 * percent / 100
def State.sluiceDepth (s : State) : Nat := s.field "SLUICE_DEPTH" * 256

/-- Cost of a transfer in units of 1/256 token (R203). -/
def sluiceCost (bytes : Nat) : Nat := (bytes + 63) / 64 * 256

/-- The levels after one cycle. -/
def State.refill (s : State) (f : Feed) : Feed :=
  let d := s.sluiceDepth
  { f with
    levelRead := min d (f.levelRead + sluiceRate (s.field "SLUICE_READ"))
    levelWrite := min d (f.levelWrite + sluiceRate (s.field "SLUICE_WRITE"))
    levelRemote := min d (f.levelRemote + sluiceRate (s.field "SLUICE_REMOTE"))
    portBusy := f.portBusy - 1 }

/-- Every bucket full, as at context switch-in (R202). -/
def State.fillBuckets (s : State) : State :=
  let d := s.sluiceDepth
  { s with cores := (List.range 32).map fun c =>
      let k := kvGet {} c s.cores
      (c, { k with feed := { k.feed with levelRead := d, levelWrite := d, levelRemote := d } }) }

/-- Number of a share in the order of ties. -/
def shareNo : Share → Nat
  | .read => 0
  | .write => 1
  | .remote => 2

/-- The level of a bucket. -/
def Feed.level (f : Feed) : Share → Nat
  | .read => f.levelRead
  | .write => f.levelWrite
  | .remote => f.levelRemote

/-- A departure charged: tokens and the byte counter of the share, at 64 B for each token. -/
def Feed.charge (f : Feed) (sh : Share) (bytes : Nat) : Feed :=
  let cost := sluiceCost bytes
  let n := (bytes + 63) / 64 * 64
  let g := { f with portBusy := (bytes + 511) / 512 }
  match sh with
  | .read => { g with levelRead := g.levelRead - cost, bytesRead := satAdd stallMax g.bytesRead n }
  | .write => { g with levelWrite := g.levelWrite - cost, bytesWrite := satAdd stallMax g.bytesWrite n }
  | .remote => { g with levelRemote := g.levelRemote - cost, bytesRemote := satAdd stallMax g.bytesRemote n }

/-- Whether a transfer has to wait for something other than tokens: an access for an unacknowledged write or spill of the same core to its
bytes that was issued before its newest part (R205), or for its page (R238, R240, R242); a repair (R337). -/
def State.xferWaits (s : State) (c : CoreId) (x : Transfer) : Bool :=
  x.repair || (match x.target with
    | .range a n => n != 0 && (!(s.pageReady (pageOf a)) || ((s.core c).feed.queue.any fun y =>
        (y.kind == .write || y.kind == .spill) && y.id != x.id && decide (y.id < x.newest) && y.meets a n))
    | .ring _ _ _ => false)

/-- Head transfers: the oldest undeparted transfer of each stream, class and share, in ascending class, ties by share and then
by age (R203). -/
def State.heads (s : State) (c : CoreId) : List Transfer :=
  let q := (s.core c).feed.queue.filter fun x => !x.departed
  let first := q.filter fun x => !(q.any fun y => y.id < x.id && y.stream == x.stream && y.cls == x.cls && y.share == x.share)
  sortBy (fun x => (x.cls * 4 + shareNo x.share) * 2 ^ 40 + x.id) (first.filter fun x => !s.xferWaits c x)

/-- Whether a page lies in another device's memory. -/
def State.remotePage (s : State) (p : Nat) : Option DevId := match s.page p with
  | some e => if e.loc.tier = .remote then some e.loc.dev else none
  | none => none

/-- A transfer changed. -/
def State.updXfer (s : State) (c : CoreId) (id : Nat) (g : Transfer → Transfer) : State :=
  s.updCore c fun k => { k with feed := { k.feed with queue := k.feed.queue.map fun x => if x.id = id then g x else x } }

/-- An access to a REMOTE page sent to its device; the transfer awaits the reply (R238, R241). -/
def State.sendRemote (s : State) (c : CoreId) (x : Transfer) (d : DevId) (a n : Nat) : State :=
  let tag := s.fab.counter
  let m := if x.kind = .write ∨ x.kind = .spill then Msg.wr d tag a x.data else Msg.rdReq d tag a n
  let t := (s.updFab fun y => { y with counter := tag + 1 }).emit [m]
  (t.updTier fun y => { y with remoteWait := y.remoteWait ++ [(tag, d, c.val)] }).updXfer c x.id fun y =>
    { y with remote := some tag }

/-- An access to the range departs (R231): it is translated once, and served from the place that its page's entry names at that instant; the
bytes of a read are those of that instant. -/
def State.access (s : State) (c : CoreId) (x : Transfer) (a n : Nat) : State :=
  let t := s.translate (xlatCore c) (pageOf a)
  let block := ((s.core c).stashAt (x.index / 2 ^ 16) (x.index % 2 ^ 16)).blockBytes x.unit
  let data := match x.kind with
    | .write => x.data
    | .spill => block
    | _ => s.rangeRead a n
  let u := t.updXfer c x.id fun y => { y with loc := (s.page (pageOf a)).map (·.loc), data := data }
  match s.remotePage (pageOf a) with
  | some d => u.sendRemote c { x with data := data } d a n
  | none => u

/-- What leaves with a departure: a slice goes to Weir, rows and gradients of Quern go where they belong, an access is translated. -/
def State.departs (s : State) (c : CoreId) (x : Transfer) : State :=
  let t := s.updXfer c x.id fun y => { y with departed := true }
  match x.kind with
  | .slice =>
    let e : EngId := Fin.ofNat 2 (x.unit / 8)
    let l := (t.engine c e).slices.filter fun z => z.step == x.step && z.mb == x.unit % 8
      && z.tensor * 2 ^ 32 + z.tileK * 2 ^ 16 + z.tileN == x.index
    (t.dropXfer c fun y => y.id == x.id).emit (l.map Msg.slice)
  | .grad => (t.dropXfer c fun y => y.id == x.id).completeRef x.index
  | _ => match x.target with
    | .ring _ _ _ => t
    | .range a n => t.access c x a n

/-- One head transfer offered to its bucket and the port (R203). A transfer that costs more than the depth of a bucket leaves in parts of
the depth, and has departed with its last part (DEDUCED, log entry 28). -/
def State.offer (c : CoreId) (s : State) (x : Transfer) : State :=
  let f := (s.core c).feed
  let n := min (64 * s.field "SLUICE_DEPTH") (x.bytes - x.sent)
  if f.portBusy = 0 ∧ sluiceCost n ≤ f.level x.share then
    let t := s.updCore c fun k => { k with feed := k.feed.charge x.share n }
    if x.sent + n < x.bytes then t.updXfer c x.id fun y => { y with sent := y.sent + n } else t.departs c x
  else s

/-- Pieces of fetched operands that wait for room in the Sluice queues enter them (R198). -/
def State.drainAll (s : State) (c : CoreId) : State := [Stream.f, .b, .u].foldl (fun t st => State.drainQueue c st 65 t) s

/-- SLUICE_TICK (R203): one network-on-chip cycle refills the buckets and lets eligible head transfers depart. -/
def execSluiceTick (c : CoreId) (s : State) : Out :=
  let t := s.updCore c fun k => { k with feed := s.refill k.feed }
  .next (((t.heads c).foldl (State.offer c) t).drainAll c)

/-! ## Arrivals (R165, R166, R198, R206, R337) -/

/-- Pool blocks that a stream holds, and blocks of the pool that are free. -/
def Feed.poolUsed (f : Feed) (st : Stream) : Nat := (f.pool.filter (·.stream == st)).foldl (fun a b => a + b.blocks.length) 0
def State.poolFree (s : State) (c : CoreId) : List Nat := (s.core c).lb.freeIn (s.poolBase c) (s.poolSize c)

/-- LB_PF_MAX of a stream. -/
def State.pfMax (s : State) (st : Stream) : Nat := s.field "LB_PF_MAX" (streamNo st)

/-- The oldest pool operand of a stream above its limit. -/
def State.evictable (s : State) (c : CoreId) : Option PoolBlock :=
  let f := (s.core c).feed
  (f.pool.filter fun b => s.pfMax b.stream < f.poolUsed b.stream).foldl (fun a b => match a with
    | none => some b
    | some x => if b.seq < x.seq then some b else some x) none

/-- A pool operand discarded without use: its bytes are wasted. -/
def State.discardPool (s : State) (c : CoreId) (b : PoolBlock) : State :=
  s.updCore c fun k => { k with
    feed := { k.feed with pool := k.feed.pool.filter (fun x => x.seq != b.seq), wasted := satAdd stallMax k.feed.wasted b.bytes }
    lb := k.lb.freeBlocks b.blocks }

/-- Room of `n` blocks made in the pool by discarding operands of streams above their limits (R166). -/
def State.makeRoom (c : CoreId) (n : Nat) : Nat → State → State
  | 0, s => s
  | fuel + 1, s =>
    if n ≤ (s.poolFree c).length then s
    else match s.evictable c with
      | none => s
      | some b => State.makeRoom c n fuel (s.discardPool c b)

/-- A prefetched operand lands in the pool, or its bytes are dropped and counted as wasted (R166, R198). -/
def State.landPool (s : State) (c : CoreId) (st : Stream) (target : XTarget) (bytes : Nat) (data : List Byte)
    (codes : List Nat) (tags : List XTag) : State :=
  let n := blocksFor bytes
  let waste := fun t : State => t.updCore c fun k => { k with feed := { k.feed with wasted := satAdd stallMax k.feed.wasted bytes } }
  if s.pfMax st < (s.core c).feed.poolUsed st + n then waste s
  else
    let t := State.makeRoom c n 512 s
    let free := t.poolFree c
    if free.length < n then waste t
    else t.updCore c fun k => { k with
      lb := k.lb.mark (free.take n) { owner := .pool, content := .clean, stream := st }
      feed := { k.feed with
        poolSeq := k.feed.poolSeq + 1
        pool := k.feed.pool ++ [{ target := target, stream := st, bytes := bytes, data := data, codes := codes
                                  blocks := free.take n, tags := tags, seq := k.feed.poolSeq }] } }

/-- The bytes of a cancelled part are wasted, unless the cancellation has counted them (R206, R208). -/
def State.wastePart (s : State) (c : CoreId) (g : XTag) : State :=
  if g.counted then s else s.updCore c fun k => { k with feed := { k.feed with wasted := satAdd stallMax k.feed.wasted g.bytes } }

/-- The parts of a merged prefetch that are still valid land one by one; the bytes of cancelled parts are dropped (R208). -/
def State.landParts (c : CoreId) (st : Stream) (s : State) : Nat → List Byte → List XTag → State
  | _, _, [] => s
  | a, data, g :: gs =>
    let t := if g.valid then s.landPool c st (.range a g.bytes) g.bytes (data.take g.bytes) [] [g] else s.wastePart c g
    State.landParts c st t (a + g.bytes) (data.drop g.bytes) gs

/-- The tile area behind a RING transfer as it reads: altered codes stand in the memory until a repair (R337). -/
def State.alterTile (s : State) (v t tau : Nat) (altered : Option (List Nat)) : State :=
  match altered, s.wcSlotOf v t with
  | some codes, some k => s.updWeir fun w => { w with stored := match kvFind (t, k, tau) w.stored with
      | some x => kvPut (t, k, tau) { x with codes := codes } w.stored
      | none => w.stored }
  | _, _ => s

/-- Whether a stored tile satisfies its check word (R333, R337). -/
def State.checkOk (s : State) (t : Nat) (x : StoredTile) : Bool := crc32c (wcBytes (s.wcFmt t) x.codes x.csums) == x.check

/-- A tile of the ring arrives at the core port: the check word, then the region or the pool (R337). A mismatch discards the
bytes, raises RING_CHECK, and asks the home for the tile. A tile that is not there yet is waited for. -/
def State.arriveRing (s : State) (c : CoreId) (x : Transfer) (t tau v : Nat) : State :=
  match s.ringTile v t tau with
  | none => s
  | some z =>
    if s.checkOk t z then
      let u := (s.noteUse false v t 0).dropXfer c fun y => y.id == x.id
      if x.kind = .demand then
        u.updCore c fun k => { k with lb := x.holds.foldl (fun l h => l.updHeld h fun y => { y with codes := z.codes }) k.lb }
      else if x.tags.any (·.valid) then u.landPool c x.stream x.target x.bytes [] z.codes x.tags
      else x.tags.foldl (fun a g => a.wastePart c g) u
    else
      let home := s.tileHome t tau
      let u := (s.updXfer c x.id fun y => { y with repair := true }).weirFault .correctable 0x054 x.step t tau 0 3
      if home = s.me then u else u.emit [.wcAsk home t (s.tkOf t tau) (s.tnOf t tau) v]

/-- Bytes of the range put into a held operand; the copy that a FETCH has placed in LOCAL space takes them too. -/
def LocalBuf.putHeld (l : LocalBuf) (a : Nat) (b : List Byte) (id : Nat) : LocalBuf :=
  let m := l.updHeld id fun y => { y with mem := memWrite y.mem a b }
  match l.held.find? fun h => h.id == id with
  | some h => match h.loc, h.pieces with
    | some o, p :: _ => { m with mem := memWrite m.mem ((o + (a - p.1)) % 2 ^ 23) b }
    | _, _ => m
  | none => m

/-- Bytes of the range arrive (R196, R198). -/
def State.arriveRange (s : State) (c : CoreId) (x : Transfer) (a : Nat) : State :=
  let u := s.dropXfer c fun y => y.id == x.id
  if x.kind = .demand then u.updCore c fun k => { k with lb := x.holds.foldl (fun l h => l.putHeld a x.data h) k.lb }
  else State.landParts c x.stream u a x.data x.tags

/-- Bytes of a block read back put into a stash entry. -/
def Stash.putBack (e : Stash) (b : Nat) (data : List Byte) : Stash :=
  let n := min 16384 (e.bytes.length - 16384 * b)
  { e with back := insNat b e.back, bytes := e.bytes.take (16384 * b) ++ data.take n ++ e.bytes.drop (16384 * b + (data.take n).length) }

/-- TRANSFER_ARRIVE (R196, R198, R206): fetched data lands in the stream's region or the pool, a read-back block in the
Millpond; data of a discarded step is dropped. A write, a spill or a transfer that has not departed does not arrive. -/
def execTransferArrive (c : CoreId) (id : Nat) (altered : Option (List Nat)) (s : State) : Out :=
  match (s.core c).feed.queue.find? fun x => x.id == id && x.departed with
  | none => .next s
  | some x =>
    if x.remote.isSome || x.repair then .next s
    else if x.dropped then .next (s.dropXfer c fun y => y.id == id)
    else match x.kind with
      | .write => .next s
      | .spill => .next s
      | .slice => .next s
      | .grad => .next s
      | .readback =>
        let back := fun l : LocalBuf =>
          if kvHas (x.index / 2 ^ 16, x.index % 2 ^ 16) l.stash then
            l.updStash (x.index / 2 ^ 16) (x.index % 2 ^ 16) fun e => e.putBack x.unit x.data
          else l
        .next ((s.dropXfer c fun y => y.id == id).updCore c fun k => { k with lb := back k.lb })
      | _ => match x.target with
        | .ring t tau v => .next ((s.alterTile v t tau altered).arriveRing c x t tau v)
        | .range a _ => .next (s.arriveRange c x a)

/-- RING_REPAIR (R337): the tile area is rewritten from the home's source copy and verified against the digest in the
trailer, and Headrace reissues the fetch; until the home's tile has come, the wait is counted. -/
def execRingRepair (c : CoreId) (id : Nat) (s : State) : Out :=
  match (s.core c).feed.queue.find? fun x => x.id == id && x.repair with
  | none => .next s
  | some x => match x.target with
    | .range _ _ => .next s
    | .ring t tau v =>
      let w := match s.sourceOf v t tau with
        | some y => if s.tileHome t tau = s.me then s.storeTile { y with version := v } else s
        | none => s
      match w.ringTile v t tau with
      | none => .next (w.coreStall c 21)
      | some z =>
        if w.checkOk t z && wcDigest (w.wcFmt t) (tileKey t (w.tkOf t tau) (w.tnOf t tau)) v z.codes z.csums == z.digest then
          .next ((w.updXfer c id fun y => { y with repair := false, departed := false }).updWeir fun y =>
            { y with checkRepairs := satAdd 0xFFFF y.checkRepairs 1 })
        else .next (w.coreStall c 21)

/-- TAILRACE_ACK (R205): the far end acknowledges a write; the bytes stand at the place that its translation named, and its blocks are freed.
A write that the final round of a move holds is not acknowledged (R233). -/
def execTailraceAck (c : CoreId) (id : Nat) (s : State) : Out :=
  match (s.core c).feed.queue.find? fun x => x.id == id && x.departed && x.kind == .write with
  | none => .next s
  | some x =>
    let a := match x.target with
      | .range a _ => a
      | .ring _ _ _ => 0
    if x.remote.isSome || !(s.pageReady (pageOf a)) then .next s
    else if s.holdsWrites (pageOf a) then .next s.countMoving
    else
      let t := (s.dropXfer c fun y => y.id == id).updCore c fun k => { k with
        lb := k.lb.freeBlocks x.blocks, blocked := if x.blocks = [] then k.blocked else 0 }
      .next (if x.dropped then t else t.landWrite x)

end Sys2Proof.Machine
end

