-- ==== Sys2Proof/Machine/Streams.lean ====
section
/-! DEFINITION. The three streams of a core: decode, readiness and issue, the commands of R172, chains, retirement, the deferred
pool and no-progress detection (R167 to R192, R196 to R207). -/

namespace Sys2Proof.Machine

/-! ## Decode (R167, R173, R176) -/

/-- Base and length, in descriptors, of a stream's step program (R167). -/
def State.progBase (s : State) : Stream → Nat
  | .f => s.field "CMD_BASE_F"
  | .b => s.field "CMD_BASE_B"
  | .u => s.field "CMD_BASE_U"
def State.progLen (s : State) : Stream → Nat
  | .f => s.field "CMD_LEN_F"
  | .b => s.field "CMD_LEN_B"
  | .u => s.field "CMD_LEN_U"

/-- Whether the image in force brings the step program of a stream into the range. -/
def State.hasProg (s : State) (st : Stream) : Bool := s.jobData.progs.any fun x => x.1 == st

/-- What a descriptor fetch brings (R167): a fault of R228 with its code and address, the descriptor, or nothing yet. -/
inductive DescFetch
  | fault (code addr : Nat)
  | word (w : BitVec 512)
  | wait
  deriving DecidableEq, Repr

/-- Descriptor `i` of a stream's step program as the range holds it. One that the image does not bring, or that lies in another device's
memory, comes in from outside as `d` (log entry 133). -/
def State.descAt (s : State) (st : Stream) (i : Nat) (d : BitVec 512) : DescFetch :=
  let l := piecesOf (s.progBase st + 64 * i) 64
  if s.hasProg st = false then .word d
  else match s.pieceFault false l with
    | some e => .fault e.1 e.2
    | none =>
      if l.any fun p => !(s.pageReady (pageOf p.1)) then .wait
      else if l.any fun p => (s.page (pageOf p.1)).any fun e => e.loc.tier == .remote then .word d
      else .word (BitVec.ofNat 512 (leNat (l.flatMap fun p => s.rangeRead p.1 p.2)))

/-- The translations of a descriptor fetch (R231). -/
def State.descTranslate (s : State) (c : CoreId) (st : Stream) (i : Nat) : State :=
  if s.hasProg st then (piecesOf (s.progBase st + 64 * i) 64).foldl (fun t p => t.translate (xlatCore c) (pageOf p.1)) s else s

/-- The instance and the index of the next descriptor: a program that has ended goes to the next step (R167). -/
def State.nextDesc (s : State) (st : Stream) (f : Front) : Nat × Nat :=
  if s.progLen st ≤ f.next then (f.inst + 1, 0) else (f.inst, f.next)

/-- Whether a front end may decode descriptor `x`: the step can be open (R43), a halted job starts no instance (R190), and at
most 64 commands are decoded ahead (R167). -/
def State.decodes (s : State) (f : Front) (st : Stream) (x : Nat × Nat) : Bool :=
  s.atl.runCtx.isSome && s.ctl.started && decide (0 < s.progLen st) && decide (x.1 ≤ s.ctl.sealed + s.lag + 2)
    && !(s.ctl.halted && x.2 == 0) && decide (f.queue.length < 64)

/-- A command decoded into its stream's order, or into the deferred pool (R176). -/
def Core.accept (k : Core) (st : Stream) (cmd : Cmd) : Core :=
  if cmd.desc.defer then { k with deferred := k.deferred ++ [cmd] }
  else k.updFront st fun f => { f with queue := f.queue ++ [cmd] }

/-- A descriptor checked and accepted (R173, R176); `step` moves the front end on. An invalid one raises DESC_INVALID and is passed over. -/
def State.takeDesc (s : State) (c : CoreId) (st : Stream) (x : Nat × Nat) (d : BitVec 512) (step : State → State) : State :=
  let bad := (step s).raise .stepFatal 0x020 (unitNo 1 c.val) x.1 (detailCmd x.2 (streamNo st) (bits d.toNat 13 11) c.val)
  match decodeDesc d with
  | none => bad
  | some y =>
    if s.descInvalid st y then bad
    else if y.defer && 32 ≤ (s.core c).deferred.length then s
    else
      let cmd : Cmd := { desc := y, step := x.1, index := x.2, units := y.unitCount, enteredAt := (s.core c).lastCyc }
      (step s).updCore c fun k =>
        let m := k.accept st cmd
        { m with sync := m.sync.filter fun z => s.ctl.sealed < z.1.1 }

/-- The state of a domain; pd000 is on whenever VAUX is present. -/
def State.dom (s : State) (d : Nat) : DomState :=
  if d = 0 then (if s.pow.vaux then .on else .off) else kvGet .off d s.pow.doms
/-- Whether a domain is ON. -/
def State.domOn (s : State) (d : Nat) : Bool := s.dom d == .on

/-- The two domains of a core (R12). -/
def engDom (c : Nat) : Nat := 2 * c + 1
def restDom (c : Nat) : Nat := 2 * c + 2

/-- DESC_DECODE (R167, R173): the next descriptor of the step program is fetched and checked; one whose address faults is passed over, and
one whose page is not ready is waited for. Decode waits while the deferred pool is full for a deferred command, and while the core's domain
is not ON (R516, R517). -/
def execDescDecode (c : CoreId) (st : Stream) (d : BitVec 512) (s : State) : Out :=
  let f := (s.core c).front st
  let x := s.nextDesc st f
  if s.domOn (restDom c.val) = false ∨ s.decodes f st x = false then .next s
  else
    let step := fun t : State => t.updCore c fun k => k.updFront st fun y => { y with inst := x.1, next := x.2 + 1 }
    match s.descAt st x.2 d with
    | .wait => .next s
    | .fault code a => .next ((step s).raise .stepFatal code (unitNo 1 c.val) x.1 a)
    | .word w => .next ((s.descTranslate c st x.2).takeDesc c st x w step)

/-! ## Prefetches and hints (R198 to R200) -/

/-- Whether a prefetch or hint of a target is dropped without a transfer: its address is unmapped, its page FAULTED, or its version absent
(R200). -/
def State.pfDrops (s : State) : XTarget → Bool
  | .range a _ => (s.accessFault a false).isSome || (match s.page (pageOf a) with
      | some e => e.state == .faulted || e.state == .unmapped
      | none => true)
  | .ring _ _ v => !s.installed v

/-- A prefetch or hint of one target for a command (R198, R199). -/
def State.pushPrefetch (s : State) (c : CoreId) (cmd : Cmd) (kind : XKind) (t : XTarget) (bytes : Nat) : State :=
  let share : Share := match t with
    | .range a _ => s.shareOf a false
    | .ring _ _ _ => .read
  let tag : XTag := { ctx := s.ctxNo, stream := cmd.desc.stream, step := cmd.step, index := cmd.index, mb := cmd.desc.mb, bytes := bytes }
  if s.pfDrops t then s else s.queueXfer c { cmdXfer cmd kind 1 share t bytes 0 [] with tags := [tag] }

/-- The parts of `n` bytes from address `a`, cut at multiples of 4 KiB: part `i`, and their number. -/
def part4k (a n i : Nat) : Nat × Nat :=
  let lo := max a (a / 4096 * 4096 + 4096 * i)
  (lo, min (a + n) (a / 4096 * 4096 + 4096 * (i + 1)) - lo)
def parts4k (a n : Nat) : Nat := if n = 0 then 0 else (a + n - 1) / 4096 - a / 4096 + 1

/-- The targets of a place: parts of 4 KiB, or its ring tile. -/
def Span.targets (p : Span × Nat) : List (XTarget × Nat) := match p.1.ring with
  | some r => [(.ring r.1 r.2.1 r.2.2, p.2)]
  | none => p.1.pieces.flatMap fun q => (List.range (parts4k q.1 q.2)).map fun i =>
      let x := part4k q.1 q.2 i
      (.range x.1 x.2, x.2)

/-- What a hint of a target still has to bring: nothing that is resident, on its way, in the pool or prefetched (R196, R199). -/
def Core.hintNeed (k : Core) (st : Stream) (x : XTarget × Nat) : List (XTarget × Nat) :=
  let ahead := k.feed.queue.filter fun t => t.stream == st && (t.kind == .prefetch || t.kind == .hint)
  match x.1 with
  | .ring a b v =>
    if (k.need st x.2 { ring := some (a, b, v) }).2 == [] || ahead.any (fun t => t.target == x.1) then [] else [x]
  | .range a n =>
    let busy := ahead.flatMap fun t => match t.target with
      | .range b m => [(b, m)]
      | .ring _ _ _ => []
    (gapsOf busy (k.need st n { addr := a, len := n, count := 1 }).2).map fun q => (.range q.1 q.2, q.2)

/-- Targets from number `from'` on enter the Sluice queue while it holds fewer than 64 transfers (R198). A prefetch counts as dropped once,
with the first of its targets that is (R200). The second part is the number of the next target. -/
def State.pushTargets (s : State) (c : CoreId) (cmd : Cmd) (kind : XKind) (l : List (XTarget × Nat)) (from' : Nat) : State × Nat :=
  let go := (l.drop from').take (64 - (s.core c).feed.waiting cmd.desc.stream)
  let t := go.foldl (fun (a : State) x =>
    (if kind = .hint then (a.core c).hintNeed cmd.desc.stream x else [x]).foldl (fun (b : State) y => b.pushPrefetch c cmd kind y.1 y.2) a) s
  let drop := go.any (fun x => s.pfDrops x.1) && !((l.take from').any fun x => s.pfDrops x.1)
  (if drop then t.updCore c fun k => { k with feed := { k.feed with pfDropped := satAdd 0xFFFF k.feed.pfDropped 1 } } else t,
    from' + go.length)

/-- The command that a hint is for: a decoded one among the next HR_HINT_DEPTH of its stream whose demand fetches have not begun; the depth
is that of its step (R44, R199). -/
def State.hintCmd (s : State) (c : CoreId) (st : Stream) (index : Nat) : Option Cmd :=
  let l := ((s.core c).front st).queue.filter fun x => !x.fetchBegun
  (l.zipIdx.find? fun x => x.1.index == index && decide (x.2 < s.fieldAt x.1.step "HR_HINT_DEPTH" (streamNo st))).map Prod.fst

/-- HINT_ISSUE (R199): hints for the places of the first unit of a decoded command enter the Sluice queue, each once. -/
def execHintIssue (c : CoreId) (st : Stream) (index : Nat) (s : State) : Out :=
  match s.hintCmd c st index with
  | none => .next s
  | some cmd =>
    let x := s.pushTargets c cmd .hint ((s.fetchPlan c cmd 0).2.flatMap Span.targets) cmd.sentPf
    .next (x.1.updCore c fun k => k.updAny st cmd.step cmd.index fun y => { y with sentPf := x.2 })

/-! ## Stage credits (R386) -/

/-- The stage on the other side of a boundary: device and stage slot; device 0 is the end of the chain. -/
def State.stageBeside (s : State) (stage : Nat) (fwd : Bool) : Nat × Nat :=
  let l := s.fieldL (if fwd then "STAGE_NEXT" else "STAGE_PREV") stage
  (l.headD 0, l.getD 1 0)

/-- Whether address `a` lies in the receive region of that stage: on this device by STAGE_RX_BASE and STAGE_RX_SIZE, else in a
REMOTE region of its device. -/
def State.inReceive (s : State) (dev stage a : Nat) : Bool :=
  if dev = 0 then false
  else if dev = s.me then
    let lo := s.field "STAGE_RX_BASE" stage
    decide (lo ≤ a) && decide (a < lo + s.field "STAGE_RX_SIZE" stage)
  else match s.regionAt (pageOf a) with
    | some r => r.dev == dev && (s.page (pageOf a)).any fun e => e.loc.tier == .remote
    | none => false

/-- The boundary that a WRITE crosses: stage slot of the writer and direction, which is that of its stream. -/
def State.crossing (s : State) (c : CoreId) (cmd : Cmd) : Option (Nat × Bool) :=
  let fwd := cmd.desc.stream == .f
  let x := s.stageBeside (s.stageOf c) fwd
  if cmd.desc.op = .write ∧ cmd.desc.mb.isSome ∧ cmd.desc.stream ≠ .u ∧ s.inReceive x.1 x.2 cmd.desc.out.addr then
    some (s.stageOf c, fwd)
  else none

/-- Whether the receiving stage has returned a credit: when that stage is on this device, once the commands of the direction that
read the micro-batch have retired on each of its cores (R386). A credit of another device comes back with the release of the
slot, since the spec names no message for it (DESIGN CHOICE, log entry 30). -/
def State.returned (s : State) (x : Nat × Bool × Nat × Nat) : Bool :=
  let y := s.stageBeside x.1 x.2.1
  match (s.slotOf x.2.2.1 x.2.2.2).bind s.slot with
  | none => true
  | some z => y.1 == s.me && (s.stageCores.filter fun c => s.stageOf c == y.2).all fun c =>
      (if x.2.1 then z.fwdDone else z.bwdDone).contains c.val

/-- Whether a stage holds a credit for a micro-batch, or may take one. -/
def State.creditOk (s : State) (c : CoreId) (cmd : Cmd) : Bool :=
  match s.crossing c cmd with
  | none => true
  | some (g, fwd) =>
    let mine := s.ctl.stageOut.filter fun x => x.1 == g && x.2.1 == fwd && !s.returned x
    (mine.any fun x => x.2.2.1 == cmd.step && some x.2.2.2 == cmd.desc.mb)
      || decide (mine.length < s.field "STAGE_CREDITS" g)

/-- The credit taken, and returned ones dropped from the list. -/
def State.takeCredit (s : State) (c : CoreId) (cmd : Cmd) : State :=
  match s.crossing c cmd with
  | none => s
  | some (g, fwd) => s.updCtl fun x => { x with
      stageOut := addNew (g, fwd, cmd.step, cmd.desc.mb.getD 0) (x.stageOut.filter fun y => !s.returned y) }

/-! ## Readiness (R174) -/

/-- Rows that a unit of a stage that is no matrix stage gives: one for each index of a LOOKUP, else those of the unit. -/
def State.rowsOut (s : State) (c : CoreId) (cmd : Cmd) (stage u : Nat) : Nat :=
  if stage = 0 ∧ cmd.desc.op = .lookup then (s.unitItems c cmd u).length
  else if rowOp cmd.desc.op then cmd.desc.rowsIn u else cmd.desc.dimR

/-- Bytes that the output of a unit of a stage takes in its stream's region: a hand-over unit, or rows that leave through Tailrace or wait
for the stash. -/
def State.outBytes (s : State) (c : CoreId) (cmd : Cmd) (stage u : Nat) : Nat :=
  let d := cmd.desc
  if stage < d.lastStage then 4 * s.rowsOut c cmd stage u * d.handElems stage
  else if d.out.space = .range ∨ d.out.space = .stash then s.rowsOut c cmd stage u * bytesOf (outMem d.out.fmt) d.outElems else 0

/-- Whether the region has room for the output of a unit. -/
def State.roomFor (s : State) (c : CoreId) (cmd : Cmd) (stage u : Nat) : Bool :=
  blocksFor (s.outBytes c cmd stage u) ≤ (s.freeLow c cmd.desc.stream).length
    && (stage == cmd.desc.lastStage || (s.core c).handNeed cmd stage < 2)

/-- Whether the unit that executes a unit of a stage can accept it (R174, condition 7): Tailrace and the Quern port hold 64 transfers of a
stream; the vector unit takes one operation after another. -/
def State.accepts (s : State) (c : CoreId) (cmd : Cmd) (stage u : Nat) : Bool :=
  let d := cmd.desc
  let port := fun n : Nat => decide ((s.core c).feed.waiting d.stream + n ≤ 64)
  let writes := (piecesOf d.out.addr (s.outBytes c cmd stage u)).length
  (!(stage == d.lastStage && d.out.space == .range) || port (min 64 writes))
    && (!(stage == 0 && (d.op == .lookup || d.op == .gradSend)) || port 1)

/-- Whether a command reads a working copy of the tagged version; a prefetch of an absent one is dropped instead (R25, R200). -/
def Desc.readsRing (d : Desc) : Bool := d.op != .prefetch && (d.a.space == .ring || d.b.space == .ring || d.acc.space == .ring)

/-- The number of a condition of R174 that is not met, and the stall cause of R568 that counts it (32: none listed). -/
abbrev Unmet := Option (Nat × Nat)

/-- The first unmet condition of R174, numbers 4 to 7, of unit `u` of stage 0 of a command. -/
def State.unitUnmet (s : State) (c : CoreId) (cmd : Cmd) (u cyc : Nat) : Unmet :=
  if cmd.desc.op = .mm then match s.tryPass c cmd cyc with
    | .inl x => some x
    | .inr _ => none
  else if !(s.unitResident c cmd u) then some (4, s.fetchCause c cmd)
  else if !(s.roomFor c cmd 0 u) then some (5, 7)
  else if cmd.desc.readsStash && !(s.stashReady c cmd) then some (6, 32)
  else if !(s.creditOk c cmd) then some (7, 10)
  else if !(s.accepts c cmd 0 u) then some (7, 32)
  else none

/-- The first unmet condition of R174 of an unissued command; 8 is a hold of GOV_STREAM_CTL. U commands of a version wait until it
is installed (R30). -/
def State.unmet (s : State) (c : CoreId) (cmd : Cmd) (cyc : Nat) : Unmet :=
  let k := s.core c
  let slot := cmd.desc.mb.bind (s.slotOf cmd.step)
  let x := { cmd with slot := slot }
  if k.held cmd.desc.stream then some (8, 32)
  else if cmd.bad then none
  else if cmd.desc.mb.isSome && slot.isNone then some (2, 32)
  else if cmd.desc.stream == .u && !(s.installed cmd.step) then some (2, 32)
  else if (match cmd.desc.waitOn with
    | some w => !(k.waitMet cmd.step w.1 w.2)
    | none => false) then some (3, 32)
  else if cmd.desc.readsRing && !(s.installed (s.cmdVersion cmd)) then none
  else if s.descMismatch (s.cmdVersion cmd) cmd.desc then none
  else s.unitUnmet c x 0 cyc

/-! ## Issue (R175, R176) -/

/-- Order within a class: older (STEP, MB), then program order. -/
def Cmd.age (cmd : Cmd) : Nat := (cmd.step * 8 + cmd.desc.mb.getD 0) * 2 ^ 32 + cmd.index

/-- The class of a command in the order of R175: U; B with promoted deferred commands; F; deferred commands. -/
def Cmd.cls (cmd : Cmd) : Nat := match cmd.desc.stream with
  | .u => 0
  | .b => if cmd.desc.defer && !cmd.promoted then 3 else 1
  | .f => 2

/-- The order of R175: by class, then by age. -/
def Cmd.rank (cmd : Cmd) : Nat := cmd.cls * 2 ^ 128 + cmd.age

/-- The commands that may issue, in the order of R175. -/
def Core.candidates (k : Core) : List Cmd :=
  sortBy Cmd.rank (k.u.queue.take 1 ++ k.b.queue.take 1 ++ k.f.queue.take 1 ++ k.deferred)

/-- Whether two commands are the same one. -/
def Cmd.same (x y : Cmd) : Bool := x.step == y.step && x.index == y.index && x.desc.stream == y.desc.stream

/-- A command issued: it leaves its stream's order or the pool and carries its slot until it retires (R168). -/
def State.issueCmd (s : State) (c : CoreId) (cmd : Cmd) : State :=
  let x := { cmd with slot := cmd.desc.mb.bind (s.slotOf cmd.step) }
  s.updCore c fun k =>
    let m := { k with deferred := k.deferred.filter fun y => !y.same cmd }
    m.updFront cmd.desc.stream fun f => { f with queue := f.queue.filter (fun y => !y.same cmd), running := f.running ++ [x] }

/-- Whether a command that is ready is stopped at the readiness check: its version is absent (R25), or a format disagrees (R173). -/
def State.stopsAtIssue (s : State) (cmd : Cmd) : Option Nat :=
  if cmd.bad then none
  else if cmd.desc.readsRing && !(s.installed (s.cmdVersion cmd)) then some 0x024
  else if s.descMismatch (s.cmdVersion cmd) cmd.desc then some 0x021 else none

/-- The command issued: one that is stopped keeps its place until it retires, and no part of it runs. -/
def State.issueChecked (s : State) (c : CoreId) (cmd : Cmd) : State := match s.stopsAtIssue cmd with
  | some code => (s.stopAt c cmd 0 code (cmd.detail c)).issueCmd c { cmd with bad := true, failed := some 0 }
  | none => s.issueCmd c cmd

/-- Whether the next unit of a command waits for the Millpond: the entry that it writes to can take no more before a spill is done
(R187). -/
def State.millWaits (s : State) (c : CoreId) (cmd : Cmd) (u : Nat) : Bool :=
  cmd.desc.op == .stashWr && (
    let k := s.core c
    let e := k.stashAt (cmd.slot.getD 0) cmd.desc.stashId
    let r : Reserve := kvGet {} (cmd.slot.getD 0) k.lb.reserves
    let n := cmd.desc.rowsIn u * bytesOf (outMem cmd.desc.out.fmt) cmd.desc.rowElems
    let fit := min (blocksFor (e.bytes.length + n)) (e.blocks + (r.reserved - r.written))
    !((s.placeBlocks c cmd (cmd.slot.getD 0) cmd.desc.stashId (fit - e.blocks) e.blocks).2))

/-- The first unmet condition of a running command; none where it can go on, or where it waits for its outputs alone. -/
def State.runUnmet (s : State) (c : CoreId) (cmd : Cmd) (cyc : Nat) : Unmet :=
  let u := nthCount cmd.taken 0
  if cmd.complete ∨ cmd.bad then none
  else if cmd.desc.op = .wait then some (3, 32)
  else if cmd.desc.op = .mm then (if cmd.passes < cmd.desc.passTotal then s.unitUnmet c cmd 0 cyc else none)
  else if cmd.units ≤ u then none
  else match s.unitUnmet c cmd u cyc with
    | some x => some x
    | none => if s.millWaits c cmd u then some (6, 32) else none

/-- Whether every command of a core waits only on conditions inside the device (R183): region or reserve, the Millpond, the deferred pool,
an engine, the vector unit or a sync counter; no pass is in work. -/
def State.locallyBlocked (s : State) (c : CoreId) (cyc : Nat) : Bool :=
  let k := s.core c
  let inside := fun x : Unmet => match x with
    | some (n, cause) => (n == 3 || n == 5 || n == 6 || n == 7) && cause != 10
    | none => false
  let run := k.f.running ++ k.b.running ++ k.u.running
  (run ++ k.candidates != []) && run.all (fun x => inside (s.runUnmet c x cyc))
    && k.candidates.all (fun x => inside (s.unmet c x cyc))

/-- Divisor of the core clock at a divider level (R514). -/
def coreDivisor (isAS : Bool) : Nat → Nat
  | 0 => if isAS then 5 else 4
  | 1 => if isAS then 6 else 5
  | 2 => 6
  | _ => 8

/-- Control cycles in a number of core cycles (R14). -/
def State.controlCycles (s : State) (c : CoreId) (n : Nat) : Nat := n * coreDivisor s.fuses.isAS (s.core c).div / 12

/-- No command issues in this cycle: the cycle is counted under the first unmet condition of the first command (R568), and the
no-progress count grows while the core is locally blocked; a freed block starts it again (R183). -/
def State.noIssue (s : State) (c : CoreId) (cyc : Nat) : State :=
  let k := s.core c
  let t := match k.candidates.head?.bind fun x => s.unmet c x cyc with
    | some (_, cause) => if cause < 32 then s.coreStall c cause else s
    | none => s
  let d := s.controlCycles c (cyc - k.issueCyc)
  let old := if k.lb.freed = k.freedSeen then k.blocked else 0
  t.updCore c fun x => { x with
    blocked := if s.locallyBlocked c cyc then min 0xFFFFFFFF (old + d) else 0, issueCyc := max x.issueCyc cyc, freedSeen := x.lb.freed }

/-- COMMAND_ISSUE (R174, R175): the first ready command in priority order issues. -/
def execCommandIssue (c : CoreId) (cyc : Nat) (s : State) : Out :=
  let t := s.clockTo c cyc
  match (t.core c).candidates.find? fun x => (t.unmet c x cyc).isNone with
  | some cmd => .next ((t.issueChecked c cmd).updCore c fun k => { k with issueCyc := max k.issueCyc cyc, blocked := 0 })
  | none => .next (t.noIssue c cyc)

/-! ## Passes (R174 to R177) -/

/-- Commands of a core that have a pass to issue, in the order of R175. -/
def Core.mmWork (k : Core) (p : Cmd → Bool) : List Cmd :=
  sortBy Cmd.rank ((k.f.running ++ k.b.running).filter fun x =>
    !x.bad && x.desc.hasMM && decide (x.passes < x.desc.passTotal) && p x)

/-- The engine to which the next pass of a command would issue now. -/
def State.passEngine (s : State) (c : CoreId) (cmd : Cmd) (cyc : Nat) : Option EngId := match s.tryPass c cmd cyc with
  | .inl _ => none
  | .inr x => some x.1

/-- Unissued matrix commands that are ready, with their slots. -/
def State.readyMm (s : State) (c : CoreId) (cyc : Nat) : List Cmd :=
  ((s.core c).candidates.filter fun x => x.desc.op == .mm && !x.bad && (s.stopsAtIssue x).isNone && (s.unmet c x cyc).isNone).map fun x =>
    { x with slot := x.desc.mb.bind (s.slotOf x.step) }

/-- Whether a series that has started is to go on: no other command comes between its passes (R176). -/
def Cmd.inSeries (cmd : Cmd) : Bool := cmd.desc.isOs && cmd.passes % max 1 cmd.desc.perUnit != 0

/-- Whether the next pass of a command, ready for engine `e`, waits for a command of a higher rank that is ready for it too (R175, R176,
R191). -/
def State.yields (s : State) (c : CoreId) (cmd : Cmd) (e : EngId) (cyc : Nat) : Bool :=
  !cmd.inSeries && (((s.core c).mmWork fun _ => true) ++ s.readyMm c cyc).any fun y =>
    decide (y.rank < cmd.rank) && s.passEngine c y cyc == some e

/-- The next pass of the first of some running commands that is ready and need not wait for another (R175); with none, the cycle is counted
under the first one's unmet condition. -/
def State.issueBest (s : State) (c : CoreId) (l : List Cmd) (cyc : Nat) : State :=
  let best := l.findSome? fun x => match s.tryPass c x cyc with
    | .inl _ => none
    | .inr y => if s.yields c x y.1 cyc then none else some (x, y.2)
  match best with
  | some x => x.2.fetchMore c x.1
  | none => match l.head?.map fun x => s.tryPass c x cyc with
    | some (.inl x) => if x.2 < 32 then s.coreStall c x.2 else s
    | _ => s

/-- MM (R174, R175): the next pass of a running matrix command of the stream issues to an engine. -/
def execMm (c : CoreId) (st : Stream) (cyc : Nat) (s : State) : Out :=
  let t := s.clockTo c cyc
  .next (t.issueBest c ((t.core c).mmWork fun x => x.desc.stream == st && x.desc.op == .mm) cyc)

/-! ## Units of a command -/

/-- The next unit of stage 0 of the oldest running command with an opcode: `g` does its work when it is ready; else the cycle is
counted. -/
def State.nextUnit (s : State) (c : CoreId) (st : Stream) (o : Op) (g : State → Cmd → Nat → State) : Out :=
  match (s.core c).todo st o with
  | none => .next s
  | some cmd =>
    let u := nthCount cmd.taken 0
    match s.unitUnmet c cmd u (s.core c).lastCyc with
    | some (_, cause) => .next (if cause < 32 then s.coreStall c cause else s)
    | none => .next (((g (s.updCore c fun k => k.takeUnit st cmd 0) cmd u)).fetchMore c cmd)

/-- A unit without output committed. -/
def State.commit0 (s : State) (c : CoreId) (cmd : Cmd) : State := s.updCore c fun k => k.commitUnit cmd.desc.stream cmd 0

/-- The FP32 value of an element as it lies in memory: a weight code by its record (R79), every other code by its format. -/
def State.codeF32 (s : State) (v : Nat) (f : NumFmt) (id code : Nat) : F32 × Ev :=
  match scaledFmt f, s.scaleRec v id with
  | some _, some r => if r.kind = .weight then widen (scaledVal r code) else (BitVec.ofNat 32 code, {})
  | _, _ => if f = .int32 then (intToF32 (toSigned 32 code), {}) else widen (valOfCode f code)

/-- Rows of codes of an operand as FP32, with the events of widening. -/
def State.widenRows (s : State) (cmd : Cmd) (f : NumFmt) (id : Nat) (rows : List (List Nat)) : List (List F32) × Ev :=
  let l := rows.map fun r => r.map (s.codeF32 (s.cmdVersion cmd) f id)
  (l.map fun r => r.map Prod.fst, evSum (l.flatMap fun r => r))

/-- The rows of unit `u` of operand A as FP32, with the events of widening. -/
def State.rowsF32 (s : State) (c : CoreId) (cmd : Cmd) (u : Nat) : List (List F32) × Ev :=
  s.widenRows cmd cmd.desc.a.fmt cmd.desc.scaleA (s.unitRows c cmd u)

/-- Rows of operand B as FP32, from row `first` on, with the events of widening. -/
def State.rowsB (s : State) (c : CoreId) (cmd : Cmd) (first n : Nat) : List (List F32) × Ev :=
  let d := cmd.desc
  s.widenRows cmd d.b.fmt d.scaleB (s.opRows c cmd d.b (s.memFmt (s.cmdVersion cmd) d.b.fmt d.scaleB) d.dimN first n 0 d.dimN)

/-! ## Vector programs (R72, R170, R179, R387, R388) -/

/-- The vector program of a VEC stage: VPROG_A for the first of a chain, VPROG_B for the second (R179). -/
def Desc.vprog (d : Desc) (stage : Nat) : Nat := if (d.stages.take stage).contains .vec then d.vprogB else d.vprogA

/-- The vector program of a number that the image in force brings. -/
def State.vecProg (s : State) (p : Nat) : Option VecProg := s.jobData.vprogs.find? fun x => x.number == p

/-- Rows that a program takes as its operands. -/
def State.vecInputs (s : State) (p : Nat) : Nat := max 1 (((s.vecProg p).map (·.inputs)).getD 1)

/-- Vector program `p` over rows. The result of one that the image does not bring is free (log entry 7). -/
def State.vecOut (s : State) (p : Nat) (rows : List (List F32)) : List (List F32) × Ev := match s.vecProg p with
  | some q => vecRows q rows.length rows
  | none =>
    let e := Config.vecEvents p rows
    (Config.vecProgram p rows, { nan := e.1, inf := e.2.1, narrow := e.2.2 })

/-- seg_node of R388 over the partial states of one history in ascending segment index, by the merge program of a table. The core that
holds a node's lowest present segment computes it, and counts its events; `cores` are those of the stage (R387). -/
def State.segNode (t n : Nat) (cores : List CoreId) (states : List (Option (List F32))) : Nat → Nat → State → Option (List F32) × State
  | 0, i, s => ((states[i]?).join, s)
  | level + 1, i, s =>
    let x := State.segNode t n cores states level (2 * i) s
    let y := State.segNode t n cores states level (2 * i + 1) x.2
    match x.1, y.1 with
    | none, hi => (hi, y.2)
    | lo, none => (lo, y.2)
    | some lo, some hi =>
      let r := y.2.vecOut (y.2.field "SEQ_MERGE" t) [lo, hi]
      let owner := cores.getD ((segLowest states (level + 1) i).getD 0 % max 1 cores.length) 0
      (some (r.1.headD []), y.2.coreEv owner n r.2)

/-- The history result of R388: an absent root is a state of `width` values +0. -/
def State.historyResult (s : State) (c : CoreId) (t n width : Nat) (states : List (Option (List F32))) : List F32 × State :=
  let cores := s.stageCores.filter fun k => s.stageOf k == s.stageOf c
  let x := State.segNode t n cores states (segHeight (s.field "SEQ_SEG" t)) 0 s
  let r := x.2.vecOut (s.field "SEQ_FINISH" t) [x.1.getD (List.replicate width 0)]
  (r.1.headD [], x.2.coreEv c n r.2)

/-- The present segments of each history of unit `u`: operand B holds their numbers as INT32; without it every segment is present. -/
def State.presentOf (s : State) (c : CoreId) (cmd : Cmd) (u n : Nat) : List Nat :=
  let g := s.segments cmd.desc.tensor
  if cmd.desc.b.space = .none then List.replicate n g
  else (s.opRows c cmd cmd.desc.b .int32 1 (u * cmd.desc.passR / g) n 0 1).map fun r => r.headD 0

/-- The histories of a unit whose rows are the partial states of their segments, in ascending segment index (R388). -/
def State.histories (c : CoreId) (cmd : Cmd) (g : Nat) : List Nat → List (List F32) → State → List (List F32) × State
  | [], _, s => ([], s)
  | n :: ns, rows, s =>
    let states := (rows.take g).zipIdx.map fun x => if x.2 < n then some x.1 else none
    let x := s.historyResult c cmd.desc.tensor cmd.step (rows.headD []).length states
    let y := State.histories c cmd g ns (rows.drop g) x.2
    (x.1 :: y.1, y.2)

/-- A vector stage over the rows of unit `u` (R72, R179): its program takes its operands from consecutive rows, and its results are rows in
the same order; SEQ_FINISH of a history table merges the partial states of each history. -/
def State.runVec (s : State) (c : CoreId) (cmd : Cmd) (stage u : Nat) (rows : List (List F32)) : State :=
  let p := cmd.desc.vprog stage
  if stage = 0 ∧ s.finishes cmd.desc then
    let g := s.segments cmd.desc.tensor
    let x := State.histories c cmd g (s.presentOf c cmd u (rows.length / g)) rows s
    x.2.stageRows c cmd stage u (u * cmd.desc.passR / g) x.1
  else
    let x := s.vecOut p rows
    (s.coreEv c cmd.step x.2).stageRows c cmd stage u (u * cmd.desc.passR / s.vecInputs p) x.1

/-! ## Control commands (R172, R178) -/

/-- NOP. -/
def execNop (c : CoreId) (st : Stream) (s : State) : Out := s.nextUnit c st .nop fun t cmd _ => t.commit0 c cmd

/-- A command retired: its signal, its operands, and its place in the stream (R174, R178). -/
def State.retire (s : State) (c : CoreId) (cmd : Cmd) : State :=
  let t := s.updCore c fun k =>
    let k1 := k.updFront cmd.desc.stream fun f => { f with running := f.running.filter fun y => !y.same cmd }
    let k2 := match cmd.desc.signalOn with
      | some n => if cmd.desc.op == Op.signal then k1 else k1.signal cmd.step n
      | none => k1
    { k2 with
      blocked := 0
      lb := k2.lb.endUse fun y => y.1 == cmd.step && y.2.1 == cmd.index }
  match cmd.slot with
  | none => t
  | some k => match cmd.desc.op with
    | .fwdEnd => t.updCtl fun x => { x with slots := x.slots.map fun y =>
        if y.1 = k then (y.1, { y.2 with fwdDone := addNew c.val y.2.fwdDone }) else y }
    | .bwdEnd => t.updCtl fun x => { x with slots := x.slots.map fun y =>
        if y.1 = k then (y.1, { y.2 with bwdDone := addNew c.val y.2.bwdDone }) else y }
    | _ => t

/-- SIGNAL: the counter rises by 1, and the command retires at once. -/
def execSignal (c : CoreId) (st : Stream) (s : State) : Out :=
  match (s.core c).todo st .signal with
  | none => .next s
  | some cmd => .next ((s.updCore c fun k => k.signal cmd.step cmd.desc.signalCtr).retire c cmd)

/-- WAIT: retires when WAIT_CTR reaches WAIT_VALUE. -/
def execWait (c : CoreId) (st : Stream) (s : State) : Out :=
  match (s.core c).todo st .wait with
  | none => .next s
  | some cmd =>
    if (s.core c).waitMet cmd.step cmd.desc.waitCtr cmd.desc.waitValue then .next (s.retire c cmd) else .next s

/-- Whether a command is the only one left of its micro-batch among the running ones of its stream. -/
def Core.lastOfMb (k : Core) (cmd : Cmd) : Bool :=
  (k.front cmd.desc.stream).running.all fun x => x.same cmd || !(x.step == cmd.step && x.desc.mb == cmd.desc.mb)
    || cmd.desc.mb.isNone

/-- FWD_END (R186): once the micro-batch's earlier commands of the stream have retired, its stash reservation on this core shrinks
to the blocks written. -/
def execFwdEnd (c : CoreId) (s : State) : Out :=
  match (s.core c).todo .f .fwdEnd with
  | none => .next s
  | some cmd =>
    if (s.core c).lastOfMb cmd then
      let t := s.updCore c fun k =>
        let x := k.takeUnit .f cmd 0
        match cmd.slot with
        | some n => { x with lb := { x.lb with
            reserves := kvMod {} n (fun r => { r with reserved := min r.reserved r.written }) x.lb.reserves } }
        | none => x
      .next (t.commit0 c cmd)
    else .next s

/-- BWD_END (R23, R172): the last backward command of the micro-batch on this core; deferred commands may still run. -/
def execBwdEnd (c : CoreId) (s : State) : Out :=
  match (s.core c).todo .b .bwdEnd with
  | none => .next s
  | some cmd => .next ((s.updCore c fun k => k.takeUnit .b cmd 0).commit0 c cmd)

/-! ## Vector commands (R72, R73) -/

/-- VEC: the next unit of rows of operand A through the first vector program. -/
def execVec (c : CoreId) (st : Stream) (s : State) : Out :=
  s.nextUnit c st .vec fun t cmd u =>
    let x := t.rowsF32 c cmd u
    ((t.coreEv c cmd.step x.2).runVec c cmd 0 u x.1).unitDone c cmd u

/-- The lane reduction of a row; over more than 1,024 lanes the spec states no tree, and the value is free (log entry 31). -/
def State.laneRow (s : State) (i : Nat) (r : List F32) : F32 × Ev :=
  if r.length ≤ 1024 then laneSum r else (BitVec.ofNat 32 (Config.freeNat (s.fresh + i)), {})

/-- VRED (R73): each row of the unit reduced across the lanes. -/
def execVred (c : CoreId) (st : Stream) (s : State) : Out :=
  s.nextUnit c st .vred fun t cmd u =>
    let x := t.rowsF32 c cmd u
    let l := x.1.zipIdx.map fun r => t.laneRow r.2 r.1
    let t1 : State := { t with fresh := t.fresh + (if cmd.desc.dimN ≤ 1024 then 0 else x.1.length) }
    ((t1.coreEv c cmd.step (evAdd x.2 (evSum l))).stageResult c cmd 0 u (l.map fun r => [r.1])).unitDone c cmd u

/-! ## Quern commands (R258 to R271, R282 to R286) -/

/-- LOOKUP (R259, R260): the next unit of bags goes to the front Quern. -/
def execLookup (c : CoreId) (s : State) : Out := s.nextUnit c .f .lookup fun t cmd u => t.lookupUnit c cmd u

/-- Rows of a unit pooled into the next stage or the output (R267): by the front Quern behind a LOOKUP, else by the core's vector unit
(R268), which counts the events. -/
def State.poolStage (s : State) (c : CoreId) (cmd : Cmd) (stage u : Nat) (rows : List (List F32)) : State :=
  let x := s.poolRows c cmd u rows
  let t := if stage = 0 then s.coreEv c cmd.step x.2 else s.quernEv (s.frontQ c) cmd.step x.2
  (t.stageResult c cmd stage u x.1).unitDone c cmd u

/-- Looked-up rows of a unit from operand B, with the events of reading them. -/
def State.poolInput (s : State) (c : CoreId) (cmd : Cmd) (u : Nat) : List (List F32) × Ev :=
  s.rowsB c cmd (s.bagRows c cmd u).1 (s.bagRows c cmd u).2

/-- POOL (R258, R267) as stage 0: the looked-up rows of operand B pooled by the bag list. -/
def execPool (c : CoreId) (s : State) : Out :=
  s.nextUnit c .f .pool fun t cmd u => match t.unitFault c cmd u with
    | some x => x
    | none =>
      let x := t.poolInput c cmd u
      (t.coreEv c cmd.step x.2).poolStage c cmd 0 u x.1

/-- Unit `u` of a GRAD_SEND (R269, R282 to R285): the checks of R258 and R270, then the gradients of its indices, from the upstream rows of operand B (log entry 16), wait at the core port for
their way to the home and the mirror of each row. -/
def State.gradUnit (s : State) (c : CoreId) (cmd : Cmd) (u : Nat) : State :=
  match s.unitFault c cmd u with
  | some t => t
  | none =>
    let items := s.gradItems c cmd u
    let x := s.newUnit c cmd u items
    if x.faulted then s.addUnit x
    else
      let q := s.frontQ c
      let t := cmd.desc.tensor
      let dy := s.rowsB c cmd (s.bagRows c cmd u).1 (s.bagRows c cmd u).2
      let gs := unitGrads x.mode cmd.desc.dimN (u * cmd.desc.passR) x.bags items dy.1
      let lay := (((cmd.slot.bind s.slot).map (·.layEpoch))).getD s.ctl.layEpoch
      let vals := gs.map fun g => (g.1, g.2.map Prod.fst)
      let out := if cmd.desc.out.fmt = .fx48 then s.contribsFX cmd.step lay t vals
        else (vals.map fun g => s.contribF32 cmd.step lay t g.1 g.2, {})
      let s1 := s.quernEv q cmd.step (evAdd dy.2 (evAdd (evSum (gs.flatMap Prod.snd)) out.2))
      (s1.addUnit { x with grads := out.1 }).deliverAll

/-- GRAD_SEND (R282, R283). -/
def execGradSend (c : CoreId) (s : State) : Out :=
  s.nextUnit c .b .gradSend fun t cmd u => (t.gradUnit c cmd u).unitDone c cmd u

/-! ## Stash commands (R185 to R189) -/

/-- Bytes of FP32 rows in the format in which an output lies in memory, with the events of conversion. -/
def outRows (d : Desc) (rows : List (List F32)) : List Byte × Ev :=
  let l := rows.map fun r => r.map (outCode d)
  (l.flatMap fun r => packBytes (outMem d.out.fmt) (r.map Prod.fst), evSum (l.flatMap fun r => r))

/-- Bytes of the rows of unit `u` as STASH_WR writes them: operand A as it lies where the formats agree, else converted to the
output format. -/
def State.stashBytes (s : State) (c : CoreId) (cmd : Cmd) (u : Nat) : List Byte × Ev :=
  let d := cmd.desc
  let f := s.memFmt (s.cmdVersion cmd) d.a.fmt d.scaleA
  if f = outMem d.out.fmt then ((s.unitRows c cmd u).flatMap (packBytes f), {})
  else
    let x := s.rowsF32 c cmd u
    let y := outRows d x.1
    (y.1, evAdd x.2 y.2)

/-- STASH_WR (R187): the next unit of operand A written to the entry; it waits while a spill is in flight. -/
def execStashWr (c : CoreId) (s : State) : Out :=
  match (s.core c).todo .f .stashWr with
  | none => .next s
  | some cmd =>
    let u := nthCount cmd.taken 0
    match s.unitUnmet c cmd u (s.core c).lastCyc with
    | some (_, cause) => .next (if cause < 32 then s.coreStall c cause else s)
    | none =>
      let x := s.stashBytes c cmd u
      let t := s.stashWrite c cmd x.1
      if t.2 = false then .next t.1
      else
        let y := (t.1.updCore c fun k => k.takeUnit .f cmd 0).coreEv c cmd.step x.2
        .next (((y.commit0 c cmd).unitDone c cmd u).fetchMore c cmd)

/-- STASH_RD (R188): the entry is resident; in a chain its rows go to the next stage. -/
def execStashRd (c : CoreId) (s : State) : Out :=
  s.nextUnit c .b .stashRd fun t cmd u =>
    if cmd.desc.chain = [] then t.commit0 c cmd
    else
      let d := cmd.desc
      let x := t.rowsF32 c { cmd with desc := { d with a := { d.a with space := .stash, addr := 0 } } } u
      (t.coreEv c cmd.step x.2).stageResult c cmd 0 u x.1

/-- STASH_FREE (R188): the entry's blocks are freed in both places. -/
def execStashFree (c : CoreId) (s : State) : Out :=
  s.nextUnit c .b .stashFree fun t cmd _ =>
    ((t.updCore c fun k => { k with lb := k.lb.freeStash (cmd.slot.getD 0) cmd.desc.stashId }).payAll c).commit0 c cmd

/-! ## Data movement (R196, R198, R205, R206) -/

/-- The bytes of operand A of a whole command: DIM_R + 1 rows of DIM_N + 1 elements; of a RING operand, DIM_K + 1 rows. -/
def State.wholeBytes (s : State) (c : CoreId) (cmd : Cmd) : List Byte :=
  let d := cmd.desc
  if d.a.space = .ring then (s.opRows c cmd d.a d.a.fmt d.dimN 0 d.dimK 0 d.dimN).flatMap (packBytes d.a.fmt)
  else s.opBytes c cmd d.a 0 (d.dimR * bytesOf d.a.fmt d.rowElems)

/-- Operands of a command kept in their region after it retires, until a later command uses them. -/
def State.keepHeld (s : State) (c : CoreId) (cmd : Cmd) : State :=
  let mark := fun h : Held => if h.users.contains (cmd.step, cmd.index, 0) then { h with keep := some cmd.step } else h
  s.updCore c fun k => { k with lb := { k.lb with held := k.lb.held.map mark } }

/-- The operand of a FETCH placed in LOCAL space: its blocks are copies of a lower tier (R165). -/
def State.fetchLocal (s : State) (c : CoreId) (cmd : Cmd) : State :=
  let d := cmd.desc
  let b := s.wholeBytes c cmd
  let bs := blocksAt d.out.addr b.length
  let range := d.a.space = .range
  let copy : Held := {
    id := 0, stream := d.stream, pieces := if range then [(d.a.addr, b.length)] else [], mem := if range then memWrite [] d.a.addr b else []
    blocks := bs, loc := some d.out.addr }
  (s.lbWrite c d.stream d.out.addr b).updCore c fun k => { k with lb :=
    { k.lb.mark bs { owner := ownerOf d.stream, content := .clean, stream := d.stream } with
      held := k.lb.held ++ [{ copy with id := k.lb.nextHeld }], nextHeld := k.lb.nextHeld + 1 } }

/-- FETCH (R196): with the operand resident, it is placed in LOCAL space where the output names it, and stays in the stream's
region. -/
def execFetch (c : CoreId) (st : Stream) (s : State) : Out :=
  s.nextUnit c st .fetch fun t cmd _ =>
    (if cmd.desc.out.space = .loc then t.fetchLocal c cmd else t.keepHeld c cmd).commit0 c cmd

/-- WRITE (R205): the bytes of operand A leave through Tailrace; into a stage's receive region only under a credit (R386). -/
def execWrite (c : CoreId) (st : Stream) (s : State) : Out :=
  s.nextUnit c st .write fun t cmd u =>
    let t1 := (t.takeCredit c cmd).writeBack c cmd u cmd.desc.out.addr (t.wholeBytes c cmd)
    (t1.commit0 c cmd).unitDone c cmd u

/-- What a PREFETCH names: DIM_R + 1 rows of DIM_N + 1 elements of operand A in parts of 4 KiB, or the tiles of a RING operand
(log entry 32). -/
def State.prefetchTargets (s : State) (cmd : Cmd) : List (XTarget × Nat) :=
  let d := cmd.desc
  let n := d.dimR * bytesOf d.a.fmt d.rowElems
  if d.a.space = .ring then (s.ringSpansA cmd).flatMap Span.targets
  else Span.targets ({ addr := d.a.addr, len := n, count := 1 }, n)

/-- PREFETCH (R198): its transfers enter the stream's Sluice queue, which holds 64; the command is complete with the last. -/
def execPrefetch (c : CoreId) (st : Stream) (s : State) : Out :=
  match (s.core c).todo st .prefetch with
  | none => .next s
  | some cmd =>
    let l := s.prefetchTargets cmd
    let x := s.pushTargets c cmd .prefetch l cmd.sentPf
    let t := x.1.updCore c fun k => k.updCmd st cmd.step cmd.index fun y => { y with sentPf := x.2 }
    .next (if x.2 < l.length then t else (t.updCore c fun k => k.takeUnit st cmd 0).commit0 c cmd)

/-- CANCEL (R206): the stream's prefetches and hints of this step instance that are tagged with the named command, or with any for
0xFF_FFFF. -/
def execCancel (c : CoreId) (st : Stream) (s : State) : Out :=
  s.nextUnit c st .cancel fun t cmd _ =>
    let i := cmd.desc.a.addr % 2 ^ 24
    let hit := fun g : XTag => g.ctx == t.ctxNo && g.stream == st && g.step == cmd.step && (i == 0xFFFFFF || g.index == i)
    (t.updCore c fun k => k.cancel hit).commit0 c cmd

/-! ## Update commands (R30, R94, R207) -/

/-- LOAD_SCALES (R30): the core holds the scale set and the rescale pairs of the new version. -/
def execLoadScales (c : CoreId) (s : State) : Out :=
  s.nextUnit c .u .loadScales fun t cmd _ => (t.updCore c fun k => { k with scalesOf := cmd.step }).commit0 c cmd

/-- LOAD_CSUM (R30, R94): the core holds the column sums of a tensor in the new version. -/
def execLoadCsum (c : CoreId) (s : State) : Out :=
  s.nextUnit c .u .loadCsum fun t cmd _ =>
    (t.updCore c fun k => { k with csumsOf := addNew (cmd.step, cmd.desc.tensor) k.csumsOf }).commit0 c cmd

/-- Whether a held operand is a ring tile of a version that is not in the ring. -/
def State.gone (s : State) (h : Held) : Bool := match h.ring with
  | some r => !(s.installed r.2.2)
  | none => false

/-- INVALIDATE (R30, R207): local copies of versions that have left the ring are freed and their prefetches cancelled. -/
def execInvalidate (c : CoreId) (s : State) : Out :=
  s.nextUnit c .u .invalidate fun t cmd _ =>
    let old := fun x : XTarget => match x with
      | .ring _ _ v => !(t.installed v)
      | .range _ _ => false
    let ids := fun k : Core => ((k.feed.queue.filter fun x => old x.target).flatMap (·.tags))
      ++ (k.feed.pool.filter fun b => old b.target).flatMap (·.tags)
    (t.updCore c fun k =>
      let l := ids k
      let m := k.cancel fun g => l.contains g
      { m with
        lb := m.lb.freeHeld t.gone
        csumsOf := m.csumsOf.filter fun x => t.installed x.1 }).commit0 c cmd

/-- PRESTAGE (R30): the first stationary tiles of the next micro-batch are in the update stream's region. -/
def execPrestage (c : CoreId) (s : State) : Out :=
  s.nextUnit c .u .prestage fun t cmd _ => (t.keepHeld c cmd).commit0 c cmd

/-! ## Chains (R179 to R181) -/

/-- The oldest running command of a stream whose stage `i` has a unit of the stage before to read. -/
def Core.handTodo (k : Core) (st : Stream) (i : Nat) : Option Cmd :=
  k.running st fun x => !x.bad && decide (i ≤ x.desc.lastStage) && k.hand.any fun h =>
    h.of x (i - 1) && (if x.desc.stages[i]? = some .mm then decide (x.passes < x.desc.passTotal) else h.unit == nthCount x.taken i)

/-- A unit of a stage after the first done by something other than an engine: the slot it read is freed, and `g` places its
result. -/
def State.stageUnit (s : State) (c : CoreId) (cmd : Cmd) (stage u : Nat) (g : State → List (List F32) → State) : State :=
  let rows := ((s.core c).handRows cmd (stage - 1) u).map fun r => r.map (BitVec.ofNat 32)
  g (s.updCore c fun k => (k.takeUnit cmd.desc.stream cmd stage).freeHand cmd (stage - 1) u) rows

/-- STASH_WR as the last stage of a chain. -/
def State.stashStage (s : State) (c : CoreId) (cmd : Cmd) (stage u : Nat) : State :=
  let x := outRows cmd.desc (((s.core c).handRows cmd (stage - 1) u).map fun r => r.map (BitVec.ofNat 32))
  let t := s.stashWrite c cmd x.1
  if t.2 then
    (t.1.coreEv c cmd.step x.2).stageUnit c cmd stage u fun y _ => y.updCore c fun k => k.commitUnit cmd.desc.stream cmd stage
  else t.1

/-- Unit `u` of a stage after the first, where the region has room for its output and its unit accepts it. -/
def State.handUnit (s : State) (c : CoreId) (cmd : Cmd) (stage u : Nat) (g : State → List (List F32) → State) : State :=
  if s.roomFor c cmd stage u = false then s.coreStall c 7
  else if s.accepts c cmd stage u then s.stageUnit c cmd stage u g else s

/-- HANDOVER_UNIT (R180): stage `stage` starts the next unit that the stage before has committed, when its own hand-over slot is
free. -/
def execHandoverUnit (c : CoreId) (st : Stream) (stage : StageNo) (s : State) : Out :=
  if stage = 0 then .next s
  else match (s.core c).handTodo st stage.val with
    | none => .next s
    | some cmd =>
      let i := stage.val
      let u := nthCount cmd.taken i
      match cmd.desc.stages[i]? with
      | some .mm => .next (s.issueBest c ((s.core c).mmWork fun x => x.desc.stream == st && x.desc.mmStage == i) (s.core c).lastCyc)
      | some .vec => .next (s.handUnit c cmd i u fun t rows => t.runVec c cmd i u rows)
      | some .pool => .next (s.handUnit c cmd i u fun t rows => t.poolStage c cmd i u rows)
      | some .stashWr => .next (s.stashStage c cmd i u)
      | _ => .next s

/-! ## Retirement and the deferred pool (R174, R176) -/

/-- Whether a command's outputs have left the stream's staging: no write of it is unacknowledged, and no output of it waits for the stash
(R174, R205). -/
def Core.outputsGone (k : Core) (cmd : Cmd) : Bool :=
  !(k.feed.queue.any fun x => x.kind == .write && x.stream == cmd.desc.stream && x.step == cmd.step && x.index == cmd.index)
    && !(k.lb.owed.any fun x => x.cmd.same cmd)

/-- Whether a stopped command has no pass or lookup left that could still commit a unit. -/
def State.stopped (s : State) (c : CoreId) (cmd : Cmd) : Bool :=
  cmd.bad && !((s.core c).openPasses.any fun p => p.stream == cmd.desc.stream && p.step == cmd.step && p.index == cmd.index)

/-- COMMAND_RETIRE (R174): a running command retires when its last unit has committed and its outputs have left staging; a stopped
one retires with what it has done (DEDUCED, log entry 33). -/
def execCommandRetire (c : CoreId) (st : Stream) (index : Nat) (s : State) : Out :=
  match (s.core c).running st fun x => x.index == index && (x.complete || s.stopped c x) && (s.core c).outputsGone x with
  | none => .next s
  | some cmd => .next (s.retire c cmd)

/-- DEFER_PROMOTE (R176): deferred commands that have waited DEFER_AGE core cycles are promoted. -/
def execDeferPromote (c : CoreId) (cyc : Nat) (s : State) : Out :=
  let t := s.clockTo c cyc
  let due := fun x : Cmd => !x.promoted && decide (x.enteredAt + s.fieldAt x.step "DEFER_AGE" c.val ≤ cyc)
  .next (t.updCore c fun k => { k with
    deferred := k.deferred.map fun x => if due x then { x with promoted := true } else x
    promotions := satAdd 0xFFFF k.promotions (k.deferred.filter due).length })

/-! ## No-progress detection (R183, R184, R570) and GOV_STREAM_CTL (R192) -/

/-- A dump entry of a command with the condition of R174 that it fails. -/
def State.dumpEntry (s : State) (cmd : Cmd) (unmet : Nat) : DumpEntry :=
  { index := cmd.index, step := cmd.step, mb := cmd.desc.mb.getD 0
    slot := (cmd.desc.mb.bind (s.slotOf cmd.step)).getD 0
    unmet := unmet, opcode := opNo cmd.desc.op, stream := streamNo cmd.desc.stream }

/-- State of a block in the dump's map: 0 free, 1 allocated, 2 pinned, 3 staged. -/
def State.dumpBlock (s : State) (c : CoreId) (pins : List Nat) (b : Nat) : Nat :=
  if pins.contains b then 2
  else if b < 16 then (if s.blockContent c b = .empty then 0 else 3)
  else match s.blockContent c b with
    | .stage => 3
    | .empty => if (kvGet {} b (s.core c).lb.blocks).owner = .free then 0 else 1
    | _ => 1

/-- The dump entries of an order of commands: in a stream all but the oldest fail condition 1. -/
def State.dumpList (s : State) (c : CoreId) (pool : Bool) (l : List Cmd) : List DumpEntry :=
  (l.take 16).zipIdx.map fun x =>
    s.dumpEntry x.1 (if pool || x.2 == 0 then ((s.unmet c x.1 (s.core c).lastCyc).map Prod.fst).getD 0 else 1)

/-- The dump of the Governor's state (R570). -/
def State.dumpOf (s : State) (c : CoreId) : Dump :=
  let k := s.core c
  let open' := sortBy id s.openSteps
  let pins := k.pins .f ++ k.pins .b ++ k.pins .u
  let acc := fun n : Nat =>
    let r := kvGet {} n k.lb.reserves
    (r.reserved, r.written)
  { step := open'.headD 0, blocked := k.blocked
    entries := [k.f.queue, k.b.queue, k.u.queue].flatMap (s.dumpList c false) ++ s.dumpList c true k.deferred
    blockMap := (List.range 512).map (s.dumpBlock c pins)
    slots := (List.range 8).map acc
    sync := (open'.take 4).flatMap fun n => (List.range 16).map fun i => kvGet 0 (n, i) k.sync }

/-- NO_PROGRESS (R183): at NOPROG_LIMIT the step-fatal fault is raised and the dump frozen, once until the dump is released. -/
def execNoProgress (c : CoreId) (s : State) : Out :=
  let k := s.core c
  if k.fired ∨ k.blocked < s.field "NOPROG_LIMIT" c.val then .next s
  else
    let d := s.dumpOf c
    .next ((s.raise .stepFatal 0x022 (unitNo 1 c.val) d.step 0).updCore c fun x => { x with fired := true, dump := some d })

/-- DUMP_VALID (R184, R192): writing 1 to bit 33 of GOV_NOPROG releases the dump. -/
def execDumpValid (c : CoreId) (value : W64) (s : State) : Out :=
  if value.getLsbD 33 then .next (s.updCore c fun k => { k with fired := false, dump := none }) else .next s

/-- GOV_STREAM_CTL (R192): the holds of the F, B and U streams. -/
def execGovStreamCtl (c : CoreId) (value : W64) (s : State) : Out :=
  .next (s.updCore c fun k => { k with
    fHold := value.getLsbD 0, bHold := value.getLsbD 1, uHold := value.getLsbD 2 })

end Sys2Proof.Machine
end

