-- ==== Sys2Proof/Machine/Arbiters.lean ====
section
/-! DEFINITION. Deadline-first arbiters: decisions, grants, the hold watchdog, turn estimates, and the engine clocks that they gate
(R210 to R217, R220). -/

namespace Sys2Proof.Machine

/-! ## Requests (R210, R217) -/

/-- Kind of the resource behind an arbitrated port: 0 memory bank, 1 network on chip, 2 Weir. -/
def portKind (port : Nat) : Nat := if port < 256 then 0 else if port < 288 then 1 else 2

/-- ARB_SLACK of a traffic class at a port (R210, R217). -/
def State.slackOf (s : State) (port cls : Nat) : Nat := s.field "ARB_SLACK" (portKind port * 8 + cls)

/-- A request as it arrives: its requester has formed the latest-service time from its view of the cycle count, and the arbiter turns the
time into remaining slack (R210). -/
def State.arbArrive (s : State) (port : Nat) (r : ArbReq) : ArbWait :=
  let latest := (r.view + s.slackOf port r.cls) % 2 ^ 16
  { cls := r.cls, requester := r.requester, arrived := r.raisedAt, slack := toSigned 16 (latest + 2 ^ 16 - r.raisedAt % 2 ^ 16) }

/-- The remaining slack of a waiting request in cycle `cyc` (R210). -/
def ArbWait.left (w : ArbWait) (cyc : Nat) : Int := max (-32768) (w.slack - ((cyc - w.arrived : Nat) : Int))

/-- Whether request `x` goes before request `y` (R211). -/
def arbBefore (cyc : Nat) (x y : ArbWait) : Bool :=
  decide (x.left cyc < y.left cyc) || (x.left cyc == y.left cyc && (decide (x.cls < y.cls)
    || (x.cls == y.cls && decide (x.requester < y.requester))))

/-- The winner among waiting requests. -/
def arbWinner (cyc : Nat) (l : List ArbWait) : Option ArbWait :=
  l.foldl (fun a x => match a with
    | none => some x
    | some y => if arbBefore cyc x y then some x else some y) none

/-- Requests raised up to cycle `cyc` wait at their port; a requester has one request. -/
def State.arbJoin (s : State) (port cyc : Nat) (raised : List ArbReq) : State :=
  let new := raised.map (s.arbArrive port)
  s.updArb port fun a => { a with
    lastCyc := max a.lastCyc cyc
    waiting := new.foldl (fun l x =>
      if l.any (fun y => y.requester == x.requester) || a.owner == some x.requester then l else l ++ [x]) a.waiting }

/-! ## Grants (R211 to R213) -/

/-- Lengths of the last 64 grants with one more. -/
def pushHold (n : Nat) (l : List Nat) : List Nat := (n :: l).take 64

/-- A decision among the waiting requests (R211): the wait of the winner is counted, and a transfer of it that was cut is reissued. -/
def Arb.decide' (a : Arb) (cyc : Nat) : Arb :=
  match arbWinner cyc a.waiting with
  | none => { a with owner := none }
  | some w =>
    let n := cyc - w.arrived
    { a with
      owner := some w.requester, ownerCls := w.cls, since := cyc, cutOwed := a.cutOwed.filter (· != w.requester)
      waiting := a.waiting.filter (fun x => x.requester != w.requester), estimates := kvDel w.requester a.estimates
      waitSum := satAdd (2 ^ 40 - 1) a.waitSum n, waits := satAdd (2 ^ 24 - 1) a.waits 1, waitMax := min (2 ^ 24 - 1) (max a.waitMax n) }

/-- The current grant ended. -/
def Arb.endGrant (a : Arb) (cyc : Nat) : Arb := match a.owner with
  | none => a
  | some _ => { a with owner := none, holds := pushHold (cyc - a.since) a.holds }

/-- ARB_DECISION (R211, R212): an owner that keeps its request raised keeps its grant; else, with the requests raised by now, the one with
the smallest remaining slack is granted, ties to the lower class and then to the lower requester. -/
def execArbDecision (port : Fin 344) (cycle : ArbAt) (kept : Bool) (s : State) : Out :=
  let t := s.arbJoin port.val cycle.cyc cycle.raised
  .next (if kept && (t.arb port.val).owner.isSome then t else t.updArb port.val fun a => (a.endGrant cycle.cyc).decide' cycle.cyc)

/-- ARB_HOLD (R213): a grant that has lasted ARB_HOLD_LIMIT cycles is withdrawn and its transfer cut, which its requester owes whole; the
requester is flagged, the correctable fault raised, and a new decision made. -/
def execArbHold (port : Fin 344) (cycle : ArbAt) (s : State) : Out :=
  let t := s.arbJoin port.val cycle.cyc cycle.raised
  let a := t.arb port.val
  match a.owner with
  | none => .next t
  | some o =>
    if cycle.cyc < a.since + t.field "ARB_HOLD_LIMIT" port.val then .next t
    else
      let u := t.updArb port.val fun x =>
        let y := x.endGrant cycle.cyc
        Arb.decide' { y with flagged := insNat o y.flagged, cuts := satAdd 0xFFFF y.cuts 1, cutOwed := addNew o y.cutOwed } cycle.cyc
      .next (u.raiseDev .correctable 0x030 (unitNo 12 port.val) (fld 0 6 o + fld 8 3 a.ownerCls))

/-! ## Turn estimates (R214, R215) -/

/-- The turn estimate of a waiting requester (R214): mean grant × (1 + those at least as urgent). -/
def Arb.estimate (a : Arb) (w : ArbWait) (cyc : Nat) : Nat :=
  let g := (a.holds.foldl (· + ·) 0) / max 1 a.holds.length
  let near := (a.waiting.filter fun x => x.requester != w.requester && x.left cyc ≤ w.left cyc).length
  min 0xFFFF (g * (1 + near))

/-- Whose wait a request is: at a core's port its core's; at a memory bank port requester `i` below 32 stands for core `i`, and 32 to 43 for
the Querns (log entry 126). -/
def waitCore (port requester : Nat) : Option CoreId :=
  if portKind port = 1 then some (Fin.ofNat 32 (port - 256))
  else if portKind port = 0 ∧ requester < 32 then some (Fin.ofNat 32 requester) else none
def waitQuern (port requester : Nat) : Option QuernId :=
  if portKind port = 0 ∧ 32 ≤ requester ∧ requester < 44 then some (Fin.ofNat 12 (requester - 32)) else none

/-- The wait for a grant counted by its unit (R215, R568). -/
def State.countGrant (s : State) (port requester : Nat) : State :=
  match waitCore port requester, waitQuern port requester with
  | some c, _ => s.coreStall c 2
  | none, some q => s.updQuern q fun k => { k with stall := stallCount 2 k.stall }
  | none, none => if portKind port = 2 then s.weirStall [2] else s

/-- Resource cycles of a port in cycles of a core's clock (R14, R215): memory controllers run at 1.2 GHz, Weir at 2.0 GHz, the network on
chip with the cores. -/
def State.toCoreCycles (s : State) (c : CoreId) (port n : Nat) : Nat :=
  let d := coreDivisor s.fuses.isAS (s.core c).div
  match portKind port with
  | 0 => n * 5 / d
  | 1 => n
  | _ => n * 3 / d

/-- The smallest estimate that requesters of a core hold, in core cycles, with its port and requester as port × 64 + requester. -/
def State.leastEstimate (s : State) (c : CoreId) : Option (Nat × Nat) :=
  (s.arbs.flatMap fun a => (a.2.estimates.filter fun e => waitCore a.1 e.1 == some c).map fun e =>
    (s.toCoreCycles c a.1 e.2, a.1 * 64 + e.1)).foldl (fun (m : Option (Nat × Nat)) x => match m with
      | none => some x
      | some y => if x.1 < y.1 then some x else some y) none

/-- Whether a core has waiting commands and every one waits on a grant: for an operand whose transfer is under way (R215). -/
def State.waitsOnGrants (s : State) (c : CoreId) : Bool :=
  let k := s.core c
  let cyc := k.lastCyc
  let granted := fun x : Unmet => match x with
    | some (4, cause) => decide (11 ≤ cause) && decide (cause ≤ 13)
    | _ => false
  let run := (k.f.running ++ k.b.running ++ k.u.running).filter fun x => !x.bad && !x.complete
  (run != [] || k.candidates != []) && run.all (fun x => granted (s.runUnmet c x cyc)) && k.candidates.all fun x => granted (s.unmet c x cyc)

/-- Idle engines gated when the smallest estimate exceeds GOV_SLEEP_MIN (R215): the spec permits it, and the model does it. -/
def State.gateEngines (s : State) (c : CoreId) : State :=
  let m := s.field "GOV_SLEEP_MIN" c.val
  match s.leastEstimate c with
  | none => s
  | some (est, who) =>
    if m = 0 ∨ est ≤ m ∨ s.waitsOnGrants c = false then s
    else
      let idle := fun e : Engine => e.inArray.isEmpty && e.assigned.isEmpty && e.replay.isEmpty && e.loading.isNone && !e.gated
      let until' := (s.core c).lastCyc + est - 64
      let gate := fun e : Engine => if idle e then { e with gated := true, wakeAt := until', gatedBy := who } else e
      s.updCore c fun k => { k with eng := kvPut 0 (gate (kvGet {} 0 k.eng)) (kvPut 1 (gate (kvGet {} 1 k.eng)) k.eng) }

/-- TURN_ESTIMATE (R214, R215): after every 256 cycles of waiting the requester learns its estimate; the wait is counted, and the Governor
of the core that waits may gate idle engines. -/
def execTurnEstimate (port : Fin 344) (requester : Nat) (cycle : ArbAt) (s : State) : Out :=
  let s1 := s.arbJoin port.val cycle.cyc cycle.raised
  let a := s1.arb port.val
  match a.waiting.find? fun w => w.requester == requester with
  | none => .next s1
  | some w =>
    if cycle.cyc < w.arrived + 256 * (w.told + 1) then .next s1
    else
      let t := s1.updArb port.val fun x => { x with
        estimates := kvPut requester (a.estimate w cycle.cyc) x.estimates
        waiting := x.waiting.map fun (y : ArbWait) => if y.requester = requester then { y with told := y.told + 1 } else y }
      let u := t.countGrant port.val requester
      .next (match waitCore port.val requester with
        | some c => u.gateEngines c
        | none => u)

/-- ENGINE_WAKE (R215): a gated engine wakes at the grant for which it was gated, or 64 core cycles before the estimate runs out; waking
takes 16 core cycles. -/
def execEngineWake (c : CoreId) (e : EngId) (cyc : Nat) (s : State) : Out :=
  let k := s.engine c e
  let granted := !((s.arb (k.gatedBy / 64)).waiting.any fun w => w.requester == k.gatedBy % 64)
  if k.gated && (granted || decide (k.wakeAt ≤ cyc)) then
    .next ((s.clockTo c cyc).updEngine c e fun x => { x with gated := false, wakeAt := cyc + 16 })
  else .next s

end Sys2Proof.Machine
end

