-- ==== Sys2Proof/Machine/Fabric.lean ====
section
/-! DEFINITION. The Popor fabric: ports and links, transport frames, routes, Ethernet, discovery, remote accesses and
acknowledgements (R395 to R430, R486 to R488). -/

namespace Sys2Proof.Machine

/-! ## Frames (R402, R403) -/

/-- The virtual channel of an opcode; none for a reserved opcode. -/
def opVc : Nat → Option Nat
  | 0x01 => some 1
  | 0x02 => some 7
  | 0x03 => some 5
  | 0x04 => some 7
  | 0x05 => some 0
  | 0x06 => some 7
  | 0x10 => some 2
  | 0x11 => some 7
  | 0x12 => some 2
  | 0x13 => some 2
  | 0x14 => some 2
  | 0x20 => some 4
  | 0x21 => some 4
  | 0x22 => some 4
  | 0x23 => some 4
  | 0x24 => some 4
  | 0x30 => some 6
  | 0x31 => some 6
  | 0x32 => some 6
  | 0x33 => some 6
  | 0x34 => some 6
  | 0x3E => some 7
  | _ => none

/-- Opcodes that a revision 2 link carries (R398). -/
def rev2Op (o : Nat) : Bool := (o != 0 && o ≤ 6) || o == 0x32 || o == 0x34 || o == 0x3E

/-- Bytes of a frame, and its slots of 16 B (R402). -/
def frameSize (f : Frame) : Nat := 32 + f.payload.length + (if f.enc then 16 else 0)
def frameSlots (f : Frame) : Nat := ((frameSize f) + 15) / 16

/-- Whether a frame breaks R403 on a link of revision `rev` (0 where it came by no link). -/
def frameInvalidOn (f : Frame) (rev : Nat) : Bool :=
  opVc f.opcode != some f.vc || !f.resvZero || 4096 < f.payload.length || !(f.rev == 2 || f.rev == 3)
    || (rev == 2 && !(rev2Op f.opcode))

/-- The transport header of a frame as a number (R402). -/
def frameHeader (f : Frame) : Nat :=
  fld 0 16 f.dst + fld 16 16 f.src + fld 32 8 f.opcode + fld 40 3 f.vc + fld 43 1 (bit f.enc) + fld 44 4 f.ctx.val
    + fld 48 4 f.hops + fld 52 2 f.rev + fld 54 1 (bit f.cont) + fld 64 13 f.payload.length + fld 80 16 f.tag
    + fld 96 48 f.step + fld 144 32 f.epoch + fld 176 64 f.counter

/-! ## Ports (R395 to R398) -/

/-- The mode and the highest rate of a port in the manifest; the third mode holds the port OFF (R395, R417). -/
def State.portMode (s : State) (p : PortId) : Nat := match s.atl.manifest with
  | some m => let x := m.modes.getD p.val 0; if x = 3 then 0 else x
  | none => 0
def State.portMax (s : State) (p : PortId) : Nat := match s.atl.manifest with
  | some m => min 3 (m.maxRates.getD p.val 0)
  | none => 0

/-- Buffer sizes of the virtual channels: VC 0 to 5 by POP_VC_SLOTS, SYSTEM and ESCAPE fixed (R407). -/
def State.vcSlots (s : State) : List Nat := (s.fieldL "POP_VC_SLOTS").take 6 ++ [1024, 8192]

/-- The ports of the device. -/
def allPorts : List PortId := List.finRange 16

/-- The device's pod number (R417). -/
def State.podNo (s : State) : Nat := match s.atl.manifest with
  | some m => m.pod
  | none => 0

/-- The ID of this device by the plan, or by the default of R418. -/
def State.planId (s : State) : DevId := match s.atl.manifest with
  | some m =>
    let tray := s.pow.tray.toNat
    match m.plan.find? fun x => x.1 == (m.pod, tray) with
    | some x => x.2
    | none => if m.pod * 64 + tray = 0xFFFF then 0 else m.pod * 64 + tray
  | none => 0

/-- The alternate ID of the plan (R452). -/
def State.alternateId (s : State) : DevId := match s.atl.manifest with
  | some m => ((m.alternates.find? fun x => x.1 == (m.pod, s.pow.tray.toNat)).map Prod.snd).getD 0
  | none => 0

/-- Manifest digest of the device. -/
def State.manifestDigest (s : State) : List Byte := match s.atl.manifest with
  | some m => m.digest
  | none => []

/-- The LINK_INIT of the device on a port (R399, R419). -/
def State.ownInit (s : State) (p : PortId) : LinkInit :=
  { rev := 3, rates := s.portMax p, trayId := s.pow.tray.toNat, pod := s.podNo, manifest := s.manifestDigest, port := p.val,
    peerId := s.fab.devId, bufs := s.vcSlots }

/-- A fault of a Popor port. -/
def State.portFault (s : State) (p : PortId) (code : Nat) : State := s.raiseDev .correctable code (unitNo 6 p.val) 0

/-! ## Routes (R410, R420, R421) -/

/-- Neighbours of a device in the pod graph. -/
def State.neighbours (s : State) (d : DevId) : List DevId := (kvGet [] d s.fab.graph).map (·.peer)

/-- Distances from the devices of a frontier by breadth-first search; `fuel` bounds the depth. -/
def bfs (next : DevId → List DevId) : Nat → Nat → List DevId → KV DevId Nat → KV DevId Nat
  | 0, _, _, m => m
  | fuel + 1, n, front, m =>
    let new := (front.flatMap next).foldl (fun l d => if kvHas d m then l else addNew d l) []
    if new = [] then m else bfs next fuel (n + 1) new (new.foldl (fun a d => kvPut d (n + 1) a) m)

/-- Devices of the pod graph. -/
def State.podDevices (s : State) : List DevId :=
  sortBy id ((s.fab.graph.flatMap fun x => x.1 :: x.2.map (·.peer)).foldl (fun l d => addNew d l) [])

/-- Whether a device counts as failed: by the membership record, or confirmed by this coordinator (R432, R434, R446). -/
def State.dead (s : State) (d : DevId) : Bool :=
  s.rcv.failedIds.contains d || s.rcv.badSpares.contains d || s.rcv.confirmed.any fun x => x.1 == d

/-- The pod coordinator: the lowest live device ID of the pod (R432). -/
def State.podCoord (s : State) : DevId := (s.podDevices.filter fun d => d != 0 && !s.dead d).headD 0

/-- Whether the link from `a` to `b` goes up: toward the end nearer the coordinator, a tie toward the lower ID (R410). -/
def goesUp (level : DevId → Nat) (a b : DevId) : Bool := level b < level a || (level b == level a && decide (b < a))

/-- A place of the route search: device, whether the route may still go up, hops, and the first ports of shortest routes. -/
abbrev Hop := DevId × Bool × Nat × List Nat

/-- One step of the search from a place. -/
def State.hopsFrom (s : State) (level : DevId → Nat) (h : Hop) : List Hop :=
  (s.neighbours h.1).filterMap fun b =>
    let up := goesUp level h.1 b
    if up && !h.2.1 then none else some (b, up, h.2.2.1 + 1, h.2.2.2)

/-- Places joined: equal ones unite their ports. -/
def joinHop (l : List Hop) (h : Hop) : List Hop :=
  if l.any fun x => x.1 == h.1 && x.2.1 == h.2.1 then
    l.map fun x => if x.1 == h.1 && x.2.1 == h.2.1 then (x.1, x.2.1, x.2.2.1, h.2.2.2.foldl (fun a p => insNat p a) x.2.2.2) else x
  else l ++ [h]

/-- Every place within `fuel` hops of the frontier. -/
def State.search (s : State) (level : DevId → Nat) : Nat → List Hop → List Hop → List Hop
  | 0, _, seen => seen
  | fuel + 1, front, seen =>
    let new := (front.flatMap (s.hopsFrom level)).filter fun h => !(seen.any fun x => x.1 == h.1 && x.2.1 == h.2.1)
    let merged := new.foldl joinHop []
    if merged = [] then seen else State.search s level fuel merged (seen ++ merged)

/-- The places that this device's own ports reach first. -/
def State.firstHops (s : State) (level : DevId → Nat) : List Hop :=
  (allPorts.filter fun p => s.portMode p == 1 && ((s.port p).state == .up || (s.port p).state == .retraining)
      && (s.port p).peerId != 0).foldl
    (fun l p => joinHop l ((s.port p).peerId, goesUp level s.fab.devId (s.port p).peerId, 1, [p.val])) []

/-- The routing table: for each device of the pod the first ports of a shortest legal route of at most 15 hops, and the devices
that lie farther (R410, R420, R421). -/
def State.routeTable (s : State) (coord : DevId) : KV DevId (List Nat) × List DevId :=
  let levels := bfs s.neighbours 64 0 [coord] [(coord, 0)]
  let level := fun d => kvGet 1000 d levels
  let first := s.firstHops level
  let all := s.search level 128 first first
  let best := fun d : DevId => (all.filter fun h => h.1 == d).foldl (fun (a : Option Hop) h => match a with
    | none => some h
    | some x => if h.2.2.1 < x.2.2.1 then some h
      else if h.2.2.1 = x.2.2.1 then some (x.1, x.2.1, x.2.2.1, h.2.2.2.foldl (fun l p => insNat p l) x.2.2.2) else some x) none
  let ds := s.podDevices.filter fun d => d != s.fab.devId && d != 0
  (ds.filterMap fun d => match best d with
    | some h => if h.2.2.1 ≤ 15 then some (d, h.2.2.2) else none
    | none => none,
   ds.filter fun d => match best d with
    | some h => decide (15 < h.2.2.1)
    | none => false)

/-- The pod of a device by the manifest. -/
def State.podOf (s : State) (d : DevId) : Nat := match s.atl.manifest with
  | some m => ((m.pods.find? fun x => x.1 == d).map Prod.snd).getD (d / 64)
  | none => 0

/-- The ETH port for a destination: a fixed function of its ID among the device's ETH ports (R413; DESIGN CHOICE, log entry 34); for the
collector of a difference stream DIFF_PORT (R504). -/
def State.ethPortOf (s : State) (d : DevId) : Option PortId :=
  let l := allPorts.filter fun p => s.portMode p == 2
  if s.atl.runCtx.isSome ∧ s.field "DIFF_DEST" = 1 ∧ (s.atl.manifest.map (·.collector)) = some d then some (Fin.ofNat 16 (s.field "DIFF_PORT"))
  else l[d % max 1 l.length]?

/-- The physical device that answers to an ID (R422). -/
def State.bound (s : State) (d : DevId) : DevId := ((s.rcv.bindings.find? fun x => x.1 == d).map Prod.snd).getD d

/-- Routes computed anew; each change of the table counts, and a destination beyond 15 hops raises POD_DEPTH. -/
def State.reroute (s : State) : State :=
  let r := s.routeTable s.podCoord
  let t := s.updFab fun f => { f with
    routes := r.1, gen := if r.1 = f.routes then f.gen else (f.gen + 1) % 2 ^ 32, coord := s.podCoord }
  r.2.foldl (fun a _ => a.raiseDev .correctable 0x076 (unitNo 0 0) 0) t

/-! ## Sending a frame (R399, R408, R413, R415, R420) -/

/-- Whether a native port takes a frame of an opcode now, apart from credits: up, or held with SYSTEM traffic only (R419). -/
def State.portTakes (s : State) (p : Nat) (f : Frame) : Bool :=
  let k := s.port (Fin.ofNat 16 p)
  (k.state == .up || (k.state == .held && f.vc == 6)) && (k.rev != 2 || rev2Op f.opcode)

/-- The element of a list that a flow's hash chooses (R420). -/
def chooseBy (f : Frame) (l : List Nat) : Option Nat := match l with
  | [] => none
  | [p] => some p
  | _ => l[Config.flowHash f.src f.dst f.vc % l.length]?

/-- K_E of a context (R486): the first 32 bytes of HMAC-SHA-384(JM, "POPOR" || JOB_ID || E). -/
def State.epochKey (s : State) (c : CtxId) (epoch : Nat) : List Byte :=
  (hmac384 (leBytes 32 (s.ctx c).jm) ([0x50, 0x4F, 0x50, 0x4F, 0x52] ++ leBytes 8 (s.ctx c).jobId ++ leBytes 4 epoch)).take 32

/-- The nonce of a frame: SRC, COUNTER and two zero bytes (R486). -/
def frameNonce (f : Frame) : List Byte := leBytes 2 f.src ++ leBytes 8 f.counter ++ [0, 0]

/-- The bytes of a frame on a link (R402, R486): header, payload and tag. A frame of this device's own is encrypted under the key of its
epoch, with the header as its source forms it for additional data (log entry 129); of a frame of another device only the length of the tag
is known here. -/
def State.wireBytes (s : State) (f : Frame) : List Byte :=
  leBytes 32 (frameHeader f) ++
    (if f.enc = false then f.payload
     else if f.src = s.me then
       Config.aesGcmSeal (s.epochKey f.ctx f.epoch) (frameNonce f) (leBytes 32 (frameHeader { f with hops := 15 })) f.payload
     else f.payload ++ (List.range 16).map (Config.freeByte f.counter))

/-- TYPE of a flit as a number (R399). -/
def flitNo : FlitType → Nat
  | .data => 0
  | .ctrl => 1
  | .idle => 2
  | .nak => 3

/-- A flit: the link header of R399, 240 B of payload, and the CRC over both. -/
def makeFlit (type : FlitType) (vc first seq ack crVc crCount : Nat) (part : List Byte) : Flit :=
  let head := fld 0 2 (flitNo type) + fld 3 3 vc + fld 6 4 first + fld 10 12 seq + fld 22 12 ack + fld 34 3 crVc + fld 37 16 crCount
  let body := leBytes 12 head ++ part ++ List.replicate (240 - part.length) 0
  { type := type, vc := vc, first := first, seq := seq, ack := ack, crVc := crVc, crCount := crCount, crc := crc32c body, body := body }

/-- The DATA flits of a frame with its bytes: 15 slots of payload each (R399). One frame fills flits of its own here (DESIGN CHOICE, log
entry 35). -/
def flitsOf (f : Frame) (bytes : List Byte) (seq ack : Nat) : List (Nat × Flit) :=
  (List.range (((frameSlots f) + 14) / 15)).map fun i =>
    let n := (seq + i) % 4096
    (n, makeFlit .data f.vc (if i = 0 then 1 else 0) n ack 0 0 ((bytes.drop (240 * i)).take 240))

/-- Highest sequence number that a port has received in order. -/
def Port.lastGood (k : Port) : Nat := (k.expect + 4095) % 4096

/-- A CTRL flit that carries a link message: it takes the next SEQ and stands in the retry buffer. The spec lays out no bytes of the
message, which are free (log entry 35). -/
def State.sendCtrl (s : State) (p : PortId) : State :=
  let k := s.port p
  let f := makeFlit .ctrl 0 0 k.nextSeq k.lastGood 0 0 ((List.range 240).map (Config.freeByte s.fresh))
  s.tick.updPort p fun x => { x with nextSeq := (x.nextSeq + 1) % 4096, retry := x.retry ++ [(x.nextSeq, f)] }

/-- Slots of a port's input buffer returned to the peer, in a flit that carries nothing else (R399, R408). -/
def State.giveSlots (s : State) (p : PortId) (vc n : Nat) : State :=
  s.emit [.flit p (makeFlit .idle 0 0 0 (s.port p).lastGood vc n [])]

/-- A frame leaves the input buffer of the port it came by: its slots go back to the peer; those of a frame for Weir's storage only while
that has room (R320, R408, R412). -/
def State.returnSlots (s : State) (p : PortId) (f : Frame) (kept : Bool) : State :=
  if s.portMode p ≠ 1 then s
  else if kept && f.vc == 4 && s.weir.creditHeld then
    s.updFab fun x => { x with owedSlots := x.owedSlots ++ [(p.val, f.vc, frameSlots f)] }
  else s.giveSlots p f.vc (frameSlots f)

/-- Withheld slots returned once Weir's storage has room. -/
def State.payOwed (s : State) : State :=
  if s.weir.creditHeld then s
  else s.fab.owedSlots.foldl (fun t x => t.giveSlots (Fin.ofNat 16 x.1) x.2.1 x.2.2) (s.updFab fun f => { f with owedSlots := [] })

/-- A frame sent on a native port: one hop fewer, its slots deducted from the credits, its flits in the retry buffer. -/
def State.sendNative (s : State) (p : Nat) (f : Frame) : State :=
  let id : PortId := Fin.ofNat 16 p
  let g := { f with hops := f.hops - 1 }
  let t := s.updPort id fun k =>
    let fl := flitsOf g (s.wireBytes g) k.nextSeq k.lastGood
    let r := k.retry ++ fl
    { k with
      credits := k.credits.set f.vc (k.credits.getD f.vc 0 - (frameSlots f)), nextSeq := (k.nextSeq + fl.length) % 4096
      retry := r, retryPeak := max k.retryPeak r.length, tx := satAdd stallMax k.tx (frameSize f) }
  t.emit [.frame id g]

/-- What a frame meets at the device: sent, or why it waits. -/
inductive SendResult
  | sent (s : State)
  | noRoute
  | noGrant
  | noRoom
  deriving DecidableEq, Repr

/-- The flow to a device on a virtual channel (R414). -/
def State.flow (s : State) (d : DevId) (vc : Nat) : Flow := kvGet {} (d, vc) s.fab.flows
def State.updFlow (s : State) (d : DevId) (vc : Nat) (g : Flow → Flow) : State :=
  s.updFab fun f => { f with flows := kvPut (d, vc) (g (s.flow d vc)) f.flows }

/-- ETH_RTO_US in ns. -/
def State.rtoBase (s : State) : Nat := s.field "ETH_RTO_US" * 1000

/-- What a device's manifest gives for Ethernet (R417): the UDP port, the DSCP of a virtual channel, and the address of a device ID. -/
def State.udpPort (s : State) : Nat := ((s.atl.manifest).map (·.udpPort)).getD 49430
def State.dscpOf (s : State) (vc : Nat) : Nat := ((s.atl.manifest).map fun m => m.dscp.getD vc 0).getD 0
def State.ethAddr (s : State) (d : DevId) : List Byte :=
  match (s.atl.manifest).bind fun m => m.addrs.find? fun x => x.1 == d with
  | some x => x.2
  | none => []

/-- The 16-byte encapsulation header of a packet as a number (R414). -/
def encapHeader (k : EthPacket) : Nat :=
  fld 0 32 k.psn + fld 32 32 k.ackPsn + fld 64 1 (bit k.ackValid) + fld 65 1 (bit k.nak) + fld 66 1 (bit k.ceEcho)
    + fld 67 1 (bit k.grantValid) + fld 68 3 k.vc + fld 72 16 k.grant

/-- The UDP payload of a packet: the encapsulation header and at most one frame, its tag left out (R414). -/
def ethPayload (k : EthPacket) : List Byte :=
  leBytes 16 (encapHeader k) ++ (match k.frame with
    | some f => leBytes 32 (frameHeader f) ++ f.payload
    | none => [])

/-- Frames that the ETH ingress pool has room for (R415). -/
def State.poolRoomEth (s : State) : Nat :=
  Config.ethPool - (s.fab.waitingFrames.filter fun x => (x.1.map fun p => s.portMode (Fin.ofNat 16 p) == 2).getD false).length

/-- A packet of a flow: with the acknowledgement and the grant of the reverse flow (R414). -/
def State.ethPacketOf (s : State) (d : DevId) (vc psn : Nat) (nak : Bool) (f : Option Frame) : EthPacket :=
  let k := s.flow d vc
  { sport := Config.flowHash s.me d vc % 2 ^ 16, dport := s.udpPort, dscp := s.dscpOf vc, ip := s.ethAddr d, src := s.fab.devId, dst := d, vc := vc, psn := psn, ackPsn := (k.expect + 2 ^ 32 - 1) % 2 ^ 32, ackValid := true, nak := nak,
    ceEcho := k.ceSeen, grantValid := true, grant := min (2 ^ 16 - 1) s.poolRoomEth, ceMark := false, frame := f }

/-- A frame sent through an ETH port: kept until it is acknowledged; a data frame uses a grant, a reply does not (R415). -/
def State.sendEth (s : State) (p : PortId) (f : Frame) : State :=
  let d := s.bound f.dst
  let k := s.flow d f.vc
  let base := if k.rto = 0 then s.rtoBase else k.rto
  let t := s.emit [.eth p (s.ethPacketOf d f.vc k.nextPsn false (some f))]
  let u := t.updFlow d f.vc fun x => { x with
    nextPsn := (x.nextPsn + 1) % 2 ^ 32, unacked := x.unacked ++ [(x.nextPsn, f)], ceSeen := false, rto := base
    grant := if f.vc = 7 then x.grant else x.grant - 1, deadline := if x.unacked = [] then s.now + base else x.deadline }
  u.updPort p fun y => { y with tx := satAdd stallMax y.tx (frameSize f) }

/-- A frame offered to the port of its destination. -/
def State.trySend (s : State) (f : Frame) : SendResult :=
  match ((kvFind (s.bound f.dst) s.fab.routes).map fun l => l.filter fun p => s.portTakes p f) with
  | some l => match chooseBy f l with
    | none => .noRoute
    | some p =>
      let k := s.port (Fin.ofNat 16 p)
      if (frameSlots f) ≤ k.credits.getD f.vc 0 ∧ k.retry.length + ((frameSlots f) + 14) / 15 ≤ 1024 then .sent (s.sendNative p f) else .noRoom
  | none =>
    if s.podOf (s.bound f.dst) = s.podNo then .noRoute
    else match s.ethPortOf (s.bound f.dst) with
      | none => .noRoute
      | some p =>
        let k := s.flow (s.bound f.dst) f.vc
        if (s.port p).state ≠ .up then .noRoute
        else if k.window ≤ k.unacked.length then .noRoom
        else if f.vc ≠ 7 ∧ k.grant = 0 then .noGrant
        else .sent (s.sendEth p f)

/-- Whether an earlier frame of the same flow waits: frames of one (SRC, DST, VC) keep their order (R406). -/
def State.behind (s : State) (f : Frame) : Bool :=
  s.fab.waitingFrames.any fun x => x.2.src == f.src && x.2.dst == f.dst && x.2.vc == f.vc

/-- A packet without a frame that asks for a grant for a flow (R415): it uses none, and it is sent again after the timeout. -/
def State.askGrant (s : State) (d : DevId) (vc : Nat) : State :=
  match s.ethPortOf d with
  | none => s
  | some p => (s.emit [.eth p (s.ethPacketOf d vc 0 false none)]).updFlow d vc fun x => { x with
      rto := if x.rto = 0 then s.rtoBase else x.rto
      deadline := if x.unacked = [] then s.now + (if x.rto = 0 then s.rtoBase else x.rto) else x.deadline }

/-- A frame that waits, counted by what it waits for; one that waits for a grant asks for it. -/
def State.holdFrame (s : State) (inPort : Option Nat) (f : Frame) (r : SendResult) : State :=
  let t := s.updFab fun x => { x with
    waitingFrames := x.waitingFrames ++ [(inPort, f)]
    noroute := if r = .noRoute then satAdd 0xFFFF x.noroute 1 else x.noroute
    grantWaits := if r = .noGrant then satAdd 0xFFFF x.grantWaits 1 else x.grantWaits }
  if r = .noGrant then t.askGrant (s.bound f.dst) f.vc else t

/-- A frame that has gone on leaves the input buffer of the port it came by. -/
def State.leave (s : State) (inPort : Option Nat) (f : Frame) : State := match inPort with
  | some p => s.returnSlots (Fin.ofNat 16 p) f false
  | none => s

/-- A frame sent, or kept waiting. -/
def State.route (s : State) (inPort : Option Nat) (f : Frame) : State :=
  if s.behind f then s.holdFrame inPort f .noRoom
  else match s.trySend f with
    | .sent t => t.leave inPort f
    | r => s.holdFrame inPort f r

/-- Waiting frames offered again, in order. -/
def State.drain (s0 : State) : State :=
  let s := s0.payOwed
  let l := s.fab.waitingFrames
  l.foldl (fun t x =>
    let again := fun u : State => u.updFab fun y => { y with waitingFrames := y.waitingFrames ++ [x] }
    if t.behind x.2 then again t
    else match t.trySend x.2 with
      | .sent u => u.leave x.1 x.2
      | _ => again t) (s.updFab fun y => { y with waitingFrames := [] })

/-! ## Receiving a frame (R402, R425, R486 to R488) -/

/-- Rack-trusted mode (R488): before a key is held, before full service, or by the running context's JOB_LINK_MODE. -/
def State.rack (s : State) : Bool :=
  !(s.atl.ctxs.any fun x => x.2.keyed) || decide (s.pow.phase < 5) || (s.atl.runCtx.isSome && s.field "JOB_LINK_MODE" == 1)

/-- Frames that travel unencrypted in normal service: DISCOVER, HEARTBEAT and CTL frames that carry SPDM (R485, R487). -/
def frameOpen (f : Frame) : Bool :=
  f.opcode == 0x34 || f.opcode == 0x32 || ((f.opcode == 0x05 || f.opcode == 0x06) && f.payload.headD 0 == 1)

/-- The replay window of a frame's source, channel and key. -/
def State.window (s : State) (f : Frame) : Nat × List Nat := kvGet (0, []) (f.src, f.vc, f.ctx.val, f.epoch) s.fab.windows

/-- Whether a COUNTER may be accepted: above the highest less 4,096, and only once (R486). -/
def State.fresh' (s : State) (f : Frame) : Bool :=
  let w := s.window f
  decide (w.1 < f.counter + 4096) && decide (0 < f.counter) && !w.2.contains f.counter

/-- A COUNTER accepted. -/
def State.noteCounter (s : State) (f : Frame) : State :=
  let w := s.window f
  let top := max w.1 f.counter
  s.updFab fun x => { x with
    windows := kvPut (f.src, f.vc, f.ctx.val, f.epoch) (top, (f.counter :: w.2).filter fun c => top < c + 4096) x.windows }

/-- How the security checks of normal service end for a frame: accepted, or a failure with whether the replay check failed. -/
def State.secCheck (s : State) (f : Frame) : Option Bool :=
  if s.rack || frameOpen f then none
  else if f.enc = false ∨ f.tagOk = false ∨ f.epoch ≠ s.ctl.memEpoch then some false
  else if s.fresh' f then none else some true

/-- A frame discarded under R487. -/
def State.authDrop (s : State) (replay : Bool) : State :=
  (s.updAtl fun a => { a with
    authFail := satAdd 0xFFFFFFFF a.authFail 1
    replayFail := if replay then satAdd 0xFFFFFFFF a.replayFail 1 else a.replayFail }).raiseDev .correctable 0x075 (unitNo 9 0) 0

/-- Whether a frame comes from a revoked device under an older epoch (R425, R440). -/
def State.revoked (s : State) (f : Frame) : Bool := s.rcv.failedIds.contains f.src && decide (f.epoch < s.ctl.memEpoch)

/-- Whether a frame is for this device: its own ID, the ID it is bound to, or a link-local DISCOVER (R402, R422). -/
def State.mine (s : State) (f : Frame) : Bool :=
  f.dst == s.fab.devId || (s.fab.boundId != 0 && f.dst == s.fab.boundId) || f.dst == 0xFFFF

/-- Whether a frame for this device is taken, and the state after the checks. -/
def State.admitFrame (s : State) (f : Frame) : State × Bool :=
  if s.revoked f then (s, false)
  else match s.secCheck f with
    | some replay => (s.authDrop replay, false)
    | none => ((if s.rack || frameOpen f then s else s.noteCounter f), true)

/-- A frame consumed locally: what passes the checks is handed to its unit. -/
def State.consume (s : State) (f : Frame) : State :=
  let r := s.admitFrame f
  if r.2 then (r.1.updFab fun x => { x with delivered := x.delivered ++ [f] }).joinRecords f else r.1

/-- COUNTERs that this device has used under the key of a context and its membership epoch: they start at 1 under each key (R486). -/
def State.sentUnder (s : State) (ctx : Nat) : Nat := kvGet 0 (ctx, s.ctl.memEpoch) s.fab.keySent
/-- `n` more COUNTERs used under that key. -/
def State.useCounters (s : State) (ctx n : Nat) : State :=
  s.updFab fun x => { x with keySent := kvPut (ctx, s.ctl.memEpoch) (s.sentUnder ctx + n) x.keySent }

/-- The header that this device gives a frame of its own: HOPS 15, the next COUNTER and its membership epoch (R402, R421, R486). -/
def State.ownFrame (s : State) (f : Frame) : Frame :=
  { f with src := s.me, hops := 15, counter := s.sentUnder f.ctx.val + 1, epoch := s.ctl.memEpoch, enc := !(s.rack || frameOpen f) }

/-- Whether a fenced device may send a frame: SYSTEM frames to its coordinators only (R435). -/
def State.maySend (s : State) (f : Frame) : Bool := !s.fenced || (f.vc == 6 && f.dst == s.fab.coord)

/-- A frame that came by a port. -/
def State.frameIn (s : State) (p : PortId) (f : Frame) : State :=
  let k := s.port p
  if frameInvalidOn f k.rev || (k.state == .held && f.vc != 6) then
    s.updPort p fun x => { x with frameInvalid := satAdd 0xFFFF x.frameInvalid 1 }
  else
    let t := s.updPort p fun x => { x with rx := satAdd stallMax x.rx (frameSize f) }
    if s.mine f then (t.consume f).returnSlots p f true
    else if s.revoked f then t.returnSlots p f false
    else if f.hops = 0 then
      ((t.updFab fun x => { x with hopDrops := satAdd 0xFFFF x.hopDrops 1 }).raise .stepFatal 0x072 (unitNo 6 p.val) f.step 0).returnSlots
        p f false
    else if s.maySend f then t.route (some p.val) f else t.returnSlots p f false

/-- The frame of records that this device sends next toward the destination and virtual channel of a frame (R405), and the state once it has
left; none where no record waits. Any other frame carries what it is given. -/
def State.fillFrame' (s : State) (f : Frame) : Option (Frame × State) :=
  if recordOp f.opcode then match s.nextPacked f.dst f.vc with
    | none => none
    | some (r, body, left) => some ({ f with opcode := r.opcode, step := r.step, ctx := r.ctx, cont := r.begun, payload := body },
        s.updFab fun x => { x with outRecs := kvPut (f.dst, f.vc) left x.outRecs })
  else some (f, s)

/-- FRAME_FORWARD (R403, R420, R421): a frame that came by a port is validated and consumed here or sent on toward its destination;
without a port it is one of this device's own, whose records are those that wait for it (R405). -/
def execFrameForward (inPort : Option PortId) (f : Frame) (s : State) : Out :=
  let t := s.drain
  match inPort with
  | some p => .next (t.frameIn p f)
  | none => match t.fillFrame' f with
    | none => .next t
    | some (f', t') =>
      let g := t'.ownFrame f'
      if frameInvalidOn g 0 || !(t'.maySend g) then .next t
      else
        let u := t'.useCounters f'.ctx.val 1
        .next (if u.mine g then u.consume g else u.route none g)

/-! ## Links (R397 to R400, R408, R423) -/

/-- The highest rate at which a port may train: NATIVE ports at no more than 106.25 Gb/s a lane in phase 3, ETH ports from phase 4
on (R397, R419). -/
def State.rateCap (s : State) (p : PortId) : Nat :=
  if s.pow.phase < 3 ∨ (s.portMode p = 2 ∧ s.pow.phase < 4) then 0
  else if s.pow.phase = 3 then min 2 (s.portMax p) else s.portMax p

/-- A suspicion noted at the coordinator, or withdrawn (R433, R434): who saw it, by which of its ports, and when. -/
def State.noteSuspicion (s : State) (src dev : DevId) (port : Nat) (withdrawn : Bool) (at' : Nat) : State :=
  s.updRcv fun r => { r with suspicions :=
    let l := r.suspicions.filter fun x => !(x.1 == src && x.2.1 == dev && x.2.2.1 == port)
    if withdrawn then l else l ++ [(src, dev, port, at')] }

/-- A suspicion of a neighbour reported to the pod coordinator (R423). -/
def State.reportSuspicion (s : State) (dev : DevId) (port : Nat) (withdrawn : Bool) (at' : Nat) : State :=
  if s.rcv.isCoord then s.noteSuspicion s.fab.devId dev port withdrawn at'
  else s.emit [.suspicion s.fab.coord dev withdrawn]

/-- Flits of the retry buffer after sequence number `ack` sent again; those up to it are freed. -/
def Port.resend (k : Port) (ack : Nat) : Port × List Flit :=
  let r := if k.retry.any (fun x => x.1 == ack) then (k.retry.dropWhile fun x => x.1 != ack).drop 1 else k.retry
  ({ k with retry := r }, r.map Prod.snd)
def State.resendFrom (s : State) (p : PortId) (ack : Nat) : State :=
  let r := (s.port p).resend ack
  (s.updPort p fun _ => r.1).emit (r.2.map (Msg.flit p))

/-- LINK_TRAIN (R397, R400): the port trains at the highest rate that both ends, the channel and POP_MAX_RATE permit; `rates` are those
at which training succeeds. A retrain keeps the retry buffer, resends, and withdraws the suspicion; an ETH port that loses a lane
goes down. -/
def execLinkTrain (p : PortId) (rates : List Nat) (half : Bool) (s : State) : Out :=
  let mode := s.portMode p
  let k := s.port p
  match (rates.filter fun r => 1 ≤ r && r ≤ s.rateCap p).foldl (fun a r => max a r) 0 with
  | 0 => .next s
  | r =>
    if mode = 0 then .next s
    else if mode = 2 ∧ half = true then .next (s.updPort p fun x => { x with state := .down, rate := 0 })
    else
      let back := k.state == .retraining
      let up := mode == 2 || back || k.state == .up
      let rtt := Config.freeNat s.fresh % 2 ^ 16
      let t := s.tick.updPort p fun x => { x with
        state := if up then .up else .training, rate := r, half := half, rtt := rtt, rev := if mode = 2 then 3 else x.rev }
      let u := if mode = 1 then (t.emit [.linkInit p (t.ownInit p)]).sendCtrl p else t
      let v := if back then (u.resendFrom p 4096).reportSuspicion k.peerId p.val true s.now else u
      .next v.drain

/-- The device's own neighbours (R419). -/
def State.ownNeighbours (s : State) : List Neighbour :=
  (allPorts.filter fun p => s.portMode p == 1 && (s.port p).state == .up).map fun p =>
    { port := p.val, peer := (s.port p).peerId, peerPort := (s.port p).peerPort }

/-- What is known of the pod graph sent on every NATIVE port that runs. -/
def State.flood (s : State) (sender : DevId) (ns : List Neighbour) : State :=
  s.emit ((allPorts.filter fun p => s.portMode p == 1 && ((s.port p).state == .up || (s.port p).state == .held)).map fun p =>
    .discover p sender ns)

/-- The device's ID taken (R418, R452): the plan's; where the membership record binds that ID to another device, the alternate. An ID that
another device of the pod has claimed is a conflict (R419). -/
def State.takeId (s : State) : State :=
  if s.fab.devId ≠ 0 ∨ s.fab.conflict = true then s
  else
    let d := s.planId
    if s.rcv.bindings.any fun x => x.1 == d && x.2 != d then
      let a := s.alternateId
      let t := s.updFab fun f => { f with devId := a, pod := s.podNo }
      if a = 0 then t.raiseDev .correctable 0x085 (unitNo 9 0) 0 else t
    else if kvHas d s.fab.graph then (s.updFab fun f => { f with conflict := true }).raiseDev .correctable 0x074 (unitNo 0 0) 0
    else s.updFab fun f => { f with devId := d, pod := s.podNo }

/-- This device's entry of the pod graph brought up to date and flooded. -/
def State.announce (s : State) : State :=
  let ns := s.ownNeighbours
  (s.updFab fun f => { f with graph := kvPut f.devId ns f.graph, graphAt := s.now, graphDone := false }).flood s.fab.devId ns

/-- LINK_INIT (R398, R399, R408, R419): the link runs the lower revision; credits are the peer's buffer sizes. A peer of another pod or
manifest leaves the port held with SYSTEM traffic only. -/
def execLinkInit (p : PortId) (l : LinkInit) (s : State) : Out :=
  let k := s.port p
  if s.portMode p ≠ 1 ∨ k.state = .absent ∨ k.state = .down then .next s
  else
    let rev := min 3 l.rev
    let same := l.pod == s.podNo && l.manifest == s.manifestDigest
    let st : PortState := if rev < 2 then .down else if same then .up else .held
    let t := (s.updPort p fun x => { x with
      state := st, rev := rev, credits := l.bufs, peerId := l.peerId, peerTray := l.trayId, peerPort := l.port
      rate := if rev = 2 then min 2 x.rate else x.rate }).takeId
    if st = .held then .next (t.portFault p 0x073)
    else if st = .up then .next t.announce.drain
    else .next t

/-- Acknowledgement and credit that a good flit brings (R399, R408). -/
def Port.flitHeader (k : Port) (f : Flit) : Port :=
  let r := if k.retry.any (fun x => x.1 == f.ack) then (k.retry.dropWhile fun x => x.1 != f.ack).drop 1 else k.retry
  { k with retry := r, credits := k.credits.set f.crVc (k.credits.getD f.crVc 0 + f.crCount) }

/-- NAK sent on a port with the last good SEQ (R400). -/
def State.sendNak (s : State) (p : PortId) : State :=
  let k := s.port p
  (s.updPort p fun x => { x with naks := satAdd 0xFFFF x.naks 1, awaitResend := true }).emit
    [.flit p (makeFlit .nak 0 0 0 k.lastGood 0 0 [])]

/-- NAKs of the last millisecond with one more, and whether they reach POP_RETRY_LIMIT. -/
def recentNaks (l : List Nat) (at' : Nat) : List Nat := at' :: l.filter fun t => at' < t + 1000000

/-- A NAK taken: the flits after the last good one are sent again, or the port retrains (R400). -/
def State.takeNak (s : State) (p : PortId) (ack at' : Nat) : State :=
  let l := recentNaks (s.port p).naksAt at'
  if s.field "POP_RETRY_LIMIT" p.val ≤ l.length then
    ((s.resendFrom p ack).updPort p fun k => { k with
      state := .retraining, retrains := satAdd 0xFFFF k.retrains 1, retrainAt := at', naksAt := [] }).portFault p 0x070
  else (s.resendFrom p ack).updPort p fun k => { k with naksAt := l }

/-- FLIT_RECEIVE (R400): a flit whose CRC fails, or a DATA or CTRL flit out of order, is discarded and NAK is sent; every later one is
discarded until the resend arrives. -/
def execFlitReceive (p : PortId) (f : Flit) (s : State) : Out :=
  let k := s.port p
  if k.state = .absent ∨ k.state = .down then .next s
  else if crc32c f.body ≠ f.crc then
    .next ((s.updPort p fun x => { x with crcErr := satAdd 0xFFFF x.crcErr 1 }).sendNak p)
  else
    let t := s.updPort p fun x => x.flitHeader f
    match f.type with
    | .idle => .next t.drain
    | .nak => .next (t.takeNak p f.ack s.now).drain
    | _ =>
      if f.seq = k.expect then
        .next (t.updPort p fun x => { x with expect := (x.expect + 1) % 4096, awaitResend := false }).drain
      else if k.awaitResend then .next t.drain
      else .next (t.sendNak p).drain

/-- NAK (R400): resend from ACK + 1; POP_RETRY_LIMIT NAKs within 1 ms retrain the port. -/
def execNak (p : PortId) (ack : Nat) (at' : Nat) (s : State) : Out := .next ((s.at' at').takeNak p ack at')

/-- POP_RETRAIN_LIMIT (R400, R423): a retrain that has not succeeded takes the port down; the flits left are lost. -/
def execPopRetrainLimit (p : PortId) (at' : Nat) (s : State) : Out :=
  let k := s.port p
  if k.state = .retraining ∧ k.retrainAt + s.field "POP_RETRAIN_LIMIT" p.val * 1000000 ≤ at' then
    let t := (s.at' at').updPort p fun x => { x with state := .down, rate := 0, retry := [], credits := [] }
    .next ((t.updFab fun f => { f with gen := (f.gen + 1) % 2 ^ 32 }).portFault p 0x071)
  else .next s

/-- Free slots of each virtual channel of a port's input buffer. -/
def State.freeSlots (s : State) (p : PortId) : List Nat :=
  s.vcSlots.zipIdx.map fun x =>
    x.1 - (s.fab.waitingFrames.filter fun w => w.1 == some p.val && w.2.vc == x.2).foldl (fun a w => a + (frameSlots w.2)) 0
      - (s.fab.owedSlots.filter fun w => w.1 == p.val && w.2.1 == x.2).foldl (fun a w => a + w.2.2) 0

/-- CREDIT_SYNC (R425): the peer's free slots replace the credit counts. -/
def execCreditSync (p : PortId) (free : List Nat) (s : State) : Out :=
  .next (s.updPort p fun k => { k with credits := free }).drain

/-- What every device does at an epoch increment (R425): buffered frames of revoked sources and of aborted steps are discarded, credits
resynchronised, ETH flows to revoked devices closed, and routes and bindings applied. -/
def State.resync (s : State) (gone : List DevId) (aborted : Nat → Bool) : State :=
  let keep := fun f : Frame => !(gone.contains f.src && decide (f.epoch < s.ctl.memEpoch)) && !(f.step != 0 && aborted f.step)
  let t := s.updFab fun f => { f with
    waitingFrames := f.waitingFrames.filter fun x => keep x.2
    flows := f.flows.filter fun x => !gone.contains x.1.1
    windows := f.windows.filter fun x => x.1.2.2.1 != s.ctxNo || x.1.2.2.2 == s.ctl.memEpoch
    keySent := f.keySent.filter fun x => x.1.1 != s.ctxNo || x.1.2 == s.ctl.memEpoch }
  let ports := allPorts.filter fun p => t.portMode p == 1 && (t.port p).state == .up
  let synced := ports.foldl (fun u p => u.sendCtrl p) (t.emit (ports.map fun p => .creditSync p (t.freeSlots p)))
  (synced.dropRecords fun n => n != 0 && aborted n).reroute.drain

/-- ETH_PORT_DOWN (R397, R423): an ETH port that loses a lane or its signal goes down; frames for its destinations wait. -/
def execEthPortDown (p : PortId) (s : State) : Out :=
  if s.portMode p = 2 ∧ (s.port p).state ≠ .down then
    .next ((s.updPort p fun k => { k with state := .down, rate := 0 }).portFault p 0x071)
  else .next s

/-! ## Ethernet (R414, R415) -/

/-- An acknowledgement on a flow: frames up to PSN freed, the timeout at its base, and the window one larger for each window
acknowledged. -/
def Flow.acked' (k : Flow) (psn base at' : Nat) : Flow :=
  let le := fun x : Nat => (psn + 2 ^ 32 - x) % 2 ^ 32 < 2 ^ 31
  let left := k.unacked.filter fun x => !le x.1
  let n := k.unacked.length - left.length
  if n = 0 then k
  else
    let a := k.acked + n
    { k with
      unacked := left, rto := base, deadline := at' + base
      acked := if k.window ≤ a then a - k.window else a, window := if k.window ≤ a then k.window + 1 else k.window }

/-- Frames of a flow sent again from a PSN on. -/
def State.ethResend (s : State) (p : PortId) (d : DevId) (vc : Nat) (l : List (Nat × Frame)) : State :=
  (s.emit (l.map fun x => .eth p (s.ethPacketOf d vc x.1 false (some x.2)))).updFab fun f => { f with
    resends := satAdd 0xFFFFFFFF f.resends l.length }

/-- What a packet says about the reverse flow: acknowledgement, NAK, CE echo and grant. -/
def State.ethControl (s : State) (p : PortId) (k : EthPacket) (at' : Nat) : State :=
  let a := if k.ackValid then s.updFlow k.src k.vc fun x => x.acked' k.ackPsn s.rtoBase at' else s
  let b := if k.ceEcho then
      (a.updFlow k.src k.vc fun x => { x with window := max 1 (x.window / 2), acked := 0 }).updFab fun f => { f with
        ceEchoes := satAdd 0xFFFF f.ceEchoes 1 }
    else a
  let c := if k.grantValid then b.updFlow k.src k.vc fun x => { x with grant := k.grant } else b
  if k.nak then c.ethResend p k.src k.vc (c.flow k.src k.vc).unacked else c

/-- ETH_PACKET (R415): acknowledgement, NAK, grant and CE echo are handled; a frame is taken only in PSN order, a duplicate is discarded
and acknowledged again, and a gap sends NAK. -/
def execEthPacket (p : PortId) (k : EthPacket) (at' : Nat) (s : State) : Out :=
  if s.portMode p ≠ 2 ∨ (s.port p).state ≠ .up then .next s
  else
    let t := (s.at' at').ethControl p k at'
    let u := if k.ceMark then t.updFlow k.src k.vc fun x => { x with ceSeen := true } else t
    let answer := fun (v : State) (nak : Bool) =>
      (v.emit [.eth p (v.ethPacketOf k.src k.vc 0 nak none)]).updFlow k.src k.vc fun x => { x with ceSeen := false }
    match k.frame with
    | none => .next u.drain
    | some f =>
      let e := (u.flow k.src k.vc).expect
      if k.psn = e then
        let v := u.updFlow k.src k.vc fun x => { x with expect := (x.expect + 1) % 2 ^ 32 }
        .next (answer (v.frameIn p f) false).drain
      else .next (answer u (decide ((k.psn + 2 ^ 32 - e) % 2 ^ 32 < 2 ^ 31))).drain

/-- ETH_RTO (R415): unacknowledged frames, or a request for a grant, are sent again, and the timeout doubles up to 64 times its base. -/
def execEthRto (dst : DevId) (vc : Nat) (at' : Nat) (s : State) : Out :=
  let k := s.flow dst vc
  let waits := s.fab.waitingFrames.any fun x => s.bound x.2.dst == dst && x.2.vc == vc
  match s.ethPortOf dst with
  | none => .next s
  | some p =>
    if (k.unacked = [] ∧ waits = false) ∨ at' < k.deadline then .next s
    else if k.unacked = [] then
      .next (((s.at' at').updFlow dst vc fun x => { x with rto := min (64 * s.rtoBase) (2 * x.rto) }).askGrant dst vc)
    else
      let rto := min (64 * s.rtoBase) (2 * k.rto)
      .next (((s.at' at').ethResend p dst vc k.unacked).updFlow dst vc fun x => { x with rto := rto, deadline := at' + rto })

/-! ## Remote accesses (R205, R241, R403) -/

/-- Whether this device serves remote accesses now: a spare that has not yet restored its pages holds them (R241). -/
def State.servesRemote (s : State) : Bool := match s.rcv.takeover with
    | some t => t.pulled
    | none => true

/-- Whether an address lies in the receive region of a stage slot of this device (R386). -/
def State.inRx (s : State) (a : Nat) : Bool := (List.range 8).any fun g =>
  let lo := s.field "STAGE_RX_BASE" g
  decide (lo ≤ a) && decide (a < lo + s.field "STAGE_RX_SIZE" g)

/-- An access of another device accepted: a bad address raises the fault of R228, any other access is served in its turn, or waits for its
page (R238, R242). -/
def State.acceptAsk (s : State) (a : RemoteAsk) (step : Nat) : State :=
  let r := if a.write.isSome ∧ s.inRx a.addr = true then s.updCtl fun c => { c with rxSteps := addNew step (c.rxSteps.filter (s.ctl.sealed < ·)) }
    else s
  let t := r.updTier fun x => { x with asks := x.asks ++ [a] }
  if s.servesRemote = false then t
  else match s.accessFault a.addr a.write.isSome with
    | some code => s.raise .stepFatal code (unitNo 0 0) step a.addr
    | none => t.serveAsks

/-- RD_REQ: a read of this device's memory, answered on ESCAPE with the bytes of the instant at which it is served. -/
def execRdReq (f : Frame) (addr : Nat) (len : Nat) (s : State) : Out :=
  let r := s.admitFrame f
  .next (if r.2 && !s.fenced then r.1.acceptAsk { src := f.src, tag := f.tag, addr := addr, len := len } f.step else r.1)

/-- RD_RSP: the data of a read that a core waits for. -/
def execRdRsp (tag : Nat) (data : List Byte) (s : State) : Out :=
  match s.tier.remoteWait.find? fun x => x.1 == tag with
  | none => .next s
  | some w =>
    let t := s.updTier fun y => { y with remoteWait := y.remoteWait.filter fun x => x.1 != tag }
    let fill := fun x : Transfer => if x.remote = some tag then { x with data := data, remote := none } else x
    .next (t.updCore (Fin.ofNat 32 w.2.2) fun k => { k with feed := { k.feed with queue := k.feed.queue.map fill } })

/-- WR: a write to a REMOTE region, complete when it is acknowledged. -/
def execWr (f : Frame) (addr : Nat) (s : State) : Out :=
  let r := s.admitFrame f
  .next (if r.2 && !s.fenced then
      r.1.acceptAsk { src := f.src, tag := f.tag, addr := addr, len := f.payload.length, write := some f.payload } f.step
    else r.1)

/-- WR frames that a segment of `n` bytes takes (R402, R504). -/
def segFrames (n : Nat) : Nat := max 1 ((n + 4095) / 4096)

/-- The acknowledged segments of a spool go (R504): an entry holds SEQ, step, bytes and the tag of its first WR frame, and it goes once every
one of its frames is acknowledged. -/
def ackSpool (tag : Nat) (c : Ctx) : Ctx :=
  let wait := c.diffWait.filter (· != tag)
  let open' := fun x : Nat × Nat × Nat × Nat => x.2.2.2 == 0 || wait.any fun t => x.2.2.2 ≤ t && decide (t < x.2.2.2 + segFrames x.2.2.1)
  if c.diffWait.contains tag then { c with diffWait := wait, spool := c.spool.filter open' } else c

/-- WR_ACK: the write of a core may complete; a difference-stream segment has reached its collector. -/
def execWrAck (tag : Nat) (s : State) : Out :=
  let t := s.updTier fun y => { y with remoteWait := y.remoteWait.filter fun x => x.1 != tag }
  let u := match s.tier.remoteWait.find? fun x => x.1 == tag with
    | none => t
    | some w =>
      let clear := fun x : Transfer => if x.remote = some tag then { x with remote := none } else x
      t.updCore (Fin.ofNat 32 w.2.2) fun k => { k with feed := { k.feed with queue := k.feed.queue.map clear } }
  .next (u.updAtl fun a => { a with ctxs := a.ctxs.map fun x => (x.1, ackSpool tag x.2) })

/-- CTL_RSP: the reply to an access that this device's Atluta relayed, handed to host software. -/
def execCtlRsp (tag : Nat) (value : W64) (s : State) : Out :=
  .next (s.emit [.mailbox (leBytes 2 tag ++ leBytes 8 value.toNat)])

/-! ## Acknowledged frames (R427) -/

/-- ACK: the sender's copy is freed. -/
def execAck (src : DevId) (tag : Nat) (s : State) : Out :=
  .next ((s.updFab fun f => { f with unacked := kvDel (tag, src) f.unacked }).updWeir fun w => { w with
    wcAcks := kvDel (tag, src) w.wcAcks }).settled

/-- POP_ACK_LIMIT: a frame without its ACK is sent again, and takes a new COUNTER as it leaves; each expiry doubles its limit up to 8 times the base. -/
def execPopAckLimit (tag : Nat) (at' : Nat) (s : State) : Out :=
  let due := s.fab.unacked.filter fun x => x.1.1 == tag && x.2.deadline ≤ at'
  let next := fun u : Unacked =>
    let l := min (8 * s.ackLimit) (2 * u.limit)
    { u with limit := l, deadline := at' + l }
  .next (((s.at' at').updFab fun f => { f with
    unacked := f.unacked.map fun x => if x.1.1 == tag && decide (x.2.deadline ≤ at') then (x.1, next x.2) else x }).emit
      (due.map fun x => x.2.msg))

/-! ## Discovery (R419) -/

/-- DISCOVER: new information enters the pod graph and is flooded on; another device that claims this device's ID is a conflict. -/
def execDiscover (sender : DevId) (neighbours : List Neighbour) (at' : Nat) (s : State) : Out :=
  let t := s.at' at'
  if sender ≠ 0 ∧ sender = s.fab.devId then
    if neighbours = s.ownNeighbours then .next t
    else .next ((t.updFab fun f => { f with devId := 0, conflict := true }).raiseDev .correctable 0x074 (unitNo 0 0) 0)
  else if sender = 0 ∨ kvFind sender s.fab.graph = some neighbours then .next t
  else .next ((t.updFab fun f => { f with
    graph := kvPut sender neighbours f.graph, graphAt := at', graphDone := false }).flood sender neighbours)

/-- The digest of the pod graph (R419); the spec names no layout for it (DESIGN CHOICE, log entry 36). -/
def graphDigest (g : KV DevId (List Neighbour)) : List Byte :=
  sha384 ((sortBy Prod.fst g).flatMap fun x => leBytes 2 x.1 ++ leBytes 1 x.2.length
    ++ x.2.flatMap fun n => leBytes 1 n.port ++ leBytes 2 n.peer ++ leBytes 1 n.peerPort)

/-- The roles of R432 that this device holds in its pod. -/
def State.podRoles (s : State) : State :=
  let live := s.podDevices.filter fun d => d != 0 && !s.dead d
  s.updRcv fun r => { r with isCoord := live[0]? == some s.fab.devId, isDeputy := live[1]? == some s.fab.devId }

/-- DISCOVERY_QUIET (R418, R419): after 1 ms without new information the device takes its ID and computes its routes; the coordinator
sends the digest of the graph, and a device whose graph differs floods again. -/
def execDiscoveryQuiet (coordDigest : List Byte) (at' : Nat) (s : State) : Out :=
  if at' < s.fab.graphAt + 1000000 ∨ s.fab.graphDone = true ∨ s.pow.phase < 3 then .next s
  else
    let t := (s.at' at').takeId
    let t1 := (t.updFab fun f => { f with graph := kvPut f.devId t.ownNeighbours f.graph }).reroute.podRoles
    let d := graphDigest t1.fab.graph
    let done := fun u : State => (u.updFab fun f => { f with graphDone := true }).updPow fun p => { p with discovered := true }
    if t1.rcv.isCoord then .next (done (t1.emit [.graphDigest d]))
    else if coordDigest = d then .next (done t1)
    else .next t1.announce

end Sys2Proof.Machine
end

