-- ==== Sys2Proof/Machine/Recovery.lean ====
section
/-! DEFINITION. Heartbeats and suspicions, membership epochs, leases, fencing, spares, standby images and takeover (R357 to R359,
R423 to R426, R431 to R453, R575). -/

namespace Sys2Proof.Machine

/-! ## Pods and coordinators (R432, R434, R575) -/

/-- Instants in nanoseconds. -/
def ms : Nat := 1000000

/-- The tray of a device: pod and tray number (R450). -/
def State.trayOf (s : State) (d : DevId) : Nat × Nat := match s.atl.manifest with
  | some m => match m.plan.find? fun x => x.2 == d with
    | some x => (x.1.1, x.1.2 / 4)
    | none => (d / 64, d % 64 / 4)
  | none => (d / 64, d % 64 / 4)

/-- The lowest live device of a pod: that of the pod graph in this pod, of the manifest in another. -/
def State.coordOf (s : State) (pod : Nat) : DevId :=
  if pod = s.podNo then s.podCoord
  else match s.atl.manifest with
    | some m => (sortBy id ((m.pods.filter fun x => x.2 == pod && !s.dead x.1).map Prod.fst)).headD 0
    | none => 0

/-- The spares of the job, in order of preference (R455). -/
def State.spares (s : State) : List DevId := s.fieldL "JOB_SPARES"

/-- Devices that do the job's work or stand by for it, by physical device. -/
def State.jobDevices (s : State) : List DevId :=
  ((s.ctl.members.map s.bound) ++ s.spares).foldl (fun l d => addNew d l) []

/-- Pods that hold a live member or spare of the job, and pods that hold members; ascending. -/
def State.podsOf (s : State) (ds : List DevId) : List Nat := ds.foldl (fun l d => insNat (s.podOf d) l) []
def State.jobPods (s : State) : List Nat := s.podsOf (s.jobDevices.filter fun d => !s.dead d)
def State.memberPods (s : State) : List Nat := s.podsOf (s.ctl.members.map s.bound)

/-- The job coordinator: the pod coordinator of the lowest-numbered pod with a live member or spare (R432). -/
def State.jobCoordDev (s : State) : DevId := match s.jobPods with
  | p :: _ => s.coordOf p
  | [] => 0

/-- This device's roles of R432. -/
def State.roles (s : State) : State :=
  let t := s.podRoles
  t.updRcv fun r => { r with isJobCoord := r.isCoord && t.jobCoordDev == t.fab.devId && t.fab.devId != 0, jobCoord := t.jobCoordDev }

/-- Whether a heartbeat of a device came within the last 3 ms. -/
def State.hears (s : State) (d : DevId) (at' : Nat) : Bool := match kvFind d s.fab.heard with
  | some h => decide (at' < h.at' + 3 * ms)
  | none => false

/-- Whether a coordinator hears more than half of its pod, itself counted (R434, R435). -/
def State.majority (s : State) (at' : Nat) : Bool :=
  let ds := s.podDevices.filter (· != 0)
  decide (ds.length < 2 * (ds.filter fun d => d == s.fab.devId || s.hears d at').length)

/-- Whether the coordinators of enough pods that hold members are heard, this pod counted (R575). -/
def State.podsHeard (s : State) (at' : Nat) : Bool :=
  let ps := s.memberPods
  let got := ps.filter fun p => p == s.podNo || decide (at' < kvGet 0 p s.rcv.podHeard + 3 * ms) && kvHas p s.rcv.podHeard
  decide (ps.length ≤ 1) || decide (ps.length < 2 * got.length)
    || (2 * got.length == ps.length && got.contains (ps.headD 0))

/-! ## Fencing (R435) -/

/-- Writes of a core that have not left the device dropped by Tailrace. -/
def Core.dropWrites (k : Core) : Core :=
  { k with feed := { k.feed with queue := k.feed.queue.filter fun x => x.departed || !(x.kind == .write || x.kind == .spill) } }

/-- The device fences itself: it admits and writes nothing further and asserts FAULT_N. Without a device-fatal fault of its own it
records FENCED. -/
def State.fence (s : State) (role : RcvRole) (own : Bool) : State :=
  if s.fenced then s
  else
    let t : State := { s with cores := s.cores.map fun c => (c.1, c.2.dropWrites) }
    let u := (t.updRcv fun r => { r with role := role }).updPow fun p => { p with faultLow := true }
    if own then u else u.raiseDev .deviceFatal 0x080 (unitNo 9 0) 0

/-- FENCE (R435): no heartbeat of the pod coordinator or its deputy for 3 ms, or a coordinator or deputy without a majority. -/
def execFence (at' : Nat) (s : State) : Out :=
  let t := s.at' at'
  let lead := s.rcv.isCoord || s.rcv.isDeputy
  let deaf := !lead && decide (s.rcv.coordHeard + 3 * ms ≤ at')
  if (s.rcv.role == .member || s.rcv.role == .spare || s.rcv.role == .takeover) && (deaf || (lead && !s.majority at')) then
    .next (t.fence .fenced false)
  else .next t

/-! ## Confirmation (R433, R434, R575) -/

/-- The IDs of members to which a physical device answers. -/
def State.idsOf (s : State) (d : DevId) : List DevId := s.ctl.members.filter fun x => s.bound x == d

/-- A device confirmed failed by this coordinator: noted here for the next record and, where another device is the job coordinator, told
to it; the roles of R432 pass on. A spare without an ID only leaves the choice (R446). -/
def State.confirm (s : State) (d : DevId) (at' : Nat) : State :=
  if d = 0 ∨ s.dead d = true then s
  else
    let first := ((s.rcv.suspicions.find? fun x => x.2.1 == d).map fun x => x.2.2.2).getD at'
    let idle := s.idsOf d == []
    let t := (s.updRcv fun r => { r with
      confirmUs := min 0xFFFF ((at' - first) / 1000)
      badSpares := if idle then addNew d r.badSpares else r.badSpares
      confirmed := if idle then r.confirmed else r.confirmed ++ [(d, at')] }).roles
    if t.rcv.isJobCoord then t else t.emit [.confirmed t.rcv.jobCoord d]

/-- Whether this device may confirm the failure of another: the coordinator, or the deputy for the coordinator, with a majority. -/
def State.mayConfirm (s : State) (d : DevId) (at' : Nat) : Bool :=
  !s.fenced && d != s.fab.devId && s.majority at' && (s.rcv.isCoord || (s.rcv.isDeputy && d == s.podCoord))

/-- Whether every port that faced a device has reported LINK_DOWN (R434, condition 3). -/
def State.allPortsDown (s : State) (d : DevId) : Bool :=
  let facing := s.fab.graph.flatMap fun x => (x.2.filter fun n => n.peer == d).map fun n => (x.1, n.port)
  !facing.isEmpty && facing.all fun y => s.rcv.suspicions.any fun z => z.1 == y.1 && z.2.1 == d && z.2.2.1 == y.2

/-- SUSPICION_REPORT (R433, R434): a suspicion or its withdrawal noted; the failure is confirmed once every port that faced the
device reports LINK_DOWN. -/
def execSuspicionReport (src dev : DevId) (port : Nat) (withdrawn : Bool) (at' : Nat) (s : State) : Out :=
  if s.rcv.isCoord = false ∧ s.rcv.isDeputy = false then .next s
  else
    let t := (s.at' at').noteSuspicion src dev port withdrawn at'
    if t.allPortsDown dev && t.mayConfirm dev at' then .next (t.confirm dev at') else .next t

/-- FAILED_REPORT (R433, R434, condition 1): a device of this pod has reported itself failed, and the coordinator confirms it while it
hears a majority; or the coordinator of another pod has confirmed it. -/
def execFailedReport (src : DevId) (at' : Nat) (s : State) : Out :=
  let t := s.at' at'
  let own := s.podOf src == s.podNo
  if !s.fenced && ((own && s.rcv.isCoord && s.majority at') || (!own && s.rcv.isJobCoord)) then .next (t.confirm src at') else .next t

/-- REPORT_FAILED (R433, R434, condition 4): host software reports a device failed. A device that is not the coordinator passes the
report on. -/
def execReportFailed (ctx : CtxId) (dev : DevId) (s : State) : Out :=
  if s.atl.running = false then .next s
  else if s.rcv.isCoord && s.mayConfirm dev s.now then .next (s.confirm dev s.now)
  else .next (s.emit [.confirmed s.fab.coord dev, .jm s.fab.coord (s.ctx ctx).jobId])

/-- POD_SILENCE (R575): the job coordinator, while it hears enough pods, confirms every member and spare in a pod unheard for 10 ms. -/
def execPodSilence (pod : Nat) (at' : Nat) (s : State) : Out :=
  let t := s.at' at'
  let silent := decide (kvGet 0 pod s.rcv.podHeard + 10 * ms ≤ at')
  if s.rcv.isJobCoord && !s.fenced && pod != s.podNo && silent && s.podsHeard at' && decide (1 < s.memberPods.length) then
    .next ((s.jobDevices.filter fun d => s.podOf d == pod).foldl (fun u d => u.confirm d at') t)
  else .next t

/-! ## Heartbeats (R423, R424, R432, R575) -/

/-- LINK_DOWN (R423): a NATIVE port that runs retrains, and the neighbour is suspected. -/
def execLinkDown (p : PortId) (at' : Nat) (s : State) : Out :=
  let k := s.port p
  if s.portMode p = 1 ∧ (k.state = .up ∨ k.state = .held) then
    let t := (s.at' at').updPort p fun x => { x with
      state := .retraining, retrainAt := at', retrains := satAdd 0xFFFF x.retrains 1 }
    .next (t.reportSuspicion k.peerId p.val false at')
  else .next (s.at' at')

/-- Where this device's heartbeats go: NATIVE neighbours and the pod coordinator; from a coordinator or deputy every device of its pod
and the coordinators of the other pods. A fenced device reaches only its coordinator (R435). -/
def State.beatTo (s : State) : List DevId :=
  if s.fenced then [s.fab.coord]
  else
    let lead := s.rcv.isCoord || s.rcv.isDeputy
    let near := (allPorts.filter fun p => s.portMode p == 1 && (s.port p).state == .up).map fun p => (s.port p).peerId
    let pod := if lead then s.podDevices else [s.fab.coord]
    let inside := if s.rcv.hbStopped then [] else near ++ pod
    let far := if lead then ((match s.atl.manifest with
        | some m => m.pods.foldl (fun l (x : DevId × Nat) => insNat x.2 l) ([] : List Nat)
        | none => ([] : List Nat)).filter (· != s.podNo)).map s.coordOf
      else []
    ((inside ++ far).filter fun d => d != 0 && d != s.fab.devId).foldl (fun l d => addNew d l) []

/-- HEARTBEAT_SEND (R424, R432): every 1 ms. A coordinator or deputy that does not hear enough pods stops its heartbeats inside its
pod (R575). -/
def execHeartbeatSend (at' : Nat) (s : State) : Out :=
  let due := match s.fab.hbAt with
    | some t => decide (t + ms ≤ at')
    | none => true
  if due = false ∨ s.pow.phase < 3 ∨ s.fab.devId = 0 ∨ s.atl.running = false then .next s
  else
    let lead := s.rcv.isCoord || s.rcv.isDeputy
    let t := ((s.at' at').updRcv fun r => { r with hbStopped := lead && !s.podsHeard at' }).updAtl fun a => { a with
      live := (a.live + 1) % 2 ^ 32 }
    let h : Heartbeat := { src := s.fab.devId, epoch := s.ctl.memEpoch, live := t.atl.live, sealedLo := s.ctl.sealed % 2 ^ 32 }
    let ds := t.beatTo
    .next ((t.updFab fun f => { f with hbAt := some at', hbSent := f.hbSent + ds.length }).emit (ds.map fun d => .heartbeat d h))

/-- A suspicion that this device declares itself (R424); the coordinator confirms it under condition 2. -/
def State.suspect (s : State) (d : DevId) (at' : Nat) : State :=
  let known := (kvGet {} d s.fab.heard).suspected
  let t := s.updFab fun f => { f with
    heard := kvMod {} d (fun h => { h with suspected := true }) f.heard
    suspects := if known then f.suspects else satAdd 0xFFFF f.suspects 1 }
  if t.mayConfirm d at' then t.confirm d at'
  else if known then t
  else t.emit [.suspicion s.fab.coord d false]

/-- HEARTBEAT (R424): the sender's liveness count is checked; three in a row with one count raise suspicion. One from a confirmed
device is discarded (R453). -/
def execHeartbeat (h : Heartbeat) (at' : Nat) (s : State) : Out :=
  let t := s.at' at'
  if s.rcv.failedIds.contains h.src = true ∧ h.epoch < s.ctl.memEpoch then .next t
  else
    let o := kvGet {} h.src s.fab.heard
    let same := if kvHas h.src s.fab.heard && o.live == h.live then o.same + 1 else 0
    let n : Heard := { at' := at', live := h.live, same := same, epoch := h.epoch, sealedLo := h.sealedLo, suspected := o.suspected }
    let u := t.updFab fun f => { f with heard := kvPut h.src n f.heard }
    let live := u.podDevices.filter fun d => d != 0 && !s.dead d
    let lead := h.src == live.headD 0 || h.src == (live.drop 1).headD 0
    let pod := s.podOf h.src
    let v := u.updRcv fun r => { r with
      coordHeard := if lead && pod == s.podNo then at' else r.coordHeard
      podHeard := if pod != s.podNo then kvPut pod at' r.podHeard else r.podHeard }
    if 2 ≤ same then .next (v.suspect h.src at') else .next v

/-- HEARTBEAT_TIMEOUT (R424, R434): 3 ms without a heartbeat of a watched device. -/
def execHeartbeatTimeout (dev : DevId) (at' : Nat) (s : State) : Out :=
  let t := s.at' at'
  if kvHas dev s.fab.heard && !s.hears dev at' && !s.rcv.failedIds.contains dev then .next (t.suspect dev at') else .next t

/-! ## Leases (R438, R439) -/

/-- The leases of one member ID other than CXL_REGION (R438). -/
def State.idLeases (s : State) (d : DevId) : List (LeaseKind × DevId) :=
  [(.shard, d), (.redNode, d), (.stage, d), (.route, d)]
    ++ (if s.field "VOTE_ROOT" = d then [(.voteRoot, d)] else [])
    ++ (if s.voteMirror = d then [(.voteMirror, d)] else [])

/-- Every lease granted anew in an epoch: a surviving holder keeps its own, the spare of a failed ID takes that ID's other than
CXL_REGION, and the roles of R432 pass to whom R432 names. -/
def State.grantLeases (s : State) (m : MemberRec) : State :=
  let roles : KV (LeaseKind × DevId) (DevId × Nat) :=
    [((.coord, 0), (s.podCoord, m.epoch)), ((.jobCoord, 0), (s.jobCoordDev, m.epoch)),
     ((.deputy, 0), (((s.podDevices.filter fun d => d != 0 && !s.dead d).drop 1).headD 0, m.epoch))]
  let held := m.members.filter fun d => !m.unbound.contains d
  let ids := held.flatMap fun d => (s.idLeases d).map fun k => (k, (s.bound d, m.epoch))
  let cxl := (held.filter fun d => !m.failed.contains d).map fun d =>
    ((LeaseKind.cxlRegion, d), (s.bound d, m.epoch))
  s.updRcv fun r => { r with leases := roles ++ ids ++ cxl }

/-! ## The next record (R436, R437, R446, R451) -/

/-- Whether a device may be bound to a failed ID in a record (R446, rules 1 and 2). -/
def State.spareFits (s : State) (failed : List DevId) (chosen : List DevId) (d c : DevId) : Bool :=
  let domain := fun x : DevId => match s.atl.manifest with
    | some m => kvGet 0 x m.domains
    | none => 0
  let trays := failed.map fun x => s.trayOf (s.bound x)
  !(s.dead c)
    && !(s.rcv.bindings.any fun x => x.2 == c && s.ctl.members.contains x.1) && !(s.ctl.members.any fun x => s.bound x == c)
    && !(chosen.contains c) && !(trays.contains (s.trayOf c)) && domain c == domain (s.bound d)

/-- The spare for a failed ID (R446): one in its pod goes first, then the order of JOB_SPARES. -/
def State.chooseSpare (s : State) (failed chosen : List DevId) (d : DevId) : Option DevId :=
  let l := s.spares.filter (s.spareFits failed chosen d)
  let near := l.filter fun c => s.podOf c == s.podOf (s.bound d)
  (near ++ l).head?

/-- Whether this device knows that the Vote of step `n` has completed (R37): it has the decision, holds it as the vote mirror, or has the
mirror's acknowledgement as the root. -/
def State.voteDone (s : State) (n : Nat) : Bool :=
  (match (s.stepOf n).decided with
    | some d => d == .apply || d == .skip
    | none => false)
  || kvHas n s.ctl.mirrorHeld || s.ctl.broadcast.contains n
  || (match kvFind n s.ctl.rootDecided with
    | some d => !kvHas (d.tag, s.voteMirror) s.fab.unacked
    | none => false)

/-- The step whose Vote has completed by a record of this device. A job coordinator that is neither root nor mirror and has sent its vote
word cannot know; how it learns of it the spec does not say, and the answer is free (log entry 123). -/
def State.rollingStep (s : State) : Option Nat :=
  let n := s.ctl.sealed + 1
  let blind := (s.stepOf n).st == .vote && !s.isRoot && s.voteMirror != s.me
  if s.voteDone n || (blind && Config.freeBool s.fresh) then some n else none

/-- The IDs of a record that a job coordinator which failed had formed, and that this one did not see become final: the record is void, and
the next one covers them (R436). -/
def State.voidIds (s : State) : List DevId :=
  if s.rcv.acks.isEmpty && s.rcv.finalAt == 0 && s.rcv.record.isSome then s.rcv.taking else []

/-- The spare of a failed ID in a record: the one that answers to it already and lives, else one chosen under R446. -/
def State.spareFor (s : State) (ids chosen : List DevId) (d : DevId) : Option DevId :=
  let c := s.bound d
  if c != d && !s.dead c && s.rcv.taking.contains d then some c else s.chooseSpare ids chosen d

/-- The record of the next epoch for a list of failed IDs (R436, item 2). -/
def State.formRecord (s : State) (failed : List DevId) : MemberRec :=
  let ids := (failed ++ s.voidIds ++ s.rcv.unbound).foldl (fun l d => addNew d l) []
  let r := ids.foldl (fun (a : List (DevId × DevId) × List DevId) d =>
    match s.spareFor ids (a.1.map Prod.snd) d with
    | some c => (a.1 ++ [(d, c)], a.2)
    | none => (a.1, a.2 ++ [d])) ([], [])
  let top := (s.fab.heard.filter fun x => !s.dead x.1).foldl (fun e x => max e x.2.epoch) s.ctl.memEpoch
  { epoch := top + 1, failed := ids, bindings := r.1, unbound := r.2, members := s.ctl.members, voteComplete := s.rollingStep }

/-! ## An epoch increment on a device (R425, R426, R357, R358, R241, R373) -/

/-- Frames that await their ACK from a failed ID sent again, now to its spare (R426). -/
def State.resendTo (s : State) (failed : List DevId) : State :=
  s.emit ((s.fab.unacked.filter fun x => failed.contains x.1.2).map fun x => x.2.msg)

/-- The decision of the rolling step sent to the spares by the root, or to every member by the mirror when the root has failed (R357). -/
def State.resendDecision (s : State) (failed : List DevId) (n : Nat) : State :=
  let rootGone := failed.contains (s.field "VOTE_ROOT")
  match if rootGone then kvFind n s.ctl.mirrorHeld else kvFind n s.ctl.rootDecided with
  | none => s
  | some d =>
    let writes := (s.ldr.rootWrites.filter fun w => w.complete && w.w.target == n + s.lag + 2).map (·.w)
    let e : DecisionMsg := if rootGone then { d with src := s.me }
      else { d with src := s.me, writes := if d.decision = .apply ∨ d.decision = .skip then writes else [] }
    if rootGone ∧ s.voteMirror ≠ s.me then s
    else
      let dsts := (if rootGone then s.ctl.members else failed).filter (· != s.me)
      let t := s.emitEach dsts fun x tag => .decision x { e with tag := tag }
      if rootGone ∧ t.awaits e = true then t.takeDecision e else t

/-- A FLIP that was final when the root failed is sent to every member by the mirror, under the new epoch (R352, R373). -/
def State.resendFlip (s : State) (failed : List DevId) : State :=
  match s.ctl.orderFinal.find? fun x => x.1 == "FLIP" && x.2.memEpoch + 1 == s.ctl.memEpoch && x.2.layEpoch + 1 == s.ctl.layEpoch with
  | some x =>
    if failed.contains (s.field "VOTE_ROOT") && s.voteMirror == s.me then
      s.emitEach (s.ctl.members.filter (· != s.me)) fun d tag => .order d "FLIP" { x.2 with tag := tag, src := s.me, memEpoch := s.ctl.memEpoch }
    else s
  | none => s

/-- In the Apply of the rolling step, the weight maxima go to a parent's spare again, and the scale set to the spare of a child (R331,
R358). -/
def State.resendScales (s : State) (failed : List DevId) (n : Nat) : State :=
  let up := failed.contains (s.voteParent s.me) && !s.isRoot && (s.stepOf n).decided == some .apply && s.weightsAll n
  let t := if up then s.emit [.vote (s.voteParent s.me)
      { child := s.me, weights := true, word := s.ownWord n, maxima := s.weightsMax n, diffEpoch := false, diffLayout := false }] else s
  match kvFind n s.weir.scaleSets with
  | some z => t.emitEach ((s.voteChildren s.me).filter failed.contains) fun d tag => .scaleSet d tag z
  | none => t

/-- Retained roots and Grist entries of the rolling step sent to the spare of the partner (R357, R447 item 6). -/
def State.sendRetained (s : State) (failed : List DevId) (n : Nat) : State :=
  let roots := s.weir.retained.filter fun x => x.1.1 == n
  let t := roots.foldl (fun a x =>
    let tau := x.1.2.2
    let h := s.tileHome x.1.2.1 tau
    let m := s.tileMirror x.1.2.1 tau
    let d := if h = s.me then m else h
    if (h = s.me ∨ m = s.me) ∧ failed.contains d = true then
      a.emitAcked d fun tag => .retRoot d
        { src := s.me, tag := tag, step := n, tensor := x.1.2.1, tileK := s.tkOf x.1.2.1 tau, tileN := s.tnOf x.1.2.1 tau,
          crc := crc32c (f32Bytes x.2), vals := x.2, layEpoch := (s.stepOf n).layEpoch }
    else a) s
  allQuerns.foldl (fun a q => ((s.quern q).set' n).entries.foldl (fun b e =>
    let h := s.homeOf e.1.1 e.1.2
    let m := s.mirrorOf e.1.1 e.1.2
    let d := if h = s.me then m else h
    if (h = s.me ∨ m = s.me) ∧ failed.contains d = true then
      b.sendGrist d
        { src := s.me, table := e.1.1, row := e.1.2, step := n, layEpoch := s.ctl.layEpoch, ctx := Fin.ofNat 16 s.ctxNo,
          fx48 := true, nonfin := e.2.nonfin, sat := e.2.sat, count := e.2.count, vals := e.2.vals.map (ofSigned 48) }
    else b) a) t

/-- Remote accesses that await a failed device: those of aborted steps are gone with them; any other is sent again to the device that
now holds the binding (R241). -/
def State.reissue (s : State) (failed : List DevId) : State :=
  let of := fun w : Nat × DevId × Nat => ((s.core (Fin.ofNat 32 w.2.2)).feed.queue.find? fun x => x.remote == some w.1)
  let t := s.updTier fun y => { y with remoteWait := y.remoteWait.filter fun w => (of w).isSome }
  t.emit (t.tier.remoteWait.filterMap fun w =>
    if failed.contains w.2.1 then match of w with
      | some x => match x.target with
        | .range a n => some (if x.kind = .write ∨ x.kind = .spill then Msg.wr w.2.1 w.1 a x.data else Msg.rdReq w.2.1 w.1 a n)
        | .ring _ _ _ => none
      | none => none
    else none)

/-- A barrier starts again under a new epoch (R352, R373): a re-shard before its FLIP from its staging, a switch from its words. -/
def Layout.restart (l : Layout) : Layout :=
  let done := l.lstate == .doneSent
  { l with
    lstate := if l.lstate = .none then .none else .staged, barrierAcc := [], doneAcc := [], barrierSent := false
    received := if done then l.received else [], xferOwed := [], xferTries := [], flipReady := done }

/-- Whether home and mirror of one shard are both among the failed (R357, R359). -/
def State.bothFailed (s : State) (failed : List DevId) : Bool :=
  let pair := fun (h m : List DevId) => (h.zip m).any fun x => failed.contains x.1 && failed.contains x.2
  s.tables.any (fun t => pair (s.fieldL "SHARD_DEV" t) (s.fieldL "MIRROR_DEV" t))
    || s.tensors.any fun t => pair (s.fieldL "DSHARD_DEV" t) (s.fieldL "DMIRROR_DEV" t)

/-- SHARD_LOST (R359): neither of the failed devices had reported version `n` sealed. -/
def State.lostShard (s : State) (m : MemberRec) (roll : Option Nat) : Bool := match roll with
  | some n => s.bothFailed m.failed && !(m.failed.any fun d => (kvGet {} (s.bound d) s.fab.heard).sealedLo == n % 2 ^ 32
      && kvHas (s.bound d) s.fab.heard)
  | none => false

/-- The devices that a record takes out: those that answered to its failed IDs, but for a spare that goes on answering, and the IDs. -/
def State.goneOf (s : State) (m : MemberRec) : List DevId :=
  m.failed.flatMap fun d => if m.bindings.contains (d, s.bound d) then [d] else [s.bound d, d]

/-- The increment applied on a member (R425, R436 item 4): undecided steps but a rolling step are aborted, orders that are not final are
void (R352), a snapshot that is being written is void (R508), and the rolling step goes on with the spares, to which the vote root sends
its step-targeted writes (R474). -/
def State.applyEpoch (s : State) (m : MemberRec) : State :=
  let gone := s.goneOf m
  let own := s.ctl.sealed + 1
  let roll := match m.voteComplete with
    | some n => some n
    | none => if s.voteDone own then some own else none
  let old := (s.abortable 0).filter (· != roll.getD 0)
  let lost := s.lostShard m roll
  let bind := fun b : KV DevId DevId => m.bindings.foldl (fun a x => kvPut x.1 x.2 a) b
  let a := s.abortList old
  let writing := !s.ctl.snapDone && (match s.ctl.snapTarget with
    | some t => decide (t ≤ s.ctl.sealed)
    | none => false)
  let b := a.updCtl fun c => { c with
    memEpoch := m.epoch, members := m.members, layout := Layout.restart c.layout, orderPend := []
    snapTarget := if writing then none else c.snapTarget, snapDone := writing || c.snapDone }
  let c := b.updRcv fun r => { r with
    epochs := satAdd 0xFFFF r.epochs 1, bindings := bind r.bindings, unbound := m.unbound, jobWait := !m.unbound.isEmpty
    failedIds := gone.foldl (fun l d => addNew d l) r.failedIds
    taking := (r.taking ++ m.failed).foldl (fun l d => addNew d l) []
    record := some m, acks := [], finalAt := 0, confirmed := r.confirmed.filter fun x => !gone.contains x.1 }
  let d := ((c.event 0x0F5 0 m.epoch).resync gone old.contains).roles
  let log := m.bindings.flatMap fun x => s.ldr.rootWrites.map fun w => Msg.stepWrite x.2 0 w.w
  let e := (((d.resendTo m.failed).reissue m.failed).resendFlip m.failed).emit (if d.isRoot then log else [])
  let f : State := match roll with
    | some n => if lost then
        ((e.raise .stepFatal codeShardLost (unitNo 0 0) n 0).haltAt n).updCtl fun c => { c with shardLost := true }
      else (((e.resendDecision m.failed n).sendRetained m.failed n).resendScales m.failed n).resendSeal m.failed n
    | none => e
  if f.rcv.taking = [] then f.rerun else f

/-- The ID that a record binds this device to, if it is new. -/
def State.bindingHere (s : State) (m : MemberRec) : Option DevId :=
  (m.bindings.find? fun x => x.2 == s.fab.devId && x.1 != s.fab.devId && x.1 != s.fab.boundId).map Prod.fst

/-- A spare that the record binds answers to the ID and begins its takeover (R422, R447 item 1). -/
def State.beginTakeover (s : State) (m : MemberRec) (d : DevId) : State :=
  let t := s.updRcv fun r => { r with
    role := .takeover, takeover := some { id := d, version := 0, cxlGranted := false, pulled := false, roll := m.voteComplete }
    rollStep := m.voteComplete.getD 0, jobCoord := s.jobCoordDev }
  t.updFab fun f => { f with boundId := d }

/-- Whether the image in force, with its packages, holds a MEMBER section of an ID for the running context (R466). -/
def State.hasMember (s : State) (d : DevId) : Bool := match s.ldr.image with
  | some i => i.sections.any fun x => x.type == .member && x.device == d && (x.ctx == s.atl.runCtx || x.ctx.isNone)
  | none => false

/-- MEMBER (R422, R425, R435, R436, R466): a record of a newer epoch is applied and acknowledged; one that revokes this device's own ID
fences it. A spare without a MEMBER section for its new ID refuses the binding: it does not acknowledge, and reports to the job coordinator as
not available (log entry 127). -/
def execMember (m : MemberRec) (s : State) : Out :=
  let ack := fun t : State => t.emit [.memberAck t.jobCoordDev m.epoch]
  if m.epoch ≤ s.ctl.memEpoch ∨ s.fenced = true then .next (if m.epoch = s.ctl.memEpoch then ack s else s)
  else
    let mine := m.failed.contains s.me && (s.rcv.role == .member || s.rcv.role == .takeover)
    if mine then .next (s.fence .fenced false)
    else match s.bindingHere m with
      | some d =>
        .next (if s.hasMember d then ack ((s.applyEpoch m).beginTakeover m d) else (s.applyEpoch m).emit [.failed (s.applyEpoch m).jobCoordDev])
      | none => .next (ack (s.applyEpoch m))

/-! ## The job coordinator (R436 to R439, R451, R453) -/

/-- Whom a record goes to: every live member, by the device that answers to it, and every chosen spare. -/
def State.recordTo (s : State) (m : MemberRec) : List DevId :=
  let live := (m.members.filter fun d => !m.failed.contains d && !m.unbound.contains d).map s.bound
  (live ++ m.bindings.map Prod.snd).foldl (fun l d => addNew d l) []

/-- A record formed and sent; the job coordinator's own device applies it with the rest. A takeover that did not end restarts
(R453), and an ID without a spare raises NO_SPARE (R437). -/
def State.sendRecord (s : State) (failed : List DevId) : State :=
  let m := s.formRecord failed
  let again := (m.failed.filter fun d =>
    s.rcv.taking.contains d && !s.rcv.unbound.contains d && !m.bindings.contains (d, s.bound d)).length
  let a := s.tick.updRcv fun r => { r with deputyHolds := false, restarts := satAdd 0xFFFF r.restarts again }
  let b := if again = 0 then a else a.raiseDev .correctable 0x084 (unitNo 9 0) 0
  let c := if m.unbound = [] then b else b.raiseDev .correctable 0x081 (unitNo 9 0) (m.unbound.headD 0)
  let d := c.emit (((s.recordTo m).filter (· != s.fab.devId)).map fun x => .member x m)
  match d.bindingHere m with
  | some x => ((d.applyEpoch m).beginTakeover m x).updRcv fun r => { r with acks := [s.fab.devId] }
  | none => (d.applyEpoch m).updRcv fun r => { r with acks := [s.fab.devId] }

/-- MEMBER_BATCH (R436): MEMBER_BATCH_US after the first confirmation the record of the next epoch is formed and sent. -/
def execMemberBatch (at' : Nat) (s : State) : Out :=
  let t := s.at' at'
  match s.rcv.confirmed with
  | [] => .next t
  | x :: _ =>
    if s.rcv.isJobCoord = true ∧ s.fenced = false ∧ x.2 + s.field "MEMBER_BATCH_US" * 1000 ≤ at' then
      let gone := s.rcv.confirmed.map Prod.fst
      let ids := s.ctl.members.filter fun d => gone.contains (s.bound d)
      let asked := (ids ++ s.voidIds).foldl (fun k d => kvPut d x.2 k) t.rcv.fmAsked
      .next ((t.updRcv fun r => { r with fmAsked := asked }).sendRecord ids)
    else .next t

/-- Whether the record in progress is final (R436, item 5). -/
def State.recordFinal (s : State) (m : MemberRec) : Bool :=
  (s.recordTo m).all (fun d => s.rcv.acks.contains d || d == s.fab.devId) && s.rcv.deputyHolds

/-- MEMBER_ACK (R436, R437, R439): once every receiver and the deputy hold the record, the increment is final: leases are granted, and
host software learns of the rebind. -/
def execMemberAck (src : DevId) (epoch : Nat) (deputy : Bool) (at' : Nat) (s : State) : Out :=
  let t := s.at' at'
  match s.rcv.record with
  | none => .next t
  | some m =>
    if s.rcv.isJobCoord = false ∨ epoch ≠ m.epoch then .next t
    else
      let u := t.updRcv fun r => { r with acks := addNew src r.acks, deputyHolds := r.deputyHolds || deputy }
      if s.recordFinal m = false ∧ u.recordFinal m = true then
        let first := (m.failed.filterMap fun d => kvFind d s.rcv.fmAsked).foldl min at'
        let v := u.updRcv fun r => { r with finalAt := at', epochUs := min 0xFFFF ((at' - first) / 1000) }
        let w := v.grantLeases m
        .next (if s.field "FM_BIND_LIMIT" = 0 then w
          else m.bindings.foldl (fun a x => a.raiseDev .event 0x0F0 (unitNo 9 0) x.1) w)
      else .next u

/-- LEASE_GRACE (R439): LEASE_GRACE_MS after the confirmation, and after the report of the fabric manager where one is needed, the job
coordinator grants CXL_REGION to the spare. On the spare the command is that grant. -/
def execLeaseGrace (id' : DevId) (at' : Nat) (s : State) : Out :=
  let t := s.at' at'
  let grant := fun u : State => match u.rcv.takeover with
    | some x => if x.id = id' then u.updRcv fun r => { r with takeover := some { x with cxlGranted := true } } else u
    | none => u
  if s.rcv.isJobCoord = false then .next (grant t)
  else match kvFind id' s.rcv.fmAsked with
    | none => .next t
    | some c =>
      let bound := decide (s.field "FM_BIND_LIMIT" = 0) || s.rcv.fmBound.contains id'
      if s.rcv.finalAt ≠ 0 ∧ c + s.field "LEASE_GRACE_MS" * ms ≤ at' ∧ bound = true ∧ s.rcv.unbound.contains id' = false then
        let u := t.updRcv fun r => { r with
          leases := kvPut (.cxlRegion, id') (s.bound id', s.ctl.memEpoch) r.leases, fmAsked := kvDel id' r.fmAsked
          fmBound := r.fmBound.filter (· != id'), fmLate := r.fmLate.filter (· != id')
          jobWait := !r.unbound.isEmpty || (r.fmLate.filter (· != id')) != [] }
        .next (if s.bound id' = s.fab.devId then grant u else match s.rcv.record with
          | some m => u.emit [.member (s.bound id') m]
          | none => u)
      else .next t

/-- FM_BOUND (R439, R491): the fabric manager's report that an ID's ranges are bound to the spare. -/
def execFmBound (ctx : CtxId) (id' spare : DevId) (s : State) : Out :=
  if s.atl.running = false then .next s
  else if s.bound id' = spare ∧ (s.ctx ctx).loaded = true then
    .next (s.updRcv fun r => { r with fmBound := addNew id' r.fmBound })
  else .next (s.updAtl fun a => { a with mboxResult := 2 })

/-- FM_BIND_LIMIT (R439): without the report the job waits. -/
def execFmBindLimit (id' : DevId) (at' : Nat) (s : State) : Out :=
  let t := s.at' at'
  let limit := s.field "FM_BIND_LIMIT"
  if s.rcv.isJobCoord = true ∧ limit ≠ 0 ∧ s.rcv.finalAt ≠ 0 ∧ kvHas id' s.rcv.fmAsked = true
      ∧ s.rcv.fmBound.contains id' = false ∧ s.rcv.fmLate.contains id' = false ∧ s.rcv.finalAt + limit * ms ≤ at' then
    .next ((t.updRcv fun r => { r with fmLate := addNew id' r.fmLate, jobWait := true }).raiseDev .correctable 0x082
      (unitNo 9 0) id')
  else .next t

/-- TAKEOVER_DONE (R447, R451): the ID is served again; once no takeover is left, aborted steps are re-run and a planned release is
over. The job coordinator tells the members. -/
def execTakeoverDone (id' : DevId) (at' : Nat) (s : State) : Out :=
  let t := s.at' at'
  if s.rcv.taking.contains id' = false then .next t
  else
    let u := t.updRcv fun r => { r with
      taking := r.taking.filter (· != id')
      takeoverMs := if r.isJobCoord then (at' - r.finalAt) / ms else r.takeoverMs }
    let v := if s.rcv.isJobCoord then
        u.emit (((s.ctl.members.map s.bound).filter (· != s.fab.devId)).map fun d => .takeoverDone d id')
      else u
    if v.rcv.taking = [] then
      .next (v.rerun.updCtl fun c => { c with releaseTarget := match c.releaseTarget with
        | some x => if x = c.sealed + 1 then none else some x
        | none => none })
    else .next v

/-! ## Standby images read back (R441 to R445, R447, R448) -/

/-- The newest record of a kind and key up to version `v`: the journal's, else the base's. -/
def Standby.recAt (b : Standby) (kind key v : Nat) : Option (List Byte) :=
  let of := fun l : List Journal => (l.filter fun j => j.kind == kind && j.key == key && j.step ≤ v).getLast?.map (·.content)
  match of b.journal with
  | some x => some x
  | none => of b.base

/-- Keys of a kind in an image up to version `v`. -/
def Standby.keys (b : Standby) (kind v : Nat) : List Nat :=
  ((b.base ++ b.journal).filter fun j => j.kind == kind && j.step ≤ v).foldl (fun l j => insNat j.key l) []

/-- A scale record read from its 8 bytes (R79). -/
def scaleRecFrom (b : List Byte) : ScaleRec :=
  let v := leNat b
  { mu := bits v 15 0, eps := toSigned 16 (bits v 31 16), fmt := scaleFmtOf (bits v 34 32)
    kind := match bits v 36 35 with
      | 0 => .weight
      | 1 => .activation
      | _ => .gradient
    zp := toSigned 8 (bits v 44 37) }

/-- Histories read one after another, and the bytes after them. -/
def histsFrom : Nat → List Byte → List (List F32) × List Byte
  | 0, b => ([], b)
  | n + 1, b =>
    let k := (b.headD 0).toNat
    let r := histsFrom n (b.drop (1 + 4 * k))
    (f32s ((b.drop 1).take (4 * k)) :: r.1, r.2)

/-- A scale set read from the content of a SCALE_SET record. -/
def State.scaleSetFrom (s : State) (v : Nat) (b : List Byte) : ScaleSet :=
  let n := s.recCount
  let recs := (List.range n).map fun i => scaleRecFrom ((b.drop (8 * i)).take 8)
  let h := histsFrom n (b.drop (8 * n))
  let backoff := leNat (h.2.take 1)
  let decay := leNat ((h.2.drop 1).take 2)
  { version := v, recs := recs, hist := h.1, backoff := backoff, decay := decay,
    pairs := pairsOf recs (s.fieldL "RESCALE_PAIRS"), digest := scaleDigest recs h.1 backoff decay }

/-- A row of an image at version `v`, with its directory entry and popularity record (R254, R272). -/
def State.rowOfImage (s : State) (b : Standby) (v key : Nat) : Option ((Nat × Nat) × Row) :=
  let t := keyTable key
  let r := keyRow key
  match b.recAt 0 key v with
  | none => none
  | some c =>
    let p := rowFrom (s.field "TBL_DIM" t) c
    let dir := leNat ((b.recAt 3 key v).getD [])
    let has := (b.recAt 3 key v).isSome
    let pop := (b.recAt 4 key v).getD [0, 0, 0, 0]
    let role := if s.homeOf t r = s.me then Role.home else if s.mirrorOf t r = s.me then .mirror else .replica
    some ((t, r),
      { role := role, record := p.1, state := p.2, tier := if has then bits dir 6 6 else 0, repl := has && bits dir 7 7 == 1,
        home := s.homeOf t r, mirror := s.mirrorOf t r, slot := if has then bits dir 91 40 else s.newSlot t r,
        pop := leNat (pop.take 2), popEpoch := leNat (pop.drop 2) })

/-- The pending moves of the job state put back on their rows (log entry 21). -/
def pendFrom (rows : KV (Nat × Nat) Row) : Nat → List Byte → KV (Nat × Nat) Row
  | 0, _ => rows
  | fuel + 1, b =>
    if b.length < 16 then rows
    else
      let key := leNat (b.take 8)
      let opt := fun i : Nat => match (b.getD i 0).toNat with
        | 0 => none
        | v + 1 => some v
      let k := (keyTable key, keyRow key)
      let next := match kvFind k rows with
        | some r => kvPut k { r with
            pendClass := (opt 8).map clsOf, pendTier := opt 9, pendRepl := (opt 10).map fun x => x == 1 } rows
        | none => rows
      pendFrom next fuel (b.drop 16)

/-- Pre-image log records of steps above v − L, from the journal (R447, item 5). -/
def State.logOfImage (s : State) (b : Standby) (v : Nat) (q : QuernId) : List PreImage :=
  (b.journal.filter fun j => j.kind == 0 && v < j.step + s.lag && j.step ≤ v
      && s.quernOf (keyTable j.key) (keyRow j.key) == q).filterMap fun j =>
    (b.recAt 0 j.key (j.step - 1)).map fun c =>
      { table := keyTable j.key, row := keyRow j.key, older := j.step - 1, record := (rowFrom (s.field "TBL_DIM" (keyTable j.key)) c).1 }

/-- The state of version `v` restored from a standby image (R441, R447 items 3 to 5, R495): rows, directory, popularity, tiles, scalar
records, scale set, pending moves and pre-image log. -/
def State.restore (s : State) (b : Standby) (v : Nat) : State :=
  let job := (b.recAt 6 0 v).getD []
  let rows := (b.keys 0 v).filterMap (s.rowOfImage b v)
  let pend := pendFrom rows job.length (job.drop 24)
  let tiles := (b.keys 1 v).filterMap fun k => (b.recAt 1 k v).map fun c =>
    let t := keyTable k
    let tau := s.keyTau k
    let f := frameFrom (s.tileKn t tau * s.tileNn t tau) (s.nstate t) c
    ((t, tau), ({ a := f, b := f } : Tile))
  let scalars := (b.keys 2 v).filterMap fun k => (b.recAt 2 k v).map fun c => (keyTable k, scalarFrom c)
  let set := (b.recAt 5 0 v).map (s.scaleSetFrom v)
  let a := { s with rows := pend, repl := {}, units := [], fresh := s.fresh + 1 }
  let c := allQuerns.foldl (fun x q => x.updQuern q fun k => { k with
    doneVersion := v, log := s.logOfImage b v q, reserved := [], held := [], screened := [], sets := [], waiting := []
    logHold := false }) a
  let d := c.updWeir fun w => { w with
    tiles := tiles, scalars := scalars, nodes := [], seen := [], retained := [], roots := [], ring := [], arriving := none
    stored := [], sources := [], wcTries := [], wcAcks := [], wcGot := [], ssChecked := [], digests := []
    scaleSets := match set with
      | some x => [(v, x)]
      | none => []
    param := ((b.recAt 7 0 v).getD w.param) }
  d.updCtl fun k => { k with
    sealed := v, steps := [], slots := [], stageOut := [], admStep := 0, acc := [], rootDecided := [], mirrorHeld := []
    broadcast := [], orderFinal := [], started := true, halted := false
    layEpoch := if job = [] then k.layEpoch else leNat ((job.drop 12).take 4) }

/-- Versions that the open steps after version `v` read, oldest first (R19). -/
def State.neededVersions (s : State) (v : Nat) : List Nat :=
  ((List.range (s.lag + 1)).map fun i => v - i).foldl (fun l n => if s.ctl.s0 ≤ n then insNat n l else l) []

/-- Ring entries opened for the versions that open steps read, and their tiles asked for: working copies from the homes, source copies
of own tiles from a member of the group (R358 item 4, R447 item 6). The scale set of the restored version is there already. -/
def State.askVersions (s : State) (v : Nat) : State :=
  let vs := s.neededVersions v
  let a := vs.foldl (fun t n => t.beginArrival n false) s
  let b := a.updWeir fun w => { w with ssChecked := w.scaleSets.map Prod.fst }
  let asks := vs.flatMap fun n => (s.tensors.filter fun t => s.dtLearns t || n == s.ctl.s0).flatMap fun t =>
    (s.tilesIn t).filterMap fun u =>
      let h := s.tileHome t u
      let grp := (s.fieldL "WC_GROUP" t).filter (· != s.me)
      if h = s.me then grp.head?.map fun d => Msg.wcAsk d t (s.tkOf t u) (s.tnOf t u) n
      else if (s.fieldL "WC_GROUP" t).contains s.me then some (Msg.wcAsk h t (s.tkOf t u) (s.tnOf t u) n) else none
  (b.emit asks).emit ((vs.filter fun n => !(kvHas n b.weir.scaleSets)).map fun n => .setAsk (s.voteParent s.me) n)

/-- The image of an ID as the spare finds it in pooled memory: the valid header with the higher SEQ (R442), and the records, with a
unit whose CRC fails, or every unit where no header is valid, taken from its partner (R448). What another device left in pooled memory is a
free value. -/
def State.pooledStandby (s : State) (d : DevId) : Standby :=
  let hdr := fun i : Nat => headerFrom (Config.pooledHeader d s.fresh i) d (s.field "JOB_ID")
  { hdr0 := hdr 0, hdr1 := hdr 1 }
def State.pooledOf (s : State) (d : DevId) (base valid : Bool) (v : Nat) : List (Bool × Journal) :=
  (Config.pooledRecords d s.fresh base).map fun b =>
    let x := journalFrom b
    if valid && x.1 then (true, x.2) else (false, { x.2 with content := Config.partnerUnit s.fresh x.2.key v })

/-- The partner of a failed ID for a unit: its home or its mirror (R448). -/
def State.partnerFor (s : State) (d : DevId) (key : Nat) : DevId :=
  let h := if keyIsRow key then s.homeOf (keyTable key) (keyRow key)
    else if keyIsScalar key then s.firstHome (keyTable key) else s.tileHome (keyTable key) (s.keyTau key)
  let m := if keyIsRow key then s.mirrorOf (keyTable key) (keyRow key)
    else if keyIsScalar key then (s.fieldL "DMIRROR_DEV" (keyTable key)).headD 0 else s.tileMirror (keyTable key) (s.keyTau key)
  if h = d then m else h

/-- The rolling step set up for the roll-forward (R358): it awaits the decision that the root or the mirror sends. -/
def State.setRoll (s : State) (v : Nat) (roll : Option Nat) : State := match roll with
  | some n =>
    if v < n then
      (s.boundary n).updStep n fun p => { p with
        st := .vote, admitted := s.mbs, released := s.mbs, gatherEnded := true, voteSent := true, memEpoch := s.ctl.memEpoch
        layEpoch := s.ctl.layEpoch, rolled := true, repairs := addRepair 6 s.fab.devId s.me p.repairs }
    else s
  | none => s

/-- The pages of the running context mapped in frames that no other context keeps; `kept` pages stay where they lie (R230, R447 items 3
to 5, R495). -/
def State.mapPages (s : State) (kept : KV Nat Page) : State :=
  let held := s.atl.ctxs.flatMap fun c => c.2.kept.map fun x => x.2.loc
  s.updTier fun t =>
    let u := Tier.placeAll { t with pages := kept, used := held } s.regions
    { t with pages := u.pages, used := u.used }

/-- Bytes written where the map in force places their addresses. -/
def State.putRange (s : State) (a : Nat) (b : List Byte) : State := match s.page (pageOf a) with
  | some e => s.updTier fun t => { t with mem := memWrite t.mem (physOf e.loc (offOf a)) b }
  | none => s

/-- The step programs of the image written to the range at CMD_BASE_F, CMD_BASE_B and CMD_BASE_U (R167, R456). -/
def State.loadProgs (s : State) : State :=
  s.jobData.progs.foldl (fun t x =>
    let base := match x.1 with
      | .f => s.field "CMD_BASE_F"
      | .b => s.field "CMD_BASE_B"
      | .u => s.field "CMD_BASE_U"
    x.2.zipIdx.foldl (fun u w => u.putRange (base + 64 * w.2) (leBytes 64 w.1.toNat)) t) s

/-- The bytes of the STATE pages that another device's standby image brings (R447 items 3 and 4): a free value. -/
def State.pullPages (s : State) (d : DevId) : State :=
  let state := s.tier.pages.filter fun x => (s.regionAt x.1).any fun r => r.kind == 0
  let fill := fun (m : List Host.Cell) (x : Nat × Page) => fillFrame x.2.loc (Config.pooledCells d s.fresh x.1) m
  s.updTier fun t => { t with mem := state.foldl fill t.mem }

/-- PULL_COMPLETE (R447 items 2 to 7, R241, R448): the spare restores the version of the header in force, asks for the ring versions and
source copies, and takes its place, with the step-targeted writes that the vote root has sent (R474); a rolling step is rolled forward, and remote accesses are served. -/
def execPullComplete (s : State) : Out :=
  match s.rcv.takeover with
  | none => .next s
  | some x =>
    if x.cxlGranted = false ∨ x.pulled = true then .next s
    else
      let hdr := (s.pooledStandby x.id).header
      let v := (hdr.map (·.sealedStep)).getD ((match x.roll with
        | some n => n - 1
        | none => s.ctl.sealed))
      let base := s.pooledOf x.id true hdr.isSome v
      let jour := s.pooledOf x.id false hdr.isSome v
      let bad := ((base ++ jour).filter fun y => !y.1).map fun y => y.2.key
      let b : Standby := { s.pooledStandby x.id with base := base.map Prod.snd, journal := (jour.map Prod.snd).filter fun j => j.step ≤ v }
      let t := if hdr.isNone then s.raiseDev .correctable 0x083 (unitNo 9 0) x.id else s
      let u := ((((t.mapPages []).pullPages x.id).loadProgs).restore b v).updStandby fun _ => b
      let w := (u.setRoll v x.roll).askVersions v
      let rolls := match x.roll with
        | some n => decide (v < n)
        | none => false
      let seq := leNat ((((b.recAt 6 0 v).getD []).drop 16).take 8)
      let w1 := match s.atl.runCtx with
        | some c => w.updCtx c fun q => { q with diffSeq := seq }
        | none => w
      let sent : List StepWrite := (Config.spareWrites s.fresh).map fun x => { index := x.1, value := x.2.1, target := x.2.2.1, serial := x.2.2.2 }
      let w2 := w1.updLdr fun l => { l with memberWrites := l.memberWrites ++ sent }
      let y := w2.updRcv fun r => { r with
        takeover := some { x with pulled := true, version := v, roll := if rolls then x.roll else none }
        partnerUnits := satAdd 0xFFFF r.partnerUnits bad.length }
      let z := y.emit (bad.map fun k => .unitAsk (s.partnerFor x.id k) k v)
      .next (if rolls then z else z.endTakeover x.id).serveAsks

/-- PARTNER_UNIT_REQUEST (R448): the unit at version `v` read from this device's own standby image and sent. Without it the spare
gets none (R359). -/
def execPartnerUnitRequest (src : DevId) (key : Nat) (version : Nat) (s : State) : Out :=
  match s.standby.unitAt key version with
  | some c => .next (s.emit [.unit src key version c])
  | none => .next s

/-! ## Folding the journal (R445) -/

/-- Whether a step is sealed on every member, by the low bits of SEALED_STEP in their heartbeats. -/
def State.sealedByAll (s : State) (m : Nat) : Bool := s.ctl.members.all fun d =>
  d == s.me || (kvHas (s.bound d) s.fab.heard
    && decide (((kvGet {} (s.bound d) s.fab.heard).sealedLo + 2 ^ 32 - m % 2 ^ 32) % 2 ^ 32 < 2 ^ 31))

/-- The records of a step put into the base in place of the older ones. -/
def Standby.fold (b : Standby) (m : Nat) : Standby :=
  let rs := b.journal.filter fun j => j.step == m
  { b with
    base := (b.base.filter fun j => !(rs.any fun r => r.kind == j.kind && r.key == j.key)) ++ rs
    journal := b.journal.filter fun j => j.step != m }

/-- JOURNAL_FOLD (R445): the records of the next step folded, then BASE_STEP and JOURNAL_HEAD advanced in a header write. -/
def execJournalFold (step : Nat) (s : State) : Out :=
  let b := s.standby
  match b.header with
  | none => .next s
  | some h =>
    if step = h.baseStep + 1 ∧ step + s.lag + 1 ≤ h.sealedStep ∧ s.sealedByAll step = true ∧ s.fenced = false then
      let gone := (b.journal.filter fun j => j.step == step).foldl (fun a j => a + j.size) 0
      let size := max 64 (s.field "STBY_JOURNAL_SIZE")
      .next (s.updStandby fun x => (x.fold step).write { h with
        seq := h.seq + 1, baseStep := step, head := (h.head + gone) % size })
    else .next s

/-! ## Planned release (R451) -/

/-- Whether a planned release names this device. -/
def State.released (s : State) (r : Release) : Bool :=
  if r.dev ≠ 0 then r.dev == s.me || r.dev == s.fab.devId else s.podNo == r.pod && s.pow.tray.toNat / 4 == r.tray

/-- RELEASE_FENCE (R451): with step t − 1 sealed and its standby header acknowledged, a device of the tray fences itself and reports
RELEASED. The job coordinator then increments the epoch and binds the tray's IDs to spares. -/
def execReleaseFence (s : State) : Out :=
  match s.ctl.releaseTarget with
  | none => .next s
  | some t =>
    if s.ctl.sealed + 1 ≠ t then .next s
    else
      let now := s.rcv.releases.filter fun r => r.target == t
      let stored := match s.standby.header with
        | some h => h.sealedStep + 1 == t
        | none => false
      let a := if (now.any s.released) && s.rcv.role == .member && stored then s.fence .released false else s
      if s.rcv.isJobCoord = true ∧ s.rcv.taking = [] ∧ s.sealedByAll (t - 1) = true ∧ now ≠ [] then
        let hit := fun d : DevId => now.any fun r =>
          if r.dev ≠ 0 then r.dev == d else s.trayOf (s.bound d) == (r.pod, r.tray)
        let ids := s.ctl.members.filter hit
        let b := a.updRcv fun r => { r with
          releases := r.releases.filter fun x => x.target != t, finalAt := 0
          fmAsked := ids.foldl (fun k d => kvPut d s.now k) r.fmAsked }
        .next (if ids = [] then b else b.sendRecord ids)
      else .next a

end Sys2Proof.Machine
end

