-- ==== Sys2Proof/Machine/Image.lean ====
section
/-! DEFINITION. The Mioxa image: what the device knows of every field, the checks of an image, the banks, loading, field reads and
writes, and step-targeted writes (R456 to R475). -/

namespace Sys2Proof.Machine

/-! ## The fields that the device knows (R459, R468, R470) -/

/-- The values that a field may take. Signed values are held in 16-bit two's complement. -/
inductive FRange
  | any
  | rng (lo hi : Nat)
  | mult (lo hi step : Nat)
  | sgn (lo hi : Int)
  | pow2 (lo hi : Nat)
  | f32 (lo hi : Nat)
  | zeroOr (lo hi : Nat)
  | list (least most lo hi : Nat)
  deriving DecidableEq, Repr

/-- What the device knows of a field name: its class, whether it is numeric, the section types that may hold it, and its values. -/
structure FieldSpec where
  cls : FieldClass
  numeric : Bool
  sects : List SectType
  range : FRange
  deriving DecidableEq, Repr

/-- One FP32 value in range: codes between two bounds, or −0 where +0 is allowed. -/
def f32In (lo hi v : Nat) : Bool := (lo ≤ v && v ≤ hi) || (lo == 0 && v == 0x80000000)

/-- Whether a value lies in a range. -/
def FRange.has (r : FRange) (v : List Nat) : Bool := match r, v with
  | .any, _ => true
  | .list least most lo hi, l => least ≤ l.length && l.length ≤ most && l.all fun x => lo ≤ x && x ≤ hi
  | .zeroOr lo hi, [x] => x == 0 || (lo ≤ x && x ≤ hi)
  | .rng lo hi, [x] => lo ≤ x && x ≤ hi
  | .mult lo hi step, [x] => lo ≤ x && x ≤ hi && x % step == 0
  | .sgn lo hi, [x] => decide (x < 65536) && decide (lo ≤ toSigned 16 x) && decide (toSigned 16 x ≤ hi)
  | .pow2 lo hi, [x] => lo ≤ x && x ≤ hi && (List.range 14).any fun k => x == 2 ^ k
  | .f32 lo hi, [x] => f32In lo hi x
  | _, _ => false

/-- A Locked field, and a Shadowed one. -/
def fLock (numeric : Bool) (sects : List SectType) (r : FRange) : FieldSpec := { cls := .locked, numeric, sects, range := r }
def fShad (numeric : Bool) (sects : List SectType) (r : FRange) : FieldSpec := { cls := .shadowed, numeric, sects, range := r }
/-- Section types of a field by its scope (R456). -/
def dev : List SectType := [.device]
def ctxs : List SectType := [.context]
def job : List SectType := [.job]
def mem : List SectType := [.member]
def lay : List SectType := [.layout]

/-- Fields of the core, memory and feeding chapters (R159, R193, R221, R247), of DEVICE and CONTEXT sections. -/
def specDevice (name : String) : Option FieldSpec := match name with
  | "ENG_REPAIR_POLICY" => fLock false dev (.rng 0 1)
  | "CHK_RECUR_LIMIT" => fShad false dev (.rng 0 255)
  | "LB_F_BLOCKS" => fLock false dev (.rng 16 448)
  | "LB_B_BLOCKS" => fLock false dev (.rng 16 448)
  | "LB_U_BLOCKS" => fLock false dev (.rng 8 128)
  | "LB_RET_F" => fLock false dev (.rng 0 448)
  | "LB_RET_B" => fLock false dev (.rng 0 448)
  | "LB_RET_U" => fLock false dev (.rng 0 128)
  | "LB_PF_MAX" => fShad false dev (.rng 0 512)
  | "MP_BLOCKS" => fLock false dev (.rng 16 256)
  | "MP_RB_BLOCKS" => fLock false dev (.rng 8 64)
  | "DEFER_AGE" => fShad false dev (.rng 1024 (2 ^ 32 - 1))
  | "NOPROG_LIMIT" => fShad false dev (.rng 50000 50000000)
  | "HR_HINT_DEPTH" => fShad false dev (.rng 0 8)
  | "ARB_SLACK" => fLock false dev (.rng 1 32767)
  | "ARB_HOLD_LIMIT" => fShad false dev (.rng 1024 16777215)
  | "GOV_SLEEP_MIN" => fShad false dev (.zeroOr 64 65535)
  | "PROMOTE_HEAT" => fShad false dev (.rng 1 15)
  | "DEMOTE_HEAT" => fShad false dev (.rng 0 14)
  | "TIER_DECAY_US" => fShad false dev (.rng 100 1000000)
  | "MIG_ENABLE" => fShad false dev (.rng 0 1)
  | "LATE_HBM_NS" => fShad false dev (.rng 500 1000000)
  | "LATE_CXL_NS" => fShad false dev (.rng 1000 10000000)
  | "LATE_REMOTE_NS" => fShad false dev (.rng 5000 10000000)
  | "CXL_DOWN_LIMIT" => fLock false dev (.rng 10 2000)
  | "QRN_FRONT" => fLock false dev (.rng 0 11)
  | "MOVE_MAX" => fShad false dev (.rng 0 65535)
  | "GRIST_SET_MAX" => fLock false (dev ++ ctxs) (.mult 0 (2 ^ 56) (2 ^ 21))
  | "WEIR_SRAM_RED" => fLock false dev (.rng 16 224)
  | "RET_SLOT_SIZE" => fLock false dev (.mult 0 (2 ^ 56) (2 ^ 21))
  | "POP_VC_SLOTS" => fLock false dev (.list 6 6 259 23552)
  | "POP_RETRY_LIMIT" => fShad false dev (.rng 1 1000)
  | "POP_RETRAIN_LIMIT" => fShad false dev (.rng 1 1000)
  | "ETH_RTO_US" => fShad false dev (.rng 50 10000)
  | "POP_ACK_LIMIT" => fShad false dev (.rng 1 1000)
  | "STAGE_OF_CORE" => fLock false (dev ++ mem) (.rng 0 15)
  | "STBY_JOURNAL_SIZE" => fLock false (dev ++ ctxs) (.mult 0 (2 ^ 56) (2 ^ 21))
  | "DIFF_SPOOL_SIZE" => fLock false (dev ++ ctxs) (.mult 0 (2 ^ 56) (2 ^ 21))
  | "PKG_POWER_LIMIT" => some { cls := .live, numeric := false, sects := dev, range := .rng 900 1450 }
  | "PWR_WINDOW_US" => some { cls := .live, numeric := false, sects := dev, range := .rng 100 100000 }
  | "PWR_HYST_PCT" => some { cls := .live, numeric := false, sects := dev, range := .rng 1 20 }
  | "TJ_THROTTLE" => some { cls := .live, numeric := false, sects := dev, range := .rng 85 105 }
  | "DROOP_PCT" => fLock false dev (.rng 2 8)
  | _ => none

/-- Fields of CONTEXT and MEMBER sections (R193, R221, R247, R281, R308, R348, R394, R455, R510). -/
def specContext (name : String) : Option FieldSpec := match name with
  | "CMD_BASE_F" => fLock false ctxs (.rng 0 (2 ^ 56 - 1))
  | "CMD_BASE_B" => fLock false ctxs (.rng 0 (2 ^ 56 - 1))
  | "CMD_BASE_U" => fLock false ctxs (.rng 0 (2 ^ 56 - 1))
  | "CMD_LEN_F" => fLock false ctxs (.rng 0 (2 ^ 32 - 1))
  | "CMD_LEN_B" => fLock false ctxs (.rng 0 (2 ^ 32 - 1))
  | "CMD_LEN_U" => fLock false ctxs (.rng 0 (2 ^ 32 - 1))
  | "SLUICE_READ" => fLock false ctxs (.rng 5 90)
  | "SLUICE_WRITE" => fLock false ctxs (.rng 5 90)
  | "SLUICE_REMOTE" => fLock false ctxs (.rng 5 90)
  | "SLUICE_DEPTH" => fLock false ctxs (.rng 64 1024)
  | "RANGE_MAP" => fLock false ctxs (.list 0 256 0 (2 ^ 128 - 1))
  | "QRN_DIR_REGION" => fLock false ctxs (.rng 0 255)
  | "QRN_LOG_BASE" => fLock false ctxs (.mult 0 (2 ^ 56) (2 ^ 21))
  | "QRN_LOG_SIZE" => fLock false ctxs (.mult 0 (2 ^ 56) (2 ^ 21))
  | "GRIST_BASE" => fLock false ctxs (.mult 0 (2 ^ 56) (2 ^ 21))
  | "GRIST_SIZE" => fLock false ctxs (.mult 0 (2 ^ 56) (2 ^ 21))
  | "WEIR_STATE" => fLock false ctxs (.rng 0 255)
  | "WEIR_WORK" => fLock false ctxs (.rng 0 255)
  | "RED_SPILL" => fLock false ctxs (.rng 0 255)
  | "STBY_REGION" => fLock false ctxs (.rng 0 255)
  | "JOB_LINK_MODE" => fLock false ctxs (.rng 0 1)
  | "AUDIT" => fLock false ctxs (.rng 0 1)
  | "AUDIT_REGION" => fLock false ctxs (.rng 0 255)
  | "DIFF_DEST" => fLock false ctxs (.rng 0 1)
  | "DIFF_PORT" => fLock false ctxs (.rng 0 15)
  | "MP_SPILL_BASE" => fLock false mem (.mult 0 (2 ^ 56) (2 ^ 21))
  | "MP_SPILL_SIZE" => fLock false mem (.mult 0 (2 ^ 56) (2 ^ 21))
  | "STASH_MAX" => fLock false mem (.mult 0 (2 ^ 56) (2 ^ 14))
  | "STAGE_PREV" => fLock false mem (.list 0 2 0 0xFFFF)
  | "STAGE_NEXT" => fLock false mem (.list 0 2 0 0xFFFF)
  | "STAGE_RX_BASE" => fLock false mem (.mult 0 (2 ^ 56) (2 ^ 21))
  | "STAGE_RX_SIZE" => fLock false mem (.mult 0 (2 ^ 56) (2 ^ 21))
  | "STAGE_CREDITS" => fLock false mem (.rng 1 8)
  | "BLOCK_BASE" => fLock false mem (.rng 0 (2 ^ 16 - 1))
  | "VOTE_PARENT" => fLock false mem (.rng 0 0xFFFE)
  | _ => none

/-- Fields of JOB sections (R44, R103, R281, R308, R348, R376, R394, R455, R510) and of LAYOUT sections (R369). -/
def specJob (name : String) : Option FieldSpec := match name with
  | "STEP_LAG" => fLock true job (.rng 0 2)
  | "MB_PER_STEP" => fLock false job (.rng 1 8)
  | "JOB_ID" => fLock false job (.rng 1 (2 ^ 64 - 1))
  | "JOB_SEED" => fLock true job (.rng 0 (2 ^ 64 - 1))
  | "SCALE_HISTORY" => fLock true job (.rng 1 16)
  | "BACKOFF_MAX" => fLock true job (.rng 0 15)
  | "BACKOFF_DECAY" => fShad true job (.rng 1 65535)
  | "SCALE_FMT" => fLock true job (.rng 0 5)
  | "SCALE_KIND" => fLock true job (.rng 0 2)
  | "SCALE_MARGIN" => fShad true job (.rng 0 7)
  | "EPS_INIT" => fLock true job (.sgn (-126) 126)
  | "SCALE_ZP" => fLock true job (.sgn (-128) 0)
  | "WC_ROUND" => fShad true job (.rng 0 1)
  | "WC_FMT" => fLock true job .any
  | "WEIGHT_RECORD" => fLock true job .any
  | "RESCALE_PAIRS" => fLock true job .any
  | "FX48_EXP" => fShad true job (.sgn (-126) 80)
  | "TBL_ROWS" => fLock true job (.rng 1 (2 ^ 40))
  | "TBL_DIM" => fLock true job (.mult 4 1024 4)
  | "TBL_LEARN" => fLock true job (.rng 0 1)
  | "TBL_CLASS_MIN" => fLock true job (.rng 0 3)
  | "TBL_CLASS_MAX" => fLock true job (.rng 0 3)
  | "ROW_REGION_HBM" => fLock false (job ++ ctxs) (.rng 0 255)
  | "ROW_REGION_CXL" => fLock false (job ++ ctxs) (.rng 0 255)
  | "POP_UP_W" => fShad true job (.rng 0 65535)
  | "POP_UP_H" => fShad true job (.rng 0 65535)
  | "POP_DOWN_W" => fShad true job (.rng 0 65535)
  | "POP_DOWN_C" => fShad true job (.rng 0 65535)
  | "TIER_UP_POP" => fShad false job (.rng 0 65535)
  | "TIER_DOWN_POP" => fShad false job (.rng 0 65535)
  | "REPL_POP" => fShad false job (.rng 0 65535)
  | "REPL_DROP_POP" => fShad false job (.rng 0 65535)
  | "POP_DECAY_STEPS" => fLock true job (.rng 1 65535)
  | "POP_SWEEP_STEPS" => fLock true job (.rng 1 (2 ^ 32 - 1))
  | "OPT_KIND" => fLock true job (.rng 0 7)
  | "OPT_REGION" => fLock false (job ++ ctxs) (.rng 0 255)
  | "OPT_LR" => fShad true job (.f32 0 0x7F7FFFFF)
  | "OPT_EPS" => fShad true job (.f32 1 0x7F7FFFFF)
  | "OPT_BETA1" => fShad true job (.f32 0 0x3F7FFFFF)
  | "OPT_BETA2" => fShad true job (.f32 0 0x3F7FFFFF)
  | "DT_K" => fLock true job (.rng 1 8388608)
  | "DT_N" => fLock true job (.rng 1 8388608)
  | "DT_LEARN" => fLock true job (.rng 0 1)
  | "DT_PROG" => fLock true job (.rng 0 63)
  | "DT_NSTATE" => fLock true job (.rng 0 4)
  | "DT_CONST" => fShad true job (.list 0 16 0 (2 ^ 32 - 1))
  | "DT_XINIT" => fLock true job (.list 0 4 0 (2 ^ 32 - 1))
  | "DT_PLACE" => fLock false job (.rng 0 1)
  | "RED_GROUP" => fLock false job (.list 0 1024 1 0xFFFE)
  | "RING_BASE" => fLock false (job ++ ctxs) (.rng 0 (2 ^ 56 - 1))
  | "RING_STRIDE" => fLock false (job ++ ctxs) (.rng 0 (2 ^ 56 - 1))
  | "BLOCK_BITS" => fLock true job (.rng 0 16)
  | "VOTE_ROOT" => fLock false job (.rng 1 0xFFFE)
  | "VOTE_MIRROR" => fLock false job (.rng 1 0xFFFE)
  | "LAYOUT_TARGET" => fShad false job (.rng 0 (2 ^ 48 - 1))
  | "REBUILD_HOST_LIMIT" => fShad false job (.rng 10 60000)
  | "SEQ_SEG" => fLock true job (.pow2 8 8192)
  | "SEQ_MERGE" => fLock true job (.rng 0 65535)
  | "SEQ_FINISH" => fLock true job (.rng 0 65535)
  | "JOB_SPARES" => some { cls := .live, numeric := false, sects := job, range := .list 0 256 1 0xFFFE }
  | "MEMBER_BATCH_US" => fShad false job (.rng 50 2000)
  | "LEASE_GRACE_MS" => fLock false job (.rng 5 100)
  | "FM_BIND_LIMIT" => fLock false job (.rng 0 2000)
  | "SHARD_SHIFT" => fLock false lay (.rng 0 39)
  | "SHARD_DEV" => fLock false lay (.list 1 4096 1 0xFFFE)
  | "MIRROR_DEV" => fLock false lay (.list 1 4096 1 0xFFFE)
  | "REPL_GROUP" => fLock false lay (.list 0 256 1 0xFFFE)
  | "QRN_MASK" => fLock false lay (.rng 1 4095)
  | "DSHARD_SHIFT" => fLock false lay (.rng 0 31)
  | "DSHARD_DEV" => fLock false lay (.list 1 4096 1 0xFFFE)
  | "DMIRROR_DEV" => fLock false lay (.list 1 4096 1 0xFFFE)
  | "WC_GROUP" => fLock false lay (.list 0 1024 1 0xFFFE)
  | "RED_ROUTE" => fLock false lay .any
  | "WC_ROUTE" => fLock false lay .any
  | _ => none

/-- What the device knows of a field name (R459). -/
def fieldSpec (name : String) : Option FieldSpec := ((specDevice name).or (specContext name)).or (specJob name)

/-- How many scope indices a field has (R11, R248, R341, R459): cores, engines, streams, Querns, ports, scale records, tables and tensors, pairs
of resource kind and class, stage slots, or one. -/
def scopesOf (name : String) : Nat :=
  if name ∈ ["LB_F_BLOCKS", "LB_B_BLOCKS", "LB_U_BLOCKS", "LB_RET_F", "LB_RET_B", "LB_RET_U", "MP_BLOCKS", "MP_RB_BLOCKS", "DEFER_AGE",
      "NOPROG_LIMIT", "GOV_SLEEP_MIN", "QRN_FRONT", "STAGE_OF_CORE"] then 32
  else if name = "ENG_REPAIR_POLICY" then 64
  else if name ∈ ["LB_PF_MAX", "HR_HINT_DEPTH"] then 3
  else if name = "ARB_SLACK" then 48
  else if name = "ARB_HOLD_LIMIT" then 344
  else if name ∈ ["MOVE_MAX", "GRIST_SET_MAX", "GRIST_BASE", "GRIST_SIZE", "QRN_LOG_BASE", "QRN_LOG_SIZE"] then 12
  else if name ∈ ["POP_RETRY_LIMIT", "POP_RETRAIN_LIMIT"] then 16
  else if name = "CXL_DOWN_LIMIT" then 2
  else if name ∈ ["MP_SPILL_BASE", "MP_SPILL_SIZE", "STASH_MAX", "STAGE_PREV", "STAGE_NEXT", "STAGE_RX_BASE", "STAGE_RX_SIZE",
      "STAGE_CREDITS"] then 8
  else if name ∈ ["SCALE_FMT", "SCALE_KIND", "SCALE_MARGIN", "EPS_INIT", "SCALE_ZP", "WC_ROUND"] then 8192
  else if name ∈ ["STEP_LAG", "MB_PER_STEP", "JOB_ID", "JOB_SEED", "SCALE_HISTORY", "BACKOFF_MAX", "BACKOFF_DECAY", "BLOCK_BITS",
      "VOTE_ROOT", "VOTE_MIRROR", "LAYOUT_TARGET", "JOB_SPARES", "MEMBER_BATCH_US", "LEASE_GRACE_MS", "FM_BIND_LIMIT", "REBUILD_HOST_LIMIT",
      "POP_SWEEP_STEPS", "POP_DECAY_STEPS"] then 1
  else if (specJob name).isSome then 4096 else 1

/-- Whether a field entry passes R459 and its value lies in its range, in a section that may hold it. Layout fields may also stand in
the JOB section of an image that holds no LAYOUT section for them. -/
def fieldEntryOk (secs : List Section) (f : FieldInst) : Bool := match fieldSpec f.name, secs[f.sect]? with
  | some p, some x => f.cls == p.cls && f.numeric == p.numeric && p.range.has f.value && decide (f.scope < scopesOf f.name)
      && (p.sects.contains x.type || (p.sects == lay && x.type == .job))
  | _, _ => false

/-! ## Conditions that join fields (R461 check 5, R471) -/

/-- Rank of a class in the order C < W < H, with F apart (R252). -/
def classNoRank (c : Nat) : Nat := clsRank (clsOf c)

/-- The zero points (R92, R102): of activation records only, from −128 for INT8 and −8 for INT4, and 0 for every float format. -/
def State.zeroPointsOk (s : State) : Bool := s.ldr.fields.all fun f =>
  if f.inst.name == "SCALE_ZP" && fieldApplies s f then
    let z := toSigned 16 (f.inst.value.headD 0)
    z == 0 || (s.recKind f.inst.scope == .activation && match scaleFmtOf (s.field "SCALE_FMT" f.inst.scope) with
      | .i8 => decide (-128 ≤ z)
      | .i4 => decide (-8 ≤ z)
      | _ => false)
  else true

/-- The records of a product with an INT32 output (R97): all three I8 or I4. -/
def State.int32Ok (s : State) (d : Desc) : Bool :=
  let okRec := fun r : Nat => match scaleFmtOf (s.field "SCALE_FMT" r) with
    | .i8 | .i4 => true
    | _ => false
  d.out.fmt != .int32 || !d.hasMM || (okRec d.scaleA && okRec d.scaleB && okRec d.scaleOut)

/-- The step programs of the image (R97). -/
def State.programsOk (s : State) : Bool := s.jobData.progs.all fun p => p.2.all fun w => match decodeDesc w with
  | some d => s.int32Ok d
  | none => true

/-- Classes that the table initialiser names lie in the bounds of their table (R252, R256). -/
def State.initOk (s : State) : Bool := s.jobData.rowInit.all fun x => match x with
  | .values t _ (some c) _ =>
    let lo := clsOf (s.field "TBL_CLASS_MIN" t)
    let hi := clsOf (s.field "TBL_CLASS_MAX" t)
    if lo = .F ∨ c = .F then lo == c else decide (clsRank lo ≤ clsRank c) && decide (clsRank c ≤ clsRank hi)
  | _ => true

/-- Region sizes of the cores (R162, R164, R182). -/
def State.coresOk (s : State) : Bool := (List.range 32).all fun c =>
  let f := s.field "LB_F_BLOCKS" c
  let b := s.field "LB_B_BLOCKS" c
  let u := s.field "LB_U_BLOCKS" c
  let m := s.field "MP_BLOCKS" c
  decide (16 + f + b + u + m ≤ 512) && decide (s.field "LB_RET_F" c ≤ f) && decide (s.field "LB_RET_B" c ≤ b)
    && decide (s.field "LB_RET_U" c ≤ u) && decide (s.field "MP_RB_BLOCKS" c < m)

/-- The Sluice shares (R204). -/
def State.sharesOk (s : State) : Bool := s.field "SLUICE_READ" + s.field "SLUICE_WRITE" + s.field "SLUICE_REMOTE" == 100

/-- What the fields of the DEVICE section must meet together: region sizes (R162), tier thresholds (R247) and the slots of a port
(R401). -/
def State.deviceOk (s : State) : Bool :=
  s.coresOk && decide (s.field "DEMOTE_HEAT" < s.field "PROMOTE_HEAT")
    && (s.fieldL "POP_VC_SLOTS").foldl (· + ·) 0 == 23552

/-- Numbers of the Weir-owned regions (R227). -/
def State.weirRegions (s : State) : List Nat := s.fieldL "WEIR_STATE" ++ s.fieldL "WEIR_WORK" ++ s.fieldL "RED_SPILL"

/-- One region (R225 to R227). -/
def State.regionOk (s : State) (k : Nat) (v : Nat) : Bool :=
  let r := regionOf v
  let masked := if r.weir then r.stackMask % 64 == 0 else r.stackMask / 64 == 0
  let tierOk := match r.policy with
    | 0 => r.stackMask != 0
    | 1 => r.ports != 0
    | 2 => r.stackMask != 0 && r.ports != 0
    | 3 => r.dev != 0 && r.dev != 0xFFFF && r.dev != s.me
    | _ => false
  let away := r.policy == 3 || r.dev == 0
  v / 2 ^ 109 == 0 && r.count != 0 && decide (r.kind ≤ 4) && masked && away && tierOk && r.weir == s.weirRegions.contains k
    && (!r.weir || (r.ctx == s.ctxNo && r.policy == 0 && r.pin && r.ports == 0 && r.kind == (if s.fieldL "WEIR_STATE" == [k] then 0 else 1)))

/-- Whether two regions overlap. -/
def regionsMeet (a b : Region) : Bool := decide (a.base < b.base + b.count) && decide (b.base < a.base + a.count)

/-- Open HBM frames of stack `i`. -/
def State.openFrames (s : State) (i : Nat) : Nat :=
  framesOf i - (s.tier.retired.filter fun l => l.tier == .hbm && l.unit == i).length

/-- HBM pages that a region places on stack `i`: page p goes to the ((p mod c) + 1)-th stack of its mask (R230). -/
def Region.onStack (r : Region) (i : Nat) : Nat :=
  let l := (List.range 8).filter fun k => r.stackMask / 2 ^ k % 2 == 1
  match l.idxOf? i with
  | some k => (r.count + l.length - 1 - k) / l.length
  | none => 0

/-- The range map (R226). -/
def State.rangeOk (s : State) : Bool :=
  let vs := s.fieldL "RANGE_MAP"
  let rs := s.regions
  let apart := (List.range rs.length).all fun i => (List.range i).all fun j => match rs[i]?, rs[j]? with
    | some a, some b => !regionsMeet a b
    | _, _ => true
  let hbm := rs.filter fun r => r.policy == 0
  let need := fun i : Nat => hbm.foldl (fun (n : Nat) r => n + r.onStack i) 0
  let pages : List Region → Nat := fun l => l.foldl (fun (a : Nat) r => a + r.count) 0
  (vs.zipIdx.all fun x => s.regionOk x.2 x.1) && apart && ((List.range 8).all fun i => decide (need i ≤ s.openFrames i))
    && decide (pages (rs.filter fun r => r.policy == 1 || r.policy == 2) ≤ 2 ^ 23)

/-- Whether `len` bytes from `a` lie in one region for which `p` holds. -/
def State.inRegion (s : State) (a len : Nat) (p : Region → Bool) : Bool := s.regions.any fun r =>
  decide (r.base * 2 ^ 21 ≤ a) && decide (a + len ≤ (r.base + r.count) * 2 ^ 21) && p r

/-- The regions that fields name (R236, R256, R263, R287, R296, R333, R441, R510): their kind, and policy and PIN where the rule states
them. A field that the image does not give names none. -/
def State.regionsOk (s : State) : Bool :=
  let named := fun (n : String) (scope : Nat) (p : Region → Bool) => (s.fieldL n scope).all fun k => match s.regions[k]? with
    | some r => p r
    | none => false
  let spans := fun (a b : String) (n : Nat) (p : Region → Bool) => (List.range n).all fun q =>
    s.field b q == 0 || s.inRegion (s.field a q) (s.field b q) p
  let scratch := fun r : Region => r.kind == 1
  let state := fun r : Region => r.kind == 0
  let rings := (s.tensors.filter fun t => s.fieldL "RING_BASE" t != []).all fun t =>
    s.inRegion (s.field "RING_BASE" t) (5 * s.field "RING_STRIDE" t) (fun r => r.kind == 3 && r.policy == 0 && r.pin)
      && decide ((s.tilesIn t).length * wcArea (s.wcFmt t) ≤ s.field "RING_STRIDE" t)
  named "QRN_DIR_REGION" 0 state && (s.tables.all fun t => named "ROW_REGION_HBM" t state && named "ROW_REGION_CXL" t state
      && named "OPT_REGION" t fun r => r.kind == 0 && r.policy == 0 && r.pin)
    && named "STBY_REGION" 0 (fun r => r.kind == 4 && r.policy == 1 && r.pin)
    && named "AUDIT_REGION" 0 (fun r => r.kind == 1 && r.policy == 0)
    && spans "QRN_LOG_BASE" "QRN_LOG_SIZE" 12 scratch && spans "GRIST_BASE" "GRIST_SIZE" 12 (fun r => r.kind == 1 && r.policy == 0) && rings

/-- Home and mirror lists that never name one device twice for a shard (R253, R313). -/
def pairsApart (h m : List DevId) : Bool := h.length == m.length && (h.zip m).all fun x => x.1 != x.2

/-- A table or tensor that does not learn and names one device alone: that of R4, whose homes and mirrors are the one device (log
entry 132). -/
def aloneAndStill (learns : Bool) (h m : List DevId) : Bool := !learns && (h ++ m).dedup.length == 1

/-- One table (R248, R252, R253, R274, R298). In reduced service classes below H are refused (R527). -/
def State.tableOk (s : State) (t : Nat) : Bool :=
  let lo := s.field "TBL_CLASS_MIN" t
  let hi := s.field "TBL_CLASS_MAX" t
  let full := clsNo .F
  (lo == full) == (hi == full) && decide (classNoRank lo ≤ classNoRank hi)
    && (pairsApart (s.fieldL "SHARD_DEV" t) (s.fieldL "MIRROR_DEV" t)
      || aloneAndStill (s.field "TBL_LEARN" t == 1) (s.fieldL "SHARD_DEV" t) (s.fieldL "MIRROR_DEV" t))
    && decide (s.field "POP_DOWN_W" t < s.field "POP_UP_H" t) && decide (s.field "POP_DOWN_C" t < s.field "POP_UP_W" t)
    && (s.pow.phase != 3 || lo == full || lo == clsNo .H)

/-- Registers that a part of a microprogram reads and writes (R322). -/
def uopReads (prelude : Bool) (c : Nat) : Bool :=
  if prelude then c < 16 || (30 ≤ c && c ≤ 47) || (49 ≤ c && c ≤ 52) else c ≤ 52
def uopWrites (prelude : Bool) (c : Nat) : Bool :=
  if prelude then c < 16 || (22 ≤ c && c ≤ 29) || (49 ≤ c && c ≤ 52) else c < 16 || c == 17 || (18 ≤ c && c ≤ 21)
/-- How many source operands an operation reads (R323). -/
def uopArity (op : Nat) : Nat := if op = 0 then 0 else if op = 4 ∨ op = 12 then 3 else if op = 6 ∨ 9 ≤ op then 1 else 2

/-- One instruction of a microprogram (R324). -/
def uopOk (prelude : Bool) (states : Nat) (i : BitVec 32) : Bool :=
  let v := i.toNat
  let op := bits v 5 0
  let dst := bits v 11 6
  let srcs := [bits v 17 12, bits v 23 18, bits v 29 24].take (uopArity op)
  let held := fun c : Nat => !(18 ≤ c && c ≤ 21) || decide (c - 18 < states)
  decide (op ≤ 12) && bits v 31 30 == 0
    && (op == 0 || (uopWrites prelude dst && held dst && srcs.all fun c => uopReads prelude c && held c))

/-- The microprogram of a tensor (R324). -/
def State.progOk (s : State) (t : Nat) : Bool :=
  let p := s.field "DT_PROG" t
  let n := s.nstate t
  let x := s.programs t
  !(5 ≤ p && p ≤ 7) && (decide (p < 8) || (s.jobData.uprog.any fun y => y.1 == p)) && decide (x.1.length ≤ 16)
    && decide (x.2.length ≤ 64) && (x.1.all (uopOk true n)) && (x.2.all (uopOk false n))

/-- The block ranges of a tensor's contributors (R315). -/
def State.blocksOk (s : State) (t : Nat) : Bool :=
  let bs := (s.fieldL "RED_GROUP" t).map fun d => s.memberField "BLOCK_BASE" d
  (bs.all fun b => decide (b + s.mbs ≤ 2 ^ s.blockBits))
    && (List.range bs.length).all fun i => (List.range i).all fun j =>
      decide (bs.getD i 0 + s.mbs ≤ bs.getD j 0) || decide (bs.getD j 0 + s.mbs ≤ bs.getD i 0)

/-- The working copies of a tensor are stored in a format of R89: none is E2M1. -/
def State.wcFmtOk (s : State) (t : Nat) : Bool := match s.weightRec t with
  | some r => s.recFmt r != .e2m1
  | none => true

/-- One tensor (R313 to R315, R324); in reduced service none learns (R311). -/
def State.tensorOk (s : State) (t : Nat) : Bool :=
  let learns := s.dtLearns t
  s.wcFmtOk t && (!learns || (pairsApart (s.fieldL "DSHARD_DEV" t) (s.fieldL "DMIRROR_DEV" t) && s.progOk t && s.blocksOk t))
    && !(learns && s.pow.phase == 3)

/-- Bytes that the homed and mirrored tensors need in frames, by placement, and in WEIR_WORK (R328, R330). -/
def State.weirNeeds (s : State) : Nat × Nat × Nat :=
  (s.tensors.filter s.dtLearns).foldl (fun a t =>
    let mine := (s.tilesIn t).filter fun u => s.tileHome t u == s.me || s.tileMirror t u == s.me
    let homes := (mine.filter fun u => s.tileHome t u == s.me).length
    let frames := mine.length * 8 * (1 + s.nstate t) * 16384
    let work := mine.length * 4 * (s.lag + 2) * 16384 + homes * (5 * (packBytes (s.wcFmt t) (List.replicate 16384 0)).length)
    if s.field "DT_PLACE" t = 1 then (a.1, a.2.1 + frames, a.2.2 + work) else (a.1 + frames, a.2.1, a.2.2 + work)) (0, 0, 0)

/-- Bytes of the region that a field names; none without it. -/
def State.namedBytes (s : State) (name : String) : Nat := ((s.fieldL name).head?.map s.regionBytes).getD 0

/-- The Weir regions hold what the tensors need (R330): 256 MiB of SRAM less the fixed part and the reduction buffer. -/
def State.weirRoomOk (s : State) : Bool :=
  let n := s.weirNeeds
  decide (n.1 ≤ s.namedBytes "WEIR_STATE") && decide (n.2.2 ≤ s.namedBytes "WEIR_WORK")
    && decide (n.2.1 ≤ (240 - s.field "WEIR_SRAM_RED") * 2 ^ 20)

/-- Row sweeps and Grist set slots (R273, R288). -/
def State.rowsOk (s : State) : Bool :=
  decide (s.field "POP_SWEEP_STEPS" ≤ 32768 * s.field "POP_DECAY_STEPS")
    && (List.range 12).all fun q => decide ((s.lag + 2) * s.field "GRIST_SET_MAX" q ≤ s.field "GRIST_SIZE" q)

/-- What every context must meet, an audit context too: the shares (R204) and the range map (R226). -/
def State.contextOk (s : State) : Bool := s.sharesOk && s.rangeOk

/-- Every joint condition of the running context (R471). -/
def State.joint (s : State) : Bool :=
  s.deviceOk && s.contextOk && s.tables.all s.tableOk && s.tensors.all s.tensorOk && s.weirRoomOk && s.rowsOk && s.zeroPointsOk
    && s.programsOk && s.initOk

/-- Every member that this device reaches natively has a route of revision 3: a device that only revision 2 reaches cannot be a member
(R398). -/
def State.routesOk (s : State) : Bool := s.fab.routes.all fun r =>
  !(s.ctl.members.contains r.1) || r.2 == [] || r.2.any fun p => (s.port (Fin.ofNat 16 p)).rev != 2

/-! ## Fields of an image (R456, R459) -/

/-- The fields of an image as they stand in force. -/
def fieldsOf (i : Image) : List FieldSt := i.fields.filterMap fun f => (i.sections[f.sect]?).map fun x =>
  { inst := f, sect := x.type, ctx := x.ctx, device := x.device }

/-- The contexts that an image has CONTEXT sections for. -/
def contextsOf (i : Image) : List CtxId := (i.sections.filter fun x => x.type == .context).filterMap fun x => x.ctx

/-- The device with the fields of an image and a context running: what a condition of R471 is evaluated on. -/
def State.under' (s : State) (i : Image) (fs : List FieldSt) (c : CtxId) : State :=
  { s with ldr := { s.ldr with fields := fs, image := some i }, atl := { s.atl with runCtx := some c } }

/-- Whether an image lists one DEVICE and one FIELD_INDEX section, or a package none of those it may not hold (R456, R466). -/
def sectionsOk (i : Image) : Bool :=
  let n := fun t : SectType => (i.sections.filter fun x => x.type == t).length
  if i.package then n .device == 0 && decide (n .fieldIndex ≤ 1) && decide (i.sections.length ≤ 1074)
  else n .device == 1 && n .fieldIndex == 1 && decide (i.sections.length ≤ 1074) && decide (n .context ≤ 16)

/-- Whether at most one context is marked AUDIT (R510). -/
def auditOk (fs : List FieldSt) : Bool := (fs.filter fun f => f.inst.name == "AUDIT" && f.inst.value == [1]).length ≤ 1

/-- DIFF_PORT names a port in ETH mode when the stream goes out of one (R504, R510). -/
def State.diffPortOk (s : State) : Bool := s.field "DIFF_DEST" != 1 || s.portMode (Fin.ofNat 16 (s.field "DIFF_PORT")) == 2

/-- Check 5 of R461 for a list of fields in force. -/
def State.fieldsOk (s : State) (i : Image) (fs : List FieldSt) : Bool :=
  let z : State := { s with ldr := { s.ldr with fields := fs, image := some i }, atl := { s.atl with runCtx := none } }
  i.fields.all (fieldEntryOk i.sections) && auditOk fs && z.deviceOk
    && (contextsOf i).all fun c =>
      let y := s.under' i fs c
      y.contextOk && y.diffPortOk && y.regionsOk && (y.field "AUDIT" == 1 || y.joint)

/-- The enrolled key that a signature block names. -/
def State.enrolled (s : State) (k : Nat) : Option (List Byte) := (s.atl.keys.find? fun x => x.1 == k).map Prod.snd

/-- Whether a signature verifies under an enrolled key (R460). -/
def State.signedBy (s : State) (sig : Sig) (digest : List Byte) : Bool := match s.enrolled sig.keyId with
  | some pub => Config.ecdsaVerify pub digest sig.r sig.s
  | none => false

/-- How a load ends (R476). -/
inductive LoadEnd | ok | sig | invalid | busy | base | flash
  deriving DecidableEq, Repr

/-- The RESULT number. -/
def loadNo : LoadEnd → Nat
  | .ok => 0
  | .sig => 1
  | .invalid => 2
  | .busy => 3
  | .base => 4
  | .flash => 5

/-- Checks 1 to 4 of R461, in order. -/
def State.verify4 (s : State) (i : Image) : LoadEnd :=
  if i.wellFormed = false ∨ 16777152 < i.length ∨ sectionsOk i = false ∨ tableFits i = false then .invalid
  else if s.signedBy i.sig (headDigest i) = false then .sig
  else if i.svn < s.atl.imageFloor then .sig
  else if i.sections.all (·.digestOk) = false then .invalid
  else .ok

/-- All checks of R461. -/
def State.verify (s : State) (i : Image) (fs : List FieldSt) : LoadEnd :=
  match s.verify4 i with
  | .ok => if s.fieldsOk i fs then .ok else .invalid
  | e => e

/-- The fault that goes with how a load ends (R461, R465, R466). -/
def loadFault : LoadEnd → Option Nat
  | .ok => none
  | .sig => some 0x091
  | .invalid => some 0x090
  | .busy => some 0x092
  | .base => some 0x090
  | .flash => some 0x093

/-- A load ended: its result is shown and its fault raised. -/
def State.loadEnd (s : State) (e : LoadEnd) : State :=
  let t := s.updLdr fun l => { l with loadResult := loadNo e }
  match loadFault e with
  | some c => t.raiseDev .correctable c (unitNo 11 0) 0
  | none => t

/-! ## Banks and applying an image (R150, R153, R464 to R467) -/

/-- Whether a bank is valid (R464). -/
def State.bankOk (s : State) (b : Option Bank) : Bool := match b with
  | some x => x.crcOk && s.verify4 x.image == .ok
  | none => false

/-- Whether any context holds a job. -/
def State.anyJob (s : State) : Bool := s.atl.ctxs.any fun x => x.2.loaded

/-- Whether an engine may serve: not retired, now or by its repairs under STRICT (R153). -/
def State.serves (s : State) (c : CoreId) (e : EngId) : Bool :=
  let k := s.engine c e
  let repaired := k.colRep.isSome || k.rowRep.isSome
  !k.retired && !(repaired && s.field "ENG_REPAIR_POLICY" (2 * c.val + e.val) == 0)

/-- Whether an image gives work to a core without a serving engine (R153, R467): a core of a stage. An engine that only the policy of the
present image retired counts as its repairs count under the new one. -/
def State.deadCore (s0 : State) (i : Image) (fs : List FieldSt) : Bool :=
  let back := fun e : Nat × Engine => (e.1, if e.2.byPolicy then { e.2 with retired := false } else e.2)
  let s : State := { s0 with cores := s0.cores.map fun c => (c.1, { c.2 with eng := c.2.eng.map back }) }
  let z : State := { s with ldr := { s.ldr with fields := fs, image := some i } }
  (List.finRange 32).any fun c =>
    (fs.any fun f => f.inst.name == "STAGE_OF_CORE" && f.inst.scope == c.val && f.inst.value != [15]) && !z.serves c 0 && !z.serves c 1

/-- Engines that ENG_REPAIR_POLICY of an earlier image retired, in service again (R153). -/
def State.backInService (s : State) : State :=
  (List.finRange 32).foldl (fun u c => (List.finRange 2).foldl (fun v e =>
    if (v.engine c e).byPolicy then v.updEngine c e fun k => { k with retired := false, cause := 0, byPolicy := false } else v) u) s

/-- An image put in force: its fields replace every field in force, and under STRICT an engine with a repair is retired; under REPAIR it
serves in repair mode (R153, R465). -/
def State.applyImage (s : State) (i : Image) (bank : Nat) : State :=
  let t := s.backInService.updLdr fun l =>
    { l with image := some i, fields := fieldsOf i, fromBank := bank, packages := [], memberWrites := [] }
  (List.finRange 32).foldl (fun u c => (List.finRange 2).foldl (fun v e =>
    if (v.engine c e).retired = false ∧ v.serves c e = false then
      v.updEngine c e fun k => { k with retired := true, cause := 3, byPolicy := true }
    else v) u) t

/-- The bank that a write goes to (R464, item 1): 1 for A, 2 for B. -/
def State.writeBank (s : State) : Nat :=
  if s.ldr.fromBank = 1 then 2 else if s.ldr.fromBank = 2 then 1
  else if s.bankOk s.ldr.bankA ∧ s.bankOk s.ldr.bankB = false then 2 else 1

/-- A bank written (R464): `ok` is whether its read-back passes. -/
def State.putBank (s : State) (i : Image) (ok : Bool) : State :=
  let seqOf := fun b : Option Bank => if s.bankOk b then (b.map (·.seq)).getD 0 else 0
  let b : Bank := { seq := max (seqOf s.ldr.bankA) (seqOf s.ldr.bankB) + 1, image := i, crcOk := ok }
  s.updLdr fun l => if s.writeBank = 1 then { l with bankA := some b } else { l with bankB := some b }

/-- The checks of a STORE or STORE_APPLY. -/
def State.storeEnd (s : State) (i : Image) : LoadEnd := if i.package then .invalid else s.verify i (fieldsOf i)

/-- STORE (R464, R465): the image written to a bank; it takes effect at the next boot. -/
def execStore (i : Image) (flashOk : Bool) (s : State) : Out :=
  if s.atl.running = false then .next s
  else match s.storeEnd i with
    | .ok => .next ((s.putBank i flashOk).loadEnd (if flashOk then .ok else .flash))
    | e => .next (s.loadEnd e)

/-- STORE_APPLY (R464, R465, R467): written and applied at once; refused while a context has a loaded job, and with CORE_NO_ENGINE. -/
def execStoreApply (i : Image) (flashOk : Bool) (s : State) : Out :=
  if s.atl.running = false then .next s
  else if s.anyJob then .next (s.loadEnd .busy)
  else match s.storeEnd i with
    | .ok =>
      if s.deadCore i (fieldsOf i) then
        .next ((s.updLdr fun l => { l with loadResult := 2 }).raiseDev .correctable 0x013 (unitNo 11 0) 0)
      else
        let t := s.putBank i flashOk
        .next (if flashOk then (t.applyImage i s.writeBank).loadEnd .ok else t.loadEnd .flash)
    | e => .next (s.loadEnd e)

/-! ## Packages (R369, R370, R466) -/

/-- The fields of R369, which alone a staged section may name. -/
def layoutNames : List String :=
  ["SHARD_SHIFT", "SHARD_DEV", "MIRROR_DEV", "REPL_GROUP", "QRN_MASK", "DSHARD_SHIFT", "DSHARD_DEV", "DMIRROR_DEV", "RED_ROUTE",
   "WC_ROUTE", "WC_GROUP"]

/-- Whether home and mirror of a shard, or vote root and mirror, lie on one tray (R356). -/
def State.sameTray (s : State) : Bool :=
  let clash := fun (h m : List DevId) => (h.zip m).any fun x => s.trayOf (s.bound x.1) == s.trayOf (s.bound x.2)
  s.tables.any (fun t => clash (s.fieldL "SHARD_DEV" t) (s.fieldL "MIRROR_DEV" t))
    || s.tensors.any (fun t => clash (s.fieldL "DSHARD_DEV" t) (s.fieldL "DMIRROR_DEV" t))
    || clash [s.field "VOTE_ROOT"] [s.field "VOTE_MIRROR"]

/-- The devices that a route names: the third of each triple of RED_ROUTE, all of WC_ROUTE. -/
def routeThirds : List Nat → List DevId
  | _ :: _ :: d :: l => d :: routeThirds l
  | _ => []

/-- Whether every device that the placement names is a member (R574, first condition). A route is held in triples of a level, an index
and a device, or of a home, a parent and a child (log entry 13). -/
def State.namesMembers (s : State) (members : List DevId) : Bool :=
  let all := fun l : List DevId => l.all members.contains
  s.tables.all (fun t => all (s.fieldL "SHARD_DEV" t) && all (s.fieldL "MIRROR_DEV" t) && all (s.fieldL "REPL_GROUP" t))
    && s.tensors.all fun t => all (s.fieldL "DSHARD_DEV" t) && all (s.fieldL "DMIRROR_DEV" t) && all (s.fieldL "RED_GROUP" t)
      && all (s.fieldL "WC_GROUP" t) && all (routeThirds (s.fieldL "RED_ROUTE" t)) && all (s.fieldL "WC_ROUTE" t)

/-- A layout section checked for staging (R369): names, R253, R313, R356 and R574. Room for what the device will hold is checked for
WEIR_STATE and WEIR_WORK. -/
def State.sectionOk (s : State) (fs : List FieldInst) : Bool :=
  let z := s.updCtl fun c => { c with layout := { c.layout with staged := fs } }
  let y := z.withLayout
  (fs.all fun f => layoutNames.contains f.name) && y.tables.all y.tableOk && y.tensors.all y.tensorOk && !y.sameTray
    && y.namesMembers s.ctl.members && y.weirRoomOk

/-- A layout section staged for a re-shard (R370, item 1); after MOVE it is refused (R373). -/
def State.stage (s : State) (i : Image) : State :=
  let d := ((i.sections.find? fun x => x.type == .layout).map (·.digest)).getD 0 % 2 ^ 64
  if s.ctl.layout.lstate = .moving ∨ s.ctl.layout.lstate = .doneSent then
    (s.raise .correctable 0x065 (unitNo 4 0) 0 0).loadEnd .ok
  else if s.sectionOk i.fields then
    (s.updLayout fun l => { l with staged := i.fields, sectionDigest := d }).loadEnd .ok
  else (s.updLdr fun l => { l with loadResult := 2 }).raise .correctable 0x067 (unitNo 4 0) 0 0

/-- The image in force extended by a package: its sections and fields follow those of the image. -/
def extendImage (a b : Image) : Image :=
  let n := a.sections.length
  { a with
    sections := a.sections ++ b.sections
    fields := a.fields ++ b.fields.map fun f => { f with sect := f.sect + n }
    jobs := (a.jobs.filter fun j => !(b.jobs.any fun k => k.ctx == j.ctx)) ++ b.jobs }

/-- Whether a package holds only a LAYOUT section. -/
def onlyLayout (i : Image) : Bool := i.sections.all fun x => x.type == .layout || x.type == .fieldIndex

/-- PACKAGE (R465, R466): a package with another base is refused; one for a context with a loaded job too, unless it holds only a
LAYOUT section, which is staged. -/
def execPackage (i : Image) (s : State) : Out :=
  if s.atl.running = false then .next s
  else match s.verify4 i with
    | .ok =>
      if i.package = false then .next (s.loadEnd .invalid)
      else match s.ldr.image with
        | none => .next (s.loadEnd .base)
        | some a =>
          if i.baseDigest ≠ headDigest a then .next (s.loadEnd .base)
          else if onlyLayout i ∧ s.atl.runCtx.isSome = true then
            .next (if i.fields.all (fieldEntryOk i.sections) then s.stage i else s.loadEnd .invalid)
          else if (i.sections.any fun x => match x.ctx with
              | some c => (s.ctx c).loaded
              | none => false) then .next (s.loadEnd .busy)
          else
            let e := extendImage a i
            let gone := contextsOf i
            let fs := (s.ldr.fields.filter fun f => !(gone.any fun c => f.ctx == some c)) ++ fieldsOf i
            if s.deadCore e fs then
              .next ((s.updLdr fun l => { l with loadResult := 2 }).raiseDev .correctable 0x013 (unitNo 11 0) 0)
            else if i.fields.all (fieldEntryOk i.sections) && s.fieldsOk e fs then
              .next ((s.updLdr fun l => { l with image := some e, fields := fs, packages := l.packages ++ [i] }).loadEnd .ok)
            else .next (s.loadEnd .invalid)
    | e => .next (s.loadEnd e)

/-! ## Field reads and writes (R15, R16, R468 to R471) -/

/-- Whether the owner of a field runs (R468). -/
def State.ownerRuns (s : State) (f : FieldSt) : Bool := match f.sect with
  | .device => s.anyJob
  | .fieldIndex => false
  | _ => match f.ctx with
    | some c => (s.ctx c).loaded
    | none => s.anyJob

/-- The results of a field operation (R476). -/
def State.fieldEnd (s : State) (result : Nat) : State := s.updLdr fun l => { l with result := result, busy := false }
/-- A field operation that ends with a fault. -/
def State.fieldFault (s : State) (result code detail : Nat) : State :=
  (s.fieldEnd result).raiseDev .correctable code (unitNo 11 0) detail

/-- The bytes of a field's value: each element in its share of the field's LENGTH. -/
def fieldBytes (len : Nat) (v : List Nat) : List Byte :=
  let w := len / max 1 v.length
  v.flatMap (leBytes w)

/-- The step-targeted writes of a field that this device knows: those it holds as a member, and those it has accepted as the root. -/
def Loader.writesOf (l : Loader) (index : Nat) : List StepWrite :=
  (l.memberWrites ++ l.rootWrites.map (·.w)).filter fun w => w.index == index

/-- The serial number that follows every step-targeted write of a field that this device knows. -/
def Loader.nextSerial (l : Loader) (index : Nat) : Nat := (l.writesOf index).foldl (fun a w => max a (w.serial + 1)) 0

/-- The most recently written value of a field (R16): of the latest step-targeted write that neither a plain write nor a Seal has
overtaken, of the plain write that waits for its boundary, or the value in force. -/
def State.lastWritten (s : State) (index : Nat) (f : FieldSt) : List Nat :=
  let from' := match f.shadow with
    | some w => w.after
    | none => f.plainAfter
  let ws := (s.ldr.writesOf index).filter fun w => decide (from' ≤ w.serial) && decide (s.ctl.sealed < w.target)
  match ws.foldl (fun a w => match a with
      | none => some w
      | some b => if b.serial ≤ w.serial then some w else a) none, f.shadow with
  | some w, _ => w.value
  | none, some w => w.value
  | none, none => f.inst.value

/-- FIELD_READ (R16, R469): the most recently written value in MIOXA_FIELD_BUF. -/
def execFieldRead (index : Nat) (s : State) : Out :=
  let t := s.updLdr fun l => { l with sel := index }
  match s.ldr.fields[index]? with
  | none => .next (t.fieldFault 5 0x090 index)
  | some f =>
    if 4096 < f.inst.len then .next (t.fieldFault 5 0x090 index)
    else .next ((t.updLdr fun l => { l with
      buf := memWrite [] 0 (fieldBytes f.inst.len (s.lastWritten index f)) }).fieldEnd 0)

/-- A field with a value written: at once, or for the boundary after the control cycle of the instant `s.now`. -/
def State.setField (s : State) (index : Nat) (v : List Nat) (shadow : Bool) : State :=
  s.updLdr fun l => { l with fields := l.fields.zipIdx.map fun x =>
    if x.2 = index then
      (if shadow then { x.1 with shadow := some { value := v, cycle := controlCycle s.now, after := l.nextSerial index } }
       else { x.1 with inst := { x.1.inst with value := v }, shadow := none })
    else x.1 }

/-- Whether a write keeps the joint conditions of the field's context when it takes effect, every value that waits taken (R471). -/
def State.jointAfter (s : State) (index : Nat) (f : FieldSt) (v : List Nat) : Bool :=
  let taken := s.updLdr fun l => { l with fields := l.fields.map fun x => match x.shadow with
    | some w => { x with inst := { x.inst with value := w.value } }
    | none => x }
  let z := taken.setField index v false
  let c := match f.ctx with
    | some c => some c
    | none => s.atl.runCtx
  match c with
  | some c => ({ z with atl := { z.atl with runCtx := some c } } : State).joint
  | none => true

/-- FIELD_WRITE (R468 to R471): NUMERIC comes before the class; a value out of range or against a joint condition is refused; a Locked
field of a running owner is ignored with LOCKED_WRITE; a Shadowed one waits for its boundary, and carries its control cycle (R16). -/
def execFieldWrite (index : Nat) (write : FieldAt) (s : State) : Out :=
  let t := (s.at' write.at').updLdr fun l => { l with sel := index }
  match s.ldr.fields[index]? with
  | none => .next (t.fieldFault 5 0x090 index)
  | some f =>
    let runs := s.ownerRuns f
    let range := ((fieldSpec f.inst.name).map (·.range.has write.value)).getD false
    if f.inst.numeric then .next (t.fieldFault 2 0x095 index)
    else if runs ∧ f.inst.cls = .locked then .next (t.fieldFault 1 0x094 index)
    else if 4096 < f.inst.len ∨ range = false then .next (t.fieldFault 5 0x090 index)
    else if runs ∧ f.inst.cls = .shadowed then
      .next (if s.jointAfter index f write.value then (t.setField index write.value true).fieldEnd 0 else t.fieldFault 5 0x090 index)
    else .next ((t.setField index write.value false).fieldEnd 0)

/-! ## Step-targeted writes (R472 to R474) -/

/-- Whether the root has made the decision of step d = t − L − 2 (R472). -/
def State.tooLate (s : State) (target : Nat) : Bool :=
  let d := target - s.lag - 2
  decide (target < s.lag + 2) || decide (d ≤ s.ctl.sealed) || kvHas d s.ctl.rootDecided

/-- A step-targeted write accepted at the root: kept in its log, and sent to the vote mirror. -/
def State.acceptWrite (s : State) (index : Nat) (value : List Nat) (target : Nat) : State :=
  let w : StepWrite := { index := index, value := value, target := target, serial := s.ldr.serial }
  let t := s.updLdr fun l => { l with
    rootWrites := l.rootWrites ++ [{ w := w, complete := false, attached := false }], serial := l.serial + 1 }
  t.emitAcked s.voteMirror fun tag => .stepWrite s.voteMirror tag w

/-- WRITE_STEP (R470 to R472): accepted at the vote root for a Shadowed field of a JOB section, in time; it reads OK once the mirror
holds it. -/
def execWriteStep (index : Nat) (target : Nat) (value : List Nat) (s : State) : Out :=
  let t := s.updLdr fun l => { l with sel := index }
  match s.ldr.fields[index]? with
  | none => .next (t.fieldFault 5 0x090 index)
  | some f =>
    if f.sect ≠ .job ∨ f.inst.cls ≠ .shadowed then .next (t.fieldEnd 6)
    else if s.isRoot = false then .next (t.fieldEnd 4)
    else if (((fieldSpec f.inst.name).map (·.range.has value)).getD false) = false ∨ s.jointAfter index f value = false then
      .next (t.fieldFault 5 0x090 index)
    else if s.tooLate target then .next (t.fieldFault 3 (if f.inst.name = "LAYOUT_TARGET" then 0x065 else 0x096) target)
    else .next ((t.acceptWrite index value target).updLdr fun l => { l with busy := true, result := 0 })

/-- WRITE_STEP_COMPLETE (R472): the vote mirror holds the write; its result reads OK. -/
def execWriteStepComplete (serial : Nat) (s : State) : Out :=
  if s.ldr.rootWrites.any fun w => w.w.serial == serial && !w.complete then
    .next ((s.updLdr fun l => { l with
      rootWrites := l.rootWrites.map fun w => if w.w.serial = serial then { w with complete := true } else w }).fieldEnd 0)
  else .next s

end Sys2Proof.Machine
end

