-- ==== Sys2Proof/Machine/Atluta.lean ====
section
/-! DEFINITION. Atluta: the mailbox commands on jobs, contexts, spares, repairs and the manifest, step records and the log, the
difference stream and snapshots (R356, R417, R451, R474, R490 to R505, R574). -/

namespace Sys2Proof.Machine

/-- The result of a mailbox command (R509): 0 OK, 1 SIG, 2 INVALID, 3 BUSY, 4 NOT_ROOT, 5 LATE. -/
def State.mbox (s : State) (result : Nat) : State := s.updAtl fun a => { a with mboxResult := result }
/-- A refusal with IMAGE_INVALID. -/
def State.mboxInvalid (s : State) : State := (s.mbox 2).raiseDev .correctable 0x090 (unitNo 9 0) 0
/-- IMAGE_DIGEST (R480): of the image in force; 48 zero bytes without one. -/
def State.imageDigest (s : State) : List Byte := ((s.ldr.image.map headDigest).getD zero48)

/-! ## The difference stream (R502 to R504) -/

/-- The tag of a spool entry that waits for room in the host ring. -/
def spoolWaits : Nat := 0xFFFFFFFF

/-- Bytes of the spool. -/
def spoolBytes (l : List (Nat × Nat × Nat × Nat)) : Nat := l.foldl (fun a x => a + x.2.2.1) 0

/-- Bytes of the host ring not yet read. -/
def Ctx.ringUsed (c : Ctx) : Nat := if c.ringSize = 0 then 0 else (c.ringHead + c.ringSize - c.ringTail) % c.ringSize

/-- Whether a segment finds room in the host ring. -/
def Ctx.ringRoom (c : Ctx) (n : Nat) : Bool := decide (c.ringUsed + n < c.ringSize)

/-- A segment header (R502). -/
def segHeader (dev job kind step seq : Nat) (body : List Byte) : List Byte :=
  leBytes 4 1 ++ leBytes 2 dev ++ leBytes 1 kind ++ [0] ++ leBytes 8 job ++ leBytes 6 step ++ leBytes 2 0 ++ leBytes 8 seq
    ++ leBytes 8 body.length ++ leBytes 4 (crc32c body) ++ List.replicate 20 0

/-- Whether the spool has room for `n` more bytes (R504). -/
def State.spoolRoom (s : State) (n : Nat) : Bool := decide (spoolBytes s.runC.spool + n ≤ s.field "DIFF_SPOOL_SIZE")

/-- One WR frame of a segment toward the collector (R504): in normal service its part is encrypted under the context's export key, with the
nonce and the header of the frame (R486). -/
def State.diffFrame (s : State) (c : CtxId) (step tag addr : Nat) (part : List Byte) : Msg :=
  let dst := ((s.atl.manifest.map (·.collector)).getD 0)
  let f : Frame :=
    { dst := dst, src := s.me, opcode := 0x03, vc := 5, enc := !s.rack, ctx := c, hops := 15, rev := 3, cont := false, resvZero := true
      tag := tag % 2 ^ 16, step := step, epoch := s.ctl.memEpoch, counter := tag, tagOk := true, payload := part }
  let text := match (s.ctx c).exportKey with
    | some k => if s.rack then part
      else Config.aesGcmSeal (leBytes 32 k.toNat) (frameNonce f) (leBytes 32 (frameHeader f)) part
    | none => part
  .wr dst tag addr text

/-- A segment put into the spool and sent: by DMA into the host ring when it has room, or as WR frames to the collector, encrypted under
the export key in normal service. The address in the collector is a free value. -/
def State.sendSegment (s : State) (c : CtxId) (kind step : Nat) (body : List Byte) : State :=
  let x := s.ctx c
  let seq := x.diffSeq + 1
  let bytes := segHeader s.me x.jobId kind step seq body ++ body
  let t := s.emit [.segment c seq kind step body]
  if s.field "DIFF_DEST" = 0 then
    let room := x.ringRoom bytes.length
    t.updCtx c fun y => { y with
      diffSeq := seq
      ringHead := if room then (y.ringHead + bytes.length) % y.ringSize else y.ringHead
      spool := y.spool ++ [(seq, step, bytes.length, if room then 0 else spoolWaits)] }
  else
    let tag := t.fab.counter
    let n := segFrames bytes.length
    let u := (t.tick.updFab fun f => { f with counter := tag + n }).emit ((List.range n).map fun i =>
      s.diffFrame c step (tag + i) (Config.freeNat s.fresh + 4096 * i) ((bytes.drop (4096 * i)).take 4096))
    let y' := fun (y : Ctx) => { y with diffSeq := seq, spool := y.spool ++ [(seq, step, bytes.length, tag)] }
    u.updCtx c fun y => { y' y with diffWait := y.diffWait ++ (List.range n).map (tag + ·) }

/-- The oldest entries of a spool that the advance of the tail acknowledges: those beyond the unread bytes. -/
def ackRing : Nat → List (Nat × Nat × Nat × Nat) → List (Nat × Nat × Nat × Nat)
  | _, [] => []
  | left, x :: l =>
    let written := spoolBytes ((x :: l).filter fun y => y.2.2.2 != spoolWaits)
    if x.2.2.2 != spoolWaits && decide (left < written) then ackRing left l else x :: l

/-- Waiting segments written to the host ring in order while it has room. -/
def Ctx.drainRing : Nat → Ctx → Ctx
  | 0, c => c
  | fuel + 1, c => match c.spool.find? fun x => x.2.2.2 == spoolWaits with
    | some x =>
      if c.ringRoom x.2.2.1 then
        Ctx.drainRing fuel { c with
          ringHead := (c.ringHead + x.2.2.1) % c.ringSize
          spool := c.spool.map fun y => if y = x then (y.1, y.2.1, y.2.2.1, 0) else y }
      else c
    | none => c

/-- DIFF_RING_TAIL (R504): host software advances the read offset; what it has read leaves the spool, and waiting segments follow. -/
def execDiffRingTail (ctx : CtxId) (value : W64) (s : State) : Out :=
  .next (s.updCtx ctx fun c =>
    let d : Ctx := { c with ringTail := value.toNat }
    let e : Ctx := { d with spool := ackRing d.ringUsed d.spool }
    Ctx.drainRing e.spool.length e)

/-! ## Starting a job (R356, R485, R491, R526, R574) -/

/-- Members of the job of a context: the devices that its MEMBER sections list (log entry 12). -/
def State.imageMembers (s : State) (c : CtxId) : List DevId := match s.ldr.image with
  | some i => sortBy id ((i.sections.filter fun x => x.type == .member && x.ctx == some c).foldl (fun l x => addNew x.device l) [])
  | none => []

/-- Whether the vote tree is one tree over the members with VOTE_ROOT as its root (R574). -/
def State.voteTreeOk (s : State) (alone : Bool) : Bool :=
  let ms := s.ctl.members
  let root := s.field "VOTE_ROOT"
  let mirror := s.field "VOTE_MIRROR"
  let up := fun d : DevId => s.voteParent d
  let reach := fun d : DevId => (List.range ms.length).foldl (fun x _ => if x = root then x else up x) d
  ms.contains root && ms.contains mirror && (alone || root != mirror) && up root == 0
    && ms.all fun d => d == root || (up d != 0 && ms.contains (up d) && reach d == root)

/-- Whether the job learns: a table or a tensor of it learns (R4). -/
def State.learns (s : State) : Bool := (s.tables.any fun t => s.field "TBL_LEARN" t == 1) || s.tensors.any s.dtLearns

/-- Whether a context may start, apart from the service that the device gives (R356, R471, R574). A single device in reduced service may
run a job that learns nothing (R4): its homes and mirrors, its root and its vote mirror are then the one device (log entry 132). -/
def State.startOk (s : State) : Bool :=
  let alone := s.pow.phase == 3 && s.ctl.members == [s.me] && !s.learns
  s.joint && s.regionsOk && (alone || !s.sameTray) && s.namesMembers s.ctl.members && s.voteTreeOk alone && s.routesOk

/-- The job's records of version s0: the base of a new standby image (R441, R442). -/
def State.loadBase (s : State) : List Journal :=
  let n := s.ctl.s0
  let rows := s.sortedRows
  let keys := (rows.map fun x => (0, rowKey x.1.1 x.1.2))
    ++ (s.myTiles.map fun x => (1, tileKey x.1 (s.tkOf x.1 x.2) (s.tnOf x.1 x.2)))
    ++ ((s.learnTensors.filter s.holdsScalar).map fun t => (2, scalarKey t))
  let units := keys.filterMap fun x => (s.unitContent x.2).map fun c => { step := n, kind := x.1, key := x.2, content := c : Journal }
  let dirs := rows.map fun x =>
    { step := n, kind := 3, key := rowKey x.1.1 x.1.2, content := dirBytes x.2 (s.mirrorOf x.1.1 x.1.2) : Journal }
  let pops := rows.map fun x => { step := n, kind := 4, key := rowKey x.1.1 x.1.2, content := popBytes x.2 : Journal }
  let job : Journal := { step := n, kind := 6, key := 0, content := s.jobState n (s.runC.diffSeq + 1) }
  units ++ dirs ++ pops ++ [s.setRecord n, job, { step := n, kind := 7, key := 0, content := s.weir.param }]

/-- The header of a new standby image. -/
def State.loadHeader (s : State) : StbyHeader :=
  { device := s.me, jobId := s.field "JOB_ID", seq := 1, baseStep := s.ctl.s0, sealedStep := s.ctl.s0, memEpoch := s.ctl.memEpoch,
    layEpoch := s.ctl.layEpoch, head := 0, tail := 0 }

/-- The three front ends at the first step after version `v`: U prepares version `v` first (R30, R167). -/
def State.startFronts (s : State) (v : Nat) : State :=
  (List.finRange 32).foldl (fun a c => a.updCore c fun k => { k with
    f := { inst := v + 1 }, b := { inst := v + 1 }, u := { inst := v }, deferred := [] }) s

/-- A context put in force with its members and epochs, before anything is loaded. -/
def State.enterCtx (s : State) (c : CtxId) : State :=
  let t := s.updAtl fun a => { a with runCtx := some c }
  let j := t.jobData
  t.updCtl fun _ => { s0 := j.s0, sealed := j.s0, memEpoch := 1, layEpoch := j.layEpoch, members := t.imageMembers c }

/-- The device's state of version s0 loaded: pages, Weir, rows, streams, and the record of step s0. -/
def State.loadJob (s : State) : State :=
  let n := s.ctl.s0
  let a := ((((s.mapPages []).loadProgs).weirLoad).rowsLoad.fillBuckets.startFronts n).updCtl fun k => { k with started := true }
  let b := (a.updWeir fun w => { w with param := a.loadParam }).boundary n
  b.updStep n fun p => { p with st := .sealed, decided := some .apply, memEpoch := 1, layEpoch := s.ctl.layEpoch }

/-- A context's record after its start; JM is drawn by the job coordinator and reaches the others in an SPDM session (R485). Under the new
keys every COUNTER starts again (R486). -/
def State.keyCtx (s : State) (c : CtxId) (spare : Bool) : State :=
  let jm := Config.freeNat s.fresh % 2 ^ 256
  let s' := s.updFab fun f => { f with
    keySent := f.keySent.filter fun x => x.1.1 != c.val
    windows := f.windows.filter fun x => x.1.2.2.1 != c.val }
  let t := s'.tick.updCtx c fun x => { x with
    loaded := true, jobId := s.field "JOB_ID", keyed := true, jm := jm, stopped := false, spare := spare, switchedOut := false, ready := true
    s0 := s.ctl.s0, members := s.ctl.members, memEpoch := 1, spool := [], diffSeq := 0, ringHead := 0 }
  let u := t.roles.updRcv fun r => { r with
    role := if spare then .spare else .member, taking := [], unbound := [], jobWait := false, record := none, bindings := []
    takeover := none, releases := [], confirmed := [], coordHeard := s.now }
  if u.rcv.isJobCoord then
    u.emit (((s.ctl.members ++ u.spares).filter (· != s.fab.devId)).map fun d => .jm d (s.field "JOB_ID"))
  else u

/-- Log forms that the audit region holds (R494): AUDIT_REGION names a region of the audit context's range map. -/
def State.auditRoom (s : State) (c : CtxId) : Nat :=
  let k := ((s.ldr.fields.find? fun f => f.inst.name == "AUDIT_REGION" && f.ctx == some c).map fun f => f.inst.value.headD 0).getD 0
  let r := (s.regionsFor c)[k]?
  ((r.map (·.count)).getD 0 * 2 ^ 21) / 160

/-- The audit ring with one more log form: the oldest goes when the region is full. -/
def State.auditPut (s : State) (f : LogForm) : List LogForm :=
  let l := s.atl.auditRing ++ [f]
  match s.atl.audit with
  | some c => l.drop (l.length - s.auditRoom c)
  | none => s.atl.auditRing

/-- The audit context loaded (R494). -/
def State.startAudit (s : State) (c : CtxId) : State :=
  ((s.updCtx c fun x => { x with loaded := true }).updAtl fun a => { a with audit := some c }).mbox 0

/-- JOB_START (R344, R356, R446, R485, R491, R494, R526, R574): a context of the image in force loads its job. In spare mode, when no
MEMBER section is this device's own, the device holds keys and routes and no job state. -/
def execJobStart (ctx : CtxId) (s : State) : Out :=
  let z := s.enterCtx ctx
  let rack := z.field "JOB_LINK_MODE" == 1
  let known := ((s.ldr.image.map contextsOf).getD []).contains ctx
  if s.atl.running = false then .next s
  else if known = false ∨ (s.ctx ctx).loaded = true then .next (s.mbox (if known then 3 else 2))
  else if z.field "AUDIT" = 1 then .next (if s.atl.audit.isSome then s.mbox 3 else s.startAudit ctx)
  else if s.atl.runCtx.isSome = true ∨ (rack = false ∧ s.pow.phase < 5) then .next (s.mbox 3)
  else if s.fab.devId = 0 ∨ (rack = true ∧ s.pow.phase ≠ 3) ∨ s.fenced = true then .next (s.mbox 2)
  else if z.startOk = false then .next s.mboxInvalid
  else if z.ctl.members.contains s.fab.devId = false then .next ((z.keyCtx ctx true).mbox 0)
  else
    let t := z.loadJob
    let good := match z.jobData.snapshotDigest with
      | some d => d == t.weir.param
      | none => true
    if good = false then .next ((s.mbox 2).raiseDev .correctable 0x055 (unitNo 4 0) 0)
    else
      let u := t.keyCtx ctx false
      .next ((u.updStandby fun _ => { hdr0 := some u.loadHeader, base := u.loadBase }).mbox 0)

/-- JOB_STOP (R491, R493, R494): the context's job unloaded after its last sealed step and scrubbed, and its keys erased. -/
def execJobStop (ctx : CtxId) (s : State) : Out :=
  let erase := fun t : State => t.updCtx ctx fun x => { ringBase := x.ringBase, ringSize := x.ringSize, exportKey := x.exportKey }
  if s.atl.running = false then .next s
  else if (s.ctx ctx).loaded = false then .next (s.mbox 2)
  else if s.atl.audit = some ctx then
    .next ((erase (s.updAtl fun a => { a with audit := none, auditRing := [], scrubs := satAdd 0xFFFF a.scrubs 1 })).mbox 0)
  else if s.atl.runCtx = some ctx then
    let t := (s.scrub true).updAtl fun a => { a with runCtx := none }
    let u := (erase t).updRcv fun r => { r with role := .none, taking := [], takeover := none, unbound := [], jobWait := false }
    .next ((u.updFab fun f => { f with boundId := 0 }).mbox 0)
  else
    let gone := (s.ctx ctx).kept
    let t := s.updTier fun y => { y with
      mem := zeroPages gone (fun _ => true) y.mem, used := y.used.filter fun l => !(gone.any fun p => p.2.loc == l) }
    .next (((erase t).updAtl fun a => { a with scrubs := satAdd 0xFFFF a.scrubs 1 }).mbox 0)

/-! ## Switching and resuming (R48, R491, R492, R495) -/

/-- A target accepted at the vote root under the timing rule of R472; it travels with the decision of step t − L − 2 (log entry 22). -/
def State.acceptTarget (s : State) (index : Nat) (value : List Nat) (target : Nat) : State :=
  if s.isRoot = false then s.mbox 4
  else if s.tooLate target then s.mbox 5
  else (s.acceptWrite index value target).mbox 0

/-- JOB_SWITCH (R492). -/
def execJobSwitch (out into : CtxId) (target : Nat) (s : State) : Out :=
  if s.atl.running = false then .next s
  else if s.atl.runCtx ≠ some out ∨ (s.ctx into).loaded = false ∨ s.atl.audit = some into ∨ out = into then .next (s.mbox 2)
  else .next (s.acceptTarget idxSwitch [out.val, into.val] target)

/-- Tiles that this device homes, with their content of version `v` from its standby image. -/
def State.pastMasters (s : State) (b : Standby) (v : Nat) : List (Nat × Nat × List F32) :=
  (s.homeTiles v).map fun x =>
    let key := tileKey x.1 (s.tkOf x.1 x.2) (s.tnOf x.1 x.2)
    let f := match b.recAt 1 key v with
      | some c => frameFrom (s.tileKn x.1 x.2 * s.tileNn x.1 x.2) (s.nstate x.1) c
      | none => s.initTile x.1 x.2
    (x.1, x.2, f.master)

/-- The versions that the first open steps read rebuilt from the standby image, each under its own scale set (R495). -/
def State.rebuildVersions (s : State) (b : Standby) (v : Nat) : State :=
  let vs := s.neededVersions v
  let sets := vs.filterMap fun n => (b.recAt 5 0 n).map fun c => (n, s.scaleSetFrom n c)
  let a := (vs.foldl (fun t n => t.beginArrival n false) s).updWeir fun w => { w with scaleSets := sets, ssChecked := sets.map Prod.fst }
  (vs.foldl (fun t n => (t.pastMasters b n).foldl (fun u x => u.sendTile n x.1 x.2.1 x.2.2) t) a).tryInstall

/-- SWITCH_IN_RESTORE (R447 items 2 to 5, R495): a switched-out context restores from its own standby image; it admits once
CONTEXT_READY has come. -/
def execSwitchInRestore (ctx : CtxId) (s : State) : Out :=
  let x := s.ctx ctx
  match x.standby.header with
  | none => .next s
  | some h =>
    if x.switchedOut = false ∨ s.atl.switchIn ≠ some ctx ∨ s.atl.runCtx.isSome = true ∨ s.atl.running = false then .next s
    else
      let v := h.sealedStep
      let a := (s.updAtl fun q => { q with runCtx := some ctx, switchIn := none }).updCtl fun _ =>
        { s0 := x.s0, sealed := v, memEpoch := x.memEpoch, layEpoch := h.layEpoch, members := x.members }
      let pull := fun (m : List Host.Cell) (p : Nat × List Host.Cell) => match kvFind p.1 (a.mapPages x.kept).tier.pages with
        | some e => fillFrame e.loc p.2 m
        | none => m
      let m := (a.mapPages x.kept).updTier fun t => { t with mem := x.imaged.foldl pull t.mem }
      let c := ((m.loadProgs).restore x.standby v).fillBuckets.startFronts v
      let d := (c.rebuildVersions x.standby v).updCtl fun k => { k with started := x.ready }
      .next (d.updCtx ctx fun y => { y with switchedOut := false, kept := [], imaged := [] }).serveAsks

/-- CONTEXT_READY (R491, R495). -/
def execContextReady (ctx : CtxId) (s : State) : Out :=
  if s.atl.running = false then .next s
  else if (s.ctx ctx).loaded = false then .next (s.mbox 2)
  else
    let t := s.updCtx ctx fun x => { x with ready := true }
    .next ((if s.atl.runCtx = some ctx then t.updCtl fun c => { c with started := true } else t).mbox 0)

/-- JOB_RESUME (R48, R359, R491): a halted job goes on from the step that halted; after SHARD_LOST it resumes only from a snapshot. -/
def execJobResume (ctx : CtxId) (s : State) : Out :=
  if s.atl.running = false then .next s
  else if s.atl.runCtx = some ctx ∧ s.ctl.halted = true ∧ s.ctl.shardLost = false then .next (s.unhalt.mbox 0) else .next (s.mbox 2)

/-! ## Spares, releases, repairs and the manifest -/

/-- JOB_SPARES with a new value. -/
def State.setSpares (s : State) (l : List DevId) : State :=
  s.updLdr fun x => { x with fields := x.fields.map fun f =>
    if f.inst.name == "JOB_SPARES" && f.ctx == s.atl.runCtx then { f with inst := { f.inst with value := l } } else f }

/-- SPARE_ADD (R437, R446, R455, R485): the device joins JOB_SPARES and the choice of spares; an ID that waits for a spare is bound by a
further increment. -/
def execSpareAdd (ctx : CtxId) (dev : DevId) (s : State) : Out :=
  if s.atl.running = false then .next s
  else if s.atl.runCtx ≠ some ctx ∨ dev = 0 ∨ dev = 0xFFFF ∨ 256 ≤ s.spares.length ∨ s.spares.contains dev = true ∨
      s.ctl.members.contains dev = true then .next (s.mbox 2)
  else
    let t := (s.setSpares (s.spares ++ [dev])).updRcv fun r => { r with
      badSpares := r.badSpares.filter (· != dev), failedIds := r.failedIds.filter (· != dev) }
    let u := if s.rcv.isJobCoord then t.emit [.jm dev (s.ctx ctx).jobId] else t
    .next ((if s.rcv.isJobCoord = true ∧ s.rcv.unbound ≠ [] then
        (u.updRcv fun r => { r with fmAsked := r.unbound.foldl (fun k d => kvPut d s.now k) r.fmAsked, finalAt := 0 }).sendRecord []
      else u).mbox 0)

/-- SPARE_REMOVE (R455). -/
def execSpareRemove (ctx : CtxId) (dev : DevId) (s : State) : Out :=
  if s.atl.running = false then .next s
  else if s.atl.runCtx ≠ some ctx ∨ s.spares.contains dev = false then .next (s.mbox 2)
  else .next ((s.setSpares (s.spares.filter (· != dev))).mbox 0)

/-- TRAY_RELEASE (R451): the job coordinator asks the vote root, which accepts under the timing rule of R472. -/
def execTrayRelease (ctx : CtxId) (target : Nat) (pod tray : Nat) (dev : DevId) (s : State) : Out :=
  if s.atl.running = false then .next s
  else if s.atl.runCtx ≠ some ctx then .next (s.mbox 2)
  else if s.isRoot then .next (s.acceptTarget idxRelease [pod, tray, dev] target)
  else if s.rcv.isJobCoord then
    if s.tooLate target then .next (s.mbox 5)
    else .next ((s.emit [.stepWrite (s.field "VOTE_ROOT") 0
      { index := idxRelease, value := [pod, tray, dev], target := target, serial := 0 }]).mbox 0)
  else .next (s.mbox 4)

/-- HOST_SUPPLY (R365, item 4): the unit's content before the step, from the difference stream. -/
def execHostSupply (ctx : CtxId) (key : Nat) (content : List Byte) (s : State) : Out :=
  if s.atl.running = false then .next s
  else match s.weir.rebuilding.find? fun r => r.key == key && r.askedAt.isSome && !r.fromHost with
    | none => .next (s.mbox 2)
    | some r =>
      if s.atl.runCtx ≠ some ctx then .next (s.mbox 2)
      else
        let r' : Rebuild := { r with pre := content, fromHost := true }
        .next ((((s.updRebuild key fun _ => r').repair r.step 4 s.me key).sendRedo r').mbox 0)

/-- REPAIR_MAP_WRITE (R151, R152): an entry added to the soft repair map, or removed; a RETIRE entry written in service retires its engine
once it is quiet. -/
def execRepairMapWrite (remove : Bool) (e : RepairEntry) (cyc : Nat) (s : State) : Out :=
  if s.atl.running = false then .next s
  else
    let same := fun x : RepairEntry => x.core == e.core && x.eng == e.eng && x.kind == e.kind && x.index == e.index
    let bump := fun (t : State) (l : List RepairEntry) => t.updAtl fun a => a.writeRepairs l
    if remove then
      if s.atl.repairMap.any same then .next ((bump s (s.atl.repairMap.filter fun x => !same x)).mbox 0) else .next (s.mbox 2)
    else if 256 ≤ s.atl.repairMap.length then .next (s.mbox 2)
    else
      let t := (bump s (s.atl.repairMap ++ [{ e with origin := 0, stepLo := s.ctl.sealed % 2 ^ 32 }])).mbox 0
      if e.kind = .retire ∧ (s.engine e.core e.eng).retired = false ∧ 1 ≤ s.pow.phase then
        .next ((t.updEngine e.core e.eng fun k =>
          { k.unstart cyc with reqAtl := true, reqCyc := cyc, retireWhenQuiet := some 3 }).retireDue e.core e.eng)
      else .next t

/-- ENGINE_DIAG (R152): the fixed-pattern diagnostic of a retired engine while its sibling serves; which lines the reply names is a free
value. -/
def execEngineDiag (c : CoreId) (e : EngId) (s : State) : Out :=
  if s.atl.running = false then .next s
  else if (s.engine c e).retired = false ∨ (s.engine c (sibling e)).retired = true then .next (s.mbox 2)
  else
    let n := Config.freeNat s.fresh % 261
    let reply := (List.range n).map fun i => Config.freeByte s.fresh i
    .next (((s.tick.updAtl fun a => { a with mboxBuf := memWrite [] 0 reply }).emit [.mailbox reply]).mbox 0)

/-- MANIFEST_WRITE (R417): it takes effect at the next boot. The plan must not assign 0x0000, 0xFFFF or one ID twice (R418). -/
def execManifestWrite (m : Manifest) (s : State) : Out :=
  let ids := m.plan.map Prod.snd
  let others := m.alternates.map Prod.snd
  if s.atl.running = false then .next s
  else if m.pod = 0 ∨ 1023 < m.pod ∨ ids.contains 0 = true ∨ ids.contains 0xFFFF = true ∨ ids.dedup ≠ ids ∨
      others.contains 0xFFFF = true then .next (s.mbox 2)
  else .next ((s.updAtl fun a => { a with nextManifest := some m }).mbox 0)

/-! ## The step record (R497 to R501) -/

/-- The record key of the device: derived from the unique secret, the firmware digest and IMAGE_DIGEST (R480). -/
def State.recordKey (s : State) : List Byte :=
  let fw := match s.atl.runSlot with
    | 0 => s.atl.fw0
    | _ => s.atl.fw1
  Config.hkdf s.fuses.uds (sha384 ((fw.map (·.image)).getD []) ++ s.imageDigest) 48

/-- The identifier of the record key (R481): it is formed from the public key, which the spec's derivation gives (a free function). -/
def State.recordKeyId (s : State) : List Byte := Config.hkdf s.recordKey (BitVec.ofNat 8 0 :: s.imageDigest) 16

/-- A repair entry (R366). -/
def repairBytes (x : Nat × DevId × Nat × Nat) : List Byte :=
  leBytes 1 x.1 ++ leBytes 2 x.2.1 ++ leBytes 1 x.2.2.1 ++ leBytes 4 0 ++ leBytes 8 x.2.2.2

/-- A write entry (R498). -/
def writeBytes (w : StepWrite) (len : Nat) : List Byte :=
  leBytes 4 w.index ++ leBytes 2 len ++ leBytes 2 0 ++ leBytes 6 w.target ++ leBytes 2 0 ++ pad16 (fieldBytes len w.value)

/-- The writes with target `n` that govern, in ascending field index (R474, R498). -/
def State.listedWrites (s : State) (n : Nat) : List StepWrite :=
  let idx := (s.ldr.memberWrites.filter fun w => w.target == n).foldl (fun l w => insNat w.index l) []
  idx.filterMap fun i => (governing i n s.ldr.memberWrites).bind fun w => if w.target = n then some w else none

/-- The lists of a record. -/
def State.recordLists (s : State) (n : Nat) : List Byte :=
  let lens := fun i : Nat => ((s.ldr.fields[i]?).map fun f => f.inst.len).getD 0
  ((s.stepOf n).repairs.take 64).flatMap repairBytes ++ (s.listedWrites n).flatMap fun w => writeBytes w (lens w.index)

/-- The eight sample digests; those that a spare does not know after a roll-forward are free values. -/
def State.sampleBytes (s : State) (n : Nat) : List Byte :=
  (List.range 8).flatMap fun i =>
    if s.mbs ≤ i then zero48
    else ((s.stepOf n).samples[i]?).getD ((List.range 48).map fun j => Config.freeByte s.fresh (48 * i + j))

/-- FLAGS of a record. -/
def State.recordFlags (s : State) (n : Nat) : Nat :=
  let p := s.stepOf n
  bit (s.skipped n) + 2 * bit s.rack + 4 * bit p.rolled + 8 * bit (p.repairs != []) + 16 * bit p.decFlags.nan
    + 32 * bit p.decFlags.inf + 64 * bit p.decFlags.sat + 128 * bit p.decFlags.opt

/-- Bytes 0 to 655 of the record of step `n` (R497). -/
def State.recordFixed (s : State) (n seq : Nat) (prev : List Byte) : List Byte :=
  let p := s.stepOf n
  let lists := s.recordLists n
  leBytes 4 1 ++ leBytes 2 s.me ++ leBytes 2 s.fab.devId ++ leBytes 8 (s.field "JOB_ID") ++ leBytes 6 n
    ++ leBytes 1 (s.recordFlags n) ++ leBytes 1 s.mbs ++ leBytes 4 p.layEpoch ++ leBytes 4 s.ctl.memEpoch
    ++ ((s.digestOf n).param.getD zero48) ++ s.imageDigest ++ leBytes 8 seq ++ prev
    ++ leBytes 2 p.repairs.length ++ leBytes 1 (min 64 p.repairs.length) ++ leBytes 1 (s.listedWrites n).length
    ++ leBytes 2 s.ctl.members.length ++ leBytes 2 0 ++ leBytes 4 lists.length ++ leBytes 4 0
    ++ sha384 ((0x0E : Byte) :: lists) ++ leBytes 8 0 ++ s.recordKeyId ++ s.sampleBytes n

/-- The record of step `n`, chained while an audit context is loaded (R499). -/
def State.stepRecord (s : State) (n : Nat) : StepRecord :=
  let chained := s.atl.audit.isSome
  let seq := if chained then s.atl.chainSeq + 1 else 0
  let fixed := s.recordFixed n seq (if chained then s.atl.chainHead else zero48)
  let digest := sha384 fixed
  { form := { step := n, device := s.me, flags := s.recordFlags n, digest := digest, sig := Config.ecdsaSign s.recordKey digest }
    fixed := fixed, lists := s.recordLists n, chainSeq := seq }

/-- The log form of a record (R500). -/
def LogForm.bytes (f : LogForm) : List Byte :=
  leBytes 6 f.step ++ leBytes 2 f.device ++ leBytes 1 f.flags ++ List.replicate 7 0 ++ f.digest ++ f.sig

/-- Sectors of the step record log, and log forms in one (R500). -/
def logSectorCount : Nat := 128
def logPerSector : Nat := 409

/-- The sector after the head that is not retired. -/
def Atluta.nextSector (a : Atluta) (from' : Nat) : Nat :=
  let l := (List.range logSectorCount).map fun i => (from' + 1 + i) % logSectorCount
  ((l.filter fun k => !a.logRetired.contains k).head?).getD from'

/-- Whether the log takes one more form: the head sector has room, or the next one is erased. -/
def Atluta.logRoom (a : Atluta) : Bool :=
  decide ((kvGet [] a.logHead a.logSectors).length < logPerSector) || a.logErased.contains (a.nextSector a.logHead)

/-- A form written to the log. -/
def Atluta.logPut (a : Atluta) (f : LogForm) : Atluta :=
  if (kvGet [] a.logHead a.logSectors).length < logPerSector then
    { a with logSectors := kvMod [] a.logHead (· ++ [f]) a.logSectors }
  else
    let k := a.nextSector a.logHead
    { a with logHead := k, logErased := a.logErased.filter (· != k), logSectors := kvPut k [f] a.logSectors }

/-- The records of a STEP segment (R503): what the device homes, SCALAR records of the first home, the scale set of the root, COMMIT. -/
def State.segmentRecords (s : State) (n : Nat) : List Journal :=
  let homes := fun t r : Nat => s.homeOf t r == s.me
  let t := s.sealRows n (s.skipped n)
  let set := if s.isRoot then [s.setRecord n] else []
  if s.skipped n then set
  else s.unitRecords n homes (fun t u => s.tileHome t u == s.me) (fun t => s.firstHome t == s.me)
    ++ State.placeRecords s t n homes ++ set ++ [s.commitRecord n]

/-- RECORD_SIGN (R41 items 3 and 4, R499 to R504): once the comparisons are settled and P_n is known, Atluta signs the record, writes its
log form, and hands the segment to the exporter; without room in the spool the Seal waits under EXPORT_FULL. -/
def execRecordSign (step : Nat) (s : State) : Out :=
  let p := s.stepOf step
  if p.st ≠ .seal ∨ p.signed = true ∨ s.ctl.sealed + 1 ≠ step ∨ s.compared step = false ∨ s.atl.running = false ∨
      s.fenced = true then .next s
  else
    let r := s.stepRecord step
    let body := (s.segmentRecords step).flatMap (·.bytes) ++ r.fixed ++ r.form.sig ++ r.lists
    if s.spoolRoom (64 + body.length) = false then .next (s.weirStall [28])
    else if s.atl.logRoom = false then .next s
    else
      let head := if s.atl.audit.isSome then sha384 ((0x0C : Byte) :: (s.atl.chainHead ++ r.form.digest)) else s.atl.chainHead
      let a := s.tick.updAtl fun x =>
        let y := x.logPut r.form
        { y with
          records := [r], chainHead := head, chainSeq := if x.audit.isSome then r.chainSeq else x.chainSeq
          auditRing := s.auditPut r.form }
      let b := match s.atl.runCtx with
        | some c => a.sendSegment c 0 step body
        | none => a
      .next (b.updStep step fun q => { q with signed := true, logged := true, spooled := true })

/-- LOG_SECTOR_ERASE (R500, R508): the sector ahead of the writes erased; one that fails is retired, with LOG_SECTOR. -/
def execLogSectorErase (ok : Bool) (s : State) : Out :=
  let k := s.atl.nextSector s.atl.logHead
  if s.atl.running = false ∨ s.atl.logErased.contains k = true ∨ k = s.atl.logHead then .next s
  else if ok then
    .next (s.updAtl fun a => { a with
      logErased := a.logErased ++ [k], logErases := (a.logErases + 1) % 2 ^ 32, logSectors := kvDel k a.logSectors })
  else
    .next ((s.updAtl fun a => { a with logRetired := a.logRetired ++ [k], logErases := (a.logErases + 1) % 2 ^ 32 }).raiseDev .correctable
      0x097 (unitNo 9 0) k)

/-- GET_AUDIT (R491, R494): log forms of the audit ring, from an index on, into ATL_MBOX_BUF. -/
def execGetAudit (first count : Nat) (s : State) : Out :=
  if s.atl.running = false then .next s
  else if s.atl.audit.isNone = true ∨ 25 < count then .next (s.mbox 2)
  else
    let b := (((s.atl.auditRing.drop first).take count).flatMap LogForm.bytes)
    .next ((s.updAtl fun a => { a with mboxBuf := memWrite [] 0 b }).mbox 0)

/-! ## Snapshots (R505) -/

/-- SNAPSHOT: accepted at the vote root under the timing rule of R472. -/
def execSnapshot (ctx : CtxId) (target : Nat) (s : State) : Out :=
  if s.atl.running = false then .next s
  else if s.atl.runCtx ≠ some ctx then .next (s.mbox 2)
  else .next (s.acceptTarget idxSnapshot [] target)

/-- The records of version `n`: those in force while it is the version last sealed; once later steps have sealed, those that the standby
image yields (R445). -/
def State.snapshotRecords (s : State) (n : Nat) : List Journal :=
  if s.ctl.sealed = n then s.loadBase
  else
    let b := s.runC.standby
    (List.range 5).flatMap fun k => (b.keys k n).filterMap fun key =>
      (b.recAt k key n).map fun x => { step := n, kind := k, key := key, content := x : Journal }

/-- P_n as the device knows it: in force, or from the standby image. -/
def State.snapshotParam (s : State) (n : Nat) : List Byte :=
  if s.ctl.sealed = n then s.weir.param else (s.runC.standby.recAt 7 0 n).getD s.weir.param

/-- The scale set of version `n`, from the standby image once it is no longer held. -/
def State.snapshotSet (s : State) (n : Nat) : Journal :=
  if kvHas n s.weir.scaleSets then s.setRecord n
  else { step := n, kind := 5, key := 0, content := (s.runC.standby.recAt 5 0 n).getD [] }

/-- The bodies of a member's SNAPSHOT_PART segments: every unit that it homes, with directory and popularity records, and at the root the
scale set. -/
def State.snapshotBody (s : State) (n : Nat) : List Byte :=
  let base := s.snapshotRecords n
  let mine := base.filter fun j =>
    if j.kind = 0 ∨ j.kind = 3 ∨ j.kind = 4 then s.homeOf (keyTable j.key) (keyRow j.key) == s.me
    else if j.kind = 1 then s.tileHome (keyTable j.key) (s.keyTau j.key) == s.me
    else if j.kind = 2 then s.firstHome (keyTable j.key) == s.me
    else false
  let set := if s.isRoot then [s.snapshotSet n] else []
  ((mine ++ set).map fun j => { j with step := n }).flatMap (·.bytes)

/-- F of version `n` (R344, R505): C over every unit of the snapshot. A device that is the only member holds every unit; of the units that
others home this device holds no leaves, and F is a free value (log entry 72). -/
def State.snapshotF (s : State) (n : Nat) : List Byte :=
  if s.ctl.members = [s.me] then
    changeDigest (bucketsOf (((s.snapshotRecords n).filter fun j => j.kind ≤ 2).map fun j => (j.key, leafOf j.content)))
  else (List.range 48).map fun i => Config.freeByte s.fresh i

/-- The body of SNAPSHOT_END. -/
def State.snapshotEnd (s : State) (n : Nat) (parts : List Byte) : List Byte :=
  let f := s.snapshotF n
  let items := f ++ s.snapshotParam n ++ leBytes 4 s.ctl.layEpoch ++ leBytes 4 s.ctl.memEpoch ++ sha384 ((0x0F : Byte) :: parts)
  items ++ Config.ecdsaSign s.recordKey (sha384 items)

/-- SNAPSHOT_WRITE (R505): after the Seal of the target step the member writes its parts and the end; without room in the spool it
waits. -/
def execSnapshotWrite (s : State) : Out :=
  match s.ctl.snapTarget, s.atl.runCtx with
  | some t, some c =>
    if s.ctl.snapDone = true ∨ s.ctl.sealed < t ∨ s.fenced = true then .next s
    else
      let parts := s.snapshotBody t
      let fin := s.snapshotEnd t parts
      if s.spoolRoom (128 + parts.length + fin.length) = false then .next (s.weirStall [28])
      else
        let a := (s.tick.sendSegment c 1 t parts).sendSegment c 2 t fin
        .next (a.updCtl fun k => { k with snapDone := true, snapTarget := none })
  | _, _ => .next s

end Sys2Proof.Machine
end

