-- ==== Sys2Proof/Machine/Attest.lean ====
section
/-! DEFINITION. Atluta's boot, firmware and owner keys, and the SPDM responder (R464, R477 to R484, R491). -/

namespace Sys2Proof.Machine

/-! ## Boot (R464, R477, R499) -/

/-- What a firmware slot's signature covers: version, SVN and code (log entry 37). -/
def fwDigest (f : FwSlot) : List Byte := sha384 (leBytes 4 f.version ++ leBytes 2 f.svn ++ f.image)

/-- Bytes that a firmware slot holds (R477). -/
def fwSlotMax : Nat := 4 * 2 ^ 20 - 128 * 2 ^ 10

/-- Whether a firmware slot is valid: signed under the Chontaper firmware key, with its SVN at or above the fused floor (R477). -/
def State.fwOk (s : State) (f : FwSlot) : Bool :=
  decide (f.image.length ≤ fwSlotMax) && Config.ecdsaVerify Config.firmwareKey (fwDigest f) f.sig.r f.sig.s && decide (s.atl.fwFloor ≤ f.svn)

/-- Firmware slot `k`. -/
def Atluta.slot (a : Atluta) (k : Nat) : Option FwSlot := if k = 0 then a.fw0 else a.fw1

/-- Firmware slot `k` written. -/
def Atluta.putSlot (a : Atluta) (k : Nat) (f : FwSlot) : Atluta :=
  if k = 0 then { a with fw0 := some f } else { a with fw1 := some f }

/-- Whether slot `k` holds valid firmware. -/
def State.slotOk (s : State) (k : Nat) : Bool := match s.atl.slot k with
  | some f => s.fwOk f
  | none => false

/-- The slot that the ROM runs: a valid one, ACTIVE first (R477). -/
def State.pickSlot (s : State) : Option Nat :=
  if s.slotOk s.atl.active then some s.atl.active
  else if s.slotOk (1 - s.atl.active) then some (1 - s.atl.active)
  else none

/-- The identifier of a public key: the first 16 bytes of its SHA-384 digest, as a number (R481). -/
def keyIdOf (key : List Byte) : Nat := leNat ((sha384 key).take 16)

/-- The banks whose CRC matches, with their numbers, the one with the higher SEQ first and A first among equals (R464). -/
def State.banksBySeq (s : State) : List (Nat × Bank) :=
  let ok := fun (n : Nat) (b : Option Bank) => match b with
    | some x => if x.crcOk then [(n, x)] else []
    | none => []
  match ok 1 s.ldr.bankA, ok 2 s.ldr.bankB with
  | [a], [b] => if a.2.seq < b.2.seq then [b, a] else [a, b]
  | l, m => l ++ m

/-- The bank applied at boot (R464): the valid one with the higher SEQ. A first choice that fails R461 raises its fault; without a
valid bank the device has no image and raises IMAGE_NONE. -/
def State.chooseBank (s : State) : State :=
  let l := s.banksBySeq
  let t := match l with
    | x :: _ => (match loadFault (s.verify4 x.2.image) with
      | some c => s.raiseDev .correctable c (unitNo 11 0) 0
      | none => s)
    | [] => s
  match l.find? fun x => s.bankOk (some x.2) with
  | some x => t.applyImage x.2.image x.1
  | none => t.raiseDev .event 0x0F1 (unitNo 11 0) 0

/-- The ROM runs a valid firmware slot, or holds phase 0 with FAULT_N low; the firmware puts the manifest and a bank in force and starts
the audit chain (R464, R477, R499). -/
def State.bootRom (s : State) : State :=
  match s.pickSlot with
  | none => s.updPow fun p => { p with faultLow := true }
  | some k =>
    let n := (s.atl.bootCount + 1) % 2 ^ 32
    let m := if s.atl.nextManifest.isSome then s.atl.nextManifest else s.atl.manifest
    let t := s.updAtl fun a => { a with
      running := true, runSlot := k, bootCount := n, manifest := m, nextManifest := none
      chainHead := sha384 ((0x0D : Byte) :: ((sha384 s.fuses.dik).take 16 ++ leBytes 4 n)), chainSeq := 0 }
    t.chooseBank

/-- FW_RECOVERY (R478): in a boot with BOOT_SEL = FW_RECOVERY the ROM accepts a signed slot, writes it to the inactive slot position and
boots. -/
def execFwRecovery (slot : FwSlot) (s : State) : Out :=
  if s.pow.boot ≠ .fwRecovery ∨ s.pow.firstRise = false ∨ s.atl.running = true ∨ s.pow.aonLock = false ∨ s.fwOk slot = false then .next s
  else .next (s.updAtl fun a => a.putSlot (1 - a.active) slot).bootRom

/-- FIRMWARE_UPDATE (R479): Atluta writes the inactive slot, verifies it, and marks it ACTIVE; it runs at the next boot. -/
def execFirmwareUpdate (slot : FwSlot) (s : State) : Out :=
  if s.atl.running = false then .next s
  else
    let k := 1 - s.atl.active
    let t := s.updAtl fun a => a.putSlot k slot
    .next (if s.fwOk slot then (t.updAtl fun a => { a with active := k }).mbox 0 else t.mbox 1)

/-! ## Signed mailbox commands (R479, R482, R491) -/

/-- What the signature of a mailbox command covers (R491). -/
def State.signedDigest (s : State) (cmd : Nat) (body : List Byte) : List Byte :=
  sha384 (leBytes 1 cmd ++ leBytes 2 s.fab.devId ++ leBytes 8 s.atl.nonce ++ body)

/-- Whether a signed command carries the signature of an enrolled owner key under the present nonce. -/
def State.signedOk (s : State) (cmd : Nat) (body : List Byte) (sig : Option Sig) : Bool := match sig with
  | some g => s.signedBy g (s.signedDigest cmd body)
  | none => false

/-- A nonce that differs from the present one; which one is a free value. -/
def State.newNonce (s : State) : State :=
  let n := (s.atl.nonce + 1 + Config.freeNat s.fresh % (2 ^ 64 - 1)) % 2 ^ 64
  s.tick.updAtl fun a => { a with nonce := n }

/-- A signed command: RESULT SIG where its signature fails; the nonce changes in either case. -/
def State.signed (s : State) (cmd : Nat) (body : List Byte) (sig : Option Sig) (f : State → State) : State :=
  if s.signedOk cmd body sig then (f s).newNonce else (s.mbox 1).newNonce

/-- Changes of the owner key table that the fuses take (R482). -/
def keyBurnMax : Nat := 64

/-- The digest of the owner key table with the image SVN floor that it holds (R482). -/
def Atluta.tableDigest (a : Atluta) : List Byte := sha384 (a.keys.flatMap Prod.snd ++ leBytes 4 a.imageFloor)

/-- The owner key table changed: its digest is burnt into the next fuse entry. -/
def State.burnTable (s : State) (f : Atluta → Atluta) : State :=
  (s.updAtl fun a =>
    let b := f a
    { b with keyBurns := a.keyBurns + 1, keyFuses := a.keyFuses ++ [b.tableDigest] }).mbox 0

/-- An owner key added (R480 to R482): at most eight keys and 64 changes. -/
def State.addKey (s : State) (key : List Byte) : State :=
  if key.length ≠ 97 ∨ 8 ≤ s.atl.keys.length ∨ keyBurnMax ≤ s.atl.keyBurns ∨ (s.enrolled (keyIdOf key)).isSome = true then s.mbox 2
  else s.burnTable fun a => { a with keys := a.keys ++ [(keyIdOf key, key)] }

/-- KEY_ENROL (R478, R482): signed, or unsigned while the table is empty in a boot with BOOT_SEL = OWNER_ENROL. -/
def execKeyEnrol (key : List Byte) (sig : Option Sig) (s : State) : Out :=
  if s.atl.running = false then .next s
  else if sig = none ∧ s.atl.keys = [] ∧ s.pow.boot = .ownerEnrol then .next (s.addKey key)
  else .next (s.signed 0x10 key sig fun t => t.addKey key)

/-- KEY_REVOKE (R482): refused when it would leave the table empty. -/
def execKeyRevoke (keyId : Nat) (sig : Option Sig) (s : State) : Out :=
  if s.atl.running = false then .next s
  else .next (s.signed 0x11 (leBytes 16 keyId) sig fun t =>
    let l := t.atl.keys.filter fun k => k.1 != keyId
    if l = [] ∨ l = t.atl.keys ∨ keyBurnMax ≤ t.atl.keyBurns then t.mbox 2 else t.burnTable fun a => { a with keys := l })

/-- SVN_RAISE (R482): the image SVN floor, held with the table, rises and never falls. -/
def execSvnRaise (svn : Nat) (sig : Option Sig) (s : State) : Out :=
  if s.atl.running = false then .next s
  else .next (s.signed 0x12 (leBytes 4 svn) sig fun t =>
    if svn ≤ t.atl.imageFloor ∨ 2 ^ 32 ≤ svn ∨ keyBurnMax ≤ t.atl.keyBurns then t.mbox 2
    else t.burnTable fun a => { a with imageFloor := svn })

/-- FW_SVN_COMMIT (R479): the fused firmware floor rises to the SVN of the running firmware; the fuse bank holds 64 steps. -/
def execFwSvnCommit (sig : Option Sig) (s : State) : Out :=
  if s.atl.running = false then .next s
  else .next (s.signed 0x13 [] sig fun t =>
    let svn := ((t.atl.slot t.atl.runSlot).map (·.svn)).getD 0
    if svn ≤ t.atl.fwFloor then t.mbox 0
    else if 64 ≤ t.atl.fwFuses then t.mbox 2
    else (t.updAtl fun a => { a with fwFloor := svn, fwFuses := a.fwFuses + 1 }).mbox 0)

/-- EXPORT_KEY (R480, R491, R504): a context's export key. -/
def execExportKey (ctx : CtxId) (key : BitVec 256) (sig : Option Sig) (s : State) : Out :=
  if s.atl.running = false then .next s
  else .next (s.signed 0x14 (leBytes 32 key.toNat) sig fun t => (t.updCtx ctx fun x => { x with exportKey := some key }).mbox 0)

/-! ## Measurements (R484) -/

/-- A frame retirement entry, as the measurement covers it. -/
def locBytes (l : Loc) : List Byte :=
  leBytes 1 (match l.tier with
    | .hbm => 0
    | .cxl => 1
    | .remote => 2) ++ leBytes 1 l.unit ++ leBytes 6 l.frame

/-- Contexts with a loaded job, in context order. -/
def State.loadedCtxs (s : State) : List CtxId := (List.finRange 16).filter fun c => (s.ctx c).loaded && !(s.atl.audit == some c)

/-- Measurement block `i`, as a SHA-384 digest (R484). -/
def State.measure (s : State) (i : Nat) : List Byte :=
  match i with
  | 1 => Config.romDigest
  | 2 => sha384 (((s.atl.slot s.atl.runSlot).map (·.image)).getD [])
  | 3 => s.imageDigest
  | 4 => s.manifestDigest
  | 5 => s.atl.tableDigest
  | 6 => sha384 (s.atl.repairMap.flatMap repairEntryBytes ++ s.atl.frameRetired.flatMap locBytes)
  | 7 => sha384 (s.loadedCtxs.flatMap fun c =>
      leBytes 1 c.val ++ leBytes 8 (s.ctx c).jobId ++ ((s.ldr.image.map (·.numericId)).getD []))
  | _ => sha384 (s.atl.chainHead ++ leBytes 8 s.atl.chainSeq)

/-! ## SPDM (R483) -/

/-- Response codes of SPDM 1.3 (PRESUMED, log entry 38). -/
def spdmError : Nat := 0x7F

/-- A response of Atluta. Bodies that the spec leaves to SPDM are free values. -/
def State.answer (s : State) (kind : Nat) (request : List Byte) : State :=
  s.tick.emit [.spdm kind (Config.spdmBody kind request s.fresh)]

/-- An error response. -/
def State.spdmRefuse (s : State) : State := s.answer spdmError []

/-- Whether VERSION, CAPABILITIES and ALGORITHMS have been negotiated. -/
def State.negotiated (s : State) : Bool := s.atl.spdmVersion && s.atl.spdmCaps && s.atl.spdmAlgs

/-- A request that needs the negotiation to have ended. -/
def State.afterAlgs (s : State) (f : State → State) : State :=
  if s.atl.running = false then s else if s.negotiated then f s else s.spdmRefuse

/-- GET_VERSION: the negotiation begins anew. -/
def execGetVersion (s : State) : Out :=
  if s.atl.running = false then .next s
  else .next ((s.updAtl fun a => { a with spdmVersion := true, spdmCaps := false, spdmAlgs := false }).answer 0x04 [])

/-- GET_CAPABILITIES. -/
def execGetCapabilities (s : State) : Out :=
  if s.atl.running = false then .next s
  else if s.atl.spdmVersion then .next ((s.updAtl fun a => { a with spdmCaps := true }).answer 0x61 []) else .next s.spdmRefuse

/-- NEGOTIATE_ALGORITHMS. -/
def execNegotiateAlgorithms (s : State) : Out :=
  if s.atl.running = false then .next s
  else if s.atl.spdmVersion && s.atl.spdmCaps then .next ((s.updAtl fun a => { a with spdmAlgs := true }).answer 0x63 [])
  else .next s.spdmRefuse

/-- GET_DIGESTS: digests of the chains of slots 0 to 2. -/
def execGetDigests (s : State) : Out := .next (s.afterAlgs fun t => t.answer 0x01 [])

/-- GET_CERTIFICATE: slot 0 DIK chain, 1 alias chain, 2 record key chain; a reply carries at most 4 KiB. -/
def execGetCertificate (slot offset len : Nat) (s : State) : Out :=
  .next (s.afterAlgs fun t =>
    if 2 < slot then t.spdmRefuse else t.answer 0x02 (leBytes 1 slot ++ leBytes 2 offset ++ leBytes 2 (min len 4096)))

/-- CHALLENGE. -/
def execChallenge (slot : Nat) (nonce : List Byte) (s : State) : Out :=
  .next (s.afterAlgs fun t => if 2 < slot then t.spdmRefuse else t.answer 0x03 (leBytes 1 slot ++ nonce))

/-- Whether a request's session stands, or it needs none. -/
def State.sessionOk (s : State) (sess : SpdmSession) : Bool := match sess with
  | some n => ((kvFind n s.atl.sessions).map (·.established)).getD false
  | none => true

/-- GET_MEASUREMENTS (R484): the number of blocks for index 0, one block, or all of them for 0xFF. -/
def execGetMeasurements (index : Nat) (sess : SpdmSession) (s : State) : Out :=
  .next (s.afterAlgs fun t =>
    let block := fun i => leBytes 1 i ++ t.measure i
    if t.sessionOk sess = false then t.spdmRefuse
    else if index = 0 then t.emit [.spdm 0x60 (leBytes 1 8)]
    else if index ≤ 8 then t.emit [.spdm 0x60 (block index)]
    else if index = 0xFF then t.emit [.spdm 0x60 ((List.range 8).flatMap fun i => block (i + 1))]
    else t.spdmRefuse)

/-- KEY_EXCHANGE: a session in handshake. -/
def execKeyExchange (slot : Nat) (share : List Byte) (s : State) : Out :=
  .next (s.afterAlgs fun t =>
    if 2 < slot then t.spdmRefuse
    else
      let n := t.atl.sessionNext
      let u := t.updAtl fun a => { a with
        sessions := kvPut n { established := false, keyGen := 0, beats := 0 } a.sessions, sessionNext := n + 1 }
      u.answer 0x64 (leBytes 4 n ++ share))

/-- FINISH: the handshake of a session ends; whether the code of the requester verifies is a free value. -/
def execFinish (sess : Nat) (mac : List Byte) (s : State) : Out :=
  .next (s.afterAlgs fun t => match kvFind sess t.atl.sessions with
    | none => t.spdmRefuse
    | some x =>
      if x.established = true ∨ Config.spdmMacOk sess mac t.fresh = false then t.spdmRefuse
      else (t.updAtl fun a => { a with sessions := kvPut sess { x with established := true } a.sessions }).answer 0x65 (leBytes 4 sess))

/-- A request inside an established session. -/
def State.inSession (s : State) (sess : Nat) (f : Session → State) : State :=
  s.afterAlgs fun t => match kvFind sess t.atl.sessions with
    | some x => if x.established then f x else t.spdmRefuse
    | none => t.spdmRefuse

/-- END_SESSION. -/
def execEndSession (sess : Nat) (s : State) : Out :=
  .next (s.inSession sess fun _ =>
    (s.updAtl fun a => { a with sessions := kvDel sess a.sessions }).answer 0x6C (leBytes 4 sess))

/-- HEARTBEAT of a session. -/
def execSpdmHeartbeat (sess : Nat) (s : State) : Out :=
  .next (s.inSession sess fun x =>
    (s.updAtl fun a => { a with sessions := kvPut sess { x with beats := x.beats + 1 } a.sessions }).answer 0x68 (leBytes 4 sess))

/-- KEY_UPDATE: the session's keys are derived anew. -/
def execKeyUpdate (sess : Nat) (s : State) : Out :=
  .next (s.inSession sess fun x =>
    (s.updAtl fun a => { a with sessions := kvPut sess { x with keyGen := x.keyGen + 1 } a.sessions }).answer 0x69 (leBytes 4 sess))

end Sys2Proof.Machine
end

