-- ==== Sys2Proof/Machine/Power.lean ====
section
/-! DEFINITION. Clocks, power domains, bring-up, Fantail, resets, pins and JTAG (R150, R511 to R532, R537 to R554). -/

namespace Sys2Proof.Machine

/-! ## Domains (R12, R515, R516) -/

/-- Whether a core has a serving engine. -/
def State.coreServes (s : State) (c : CoreId) : Bool := s.serves c 0 || s.serves c 1

/-- The cores of reduced service: the first 16 with a serving engine (R516, R527). -/
def State.firstCores (s : State) : List CoreId := ((List.finRange 32).filter s.coreServes).take 16

/-- Numbers from `lo` to `hi`. -/
def fromTo (lo hi : Nat) : List Nat := (List.range (hi + 1 - lo)).map (· + lo)

/-- The domains that a phase switches on, in ascending order (R516). -/
def State.phaseDoms (s : State) : List Nat :=
  match s.pow.phase with
  | 1 => sortBy id (s.firstCores.flatMap fun c => [engDom c.val, restDom c.val]) ++ fromTo 73 84 ++ fromTo 85 92 ++ [109, 111]
  | 2 => fromTo 65 72
  | 3 => (allPorts.filter fun p => s.portMode p == 1 || s.portMode p == 2).map fun p => 93 + p.val
  | 4 => sortBy id (((List.finRange 32).filter fun c => !(s.firstCores.contains c)).flatMap fun c => [engDom c.val, restDom c.val]) ++ [110]
  | _ => []

/-- 50 µs between two switches, and the 20 µs of a ramp. -/
def switchGap : Nat := 50000
def rampTime : Nat := 20000

/-- A domain that has become ON: with pd109 the host port trains when PERST# is released; with pd110 the 100 ms of R540 begin. -/
def State.domReady (s : State) (d at' : Nat) : State :=
  let t := s.updPow fun p => { p with doms := kvPut d .on p.doms }
  if d = 109 then t.updPow fun p => { p with hostUp := p.perstN }
  else if d = 110 then t.updPow fun p => { p with cxPerstAt := some at' }
  else t

/-- Domains whose ramp of 20 µs is over are ON. -/
def State.settle (s : State) (at' : Nat) : State :=
  match s.pow.lastOn with
  | none => s
  | some t0 =>
    if at' < t0 + rampTime then s
    else ((s.pow.doms.filter fun d => d.2 == .ramp).map Prod.fst).foldl (fun t d => t.domReady d (t0 + rampTime)) s

/-- DOMAIN_SWITCH_ON (R515, R516): the lowest domain of the phase that is OFF begins its ramp, 50 µs after the one before it. -/
def execDomainSwitchOn (at' : Nat) (s : State) : Out :=
  let t := (s.at' at').settle at'
  let due := match s.pow.lastOn with
    | some t0 => decide (t0 + switchGap ≤ at')
    | none => true
  match t.phaseDoms.find? fun d => t.dom d == .off with
  | some d =>
    if s.pow.started = false ∨ due = false then .next t
    else .next (t.updPow fun p => { p with doms := kvPut d .ramp p.doms, lastOn := some at' })
  | none => .next t

/-- Whether every domain of the present phase is ON. -/
def State.phaseOn (s : State) : Bool := s.phaseDoms.all s.domOn

/-! ## Losing domains (R515, R528) -/

/-- The tier block after its domain was off: pooled memory keeps its contents, HBM does not. -/
def Tier.lost (t : Tier) : Tier := { mem := t.mem.filter fun c => c.1 / 2 ^ 65 == 1 }

/-- The contents of every unit whose clock comes from the root PLL are lost. -/
def State.loseWork (s : State) : State :=
  { s with
    cores := [], arbs := [], querns := [], rows := [], repl := {}, units := [], weir := {}, ctl := {}, tier := s.tier.lost, fab := {}
    rcv := { confirmUs := s.rcv.confirmUs, epochUs := s.rcv.epochUs, takeoverMs := s.rcv.takeoverMs, epochs := s.rcv.epochs,
             takeovers := s.rcv.takeovers, partnerUnits := s.rcv.partnerUnits, restarts := s.rcv.restarts } }

/-- Every domain except pd000 switched off at once. -/
def State.switchAllOff (s : State) : State :=
  s.loseWork.updPow fun p => { p with
    doms := [], lastOn := none, pllLock := false, hostUp := false, cxPerstAt := none, trained := [], discovered := false, started := false
    droops := [], thermLow := false, faultLow := true, phase := 0 }

/-- A context after a reset: stopped, its job keys erased; its standby image in pooled memory and its host ring registers stay. -/
def Ctx.afterReset (c : Ctx) : Ctx :=
  { stopped := c.loaded || c.stopped, standby := c.standby, exportKey := c.exportKey, ringBase := c.ringBase, ringSize := c.ringSize,
    ringHead := c.ringHead, ringTail := c.ringTail }

/-- PWR_GOOD falling or SYS_RST_N asserted (R528, R572): every domain but pd000 goes off, loaded contexts are stopped, queues are
disabled and MSI-X is reset; the on-die log is kept. -/
def State.resetEvent (s : State) : State :=
  let t := s.switchAllOff.updPow fun p => { p with
    tripped := false, failed := false, slow := [], attempts := [], levelP := 0, levelT := 0, levelH := 0, evals := []
    unmetPkg := none, unmetCompute := none, unmetFabric := none, unmetStack := [], samples := [] }
  let u := t.updAtl fun a => { a with
    ctxs := kvMap (fun _ c => c.afterReset) a.ctxs, runCtx := none, switchIn := none, audit := none, auditRing := [] }
  let v := u.updLdr fun l => { l with rootWrites := [], memberWrites := [], packages := [], busy := false }
  v.updEvt fun e => { e with queues := kvMap (fun _ q => { q with enable := false }) e.queues, vecs := [] }

/-! ## Repairs and phase 1 (R150, R153, R464) -/

/-- An engine with the repairs of its fuses. -/
def State.fusedEngine (s : State) (c : CoreId) (e : EngId) : Engine :=
  let col := kvFind (c.val, e.val) s.fuses.cols
  let row := kvFind (c.val, e.val) s.fuses.rows
  { colRep := col, colFuse := col.isSome, rowRep := row, rowFuse := row.isSome }

/-- An engine retired by the repair map. -/
def Engine.mapRetire (k : Engine) : Engine := { k with retired := true, cause := 3 }

/-- One entry of the soft repair map applied (R150 item 3, R151). -/
def State.applyRepair (s : State) (r : RepairEntry) : State :=
  let k := s.engine r.core r.eng
  let put := fun n : Engine => s.updEngine r.core r.eng fun _ => n
  let conflict := fun n : Engine => (put n).raiseDev .correctable 0x012 (unitNo 2 (2 * r.core.val + r.eng.val)) 0
  match r.kind with
  | .retire => put k.mapRetire
  | .column =>
    if k.colFuse ∧ k.colRep = some r.index then s
    else if k.colRep.isSome ∨ 129 < r.index then conflict k.mapRetire
    else put { k with colRep := some r.index }
  | .row =>
    if k.rowFuse ∧ k.rowRep = some r.index then s
    else if k.rowRep.isSome ∨ 129 < r.index then conflict k.mapRetire
    else put { k with rowRep := some r.index }
  | .reserved => conflict k

/-- The repairs of every engine built from fuses and the soft repair map (R150). -/
def State.buildRepairs (s : State) : State :=
  let t := (List.finRange 32).foldl (fun u c => (List.finRange 2).foldl (fun v e => v.updEngine c e fun _ => s.fusedEngine c e) u) s
  let m := s.atl.readRepairs
  m.2.foldl State.applyRepair (t.updAtl fun a => { a with repairSeq := m.1, repairMap := m.2 })

/-- The image in force applied anew from its bank, without packages (R466); an image that gives work to a core without a serving engine
is refused (R153, R467). -/
def State.reapply (s : State) : State :=
  let b := if s.ldr.fromBank = 1 then s.ldr.bankA else if s.ldr.fromBank = 2 then s.ldr.bankB else none
  match b with
  | none => s
  | some x =>
    let t := s.applyImage x.image s.ldr.fromBank
    if t.deadCore x.image t.ldr.fields then
      (t.backInService.updLdr fun l => { l with image := none, fields := [], fromBank := 0 }).raiseDev .correctable 0x013 (unitNo 11 0) 0
    else t

/-- Phase 1 begins: cores at REDUCED, repairs built, the image applied (R150, R525). -/
def State.enterPhase1 (s : State) : State :=
  ({ s with cores := [] } : State).buildRepairs.reapply.updPow fun p => { p with phase := 1 }

/-! ## The levels (R514, R518, R521, R523) -/

/-- The level in force: REDUCED before full service, then the highest of the three levels. -/
def State.level (s : State) : Nat :=
  if s.pow.phase < 4 then 3 else max s.pow.levelP (max s.pow.levelT s.pow.levelH)

/-- The HOLD_N level of full service. -/
def Power.holdLevel (p : Power) : Nat := if p.phase = 5 ∧ p.holdN = false then 2 else 0

/-- Every core at the level in force. -/
def State.setDividers (s : State) : State :=
  (List.finRange 32).foldl (fun t c => t.updCore c fun k => { k with div := s.level }) s

/-- DIVIDER_CHANGE (R519): a core moves its divider at a pass boundary of either engine; an empty array stands at one in every cycle. -/
def execDividerChange (c : CoreId) (cyc : Nat) (s : State) : Out :=
  let k := s.core c
  let atBound := fun e : EngId =>
    let x := s.engine c e
    x.inArray == [] || (match x.prev with
      | some q => q.t0 == cyc
      | none => false)
  if s.pow.phase < 4 ∨ k.div = s.level ∨ (atBound 0 || atBound 1) = false then .next s
  else .next (s.updCore c fun x => { x with div := s.level })

/-! ## VAUX, PWR_GOOD and SYS_RST_N (R513, R528, R545, R553) -/

/-- VAUX_ON: pd000 is powered and its PLL locks; the boot ROM waits for PWR_GOOD. -/
def execVauxOn (s : State) : Out :=
  if s.pow.vaux then .next s
  else .next (s.updPow fun p => { p with vaux := true, aonLock := true, faultLow := true, jtag := "IDCODE" })

/-- What Atluta keeps without power: flash and fuses (R463, R477, R482). -/
def Atluta.unpowered (a : Atluta) : Atluta :=
  { fw0 := a.fw0, fw1 := a.fw1, active := a.active, fwFloor := a.fwFloor, fwFuses := a.fwFuses, bootCount := a.bootCount
    keys := a.keys, keyBurns := a.keyBurns, imageFloor := a.imageFloor, keyFuses := a.keyFuses, repairA := a.repairA, repairB := a.repairB
    manifest := a.manifest, nextManifest := a.nextManifest, frameRetired := a.frameRetired
    logSectors := a.logSectors, logHead := a.logHead, logErases := a.logErases, logRetired := a.logRetired, logErased := a.logErased
    ctxs := kvMap (fun _ c => { standby := c.standby }) a.ctxs }

/-- VAUX_LOSS (R528, R529, R553): the device is unpowered; flash, fuses and pooled memory keep their contents. -/
def execVauxLoss (s : State) : Out :=
  let t := s.switchAllOff
  .next { t with
    evt := {}, atl := t.atl.unpowered, rcv := {}, ldr := { bankA := s.ldr.bankA, bankB := s.ldr.bankB }
    pow := { sysRstN := s.pow.sysRstN, perstN := s.pow.perstN, holdN := s.pow.holdN } }

/-- Bring-up begun anew after a reset, at phase 1; while HOLD_N is low it waits at the end of phase 0 (R521, R528). -/
def State.restart (s : State) : State :=
  if s.pow.vaux = false ∨ s.pow.firstRise = false ∨ s.pow.started = true ∨ s.pow.pwrGood = false ∨ s.pow.sysRstN = false then s
  else
    let t := s.updPow fun p => { p with started := true, startAt := s.now }
    if t.atl.running = true ∧ t.pow.holdN = true then t.enterPhase1 else t

/-- PWR_GOOD_RISE (R477, R528, R545, R567): straps are latched, BOOT_SEL at the first rise only, when phase 0 begins and the ROM boots;
with FW_RECOVERY the ROM waits for a slot. -/
def execPwrGoodRise (tray : BitVec 6) (boot : BootSel) (s : State) : Out :=
  if s.pow.vaux = false ∨ s.pow.pwrGood = true then .next s
  else
    let t := (s.updPow fun p => { p with pwrGood := true, tray := tray }).updEvt fun e => { e with fatalLatched := false }
    if s.pow.firstRise then .next t.restart
    else
      let u : State := { t with now := 0 }
      let v := u.updPow fun p => { p with firstRise := true, started := true, startAt := 0, phase := 0, boot := boot }
      .next (if boot = .fwRecovery ∨ s.pow.aonLock = false then v else v.bootRom)

/-- PWR_GOOD_FALL (R528, R537): filtered for 10 µs. -/
def execPwrGoodFall (ns : Nat) (s : State) : Out :=
  if ns < 10000 ∨ s.pow.pwrGood = false then .next s
  else .next (s.resetEvent.updPow fun p => { p with pwrGood := false })

/-- SYS_RST_N_ASSERT (R528, R537): pulses shorter than 10 µs are ignored. -/
def execSysRstNAssert (ns : Nat) (s : State) : Out :=
  if ns < 10000 ∨ s.pow.sysRstN = false then .next s
  else .next ((if s.pow.firstRise then s.resetEvent else s).updPow fun p => { p with sysRstN := false })

/-- SYS_RST_N_RELEASE (R528, R545): TRAY_ID is latched, and bring-up restarts at phase 1. -/
def execSysRstNRelease (tray : BitVec 6) (s : State) : Out :=
  if s.pow.sysRstN then .next s
  else .next (s.updPow fun p => { p with sysRstN := true, tray := if p.vaux then tray else p.tray }).restart

/-! ## PERST# and the root PLL (R511, R528, R540, R553) -/

/-- PERST_RELEASE: the host port trains once pd109 is on. -/
def execPerstRelease (s : State) : Out := .next (s.updPow fun p => { p with perstN := true, hostUp := s.domOn 109 })

/-- PERST_ASSERT: the host port, its DMA state and MSI-X reset; the job keeps stepping. -/
def execPerstAssert (s : State) : Out :=
  .next ((s.updPow fun p => { p with perstN := false, hostUp := false }).updEvt fun e => { e with vecs := [] })

/-- CX_PERST_RELEASE: both signals are released 100 ms after pd110 is ON. -/
def execCxPerstRelease (at' : Nat) (s : State) : Out :=
  let t := (s.at' at').settle at'
  match t.pow.cxPerstAt with
  | some t0 =>
    if t.domOn 110 = true ∧ t0 + 100 * ms ≤ at' ∧ 4 ≤ t.pow.phase then
      .next ((t.updCxl 0 fun x => { x with perstN := true }).updCxl 1 fun x => { x with perstN := true })
    else .next t
  | none => .next t

/-- PLL_LOCK: the root PLL locks in phase 1. -/
def execPllLock (s : State) : Out :=
  if s.pow.phase = 1 ∧ s.pow.started = true then .next (s.updPow fun p => { p with pllLock := true }) else .next s

/-- PLL_UNLOCK: clocks of the root PLL stop at once, and with them the work of their units; Atluta records the fault. -/
def execPllUnlock (s : State) : Out :=
  if s.pow.pllLock = false then .next s
  else
    let t := s.loseWork.updPow fun p => { p with pllLock := false, failed := true, started := false, faultLow := true }
    .next (t.raiseDev .deviceFatal 0x0A0 (unitNo 10 0) 0)

/-- ALWAYS_ON_PLL_UNLOCK (R513): Atluta is held in reset with FAULT_N low. -/
def execAlwaysOnPllUnlock (s : State) : Out :=
  if s.pow.aonLock = false then .next s
  else .next ((s.updPow fun p => { p with aonLock := false, faultLow := true }).updAtl fun a => { a with running := false })

/-! ## Domains in service (R517) -/

/-- Root periods in the 20 µs of a ramp, and core cycles by divider level (R514, R515). -/
def rampCycles (isAS : Bool) (div : Nat) : Nat :=
  120000 / (match div with
    | 0 => if isAS then 5 else 4
    | 1 => if isAS then 6 else 5
    | 2 => 6
    | _ => 8)

/-- Whether a core has an unretired command. -/
def Core.busy (k : Core) : Bool :=
  [k.f, k.b, k.u].any (fun f => f.queue != [] || f.running != []) || k.deferred != []

/-- The core of a core domain. -/
def coreOfDom (d : Nat) : Option CoreId := if 1 ≤ d ∧ d ≤ 64 then some (Fin.ofNat 32 ((d - 1) / 2)) else none

/-- An engine whose domain is on again: Fantail withdraws its request, and the first pass makes a cold load (R155). -/
def Engine.domainOn (k : Engine) : Engine :=
  let x := { k with reqFan := false }
  if k.reqFan = false ∨ x.held then x else { x with quiet := false, coldNext := true }

/-- DOMAIN_WAKE: a domain switched off in service is ON again before its unit is used; its core counts the ramp under DOMAIN_WAKE while it
has work. -/
def execDomainWake (d : DomainId) (s : State) : Out :=
  if s.pow.phase ≠ 5 ∨ s.domOn d.val = true then .next s
  else
    let t := s.domReady d.val s.now
    match coreOfDom d.val with
    | some c =>
      let k := s.core c
      let n := rampCycles s.fuses.isAS k.div
      let u := if d.val = engDom c.val then (t.updEngine c 0 Engine.domainOn).updEngine c 1 Engine.domainOn else t
      if k.busy then .next (u.updCore c fun x => { x with stall := kvMod 0 29 (satAdd stallMax · n) x.stall }) else .next u
    | none => .next t

/-- Whether every loaded context assigns a core to no stage. -/
def State.noStage (s : State) (c : CoreId) : Bool :=
  s.ldr.fields.all fun f => !(f.inst.name == "STAGE_OF_CORE" && f.inst.scope == c.val && f.inst.value != [15] && (match f.ctx with
    | some x => (s.ctx x).loaded
    | none => false))

/-- Whether an engine is quiet: its array is empty (R154). -/
def Engine.still (k : Engine) : Bool := k.inArray == []

/-- Whether Fantail may switch off a domain in full service (R517). -/
def State.mayOff (s : State) (d : Nat) : Bool :=
  match coreOfDom d with
  | some c =>
    let both := (s.engine c 0).retired && (s.engine c 1).retired
    let idle := d == engDom c.val && s.noStage c && (s.engine c 0).still && (s.engine c 1).still
    !(s.core c).busy && (both || idle)
  | none =>
    if 93 ≤ d ∧ d ≤ 108 then s.portMode (Fin.ofNat 16 (d - 93)) == 0 || s.portMode (Fin.ofNat 16 (d - 93)) == 3
    else d == 110 && !(s.cxl 0).up && !(s.cxl 1).up

/-- An engine whose domain goes off (R154, R156): Fantail has asked it to stop at its pass boundary, its array is empty and it is quiet; the
operands that its cells hold are lost. -/
def Engine.domainOff (k : Engine) (cyc : Nat) : Engine :=
  { k with reqFan := true, reqCyc := cyc, quiet := true, loaded := none, loading := none, prom := [], loads := [], starts := [] }

/-- DOMAIN_SWITCH_OFF: contents are lost; the repairs that Atluta built stay. Fantail first requests pre-emption of the engines of an engine
domain (R154). With pd110 off the PERST# outputs of its ports are low. -/
def execDomainSwitchOff (d : DomainId) (s : State) : Out :=
  if s.pow.phase ≠ 5 ∨ s.domOn d.val = false ∨ s.mayOff d.val = false then .next s
  else
    let t := s.updPow fun p => { p with doms := kvPut d.val .off p.doms }
    match coreOfDom d.val with
    | some c =>
      let bare := fun k : Engine => ({ retired := k.retired, cause := k.cause, colRep := k.colRep, rowRep := k.rowRep, colFuse := k.colFuse,
                                       rowFuse := k.rowFuse, recur := k.recur } : Engine)
      if d.val = restDom c.val then
        .next (t.updCore c fun k => { eng := kvMap (fun _ e => bare e) k.eng, div := k.div, lastCyc := k.lastCyc })
      else
        let cyc := (s.core c).lastCyc
        .next ((t.updEngine c 0 fun x => x.domainOff cyc).updEngine c 1 fun x => x.domainOff cyc)
    | none =>
      if d.val = 110 then
        .next (((t.updPow fun p => { p with cxPerstAt := none }).updCxl 0 fun _ => {}).updCxl 1 fun _ => {})
      else .next t

/-! ## Bring-up (R516, R525, R526) -/

/-- Whether a context holds a job that runs rack-trusted (R488, R526). -/
def State.rackJob (s : State) : Bool :=
  s.ldr.fields.any fun f => f.inst.name == "JOB_LINK_MODE" && f.inst.value == [1] && (match f.ctx with
    | some x => (s.ctx x).loaded
    | none => false)

/-- Whether the work of the present phase is done. -/
def State.phaseDone (s : State) : Bool :=
  match s.pow.phase with
  | 0 => s.atl.running && s.pow.holdN && s.pow.pwrGood && s.pow.sysRstN
  | 1 => s.pow.pllLock && s.phaseOn
  | 2 => s.phaseOn && (List.range 8).all fun i => s.pow.trained.contains i
  | 3 => s.phaseOn && s.pow.discovered && !s.pow.stayReduced && !s.rackJob
  | 4 => s.phaseOn && allPorts.all fun p => (s.port p).state != .training && (s.port p).state != .retraining
  | _ => false

/-- Milliseconds from the start of the bring-up, in 20 bits. -/
def State.sinceStart (s : State) (at' : Nat) : Nat := min (2 ^ 20 - 1) ((at' - s.pow.startAt) / ms)

/-- NATIVE ports that run below the rate of phase 4 retrain (R397, R419 step 6). -/
def State.toFullRate (s : State) : State := allPorts.foldl (fun t p =>
  if t.portMode p = 1 ∧ (t.port p).state = .up ∧ (t.port p).rate < t.rateCap p then t.updPort p fun k => { k with state := .retraining } else t) s

/-- A pod coordinator sends its pod graph to the coordinators of the other pods (R419, step 6). -/
def State.sendGraph (s : State) : State :=
  let pods := match s.atl.manifest with
    | some m => ((m.pods.map Prod.snd).dedup).filter (· != s.podNo)
    | none => []
  if s.rcv.isCoord then s.emit ((pods.map s.coordOf).map fun d => .podGraph d s.fab.graph) else s

/-- BRINGUP_PHASE_END (R525, R526, R529): the next phase begins. In phase 3 FAULT_N is released unless a device-fatal fault is recorded;
the core dividers leave REDUCED with phase 4, in which ports retrain and coordinators exchange their pod graphs. -/
def execBringupPhaseEnd (at' : Nat) (s : State) : Out :=
  let t := (s.at' at').settle at'
  if t.pow.started = false ∨ t.phaseDone = false then .next t
  else match t.pow.phase with
    | 0 => .next t.enterPhase1
    | 1 => .next (t.updPow fun p => { p with phase := 2 })
    | 2 => .next (t.updPow fun p => { p with
        phase := 3, phase3Ms := s.sinceStart at'
        faultLow := t.evt.fatalLatched || t.fenced || t.evt.raised.any fun r => r.cls == .deviceFatal })
    | 3 => .next (t.updPow fun p => { p with phase := 4 }).setDividers.toFullRate.sendGraph
    | _ => .next ((t.updPow fun p =>
        let q : Power := { p with phase := 5, phase5Ms := s.sinceStart at', changedP := at', changedT := at', lastEval := at', evals := [] }
        { q with levelH := q.holdLevel }).setDividers)

/-- The bound of a phase, in ms (R525). -/
def phaseBound (n : Nat) : Nat := if n = 0 then 500 else if n = 1 then 1000 else if n = 2 then 30000 else if n = 3 then 31000 else 90000

/-- BRINGUP_SLOW (R525): a phase beyond its bound raises its fault once and continues; while HOLD_N holds phase 0 the bound does not
hold. -/
def execBringupSlow (at' : Nat) (s : State) : Out :=
  let t := s.at' at'
  let n := s.pow.phase
  if s.pow.started = false ∨ 5 ≤ n ∨ n ∈ s.pow.slow ∨ at' ≤ s.pow.startAt + phaseBound n * ms ∨ (n = 0 ∧ s.pow.holdN = false) then .next t
  else .next ((t.updPow fun p => { p with slow := n :: p.slow }).raiseDev .correctable 0x0A4 (unitNo 10 0) 0)

/-- HBM_TRAIN (R239, R525): a stack that trains has its retired frames set aside; the third failure of one raises HBM_TRAIN and holds
phase 2. -/
def execHbmTrain (st : StackId) (ok : Bool) (s : State) : Out :=
  let n := kvGet 0 st.val s.pow.attempts
  if s.pow.phase ≠ 2 ∨ s.pow.started = false ∨ s.domOn (65 + st.val) = false ∨ 3 ≤ n ∨ st.val ∈ s.pow.trained then .next s
  else if ok then
    let mine := s.atl.frameRetired.filter fun l => l.tier == .hbm && l.unit == st.val
    .next ((s.updPow fun p => { p with trained := st.val :: p.trained }).updTier fun t => { t with retired := t.retired ++ mine })
  else
    let t := s.updPow fun p => { p with attempts := kvPut st.val (n + 1) p.attempts }
    if n + 1 = 3 then
      .next ((t.updPow fun p => { p with failed := true, faultLow := true }).raiseDev .deviceFatal 0x0A3 (unitNo 5 st.val) 0)
    else .next t

/-- STAY_REDUCED (R526): a write of BU_CTL. -/
def execStayReduced (value : W64) (s : State) : Out := .next (s.updPow fun p => { p with stayReduced := value.getLsbD 0 })

/-! ## Power and temperature (R518 to R524) -/

/-- Samples in the averaging window: one every 10 µs. -/
def State.windowSamples (s : State) : Nat := max 1 (s.field "PWR_WINDOW_US" / 10)

/-- FANTAIL_SAMPLE (R518, R523): a sample of the monitors, and the sensors; THERM_N follows the condition of R523 outside full service. -/
def execFantailSample (p : PowerSample) (t : ThermalSample) (s : State) : Out :=
  if s.pow.phase = 0 then .next s
  else .next (s.updPow fun q => { q with samples := (p :: q.samples).take s.windowSamples, thermal := t })

/-- Any sensor at its throttling limit (R523). -/
def State.hot (s : State) : Bool :=
  (s.pow.thermal.junction.any fun v => s.field "TJ_THROTTLE" ≤ v) || s.pow.thermal.hbm.any (95 ≤ ·)
/-- Every sensor below the limits at which the thermal level may fall. -/
def State.cool (s : State) : Bool :=
  (s.pow.thermal.junction.all fun v => v + 5 < s.field "TJ_THROTTLE") && s.pow.thermal.hbm.all (· < 90)

/-- The sum of one quantity over the window. -/
def State.sumOf (s : State) (f : PowerSample → Nat) : Nat := s.pow.samples.foldl (fun a x => a + f x) 0
/-- The mean over the window, in W. -/
def State.meanOf (s : State) (f : PowerSample → Nat) : Nat := s.sumOf f / max 1 s.pow.samples.length
/-- Whether a mean exceeds a limit. -/
def State.meanAbove (s : State) (f : PowerSample → Nat) (limit : Nat) : Bool := limit * s.pow.samples.length < s.sumOf f
/-- Whether the package mean is below the limit less the hysteresis. -/
def State.meanBelow (s : State) : Bool :=
  s.sumOf (·.pkg) * 100 < s.field "PKG_POWER_LIMIT" * (100 - s.field "PWR_HYST_PCT") * s.pow.samples.length

/-- PWR_WINDOW_US in ns. -/
def State.windowNs (s : State) : Nat := s.field "PWR_WINDOW_US" * 1000

/-- A level moved by one (R518, R523): up while its condition holds, down once the lower condition has held for a whole window in which the
level has not changed. The second component is the instant of the last change. -/
def moveLevel (up down : Bool) (at' changed window level : Nat) : Nat × Nat :=
  if up then (if level < 2 then (level + 1, at') else (level, changed))
  else if down = true ∧ 0 < level ∧ changed + window ≤ at' then (level - 1, at')
  else (level, changed)

/-- A window count of R520: the start of the running count, and whether the fault is raised now. -/
def unmetCount (held : Bool) (at' window : Nat) (start : Option Nat) : Option Nat × Bool :=
  if held then
    match start with
    | none => (some at', false)
    | some t0 => if t0 + window ≤ at' then (some (t0 + window), true) else (some t0, false)
  else (none, false)

/-- The fault of R520 raised. -/
def State.raiseUnmet (s : State) (b : Bool) : State :=
  if b then s.raiseDev .correctable 0x0A1 (unitNo 10 0) 0 else s

/-- The levels after an evaluation (R518, R523), with the history that the falls need. -/
def State.evalLevels (s : State) (at' : Nat) : State :=
  let w := s.windowNs
  let e : Eval := { at' := at', pkg := s.meanOf (·.pkg), below := s.meanBelow, cool := s.cool }
  let hist := e :: (s.pow.evals.filter fun x => at' < x.at' + w)
  let a := moveLevel (s.meanAbove (·.pkg) (s.field "PKG_POWER_LIMIT")) (hist.all (·.below)) at' s.pow.changedP w s.pow.levelP
  let b := moveLevel s.hot (hist.all (·.cool)) at' s.pow.changedT w s.pow.levelT
  let us := (at' - s.pow.lastEval) / 1000
  let lv := s.level
  s.updPow fun p => { p with
    evals := hist, levelP := a.1, changedP := a.2, levelT := b.1, changedT := b.2, lastEval := at'
    usT1 := if lv = 1 then satAdd (2 ^ 32 - 1) p.usT1 us else p.usT1
    usT2 := if lv = 2 then satAdd (2 ^ 32 - 1) p.usT2 us else p.usT2 }

/-- The window counts after an evaluation (R520). -/
def State.evalUnmet (s : State) (at' : Nat) : State :=
  let w := s.windowNs
  let full := s.pow.phase == 5
  let pk := unmetCount (full && s.level == 2 && s.meanAbove (·.pkg) (s.field "PKG_POWER_LIMIT")) at' w s.pow.unmetPkg
  let cd := unmetCount (s.meanAbove (·.compute) 900) at' w s.pow.unmetCompute
  let fd := unmetCount (s.meanAbove (·.fabric) 230) at' w s.pow.unmetFabric
  let st := (List.range 8).map fun i => (i, unmetCount (s.meanAbove (fun x => x.hbm.getD i 0) 32) at' w (kvFind i s.pow.unmetStack))
  let t := s.updPow fun p => { p with
    unmetPkg := pk.1, unmetCompute := cd.1, unmetFabric := fd.1, unmetStack := st.filterMap fun x => x.2.1.map fun t0 => (x.1, t0) }
  st.foldl (fun u x => u.raiseUnmet x.2.2) (((t.raiseUnmet pk.2).raiseUnmet cd.2).raiseUnmet fd.2)

/-- FANTAIL_EVALUATE (R518, R520, R523): every 100 µs; the levels move in full service. -/
def execFantailEvaluate (at' : Nat) (s : State) : Out :=
  let t := s.at' at'
  if s.pow.phase = 0 ∨ s.pow.tripped = true ∨ at' < s.pow.lastEval + 100000 then .next t
  else
    let u := if s.pow.phase = 5 then t.evalLevels at' else t.updPow fun p => { p with lastEval := at' }
    .next ((u.evalUnmet at').updPow fun p => { p with thermLow := s.hot })

/-- HOLD_N_LOW (R521): before phase 1 bring-up waits; in full service its level is THROTTLE2. -/
def execHoldNLow (s : State) : Out :=
  .next (s.updPow fun p =>
    let q : Power := { p with holdN := false }
    { q with levelH := q.holdLevel })

/-- HOLD_N_HIGH (R521): its level returns at once to NOMINAL. -/
def execHoldNHigh (s : State) : Out := .next (s.updPow fun p => { p with holdN := true, levelH := 0 })

/-- DROOP_DETECT (R522): unit 0 to 31 a core, 32 to 39 a Weir slice, 40 to 47 a memory controller; each cycle lasts one or two root periods
longer. -/
def execDroopDetect (unit : Nat) (deep : Bool) (s : State) : Out :=
  if s.pow.phase = 0 ∨ 48 ≤ unit then .next s
  else .next (s.updPow fun p => { p with droops := kvPut unit (if deep then 2 else 1) p.droops })

/-- DROOP_END (R522): the stretch ends after 256 cycles above the threshold; `cycles` were stretched. -/
def execDroopEnd (unit : Nat) (cycles : Nat) (s : State) : Out :=
  match kvFind unit s.pow.droops with
  | none => .next s
  | some n =>
    if cycles < 256 then .next s
    else .next (s.updPow fun p => { p with
      droops := kvDel unit p.droops
      stretch1 := if n = 1 then satAdd (2 ^ 32 - 1) p.stretch1 cycles else p.stretch1
      stretch2 := if n = 1 then p.stretch2 else satAdd (2 ^ 32 - 1) p.stretch2 cycles })

/-- THERMAL_TRIP (R523, R524): at 115 °C or 105 °C the fault is raised and every engine is asked to stop at its pass boundary. -/
def execThermalTrip (s : State) : Out :=
  let over' := (s.pow.thermal.junction.any (115 ≤ ·)) || s.pow.thermal.hbm.any (105 ≤ ·)
  if s.pow.phase = 0 ∨ s.pow.tripped = true ∨ over' = false then .next s
  else
    let ask := fun k : Core => fun e : Engine => { e.unstart k.lastCyc with reqFan := true, reqCyc := k.lastCyc }
    let t := (List.finRange 32).foldl (fun u c => u.updCore c fun k =>
      { k with eng := kvPut 0 (ask k (kvGet {} 0 k.eng)) (kvPut 1 (ask k (kvGet {} 1 k.eng)) k.eng) }) s
    .next ((t.updPow fun p => { p with tripped := true, failed := true }).raiseDev .deviceFatal 0x0A2 (unitNo 10 0) 0)

/-- TRIP_POWER_OFF (R524): once every engine is quiet, or each core has counted 4,352 of its cycles, every domain but pd000 goes off;
FAULT_N and THERM_N are asserted. -/
def execTripPowerOff (cycles : Nat) (s : State) : Out :=
  let quiet := (List.finRange 32).all fun c => (s.engine c 0).still && (s.engine c 1).still
  if s.pow.tripped = false ∨ s.pow.started = false ∨ (quiet = false ∧ cycles < 4352) then .next s
  else .next (s.switchAllOff.updPow fun p => { p with thermLow := true, faultLow := true })

/-! ## JTAG (R529, R543) -/

/-- A JTAG instruction taken by the TAP in pd000. -/
def State.tap (s : State) (name : String) (out : List Nat) : State :=
  if s.pow.vaux then (s.updPow fun p => { p with jtag := name }).emit (out.map (Msg.tdo name)) else s

/-- An instruction that drives balls acts only while SYS_RST_N is low; else it acts as BYPASS. -/
def State.drive (s : State) (name : String) : State := if s.pow.sysRstN then s.tap "BYPASS" [0] else s.tap name []

/-- BYPASS: one bit, captured as 0. -/
def execBypass (s : State) : Out := .next (s.tap "BYPASS" [0])
/-- IDCODE. -/
def execIdcode (s : State) : Out := .next (s.tap "IDCODE" [0x10960C9D])
/-- SAMPLE/PRELOAD: the levels of the balls, of which the model knows those it keeps; the sample is a free value. -/
def execSamplePreload (s : State) : Out := .next (s.tick.tap "SAMPLE_PRELOAD" [Config.freeNat s.fresh])
/-- EXTEST. -/
def execExtest (s : State) : Out := .next (s.drive "EXTEST")
/-- EXTEST_PULSE. -/
def execExtestPulse (s : State) : Out := .next (s.drive "EXTEST_PULSE")
/-- EXTEST_TRAIN. -/
def execExtestTrain (s : State) : Out := .next (s.drive "EXTEST_TRAIN")
/-- HIGHZ: the outputs go to high impedance through a bypass register. -/
def execHighz (s : State) : Out := .next (s.tap "HIGHZ" [0])
/-- CLAMP. -/
def execClamp (s : State) : Out := .next (s.drive "CLAMP")

end Sys2Proof.Machine
end

