-- ==== Sys2Proof/Machine/Regs.lean ====
section
/-! DEFINITION. The registers of the control window: the 64-bit word that a read of each address gives, and what a write to each register
without a row of its own does (R15, R49, R77, R103, R131, R158, R192, R219, R220, R246, R280, R307, R347, R375, R429, R454, R476, R509,
R531, R554, R556 to R571). -/

namespace Sys2Proof.Machine

/-- A word from its fields: low bit, width and value. -/
def packWord (l : List (Nat × Nat × Nat)) : Nat := l.foldl (fun a x => a + fld x.1 x.2.1 x.2.2) 0

/-- Eight bytes of a memory as a word. -/
def word8 (m : List Host.Cell) (a : Nat) : Nat := leNat (memRead m a 8)

/-- A word's bytes put into a memory, of which `mask` may change. -/
def putWord8 (m : List Host.Cell) (a mask v : Nat) : List Host.Cell :=
  (List.range 8).foldl (fun x i =>
    if bits mask (8 * i + 7) (8 * i) = 0 then x else cellWrite (a + i) (BitVec.ofNat 8 (bits v (8 * i + 7) (8 * i))) x) m

/-- The four counters of R77 as a word, and from one. -/
def NumEvents.word (n : NumEvents) : Nat := packWord [(0, 16, n.nan), (16, 16, n.inf), (32, 16, n.i32), (48, 16, n.narrow)]
def numOf (w : Nat) : NumEvents := { nan := bits w 15 0, inf := bits w 31 16, i32 := bits w 47 32, narrow := bits w 63 48 }

/-! ## Atluta and recovery (R454, R509, R571) -/

/-- ROLE (R454). -/
def roleNo : RcvRole → Nat
  | .none => 0
  | .member => 1
  | .spare => 2
  | .takeover => 3
  | .fenced => 4
  | .released => 5

/-- BOOT_SEL (R478). -/
def bootNo : BootSel → Nat
  | .normal => 0
  | .fwRecovery => 1
  | .ownerEnrol => 2
  | .reserved => 3

/-- A register of a context's host ring (R509). -/
def Ctx.ringWord (c : Ctx) (k : Nat) : Nat :=
  if k = 0 then c.ringBase else if k = 1 then c.ringSize else if k = 2 then c.ringHead else c.ringTail

/-- Registers of the Atluta block. -/
def State.readAtluta (s : State) (a : Nat) : Nat :=
  let x := s.atl
  let r := s.rcv
  if 0x40 ≤ a ∧ a < 0x240 then (s.ctx (Fin.ofNat 16 ((a - 0x40) / 0x20))).ringWord (a % 0x20 / 8)
  else if 0x1000 ≤ a ∧ a < 0x2000 then word8 x.mboxBuf (a - 0x1000)
  else match a with
  | 0x8 => packWord [(1, 3, x.mboxResult)]
  | 0x10 => x.nonce
  | 0x18 => packWord [(0, 4, s.ctxNo), (4, 1, bit x.runCtx.isNone), (5, 4, (x.audit.map (·.val)).getD 0), (9, 1, bit x.audit.isSome),
      (10, 1, bit s.rack), (16, 16, (List.range 16).foldl (fun n i => n + fld i 1 (bit (s.ctx (Fin.ofNat 16 i)).loaded)) 0),
      (32, 16, x.scrubs)]
  | 0x20 => packWord [(0, 7, x.logHead), (32, 32, x.logErases)]
  | 0x28 => x.chainSeq
  | 0x30 => packWord [(0, 32, x.authFail), (32, 32, x.replayFail)]
  | 0x8000 => packWord [(0, 3, roleNo r.role), (3, 1, bit r.isCoord), (4, 1, bit r.isDeputy), (5, 1, bit r.isJobCoord),
      (6, 1, bit r.jobWait), (16, 16, (r.takeover.map (·.id)).getD 0), (32, 32, r.rollStep)]
  | 0x8008 => packWord [(0, 16, r.confirmUs), (16, 16, r.epochUs), (32, 32, r.takeoverMs)]
  | 0x8010 => packWord [(0, 16, r.epochs), (16, 16, r.takeovers), (32, 16, r.partnerUnits), (48, 16, r.restarts)]
  | 0xF000 => packWord [(0, 16, 0x1D7A), (16, 16, 0x0960), (32, 4, 1), (36, 1, bit s.fuses.isAS)]
  | 0xF008 => s.fuses.serial
  | 0xF010 =>
    let f := if x.running then x.slot x.runSlot else none
    packWord [(0, 32, (f.map (·.version)).getD 0), (32, 16, (f.map (·.svn)).getD 0), (48, 1, x.runSlot)]
  | 0xF018 => packWord [(0, 32, x.bootCount)]
  | _ => 0

/-! ## Fantail, clocks and straps (R531, R554) -/

/-- The highest of a list with its index; the lowest index among equals. -/
def highest (l : List Nat) : Nat × Nat :=
  l.zipIdx.foldl (fun a x => if a.1 < x.1 then x else a) (l.headD 0, 0)

/-- Bits of the domains that are ON among `n` from `lo` up. -/
def State.onBits (s : State) (lo n : Nat) : Nat := (List.range n).foldl (fun a i => a + fld i 1 (bit (s.domOn (lo + i)))) 0

/-- Registers of the Fantail block. -/
def State.readFantail (s : State) (a : Nat) : Nat :=
  let p := s.pow
  match a with
  | 0x00 => packWord [(0, 2, s.level), (2, 1, bit (p.levelP != 0)), (3, 1, bit (p.levelT != 0)), (4, 1, bit (p.phase == 5 && !p.holdN)),
      (5, 1, bit p.thermLow), (6, 1, bit p.pllLock)]
  | 0x08 => packWord [(0, 12, s.meanOf (·.pkg)), (12, 12, s.meanOf (·.compute)), (24, 12, s.meanOf (·.fabric)),
      (36, 12, (List.range 8).foldl (fun n i => n + s.meanOf (fun x => x.hbm.getD i 0)) 0)]
  | 0x10 =>
    let j := highest p.thermal.junction
    let h := highest p.thermal.hbm
    packWord [(0, 8, j.1), (8, 8, j.2), (16, 8, h.1), (24, 3, h.2)]
  | 0x18 => packWord [(0, 32, p.usT1), (32, 32, p.usT2)]
  | 0x20 => packWord [(0, 32, p.stretch1), (32, 32, p.stretch2)]
  | 0x30 => (List.finRange 32).foldl (fun n c => n + fld (2 * c.val) 2 (s.core c).div) 0
  | 0x40 => packWord [(0, 3, p.phase), (3, 1, bit ((p.phase == 0 && !p.holdN && s.atl.running) || (p.phase == 3 && (p.stayReduced || s.rackJob)))),
      (4, 1, bit p.failed), (5, 20, p.phase3Ms), (25, 20, p.phase5Ms), (45, 16, p.offAccess)]
  | 0x48 => bit p.stayReduced
  | 0x50 => s.onBits 0 64
  | 0x58 => s.onBits 64 48
  | 0x60 => packWord [(0, 6, p.tray.toNat), (6, 2, bootNo p.boot), (8, 1, bit s.fuses.isAS), (16, 1, bit p.holdN), (17, 1, bit p.perstN),
      (18, 1, bit (!p.faultLow)), (19, 1, bit (!p.thermLow))]
  | _ => 0

/-! ## The loader (R476) -/

/-- A bank register. -/
def State.bankWord (s : State) (n : Nat) (b : Option Bank) : Nat :=
  packWord [(0, 1, bit (s.bankOk b)), (1, 1, bit (s.ldr.fromBank == n)), (16, 48, if s.bankOk b then (b.map (·.seq)).getD 0 else 0)]

/-- Registers of the Mioxa loader. -/
def State.readLoader (s : State) (a : Nat) : Nat :=
  let l := s.ldr
  if 0x1000 ≤ a ∧ a < 0x2000 then word8 l.buf (a - 0x1000)
  else match a with
  | 0x00 => packWord [(0, 32, l.sel)]
  | 0x10 => packWord [(0, 1, bit l.busy), (1, 3, l.result), (16, 48, if s.isRoot then s.ctl.rootLast else 0)]
  | 0x28 => l.loadAddr
  | 0x30 => l.loadLen
  | 0x38 => packWord [(1, 3, l.loadResult)]
  | 0x40 => s.bankWord 1 l.bankA
  | 0x48 => s.bankWord 2 l.bankB
  | 0x50 => (l.image.map (·.buildId)).getD 0
  | _ => 0

/-! ## Fault records and the event unit (R560, R566, R567) -/

/-- CLASS (R560). -/
def classNo : FaultClass → Nat
  | .correctable => 0
  | .stepFatal => 1
  | .deviceFatal => 2
  | .event => 3

/-- The 64 bytes of a record, with its PHASE bit (R560). -/
def FaultRec.bytes (r : FaultRec) (phase : Bool) : List Byte :=
  let x := r.raised
  leBytes 2 (packWord [(0, 12, x.code), (12, 2, classNo x.cls)]) ++ leBytes 2 x.unit
    ++ leBytes 1 (packWord [(0, 4, (x.ctx.map (·.val)).getD 0), (4, 1, bit x.ctx.isSome)]) ++ leBytes 6 x.step ++ leBytes 2 r.device
    ++ leBytes 3 0 ++ leBytes 8 x.detail ++ leBytes 8 x.detail2 ++ leBytes 8 r.time ++ leBytes 8 r.seq
    ++ leBytes 15 0 ++ leBytes 1 (if phase then 128 else 0)

/-- Event queue `q`. -/
def State.evq (s : State) (q : Nat) : EvQueue := kvGet {} q s.evt.queues
/-- Event queue `q` changed. -/
def State.updEvq (s : State) (q : Nat) (f : EvQueue → EvQueue) : State :=
  s.updEvt fun e => { e with queues := kvPut q (f (kvGet {} q e.queues)) e.queues }
/-- MSI-X vector `v`. -/
def State.vec (s : State) (v : Nat) : Vec := kvGet {} v s.evt.vecs
/-- MSI-X vector `v` changed. -/
def State.updVec (s : State) (v : Nat) (f : Vec → Vec) : State :=
  s.updEvt fun e => { e with vecs := kvPut v (f (kvGet {} v e.vecs)) e.vecs }

/-- A register of an event queue. -/
def EvQueue.word (q : EvQueue) (k : Nat) : Nat :=
  match k with
  | 0x00 => q.base
  | 0x08 => q.log2
  | 0x10 => q.head
  | 0x18 => q.tail
  | 0x20 => packWord [(0, 1, bit q.enable), (1, 1, bit q.error), (16, 16, q.coal)]
  | 0x28 => q.lost
  | _ => 0

/-- Registers of the fault and event unit. -/
def State.readEvents (s : State) (a : Nat) : Nat :=
  let e := s.evt
  if 0x1000 ≤ a ∧ a < 0x1800 then (s.evq ((a - 0x1000) / 0x40)).word (a % 0x40)
  else if 0x10000 ≤ a ∧ a < 0x20000 then
    match kvFind ((a - 0x10000) / 64) e.log with
    | some r => leNat (((r.bytes false).drop (a % 64)).take 8)
    | none => 0
  else match a with
  | 0x00 => packWord [(0, 16, e.correctable), (16, 16, e.stepFatal), (32, 16, e.deviceFatal), (48, 1, bit e.fatalLatched)]
  | 0x08 => e.seq
  | 0x10 => e.accessErr
  | 0x18 => bit e.latched
  | _ => 0

/-- A counter of a stall array: of the copy while STALL_LATCH is set (R567, R569). -/
def State.stallWord (s : State) (live copy : KV Nat Nat) (i : Nat) : Nat := kvGet 0 i (if s.evt.latched then copy else live)

/-! ## Arbiter records (R220, R559) -/

/-- A register of an arbiter record. -/
def Arb.word (x : Arb) (k : Nat) : Nat :=
  match k with
  | 0x00 => packWord [(0, 8, x.owner.getD 0xFF), (8, 8, x.waiting.length), (16, 24, if x.owner.isSome then min (2 ^ 24 - 1) (x.lastCyc - x.since) else 0)]
  | 0x08 => x.flagged.foldl (fun n i => n + fld i 1 1) 0
  | 0x10 => packWord [(0, 40, x.waitSum), (40, 24, x.waits)]
  | 0x18 => packWord [(0, 24, x.waitMax), (24, 16, x.cuts)]
  | _ => 0

/-! ## Weir (R49, R77, R103, R347, R375) -/

/-- HEAD_PHASE (R49). A HALTED step, which the table does not list, shows VOTE: its word was the last thing sent (DESIGN CHOICE, log
entry 118). -/
def headPhase : StepState → Nat
  | .idle => 0
  | .gather => 1
  | .closed => 1
  | .vote => 2
  | .apply => 3
  | .seal => 4
  | .aborting => 5
  | .sealed => 0
  | .halted => 2

/-- LSTATE (R375). -/
def lstateNo : LState → Nat
  | .none => 0
  | .staged => 1
  | .barrier => 2
  | .moving => 3
  | .doneSent => 4

/-- The newest step with candidates, and the tiles without one for it. -/
def State.candStep (s : State) : Nat := s.weir.tiles.foldl (fun a x => max a (x.2.cand.getD 0)) 0
def State.tilesLeft (s : State) : Nat :=
  if s.candStep = 0 then 0 else (s.myTiles.filter fun x => (s.tile x.1 x.2).cand != some s.candStep).length

/-- Registers of the Weir block. -/
def State.readWeir (s : State) (a : Nat) : Nat :=
  let w := s.weir
  let c := s.ctl
  if 0x200 ≤ a ∧ a < 0x220 then
    let e := kvGet {} ((a - 0x200) / 8) w.ring
    let st := match e.state with
      | .empty => 0
      | .arriving => 1
      | .installed => 2
    packWord [(0, 48, e.version), (48, 3, e.wcSlot), (51, 3, e.ssSlot), (54, 2, st), (56, 1, bit e.skipped)]
  else if 0x300 ≤ a ∧ a < 0x330 then leNat ((w.param.drop (a - 0x300)).take 8)
  else if 0x400 ≤ a ∧ a < 0x500 then s.stallWord w.stall w.stallCopy ((a - 0x400) / 8)
  else if 0x1000 ≤ a ∧ a < 0x1000 + 56 * 0x20 then (s.arb (288 + (a - 0x1000) / 0x20)).word (a % 0x20)
  else match a with
  | 0x40 =>
    let opened := c.steps.filter fun x => c.sealed < x.1 && x.2.st != .idle && x.2.st != .sealed
    packWord [(0, 48, c.sealed), (48, 3, headPhase (s.stepOf (c.sealed + 1)).st), (51, 3, opened.length), (54, 1, bit c.lastSkipped),
      (55, 1, bit c.halted)]
  | 0x48 => packWord [(0, 48, c.admStep), (48, 4, c.slots.length)]
  | 0x50 => packWord [(0, 32, c.memEpoch), (32, 32, c.layEpoch)]
  | 0x60 =>
    let k := kvFind c.sealed w.scaleSets
    packWord [(0, 4, (k.map (·.backoff)).getD 0), (4, 16, (k.map (·.decay)).getD 0), (20, 16, w.consecSkips), (36, 16, w.clamps)]
  | 0x80 =>
    let d := s.digestOf (c.sealed + 1)
    let f := c.lastFlags
    packWord [(0, 8, min 0xFF d.pendingCmp.length), (8, 1, bit (d.repairing != [] || w.rebuilding != [])), (9, 1, bit f.nan),
      (10, 1, bit f.inf), (11, 1, bit f.sat), (12, 1, bit f.opt), (13, 2, c.lastDecision), (16, 48, c.lastDecided)]
  | 0x88 => packWord [(0, 16, w.wcRepairs), (16, 16, w.rowRepairs), (32, 16, w.rebuilds), (48, 16, w.replays)]
  | 0x90 => packWord [(0, 48, c.layout.target), (48, 3, lstateNo c.layout.lstate)]
  | 0x98 => packWord [(0, 32, c.layout.sentBytes / 2 ^ 20), (32, 32, c.layout.recvBytes / 2 ^ 20)]
  | 0x100 => packWord [(0, 16, w.nodes.length), (16, 1, bit (w.spilled != 0)), (17, 1, bit w.creditHeld), (32, 32, w.spilled)]
  | 0x108 => packWord [(0, 32, w.slices), (32, 16, w.crcResends), (48, 16, w.rejected)]
  | 0x110 => packWord [(0, 48, s.candStep), (48, 16, min 0xFFFF s.tilesLeft)]
  | 0x118 => w.faultLast
  | 0x120 => packWord [(0, 32, w.bcastTiles), (32, 16, w.bcastResends), (48, 16, w.checkRepairs)]
  | 0x128 => w.num.word
  | _ => 0

/-! ## Quern (R280, R307) -/

/-- Moves decided and not yet flipped at a Quern. -/
def State.movesPending (s : State) (q : QuernId) : Nat :=
  (s.rows.filter fun x => s.quernOf x.1.1 x.1.2 == q && (x.2.moving.isSome || x.2.pendClass.isSome || x.2.pendTier.isSome)).length

/-- The highest key of a list of sets. -/
def newest (l : List (Nat × GSet)) : Option (Nat × GSet) :=
  l.foldl (fun a x => match a with
    | some y => if y.1 < x.1 then some x else a
    | none => some x) none

/-- Registers of a Quern block. -/
def State.readQuern (s : State) (q : QuernId) (a : Nat) : Nat :=
  let k := s.quern q
  if 0x200 ≤ a ∧ a < 0x300 then s.stallWord k.stall k.stallCopy ((a - 0x200) / 8)
  else match a with
  | 0x00 => if 2 ≤ s.pow.phase then Config.dirBase q.val % 2 ^ 28 else 0
  | 0x08 => packWord [(0, 16, k.doneVersion), (16, 1, bit k.logHold), (32, 32, s.movesPending q)]
  | 0x10 => k.reads
  | 0x18 => packWord [(0, 32, k.sent), (32, 32, k.served)]
  | 0x20 => packWord [(0, 32, k.log.length), (32, 32, Config.logCapacity (s.field "QRN_LOG_SIZE" q.val))]
  | 0x28 => k.faultLast
  | 0x30 => k.faultIndex
  | 0x38 => packWord [(0, 16, k.promoted), (16, 16, k.demoted), (32, 16, k.replAdd), (48, 16, k.replDrop)]
  | 0x40 => packWord [(0, 32, k.versionWait), (32, 32, k.logWait)]
  | 0x48 => k.num.word
  | 0x100 =>
    let kept := ((newest (k.sets.filter fun x => x.2.retained)).map Prod.fst).getD 0
    packWord [(0, 3, if s.atl.runCtx.isSome then s.lag + 2 else 0), (3, 3, k.slotsUsed), (6, 1, bit (k.waiting != [])), (16, 48, kept)]
  | 0x108 =>
    let g := ((newest (k.sets.filter fun x => !x.2.retained)).map fun x => (x.2.bytes + 1023) / 1024).getD 0
    packWord [(0, 32, g), (32, 32, k.peakKib)]
  | 0x110 => packWord [(0, 32, k.contrib), (32, 16, k.satEntries), (48, 16, k.misroute)]
  | 0x118 => packWord [(0, 32, k.fullWait), (32, 32, k.replWait)]
  | 0x120 => k.applied
  | 0x128 => k.gristLast
  | _ => 0

/-! ## Cores and engines (R131, R158, R192, R219, R570) -/

/-- An entry of the dump in 16 bytes (R570). -/
def DumpEntry.bytes (x : DumpEntry) : List Byte :=
  leBytes 4 x.index ++ leBytes 6 x.step ++ leBytes 1 x.mb ++ leBytes 1 x.slot ++ leBytes 1 x.unmet ++ leBytes 1 x.opcode
    ++ leBytes 1 x.stream ++ leBytes 1 1

/-- Four block-map entries in a byte. -/
def mapBytes (m : List Nat) : List Byte :=
  (List.range 128).map fun i => BitVec.ofNat 8 ((List.range 4).foldl (fun a j => a + fld (2 * j) 2 (m.getD (4 * i + j) 0)) 0)

/-- The 4 KiB of a dump (R570). -/
def Dump.bytes (d : Dump) : List Byte :=
  let es := d.entries.flatMap (·.bytes)
  leBytes 4 1 ++ leBytes 6 d.step ++ leBytes 4 d.blocked ++ List.replicate 50 0
    ++ es.take 1024 ++ List.replicate (1024 - es.length) 0 ++ mapBytes d.blockMap
    ++ ((List.range 8).flatMap fun i => leBytes 4 (d.slots.getD i (0, 0)).1 ++ leBytes 4 (d.slots.getD i (0, 0)).2)
    ++ ((List.range 64).flatMap fun i => leBytes 2 (d.sync.getD i 0)) ++ List.replicate 2688 0

/-- Registers of an engine block; ENG_WORK and ENG_CLOSE count on while a pass runs or waits (R131). -/
def State.engineWord (s : State) (c : CoreId) (e : EngId) (a : Nat) : Nat :=
  let k := s.engine c e
  match a with
  | 0x00 =>
    let p := k.prev
    packWord [(0, 2, (p.map fun x => orientNo x.orient).getD 3), (2, 2, k.inArray.length), (4, 3, (p.map (·.tag)).getD 0),
      (7, 1, bit k.loading.isSome), (8, 1, bit ((p.map (·.closed)).getD false)), (9, 1, bit ((p.map (·.pair)).getD false)),
      (16, 48, min (2 ^ 48 - 1) k.started)]
  | 0x08 => k.elapsed
  | 0x10 => k.workWord (s.core c).lastCyc
  | 0x18 => s.closeWord c e
  | 0x28 =>
    let mode := if k.retired then 2 else if k.colRep.isSome || k.rowRep.isSome then 1 else 0
    packWord [(0, 2, mode), (2, 1, bit k.colRep.isSome), (3, 8, k.colRep.getD 0), (11, 1, bit k.rowRep.isSome), (12, 8, k.rowRep.getD 0),
      (20, 1, bit k.colFuse), (21, 1, bit k.rowFuse), (22, 2, k.cause), (32, 16, k.recur)]
  | 0x30 => packWord [(0, 16, k.mismatch), (16, 16, k.replayOk), (32, 16, k.unchecked)]
  | 0x38 => k.chkLast
  | 0x40 => packWord [(0, 1, bit k.reqHost), (1, 1, bit k.quiet), (16, 16, k.lastWait)]
  | _ => 0

/-- Units of the commands of a stream whose fetches have been queued beyond the unit last issued: of the oldest that has some. -/
def Front.ahead (f : Front) : Nat := ((f.running.find? fun x => x.issued < x.queued).map fun x => min 4 (x.queued - x.issued)).getD 0
/-- Free blocks of a stream's region. -/
def State.regionFree (s : State) (c : CoreId) (st : Stream) : Nat :=
  ((s.core c).lb.freeIn (s.regionBase c st) (s.regionSize c st)).length

/-- Registers of a core block. The regions and budgets are those of the running context, and read as 0 while none runs (R192). -/
def State.readCore (s : State) (c : CoreId) (a : Nat) : Nat :=
  let k := s.core c
  let waits := fun st : Stream => min 64 (k.feed.queue.filter fun x => x.stream == st && !x.departed).length
  let runs := fun n : Nat => if s.atl.runCtx.isSome then n else 0
  if 0x580 ≤ a ∧ a < 0x5A0 then (s.arb (256 + c.val)).word (a - 0x580)
  else if 0x600 ≤ a ∧ a < 0x700 then s.stallWord k.stall k.stallCopy ((a - 0x600) / 8)
  else if 0x1000 ≤ a ∧ a < 0x1200 then s.engineWord c (Fin.ofNat 2 ((a - 0x1000) / 0x100)) (a % 0x100)
  else if 0x2000 ≤ a ∧ a < 0x3000 then ((k.dump.map fun d => leNat (((d.bytes).drop (a - 0x2000)).take 8)).getD 0)
  else match a with
  | 0x00 => packWord [(0, 1, bit k.fHold), (1, 1, bit k.bHold), (2, 1, bit k.uHold)]
  | 0x08 => packWord [(0, 7, k.f.queue.length), (7, 7, k.b.queue.length), (14, 7, k.u.queue.length), (21, 6, k.deferred.length),
      (27, 16, k.promotions)]
  | 0x18 => packWord [(0, 32, k.blocked), (32, 1, bit k.fired), (33, 1, bit k.dump.isSome)]
  | 0x200 => runs (packWord [(0, 10, s.regionFree c .f), (10, 10, s.regionFree c .b), (20, 10, s.regionFree c .u),
      (30, 10, (k.lb.freeIn (s.poolBase c) (s.poolSize c)).length)])
  | 0x208 => packWord [(0, 16, k.lb.ce), (16, 16, k.lb.refetch)]
  | 0x300 => runs (packWord [(0, 10, k.lb.stash.foldl (fun n x => n + x.2.resident.length + x.2.inFlight.length + x.2.back.length) 0),
      (10, 1, bit (!(s.millRoom c))), (32, 32, k.lb.stash.foldl (fun n x => n + x.2.spilled.length) 0)])
  | 0x308 => runs (packWord [(0, 32, k.lb.reserves.foldl (fun n x => n + x.2.reserved) 0), (32, 32, s.millBudget c)])
  | 0x400 => k.num.word
  | 0x500 => packWord [(0, 7, waits .f), (7, 7, waits .b), (14, 7, waits .u), (21, 3, k.f.ahead), (24, 3, k.b.ahead), (27, 3, k.u.ahead)]
  | 0x508 => packWord [(0, 19, k.feed.levelRead), (19, 19, k.feed.levelWrite), (38, 19, k.feed.levelRemote)]
  | 0x510 => k.feed.bytesRead
  | 0x518 => k.feed.bytesWrite
  | 0x520 => k.feed.bytesRemote
  | 0x528 => if s.evt.latched then k.feed.wastedCopy else k.feed.wasted
  | 0x530 => packWord [(0, 32, k.feed.pfUsed), (32, 16, k.feed.pfDropped), (48, 16, k.feed.pfMerged)]
  | _ => 0

/-! ## The tier block (R246, R454, R559) -/

/-- A late counter as a word, and from one. -/
def Late.word (l : Late) : Nat := packWord [(0, 24, l.late), (24, 40, l.sum)]
def lateOf (w : Nat) : Late := { late := bits w 23 0, sum := bits w 63 24 }

/-- Bytes of unfolded journal records. -/
def Standby.journalBytes (b : Standby) : Nat := b.journal.foldl (fun n j => n + j.size) 0

/-- Registers of the tier block. -/
def State.readTier (s : State) (a : Nat) : Nat :=
  let t := s.tier
  let b := s.runC.standby
  let hbm := fun l : Loc => l.tier == .hbm && decide (l.unit < 6)
  let shut := (t.used.filter hbm).length + ((t.retired.filter hbm).filter fun l => !(t.used.contains l)).length
  if 0x400 ≤ a ∧ a < 0x500 then s.stallWord t.stall t.stallCopy ((a - 0x400) / 8)
  else if 0x1000 ≤ a ∧ a < 0x1000 + 256 * 0x20 then (s.arb ((a - 0x1000) / 0x20)).word (a % 0x20)
  else match a with
  | 0x00 =>
    let cxl := if (s.cxl 0).up || (s.cxl 1).up then 8388608 - (t.used.filter fun l => l.tier == .cxl).length else 0
    packWord [(0, 19, if 3 ≤ s.pow.phase then 294144 - shut else 0), (19, 24, cxl), (43, 4, t.migs.length), (47, 1, bit (t.migs.length == 8)),
      (48, 15, min 0x7FFF t.retired.length)]
  | 0x08 => packWord [(0, 32, t.moves), (32, 16, t.abandons), (48, 16, t.heldMax)]
  | 0x10 => t.lateHbm.word
  | 0x18 => t.lateCxl.word
  | 0x20 => t.lateRemote.word
  | 0x28 => packWord [(0, 16, (t.pages.filter fun p => p.2.state == .faulted).length), (16, 16, t.refills)]
  | 0x100 => packWord [(0, 48, (b.header.map (·.sealedStep)).getD 0), (48, 1, bit b.header.isSome), (49, 1, bit b.fullWait)]
  | 0x108 => packWord [(0, 32, b.journalBytes / 2 ^ 20), (32, 32, s.field "STBY_JOURNAL_SIZE" / 2 ^ 20)]
  | 0x110 => packWord [(0, 48, (b.header.map (·.baseStep)).getD 0)]
  | _ => 0

/-! ## Popor (R429) and the host block (R246, R556) -/

/-- STATE of a port (R429). -/
def portStateNo : PortState → Nat
  | .absent => 0
  | .training => 1
  | .up => 2
  | .retraining => 3
  | .down => 4
  | .held => 5

/-- Registers of the Popor blocks. -/
def State.readPopor (s : State) (a : Nat) : Nat :=
  let f := s.fab
  if a < 0x100000 then
    let p : PortId := Fin.ofNat 16 (a / 0x10000)
    let k := s.port p
    let cr := fun i => packWord [(0, 16, k.credits.getD i 0), (16, 16, k.credits.getD (i + 1) 0), (32, 16, k.credits.getD (i + 2) 0),
      (48, 16, k.credits.getD (i + 3) 0)]
    match a % 0x10000 with
    | 0x00 => packWord [(0, 2, s.portMode p), (2, 2, k.rate), (4, 1, bit k.half), (5, 3, portStateNo k.state), (8, 2, k.rev),
        (10, 1, bit (k.state == .up && !s.rack)), (16, 16, k.peerId), (32, 6, k.peerTray), (38, 4, k.peerPort)]
    | 0x08 => cr 0
    | 0x10 => cr 4
    | 0x18 => packWord [(0, 16, k.crcErr), (16, 16, k.naks), (32, 16, k.retrains), (48, 16, k.frameInvalid)]
    | 0x20 => packWord [(0, 16, k.rtt), (16, 11, k.retryPeak)]
    | 0x28 => k.tx
    | 0x30 => k.rx
    | _ => 0
  else match a with
  | 0x100000 => packWord [(0, 16, f.devId), (16, 16, f.boundId), (32, 6, s.pow.tray.toNat), (38, 10, f.pod), (48, 16, f.coord)]
  | 0x100008 => packWord [(0, 32, f.gen), (32, 16, f.noroute), (48, 16, f.hopDrops)]
  | 0x100010 => packWord [(0, 32, f.resends), (32, 16, f.ceEchoes), (48, 16, f.grantWaits)]
  | 0x100018 => packWord [(0, 32, f.hbSent), (32, 16, f.suspects)]
  | _ => 0

/-- A port register of pooled memory. -/
def CxlPort.word (k : CxlPort) : Nat :=
  packWord [(0, 1, bit k.up), (1, 2, k.gen), (3, 5, k.width), (8, 1, bit k.ide), (9, 1, bit k.downWait), (16, 16, k.poison),
    (32, 16, k.retrains)]

/-- Registers of the host block: the pooled-memory ports, the MSI-X table and the pending-bit array. -/
def State.readHost (s : State) (a : Nat) : Nat :=
  if a = 0x1000 then (s.cxl 0).word
  else if a = 0x2000 then (s.cxl 1).word
  else if 0x100000 ≤ a ∧ a < 0x108000 then
    let v := s.vec ((a - 0x100000) / 16)
    if a % 16 = 0 then v.addr else packWord [(0, 32, v.data), (32, 1, bit v.masked)]
  else if 0x110000 ≤ a ∧ a < 0x110100 then
    (List.range 64).foldl (fun n i => n + fld i 1 (bit (s.vec ((a - 0x110000) * 8 + i)).pend)) 0
  else 0

/-! ## The window (R556, R558) -/

/-- The power domain of the block at a control address; none where the window assigns nothing. -/
def addrDom (a : Nat) : Option Nat :=
  if a < 0x01000000 then some 0
  else if a < 0x02000000 then some 85
  else if a < 0x02C00000 then some (73 + (a - 0x02000000) / 0x100000)
  else if a < 0x04000000 then none
  else if a < 0x08000000 then some (2 * ((a - 0x04000000) / 0x200000) + 2)
  else if a < 0x09000000 then some 65
  else if a < 0x09100000 then some (93 + (a - 0x09000000) / 0x10000)
  else if a < 0x0A000000 then some 85
  else if a < 0x0B000000 then some 109
  else if a < 0x0F000000 then none
  else if a < 0x10000000 then some 111
  else none

/-- The 64-bit word at an aligned control address; reserved addresses, and trace and debug, read as 0. -/
def State.regRead (s : State) (a : Nat) : Nat :=
  if a < 0x00100000 then s.readAtluta a
  else if a < 0x00200000 then s.readFantail (a - 0x00100000)
  else if a < 0x00400000 then s.readLoader (a - 0x00200000)
  else if a < 0x01000000 then s.readEvents (a - 0x00400000)
  else if a < 0x02000000 then s.readWeir (a - 0x01000000)
  else if a < 0x02C00000 then s.readQuern (Fin.ofNat 12 ((a - 0x02000000) / 0x100000)) (a % 0x100000)
  else if a < 0x04000000 then 0
  else if a < 0x08000000 then s.readCore (Fin.ofNat 32 ((a - 0x04000000) / 0x200000)) (a % 0x200000)
  else if a < 0x09000000 then s.readTier (a - 0x08000000)
  else if a < 0x0A000000 then s.readPopor (a - 0x09000000)
  else if a < 0x0B000000 then s.readHost (a - 0x0A000000)
  else 0

/-! ## Writes (R15, R557): `w` is the word with the written bits merged into what the register reads, `v` the written bits alone -/

/-- The state of a command's outcome. -/
def outState (s : State) (o : Out) : State := match o with
  | .next t => t
  | _ => s

/-- LOCKED_WRITE at a control address (R15). -/
def State.lockedWrite (s : State) (a : Nat) : State := s.raiseDev .correctable 0x094 (unitNo 0 0) a

/-- The value in MIOXA_FIELD_BUF, as the elements of the selected field. -/
def State.bufValue (s : State) (index : Nat) : List Nat :=
  match s.ldr.fields[index]? with
  | none => []
  | some f =>
    let n := max 1 f.inst.value.length
    let w := f.inst.len / n
    (List.range n).map fun i => leNat (memRead s.ldr.buf (i * w) w)

/-- A write of MIOXA_FIELD_CTL: the operations of R469 to R472. -/
def State.fieldCtl (s : State) (v : Nat) : State :=
  let i := s.ldr.sel
  match bits v 2 0 with
  | 1 => outState s (execFieldRead i s)
  | 2 => outState s (execFieldWrite i ⟨s.bufValue i, s.now⟩ s)
  | 3 => outState s (execWriteStep i (bits v 63 16) (s.bufValue i) s)
  | _ => s

/-- A write of ATL_MBOX_CMD: the commands whose operands the register holds; a reserved value is refused. The others take their body from
ATL_MBOX_BUF, in a layout that the spec does not give, and come as commands of their own. -/
def State.mailboxCtl (s : State) (v : Nat) : State :=
  let c : CtxId := Fin.ofNat 16 (bits v 11 8)
  let t := bits v 63 16
  match bits v 7 0 with
  | 0x01 => outState s (execJobStart c s)
  | 0x02 => outState s (execJobStop c s)
  | 0x04 => outState s (execJobResume c s)
  | 0x05 => outState s (execSnapshot c t s)
  | 0x0F => outState s (execContextReady c s)
  | n => if n = 0 ∨ 0x15 < n then s.mbox 2 else s

/-- Writes to the Atluta block. -/
def State.writeAtluta (s : State) (a mask w v : Nat) : State :=
  if a = 0 then (if s.atl.running then s.mailboxCtl v else s)
  else if 0x40 ≤ a ∧ a < 0x240 then
    let c : CtxId := Fin.ofNat 16 ((a - 0x40) / 0x20)
    match a % 0x20 / 8 with
    | 0 => s.updCtx c fun x => { x with ringBase := w }
    | 1 => s.updCtx c fun x => { x with ringSize := w }
    | 3 => outState s (execDiffRingTail c (BitVec.ofNat 64 w) s)
    | _ => s
  else if 0x1000 ≤ a ∧ a < 0x2000 then s.updAtl fun x => { x with mboxBuf := putWord8 x.mboxBuf (a - 0x1000) mask v }
  else match a with
  | 0x18 => s.updAtl fun x => { x with scrubs := bits w 47 32 }
  | 0x30 => s.updAtl fun x => { x with authFail := bits w 31 0, replayFail := bits w 63 32 }
  | 0x8010 => s.updRcv fun r => { r with
      epochs := bits w 15 0, takeovers := bits w 31 16, partnerUnits := bits w 47 32, restarts := bits w 63 48 }
  | _ => s

/-- Writes to the Fantail block. -/
def State.writeFantail (s : State) (a w : Nat) : State :=
  match a with
  | 0x18 => s.updPow fun p => { p with usT1 := bits w 31 0, usT2 := bits w 63 32 }
  | 0x20 => s.updPow fun p => { p with stretch1 := bits w 31 0, stretch2 := bits w 63 32 }
  | 0x40 => s.updPow fun p => { p with offAccess := bits w 60 45 }
  | 0x48 => s.updPow fun p => { p with stayReduced := w % 2 == 1 }
  | _ => s

/-- Writes to the loader block. -/
def State.writeLoader (s : State) (a mask w v : Nat) : State :=
  if 0x1000 ≤ a ∧ a < 0x2000 then s.updLdr fun l => { l with buf := putWord8 l.buf (a - 0x1000) mask v }
  else match a with
  | 0x00 => s.updLdr fun l => { l with sel := bits w 31 0 }
  | 0x08 => s.fieldCtl v
  | 0x28 => s.updLdr fun l => { l with loadAddr := w }
  | 0x30 => s.updLdr fun l => { l with loadLen := w }
  | _ => s

/-- EVQ_CTL of a queue (R567): enabling sets HEAD and TAIL to 0; ERROR is cleared by a 1. -/
def EvQueue.ctl (q : EvQueue) (w v : Nat) : EvQueue :=
  let on := w % 2 == 1
  let fresh' := on && !q.enable
  { q with
    enable := on, error := q.error && bits v 1 1 == 0, coal := bits w 31 16
    head := if fresh' then 0 else q.head, tail := if fresh' then 0 else q.tail, wraps := if fresh' then 0 else q.wraps }

/-- EVQ_TAIL of a queue (R567): a value of 2^LOG2 or more sets ERROR and disables the queue. -/
def EvQueue.putTail (q : EvQueue) (w : Nat) : EvQueue :=
  let n := bits w 15 0
  if 2 ^ q.log2 ≤ n then { q with error := true, enable := false } else { q with tail := n }

/-- A write to a register of event queue `n`. -/
def State.writeEvq (s : State) (n a w v : Nat) : State :=
  let q := s.evq n
  let at' := 0x00401000 + n * 0x40 + a
  match a with
  | 0x00 => if q.enable then s.lockedWrite at' else s.updEvq n fun x => { x with base := w / 4096 * 4096 }
  | 0x08 =>
    let k := bits w 4 0
    if q.enable then s.lockedWrite at' else if 6 ≤ k ∧ k ≤ 16 then s.updEvq n fun x => { x with log2 := k } else s
  | 0x18 => s.updEvq n fun x => x.putTail w
  | 0x20 => s.updEvq n fun x => x.ctl w v
  | 0x28 => s.updEvq n fun x => { x with lost := bits w 31 0 }
  | _ => s

/-- Every stall array and every SLUICE_WASTED copied in one control cycle, or the copies released (R567, R569). -/
def State.latch (s : State) (on : Bool) : State :=
  if on then
    let a : State := { s with
      cores := s.cores.map fun k => (k.1, { k.2 with stallCopy := k.2.stall, feed := { k.2.feed with wastedCopy := k.2.feed.wasted } })
      querns := s.querns.map fun q => (q.1, { q.2 with stallCopy := q.2.stall }) }
    ((a.updWeir fun w => { w with stallCopy := w.stall }).updTier fun t => { t with stallCopy := t.stall }).updEvt fun e =>
      { e with latched := true }
  else s.updEvt fun e => { e with latched := false }

/-- Writes to the fault and event unit. -/
def State.writeEvents (s : State) (a mask w v : Nat) : State :=
  if 0x1000 ≤ a ∧ a < 0x1800 then s.writeEvq ((a - 0x1000) / 0x40) (a % 0x40) w v
  else match a with
  | 0x00 => s.updEvt fun e => { e with correctable := bits w 15 0, stepFatal := bits w 31 16 }
  | 0x10 => s.updEvt fun e => { e with accessErr := bits w 31 0 }
  | 0x18 => if mask % 2 = 1 then s.latch (w % 2 == 1) else s
  | _ => s

/-- A write to an arbiter record: flags are cleared by ones. -/
def Arb.put (x : Arb) (k w v : Nat) : Arb :=
  match k with
  | 0x08 => { x with flagged := x.flagged.filter fun i => bits v i i == 0 }
  | 0x10 => { x with waitSum := bits w 39 0, waits := bits w 63 40 }
  | 0x18 => { x with waitMax := bits w 23 0, cuts := bits w 39 24 }
  | _ => x

/-- Writes to the Weir block. -/
def State.writeWeir (s : State) (a w v : Nat) : State :=
  if 0x1000 ≤ a ∧ a < 0x1000 + 56 * 0x20 then s.updArb (288 + (a - 0x1000) / 0x20) fun x => x.put (a % 0x20) w v
  else match a with
  | 0x88 => s.updWeir fun x => { x with
      wcRepairs := bits w 15 0, rowRepairs := bits w 31 16, rebuilds := bits w 47 32, replays := bits w 63 48 }
  | 0x108 => s.updWeir fun x => { x with slices := bits w 31 0, crcResends := bits w 47 32, rejected := bits w 63 48 }
  | 0x120 => s.updWeir fun x => { x with bcastTiles := bits w 31 0, bcastResends := bits w 47 32, checkRepairs := bits w 63 48 }
  | 0x128 => s.updWeir fun x => { x with num := numOf w }
  | _ => s

/-- Writes to a Quern block. -/
def State.writeQuern (s : State) (q : QuernId) (a w : Nat) : State :=
  s.updQuern q fun k => match a with
  | 0x10 => { k with reads := w }
  | 0x18 => { k with sent := bits w 31 0, served := bits w 63 32 }
  | 0x38 => { k with promoted := bits w 15 0, demoted := bits w 31 16, replAdd := bits w 47 32, replDrop := bits w 63 48 }
  | 0x40 => { k with versionWait := bits w 31 0, logWait := bits w 63 32 }
  | 0x48 => { k with num := numOf w }
  | 0x108 => { k with peakKib := bits w 63 32 }
  | 0x110 => { k with contrib := bits w 31 0, satEntries := bits w 47 32, misroute := bits w 63 48 }
  | 0x118 => { k with fullWait := bits w 31 0, replWait := bits w 63 32 }
  | 0x120 => { k with applied := w }
  | _ => k

/-- Writes to an engine block. -/
def State.writeEngine (s : State) (c : CoreId) (e : EngId) (a mask w v : Nat) : State :=
  let cyc := (s.core c).lastCyc
  match a with
  | 0x20 => outState s (execEngCtrClear c e (BitVec.ofNat 64 v) s)
  | 0x30 => s.updEngine c e fun k => { k with mismatch := bits w 15 0, replayOk := bits w 31 16, unchecked := bits w 47 32 }
  | 0x40 =>
    if mask % 2 = 0 then s
    else if w % 2 = 1 then outState s (execEngPreemptReq c e cyc s)
    else outState s (execEngPreemptWithdraw c e cyc s)
  | _ => s

/-- Writes to a core block. -/
def State.writeCore (s : State) (c : CoreId) (a mask w v : Nat) : State :=
  if 0x580 ≤ a ∧ a < 0x5A0 then s.updArb (256 + c.val) fun x => x.put (a - 0x580) w v
  else if 0x1000 ≤ a ∧ a < 0x1200 then s.writeEngine c (Fin.ofNat 2 ((a - 0x1000) / 0x100)) (a % 0x100) mask w v
  else
    let feed := fun f : Feed → Feed => s.updCore c fun k => { k with feed := f k.feed }
    match a with
    | 0x00 => outState s (execGovStreamCtl c (BitVec.ofNat 64 w) s)
    | 0x08 => s.updCore c fun k => { k with promotions := bits w 42 27 }
    | 0x18 => outState s (execDumpValid c (BitVec.ofNat 64 v) s)
    | 0x208 => s.updCore c fun k => { k with lb := { k.lb with ce := bits w 15 0, refetch := bits w 31 16 } }
    | 0x400 => s.updCore c fun k => { k with num := numOf w }
    | 0x510 => feed fun x => { x with bytesRead := w }
    | 0x518 => feed fun x => { x with bytesWrite := w }
    | 0x520 => feed fun x => { x with bytesRemote := w }
    | 0x528 => feed fun x => { x with wasted := w }
    | 0x530 => feed fun x => { x with pfUsed := bits w 31 0, pfDropped := bits w 47 32, pfMerged := bits w 63 48 }
    | _ => s

/-- Writes to the tier block. -/
def State.writeTier (s : State) (a w v : Nat) : State :=
  if 0x1000 ≤ a ∧ a < 0x1000 + 256 * 0x20 then s.updArb ((a - 0x1000) / 0x20) fun x => x.put (a % 0x20) w v
  else match a with
  | 0x08 => s.updTier fun t => { t with moves := bits w 31 0, abandons := bits w 47 32, heldMax := bits w 63 48 }
  | 0x10 => s.updTier fun t => { t with lateHbm := lateOf w }
  | 0x18 => s.updTier fun t => { t with lateCxl := lateOf w }
  | 0x20 => s.updTier fun t => { t with lateRemote := lateOf w }
  | 0x28 => s.updTier fun t => { t with refills := bits w 31 16 }
  | 0x30 => outState s (execTierRefillDone (BitVec.ofNat 64 v) s)
  | _ => s

/-- Writes to the Popor blocks. -/
def State.writePopor (s : State) (a w : Nat) : State :=
  if a < 0x100000 then
    s.updPort (Fin.ofNat 16 (a / 0x10000)) fun k => match a % 0x10000 with
    | 0x18 => { k with crcErr := bits w 15 0, naks := bits w 31 16, retrains := bits w 47 32, frameInvalid := bits w 63 48 }
    | 0x20 => { k with retryPeak := bits w 26 16 }
    | 0x28 => { k with tx := w }
    | 0x30 => { k with rx := w }
    | _ => k
  else match a with
  | 0x100008 => s.updFab fun f => { f with noroute := bits w 47 32, hopDrops := bits w 63 48 }
  | 0x100010 => s.updFab fun f => { f with resends := bits w 31 0, ceEchoes := bits w 47 32, grantWaits := bits w 63 48 }
  | 0x100018 => s.updFab fun f => { f with suspects := bits w 47 32 }
  | _ => s

/-- A vector unmasked (R565): a pending message is sent, and a coalescing interval of its queue begins. -/
def State.unmask (s : State) (n : Nat) : State :=
  let x := s.vec n
  let t := s.updVec n fun y => { y with masked := false }
  if x.pend = true ∧ x.busy = false ∧ s.pow.hostUp = true then
    (t.updVec n fun y => { y with pend := false, busy := (s.evq (n / 64)).coal != 0 }).emit [.msix n]
  else t

/-- Writes to the host block: counters of the pooled-memory ports, and the MSI-X table. -/
def State.writeHost (s : State) (a w : Nat) : State :=
  if a = 0x1000 then s.updCxl 0 fun k => { k with poison := bits w 31 16, retrains := bits w 47 32 }
  else if a = 0x2000 then s.updCxl 1 fun k => { k with poison := bits w 31 16, retrains := bits w 47 32 }
  else if 0x100000 ≤ a ∧ a < 0x108000 then
    let n := (a - 0x100000) / 16
    if a % 16 = 0 then s.updVec n fun x => { x with addr := w }
    else
      let t := s.updVec n fun x => { x with data := bits w 31 0, masked := true }
      if bits w 32 32 = 1 then t else t.unmask n
  else s

/-- A write of `value` under `mask` to the register at an aligned control address. -/
def State.regWrite (s : State) (a mask value : Nat) : State :=
  let v := value &&& mask
  let w := (s.regRead a &&& (2 ^ 64 - 1 - mask)) ||| v
  if a < 0x00100000 then s.writeAtluta a mask w v
  else if a < 0x00200000 then s.writeFantail (a - 0x00100000) w
  else if a < 0x00400000 then s.writeLoader (a - 0x00200000) mask w v
  else if a < 0x01000000 then s.writeEvents (a - 0x00400000) mask w v
  else if a < 0x02000000 then s.writeWeir (a - 0x01000000) w v
  else if a < 0x02C00000 then s.writeQuern (Fin.ofNat 12 ((a - 0x02000000) / 0x100000)) (a % 0x100000) w
  else if a < 0x04000000 then s
  else if a < 0x08000000 then s.writeCore (Fin.ofNat 32 ((a - 0x04000000) / 0x200000)) (a % 0x200000) mask w v
  else if a < 0x09000000 then s.writeTier (a - 0x08000000) w v
  else if a < 0x0A000000 then s.writePopor (a - 0x09000000) w
  else if a < 0x0B000000 then s.writeHost (a - 0x0A000000) w
  else s

end Sys2Proof.Machine
end

