-- ==== Sys2Proof/Machine/Control.lean ====
section
/-! DEFINITION. The control window and the fault and event unit: accesses of host software and relayed ones, fault records, event queues and
MSI-X (R404, R435, R517, R555 to R572). -/

namespace Sys2Proof.Machine

/-! ## Accesses (R517, R556 to R558) -/

/-- Whether an access is a naturally aligned one of 32 or 64 bits inside the window. -/
def accessOk (addr size : Nat) : Bool := (size == 4 || size == 8) && addr % size == 0

/-- Whether the block of an address has its domain OFF. -/
def State.addrOff (s : State) (addr : Nat) : Bool := match addrDom addr with
  | some d => !(s.domOn d)
  | none => false

/-- One more in EVT_ACCESS. -/
def State.countAccess (s : State) : State := s.updEvt fun e => { e with accessErr := satAdd (2 ^ 32 - 1) e.accessErr 1 }
/-- One more in BU_STATUS.OFF_ACCESS. -/
def State.countOff (s : State) : State := s.updPow fun p => { p with offAccess := satAdd 0xFFFF p.offAccess 1 }

/-- The bits of a 64-bit register that an access covers. -/
def accessMask (addr size : Nat) : Nat := if size = 8 then 2 ^ 64 - 1 else if addr % 8 = 0 then 2 ^ 32 - 1 else 2 ^ 64 - 2 ^ 32

/-- A write access: of another size or unaligned, to a block that is OFF, or to its register. -/
def State.writeAccess (s : State) (addr size value : Nat) : State :=
  if accessOk addr size = false then s.countAccess
  else if s.addrOff addr then s.countOff
  else
    let v := if size = 4 ∧ addr % 8 = 4 then value % 2 ^ 32 * 2 ^ 32 else value
    s.regWrite (addr / 8 * 8) (accessMask addr size) v

/-- What a read access gives, and what it counts. -/
def State.readAccess (s : State) (addr size : Nat) : State × Nat :=
  if accessOk addr size = false then (s.countAccess, 0)
  else if s.addrOff addr then (s.countOff, 2 ^ (8 * size) - 1)
  else
    let w := s.regRead (addr / 8 * 8)
    (s, if size = 8 then w else if addr % 8 = 0 then w % 2 ^ 32 else w / 2 ^ 32)

/-- ACCESS_ERR (R557): completes normally; a read returns 0, a write has no effect; it is counted. -/
def execAccessErr (write : Bool) (addr : Nat) (size : Nat) (_value : W64) (s : State) : Out :=
  if s.pow.hostUp = false ∨ accessOk addr size = true then .next s
  else .next (if write then s.countAccess else s.countAccess.emit [.readData 0])

/-- OFF_ACCESS (R517): a read gives all ones, a write is dropped; it is counted. -/
def execOffAccess (write : Bool) (addr : Nat) (_value : W64) (s : State) : Out :=
  if s.pow.hostUp = false ∨ s.addrOff addr = false then .next s
  else .next (if write then s.countOff else s.countOff.emit [.readData (BitVec.allOnes 64)])

/-- REGISTER_WRITE (R15, R557, R558): a write by host software takes effect under the register's access code. -/
def execRegisterWrite (addr : Nat) (size : Nat) (value : W64) (s : State) : Out :=
  .next (if s.pow.hostUp then s.writeAccess addr size value.toNat else s)

/-- CTL_REQ (R404, R485): a 64-bit control access relayed by Atluta, answered by CTL_RSP. A first payload byte of 0x01 carries an SPDM
message, which comes as a command of its own. -/
def execCtlReq (f : Frame) (write : Bool) (addr : Nat) (value : W64) (s : State) : Out :=
  let r := s.admitFrame f
  if r.2 = false ∨ s.atl.running = false ∨ f.payload.headD 0 = 1 then .next r.1
  else if write then .next ((r.1.writeAccess addr 8 value.toNat).emit [.ctlRsp f.src f.tag 0])
  else
    let x := r.1.readAccess addr 8
    .next (x.1.emit [.ctlRsp f.src f.tag (BitVec.ofNat 64 x.2)])

/-! ## Fault records (R435, R560, R562, R564 to R566) -/

/-- The queue of a record (R564). -/
def State.queueFor (s : State) (r : FaultRec) : Nat := match r.raised.ctx with
  | none => 0
  | some c => if (s.evq (c.val + 1)).enable then c.val + 1 else 0

/-- Whether a queue takes one more record. -/
def EvQueue.takes (q : EvQueue) : Bool := q.enable && (q.head + 1) % 2 ^ q.log2 != q.tail

/-- A vector raised (R565): sent at once, or pending while it is masked or its interval runs. -/
def State.raiseVec (s : State) (n coal : Nat) : State :=
  let x := s.vec n
  if x.masked ∨ x.busy then s.updVec n fun y => { y with pend := true }
  else (s.updVec n fun y => { y with busy := coal != 0 }).emit [.msix n]

/-- A record written into its event queue with its PHASE bit, and its vector raised after it; else it is counted as lost. -/
def State.queueRecord (s : State) (r : FaultRec) : State :=
  let n := s.queueFor r
  let q := s.evq n
  if q.takes = true ∧ s.pow.hostUp = true then
    let next := (q.head + 1) % 2 ^ q.log2
    let t := s.emit [.evq (q.base + 64 * q.head) r (q.wraps % 2 == 1)]
    let u := t.updEvq n fun x => { x with head := next, wraps := if next = 0 then x.wraps + 1 else x.wraps }
    u.raiseVec (64 * n + 16 * classNo r.raised.cls + r.raised.unit / 2048) q.coal
  else s.updEvq n fun x => { x with lost := satAdd (2 ^ 32 - 1) x.lost 1 }

/-- Counters of R567 after a record of a class. -/
def EventUnit.count (e : EventUnit) : FaultClass → EventUnit
  | .correctable => { e with correctable := satAdd 0xFFFF e.correctable 1 }
  | .stepFatal => { e with stepFatal := satAdd 0xFFFF e.stepFatal 1 }
  | .deviceFatal => { e with deviceFatal := satAdd 0xFFFF e.deviceFatal 1, fatalLatched := true }
  | .event => e

/-- The record of a raised condition: SEQ counts from 1, TIME in Atluta cycles of 4 ns. -/
def State.recordOf (s : State) (r : Raised) : FaultRec :=
  { raised := r, device := s.fab.devId, time := s.now / 4, seq := s.evt.seq + 1 }

/-- What a device-fatal record does besides (R433, R435, R562): FAULT_N low, the device fenced, and a FAILED report to its coordinator. -/
def State.deviceFatal (s : State) : State :=
  let t := (s.updPow fun p => { p with faultLow := true }).fence .fenced true
  if s.fab.coord = 0 then t else t.emit [.failed s.fab.coord]

/-- A record written: on-die log, counters, event queue. -/
def State.putRecord (s : State) (r : FaultRec) : State :=
  (s.updEvt fun e => ({ e with seq := r.seq, log := kvPut (r.seq % 1024) r e.log } : EventUnit).count r.raised.cls).queueRecord r

/-- FAULT_RECORD (R560, R562, R564 to R566): the oldest raised condition is recorded. -/
def execFaultRecord (at' : Nat) (s : State) : Out :=
  match s.evt.raised with
  | [] => .next s
  | x :: l =>
    if s.pow.vaux = false then .next s
    else
      let t := (s.at' at').updEvt fun e => { e with raised := l }
      let u := t.putRecord (t.recordOf x)
      .next (if x.cls = .deviceFatal then u.deviceFatal else u)

/-- COALESCE_EXPIRY (R565): at the end of an interval a pending message is sent, and the next interval begins. -/
def execCoalesceExpiry (vector : Nat) (s : State) : Out :=
  let x := s.vec vector
  if x.busy = false then .next s
  else if x.pend = true ∧ x.masked = false ∧ s.pow.hostUp = true then
    .next ((s.updVec vector fun y => { y with pend := false, busy := (s.evq (vector / 64)).coal != 0 }).emit [.msix vector])
  else .next (s.updVec vector fun y => { y with busy := false })

/-- VECTOR_UNMASK (R565). -/
def execVectorUnmask (vector : Nat) (s : State) : Out :=
  .next (if s.pow.hostUp = true ∧ vector < 2048 then s.unmask vector else s)

/-- EVQ_CTL (R567). -/
def execEvqCtl (q : QueueId) (value : W64) (s : State) : Out :=
  .next (if s.pow.hostUp then s.updEvq q.val fun x => x.ctl value.toNat value.toNat else s)

/-- EVQ_TAIL (R567, R572). -/
def execEvqTail (q : QueueId) (value : W64) (s : State) : Out :=
  .next (if s.pow.hostUp then s.updEvq q.val fun x => x.putTail value.toNat else s)

/-- STALL_LATCH (R567, R569). -/
def execStallLatch (value : W64) (s : State) : Out :=
  .next (if s.pow.hostUp then s.latch (value.getLsbD 0) else s)

end Sys2Proof.Machine
end

