-- ==== Sys2Proof/Machine/Dispatch.lean ====
section
/-! DEFINITION. The dispatch of every command to its meaning: one arm per constructor of Instr. -/

namespace Sys2Proof.Machine

/-- The effect of a command on everything but the queue. -/
def exec (i : Instr) (s : State) : Host.Outcome State Fault Refusal :=
  match i with
  | .mbAdmit x1 => Sys2Proof.Machine.execMbAdmit x1 s
  | .slotRelease x1 => Sys2Proof.Machine.execSlotRelease x1 s
  | .gatherClose x1 => Sys2Proof.Machine.execGatherClose x1 s
  | .finitenessScreen x1 x2 => Sys2Proof.Machine.execFinitenessScreen x1 x2 s
  | .qrnLogReserve x1 x2 => Sys2Proof.Machine.execQrnLogReserve x1 x2 s
  | .voteSend x1 => Sys2Proof.Machine.execVoteSend x1 s
  | .vote x1 => Sys2Proof.Machine.execVote x1 s
  | .voteMirrorStore x1 => Sys2Proof.Machine.execVoteMirrorStore x1 s
  | .decisionBroadcast x1 => Sys2Proof.Machine.execDecisionBroadcast x1 s
  | .decision x1 => Sys2Proof.Machine.execDecision x1 s
  | .applyEnd x1 => Sys2Proof.Machine.execApplyEnd x1 s
  | .stbyHeaderWrite x1 => Sys2Proof.Machine.execStbyHeaderWrite x1 s
  | .sealComplete x1 => Sys2Proof.Machine.execSealComplete x1 s
  | .descDecode x1 x2 x3 => Sys2Proof.Machine.execDescDecode x1 x2 x3 s
  | .hintIssue x1 x2 x3 => Sys2Proof.Machine.execHintIssue x1 x2 x3 s
  | .commandIssue x1 x2 => Sys2Proof.Machine.execCommandIssue x1 x2 s
  | .nop x1 x2 => Sys2Proof.Machine.execNop x1 x2 s
  | .signal x1 x2 => Sys2Proof.Machine.execSignal x1 x2 s
  | .wait x1 x2 => Sys2Proof.Machine.execWait x1 x2 s
  | .fwdEnd x1 => Sys2Proof.Machine.execFwdEnd x1 s
  | .bwdEnd x1 => Sys2Proof.Machine.execBwdEnd x1 s
  | .mm x1 x2 x3 => Sys2Proof.Machine.execMm x1 x2 x3 s
  | .vec x1 x2 => Sys2Proof.Machine.execVec x1 x2 s
  | .vred x1 x2 => Sys2Proof.Machine.execVred x1 x2 s
  | .lookup x1 => Sys2Proof.Machine.execLookup x1 s
  | .pool x1 => Sys2Proof.Machine.execPool x1 s
  | .gradSend x1 => Sys2Proof.Machine.execGradSend x1 s
  | .stashWr x1 => Sys2Proof.Machine.execStashWr x1 s
  | .stashRd x1 => Sys2Proof.Machine.execStashRd x1 s
  | .stashFree x1 => Sys2Proof.Machine.execStashFree x1 s
  | .fetch x1 x2 => Sys2Proof.Machine.execFetch x1 x2 s
  | .write x1 x2 => Sys2Proof.Machine.execWrite x1 x2 s
  | .prefetch x1 x2 => Sys2Proof.Machine.execPrefetch x1 x2 s
  | .cancel x1 x2 => Sys2Proof.Machine.execCancel x1 x2 s
  | .loadScales x1 => Sys2Proof.Machine.execLoadScales x1 s
  | .loadCsum x1 => Sys2Proof.Machine.execLoadCsum x1 s
  | .invalidate x1 => Sys2Proof.Machine.execInvalidate x1 s
  | .prestage x1 => Sys2Proof.Machine.execPrestage x1 s
  | .commandRetire x1 x2 x3 => Sys2Proof.Machine.execCommandRetire x1 x2 x3 s
  | .deferPromote x1 x2 => Sys2Proof.Machine.execDeferPromote x1 x2 s
  | .handoverUnit x1 x2 x3 => Sys2Proof.Machine.execHandoverUnit x1 x2 x3 s
  | .noProgress x1 => Sys2Proof.Machine.execNoProgress x1 s
  | .dumpValid x1 x2 => Sys2Proof.Machine.execDumpValid x1 x2 s
  | .govStreamCtl x1 x2 => Sys2Proof.Machine.execGovStreamCtl x1 x2 s
  | .tileLoadStart x1 x2 x3 => Sys2Proof.Machine.execTileLoadStart x1 x2 x3 s
  | .tileLoadReady x1 x2 x3 => Sys2Proof.Machine.execTileLoadReady x1 x2 x3 s
  | .passStart x1 x2 x3 => Sys2Proof.Machine.execPassStart x1 x2 x3 s
  | .passEnd x1 x2 x3 x4 => Sys2Proof.Machine.execPassEnd x1 x2 x3 x4 s
  | .passVerdict x1 x2 x3 => Sys2Proof.Machine.execPassVerdict x1 x2 x3 s
  | .replayStart x1 x2 x3 => Sys2Proof.Machine.execReplayStart x1 x2 x3 s
  | .engPreemptReq x1 x2 x3 => Sys2Proof.Machine.execEngPreemptReq x1 x2 x3 s
  | .engPreemptWithdraw x1 x2 x3 => Sys2Proof.Machine.execEngPreemptWithdraw x1 x2 x3 s
  | .engineQuiet x1 x2 x3 => Sys2Proof.Machine.execEngineQuiet x1 x2 x3 s
  | .engCtrClear x1 x2 x3 => Sys2Proof.Machine.execEngCtrClear x1 x2 x3 s
  | .dividerChange x1 x2 => Sys2Proof.Machine.execDividerChange x1 x2 s
  | .lbEccError x1 x2 x3 => Sys2Proof.Machine.execLbEccError x1 x2 x3 s
  | .spillWriteDone x1 x2 x3 x4 => Sys2Proof.Machine.execSpillWriteDone x1 x2 x3 x4 s
  | .stashReadback x1 => Sys2Proof.Machine.execStashReadback x1 s
  | .demandFetchBegin x1 x2 => Sys2Proof.Machine.execDemandFetchBegin x1 x2 s
  | .sluiceTick x1 => Sys2Proof.Machine.execSluiceTick x1 s
  | .transferArrive x1 x2 x3 => Sys2Proof.Machine.execTransferArrive x1 x2 x3 s
  | .ringRepair x1 x2 => Sys2Proof.Machine.execRingRepair x1 x2 s
  | .tailraceAck x1 x2 => Sys2Proof.Machine.execTailraceAck x1 x2 s
  | .arbDecision x1 x2 x3 => Sys2Proof.Machine.execArbDecision x1 x2 x3 s
  | .arbHold x1 x2 => Sys2Proof.Machine.execArbHold x1 x2 s
  | .turnEstimate x1 x2 x3 => Sys2Proof.Machine.execTurnEstimate x1 x2 x3 s
  | .engineWake x1 x2 x3 => Sys2Proof.Machine.execEngineWake x1 x2 x3 s
  | .pageMoveStart => Sys2Proof.Machine.execPageMoveStart s
  | .heatDecay => Sys2Proof.Machine.execHeatDecay s
  | .migrationPassEnd x1 => Sys2Proof.Machine.execMigrationPassEnd x1 s
  | .pageFlip x1 => Sys2Proof.Machine.execPageFlip x1 s
  | .sourceFrameFree x1 => Sys2Proof.Machine.execSourceFrameFree x1 s
  | .hbmEccError x1 x2 x3 => Sys2Proof.Machine.execHbmEccError x1 x2 x3 s
  | .pageRefillDone x1 => Sys2Proof.Machine.execPageRefillDone x1 s
  | .hbmPatrol x1 => Sys2Proof.Machine.execHbmPatrol x1 s
  | .tierRefillDone x1 => Sys2Proof.Machine.execTierRefillDone x1 s
  | .cxlPoison x1 => Sys2Proof.Machine.execCxlPoison x1 s
  | .cxlCompletionTimeout x1 => Sys2Proof.Machine.execCxlCompletionTimeout x1 s
  | .cxlLinkDown x1 x2 => Sys2Proof.Machine.execCxlLinkDown x1 x2 s
  | .cxlLinkReturn x1 x2 => Sys2Proof.Machine.execCxlLinkReturn x1 x2 s
  | .cxlDownLimit x1 x2 => Sys2Proof.Machine.execCxlDownLimit x1 x2 s
  | .accessLate x1 x2 x3 => Sys2Proof.Machine.execAccessLate x1 x2 x3 s
  | .lkpReq x1 => Sys2Proof.Machine.execLkpReq x1 s
  | .lkpRsp x1 => Sys2Proof.Machine.execLkpRsp x1 s
  | .lookupHoldRelease x1 => Sys2Proof.Machine.execLookupHoldRelease x1 s
  | .indexFaultReport x1 => Sys2Proof.Machine.execIndexFaultReport x1 s
  | .replSum x1 x2 => Sys2Proof.Machine.execReplSum x1 x2 s
  | .gristAdd x1 => Sys2Proof.Machine.execGristAdd x1 s
  | .gristSlotFree x1 => Sys2Proof.Machine.execGristSlotFree x1 s
  | .gatherEnd x1 x2 => Sys2Proof.Machine.execGatherEnd x1 x2 s
  | .sliceArrive x1 => Sys2Proof.Machine.execSliceArrive x1 s
  | .sliceResend x1 x2 x3 x4 x5 x6 x7 => Sys2Proof.Machine.execSliceResend x1 x2 x3 x4 x5 x6 x7 s
  | .redNode x1 => Sys2Proof.Machine.execRedNode x1 s
  | .rootRetain x1 x2 x3 x4 => Sys2Proof.Machine.execRootRetain x1 x2 x3 x4 s
  | .retRoot x1 => Sys2Proof.Machine.execRetRoot x1 s
  | .candidateForm x1 x2 x3 x4 => Sys2Proof.Machine.execCandidateForm x1 x2 x3 x4 s
  | .scaleSetDerive x1 => Sys2Proof.Machine.execScaleSetDerive x1 s
  | .scaleSetArrive x1 x2 => Sys2Proof.Machine.execScaleSetArrive x1 x2 s
  | .wcTile x1 => Sys2Proof.Machine.execWcTile x1 s
  | .wcResend x1 x2 x3 x4 x5 => Sys2Proof.Machine.execWcResend x1 x2 x3 x4 x5 s
  | .digest x1 x2 => Sys2Proof.Machine.execDigest x1 x2 s
  | .replicaRepairDone x1 x2 x3 x4 => Sys2Proof.Machine.execReplicaRepairDone x1 x2 x3 x4 s
  | .replayRequest x1 x2 => Sys2Proof.Machine.execReplayRequest x1 x2 s
  | .replay x1 => Sys2Proof.Machine.execReplay x1 s
  | .rebuildRedo x1 x2 x3 => Sys2Proof.Machine.execRebuildRedo x1 x2 x3 s
  | .rebuildHostLimit x1 => Sys2Proof.Machine.execRebuildHostLimit x1 s
  | .barrierSend => Sys2Proof.Machine.execBarrierSend s
  | .barrier x1 => Sys2Proof.Machine.execBarrier x1 s
  | .move x1 => Sys2Proof.Machine.execMove x1 s
  | .shardXfer x1 => Sys2Proof.Machine.execShardXfer x1 s
  | .done x1 => Sys2Proof.Machine.execDone x1 s
  | .flip x1 => Sys2Proof.Machine.execFlip x1 s
  | .layoutCancel x1 => Sys2Proof.Machine.execLayoutCancel x1 s
  | .linkTrain x1 x2 x3 => Sys2Proof.Machine.execLinkTrain x1 x2 x3 s
  | .linkInit x1 x2 => Sys2Proof.Machine.execLinkInit x1 x2 s
  | .flitReceive x1 x2 => Sys2Proof.Machine.execFlitReceive x1 x2 s
  | .nak x1 x2 x3 => Sys2Proof.Machine.execNak x1 x2 x3 s
  | .popRetrainLimit x1 x2 => Sys2Proof.Machine.execPopRetrainLimit x1 x2 s
  | .linkDown x1 x2 => Sys2Proof.Machine.execLinkDown x1 x2 s
  | .creditSync x1 x2 => Sys2Proof.Machine.execCreditSync x1 x2 s
  | .frameForward x1 x2 => Sys2Proof.Machine.execFrameForward x1 x2 s
  | .rdReq x1 x2 x3 => Sys2Proof.Machine.execRdReq x1 x2 x3 s
  | .rdRsp x1 x2 => Sys2Proof.Machine.execRdRsp x1 x2 s
  | .wr x1 x2 => Sys2Proof.Machine.execWr x1 x2 s
  | .wrAck x1 => Sys2Proof.Machine.execWrAck x1 s
  | .ctlReq x1 x2 x3 x4 => Sys2Proof.Machine.execCtlReq x1 x2 x3 x4 s
  | .ctlRsp x1 x2 => Sys2Proof.Machine.execCtlRsp x1 x2 s
  | .ethPacket x1 x2 x3 => Sys2Proof.Machine.execEthPacket x1 x2 x3 s
  | .ethRto x1 x2 x3 => Sys2Proof.Machine.execEthRto x1 x2 x3 s
  | .ack x1 x2 => Sys2Proof.Machine.execAck x1 x2 s
  | .popAckLimit x1 x2 => Sys2Proof.Machine.execPopAckLimit x1 x2 s
  | .heartbeatSend x1 => Sys2Proof.Machine.execHeartbeatSend x1 s
  | .heartbeat x1 x2 => Sys2Proof.Machine.execHeartbeat x1 x2 s
  | .heartbeatTimeout x1 x2 => Sys2Proof.Machine.execHeartbeatTimeout x1 x2 s
  | .discover x1 x2 x3 => Sys2Proof.Machine.execDiscover x1 x2 x3 s
  | .discoveryQuiet x1 x2 => Sys2Proof.Machine.execDiscoveryQuiet x1 x2 s
  | .member x1 => Sys2Proof.Machine.execMember x1 s
  | .failedReport x1 x2 => Sys2Proof.Machine.execFailedReport x1 x2 s
  | .podSilence x1 x2 => Sys2Proof.Machine.execPodSilence x1 x2 s
  | .fence x1 => Sys2Proof.Machine.execFence x1 s
  | .memberBatch x1 => Sys2Proof.Machine.execMemberBatch x1 s
  | .memberAck x1 x2 x3 x4 => Sys2Proof.Machine.execMemberAck x1 x2 x3 x4 s
  | .leaseGrace x1 x2 => Sys2Proof.Machine.execLeaseGrace x1 x2 s
  | .fmBindLimit x1 x2 => Sys2Proof.Machine.execFmBindLimit x1 x2 s
  | .partnerUnitRequest x1 x2 x3 => Sys2Proof.Machine.execPartnerUnitRequest x1 x2 x3 s
  | .pullComplete => Sys2Proof.Machine.execPullComplete s
  | .takeoverDone x1 x2 => Sys2Proof.Machine.execTakeoverDone x1 x2 s
  | .journalFold x1 => Sys2Proof.Machine.execJournalFold x1 s
  | .releaseFence => Sys2Proof.Machine.execReleaseFence s
  | .jobStart x1 => Sys2Proof.Machine.execJobStart x1 s
  | .jobStop x1 => Sys2Proof.Machine.execJobStop x1 s
  | .jobSwitch x1 x2 x3 => Sys2Proof.Machine.execJobSwitch x1 x2 x3 s
  | .switchInRestore x1 => Sys2Proof.Machine.execSwitchInRestore x1 s
  | .jobResume x1 => Sys2Proof.Machine.execJobResume x1 s
  | .snapshot x1 x2 => Sys2Proof.Machine.execSnapshot x1 x2 s
  | .snapshotWrite => Sys2Proof.Machine.execSnapshotWrite s
  | .trayRelease x1 x2 x3 x4 x5 => Sys2Proof.Machine.execTrayRelease x1 x2 x3 x4 x5 s
  | .spareAdd x1 x2 => Sys2Proof.Machine.execSpareAdd x1 x2 s
  | .spareRemove x1 x2 => Sys2Proof.Machine.execSpareRemove x1 x2 s
  | .reportFailed x1 x2 => Sys2Proof.Machine.execReportFailed x1 x2 s
  | .hostSupply x1 x2 x3 => Sys2Proof.Machine.execHostSupply x1 x2 x3 s
  | .repairMapWrite x1 x2 x3 => Sys2Proof.Machine.execRepairMapWrite x1 x2 x3 s
  | .engineDiag x1 x2 => Sys2Proof.Machine.execEngineDiag x1 x2 s
  | .manifestWrite x1 => Sys2Proof.Machine.execManifestWrite x1 s
  | .fmBound x1 x2 x3 => Sys2Proof.Machine.execFmBound x1 x2 x3 s
  | .contextReady x1 => Sys2Proof.Machine.execContextReady x1 s
  | .keyEnrol x1 x2 => Sys2Proof.Machine.execKeyEnrol x1 x2 s
  | .keyRevoke x1 x2 => Sys2Proof.Machine.execKeyRevoke x1 x2 s
  | .svnRaise x1 x2 => Sys2Proof.Machine.execSvnRaise x1 x2 s
  | .fwSvnCommit x1 => Sys2Proof.Machine.execFwSvnCommit x1 s
  | .exportKey x1 x2 x3 => Sys2Proof.Machine.execExportKey x1 x2 x3 s
  | .getAudit x1 x2 => Sys2Proof.Machine.execGetAudit x1 x2 s
  | .recordSign x1 => Sys2Proof.Machine.execRecordSign x1 s
  | .logSectorErase x1 => Sys2Proof.Machine.execLogSectorErase x1 s
  | .diffRingTail x1 x2 => Sys2Proof.Machine.execDiffRingTail x1 x2 s
  | .getVersion => Sys2Proof.Machine.execGetVersion s
  | .getCapabilities => Sys2Proof.Machine.execGetCapabilities s
  | .negotiateAlgorithms => Sys2Proof.Machine.execNegotiateAlgorithms s
  | .getDigests => Sys2Proof.Machine.execGetDigests s
  | .getCertificate x1 x2 x3 => Sys2Proof.Machine.execGetCertificate x1 x2 x3 s
  | .challenge x1 x2 => Sys2Proof.Machine.execChallenge x1 x2 s
  | .getMeasurements x1 x2 => Sys2Proof.Machine.execGetMeasurements x1 x2 s
  | .keyExchange x1 x2 => Sys2Proof.Machine.execKeyExchange x1 x2 s
  | .finish x1 x2 => Sys2Proof.Machine.execFinish x1 x2 s
  | .endSession x1 => Sys2Proof.Machine.execEndSession x1 s
  | .spdmHeartbeat x1 => Sys2Proof.Machine.execSpdmHeartbeat x1 s
  | .keyUpdate x1 => Sys2Proof.Machine.execKeyUpdate x1 s
  | .fwRecovery x1 => Sys2Proof.Machine.execFwRecovery x1 s
  | .store x1 x2 => Sys2Proof.Machine.execStore x1 x2 s
  | .storeApply x1 x2 => Sys2Proof.Machine.execStoreApply x1 x2 s
  | .package x1 => Sys2Proof.Machine.execPackage x1 s
  | .fieldRead x1 => Sys2Proof.Machine.execFieldRead x1 s
  | .fieldWrite x1 x2 => Sys2Proof.Machine.execFieldWrite x1 x2 s
  | .writeStep x1 x2 x3 => Sys2Proof.Machine.execWriteStep x1 x2 x3 s
  | .writeStepComplete x1 => Sys2Proof.Machine.execWriteStepComplete x1 s
  | .vauxOn => Sys2Proof.Machine.execVauxOn s
  | .vauxLoss => Sys2Proof.Machine.execVauxLoss s
  | .pwrGoodRise x1 x2 => Sys2Proof.Machine.execPwrGoodRise x1 x2 s
  | .pwrGoodFall x1 => Sys2Proof.Machine.execPwrGoodFall x1 s
  | .sysRstNAssert x1 => Sys2Proof.Machine.execSysRstNAssert x1 s
  | .sysRstNRelease x1 => Sys2Proof.Machine.execSysRstNRelease x1 s
  | .perstRelease => Sys2Proof.Machine.execPerstRelease s
  | .perstAssert => Sys2Proof.Machine.execPerstAssert s
  | .cxPerstRelease x1 => Sys2Proof.Machine.execCxPerstRelease x1 s
  | .pllLock => Sys2Proof.Machine.execPllLock s
  | .pllUnlock => Sys2Proof.Machine.execPllUnlock s
  | .domainSwitchOn x1 => Sys2Proof.Machine.execDomainSwitchOn x1 s
  | .domainWake x1 => Sys2Proof.Machine.execDomainWake x1 s
  | .domainSwitchOff x1 => Sys2Proof.Machine.execDomainSwitchOff x1 s
  | .bringupPhaseEnd x1 => Sys2Proof.Machine.execBringupPhaseEnd x1 s
  | .bringupSlow x1 => Sys2Proof.Machine.execBringupSlow x1 s
  | .hbmTrain x1 x2 => Sys2Proof.Machine.execHbmTrain x1 x2 s
  | .fantailSample x1 x2 => Sys2Proof.Machine.execFantailSample x1 x2 s
  | .fantailEvaluate x1 => Sys2Proof.Machine.execFantailEvaluate x1 s
  | .holdNLow => Sys2Proof.Machine.execHoldNLow s
  | .holdNHigh => Sys2Proof.Machine.execHoldNHigh s
  | .droopDetect x1 x2 => Sys2Proof.Machine.execDroopDetect x1 x2 s
  | .droopEnd x1 x2 => Sys2Proof.Machine.execDroopEnd x1 x2 s
  | .thermalTrip => Sys2Proof.Machine.execThermalTrip s
  | .tripPowerOff x1 => Sys2Proof.Machine.execTripPowerOff x1 s
  | .stayReduced x1 => Sys2Proof.Machine.execStayReduced x1 s
  | .bypass => Sys2Proof.Machine.execBypass s
  | .idcode => Sys2Proof.Machine.execIdcode s
  | .samplePreload => Sys2Proof.Machine.execSamplePreload s
  | .extest => Sys2Proof.Machine.execExtest s
  | .extestPulse => Sys2Proof.Machine.execExtestPulse s
  | .extestTrain => Sys2Proof.Machine.execExtestTrain s
  | .highz => Sys2Proof.Machine.execHighz s
  | .clamp => Sys2Proof.Machine.execClamp s
  | .accessErr x1 x2 x3 x4 => Sys2Proof.Machine.execAccessErr x1 x2 x3 x4 s
  | .offAccess x1 x2 x3 => Sys2Proof.Machine.execOffAccess x1 x2 x3 s
  | .registerWrite x1 x2 x3 => Sys2Proof.Machine.execRegisterWrite x1 x2 x3 s
  | .faultRecord x1 => Sys2Proof.Machine.execFaultRecord x1 s
  | .coalesceExpiry x1 => Sys2Proof.Machine.execCoalesceExpiry x1 s
  | .vectorUnmask x1 => Sys2Proof.Machine.execVectorUnmask x1 s
  | .evqCtl x1 x2 => Sys2Proof.Machine.execEvqCtl x1 x2 s
  | .evqTail x1 x2 => Sys2Proof.Machine.execEvqTail x1 x2 s
  | .stallLatch x1 => Sys2Proof.Machine.execStallLatch x1 s
  | .ethPortDown x1 => Sys2Proof.Machine.execEthPortDown x1 s
  | .firmwareUpdate x1 => Sys2Proof.Machine.execFirmwareUpdate x1 s
  | .alwaysOnPllUnlock => Sys2Proof.Machine.execAlwaysOnPllUnlock s
  | .suspicionReport x1 x2 x3 x4 x5 => Sys2Proof.Machine.execSuspicionReport x1 x2 x3 x4 x5 s

end Sys2Proof.Machine
end

