-- ==== Sys2Proof/Safety.lean ====
section
/-! DEFINITION. What counts as a safe step and which parts of the state a command may change, in the terms that statements use. -/

namespace Sys2Proof.Machine

/-- A step that answers a next state: the block neither stops with a fault nor lacks a meaning. -/
def goesOn (o : Host.Outcome State Fault Refusal) : Prop := ∃ t, o = .next t

/-- A command completes on a state. -/
def completes (i : Instr) (s : State) : Prop := goesOn (exec i s)

/-- A state whose memories are in canonical form. -/
def State.memOk (s : State) : Bool :=
  Memory.wf s.tier.mem && Memory.wf s.atl.mboxBuf && Memory.wf s.ldr.buf && s.cores.all fun k => Memory.wf k.2.lb.mem

/-- The opcode commands that run units of their opcode's oldest running command, with their core, stream and opcode (R172, R174). -/
def unitCommand : Instr → Option (CoreId × Stream × Op)
  | .nop c st => some (c, st, .nop)
  | .vec c st => some (c, st, .vec)
  | .vred c st => some (c, st, .vred)
  | .lookup c => some (c, .f, .lookup)
  | .pool c => some (c, .f, .pool)
  | .gradSend c => some (c, .b, .gradSend)
  | .stashRd c => some (c, .b, .stashRd)
  | .stashFree c => some (c, .b, .stashFree)
  | .fetch c st => some (c, st, .fetch)
  | .write c st => some (c, st, .write)
  | .cancel c st => some (c, st, .cancel)
  | .loadScales c => some (c, .u, .loadScales)
  | .loadCsum c => some (c, .u, .loadCsum)
  | .invalidate c => some (c, .u, .invalidate)
  | .prestage c => some (c, .u, .prestage)
  | _ => none

/-- FP32 contributions converted to FX48 with exponent `x` and added in the order of the list, from 0; the second part says whether an
addition saturated (R71). -/
def fxSum (x : Int) (l : List F32) : Int × Bool :=
  l.foldl (fun a v => ((fxAdd a.1 (toFX48 x v).1).1, a.2 || (fxAdd a.1 (toFX48 x v).1).2)) (0, false)

/-! ## Which parts of the state a command may change -/

/-- The parts of the state besides the queue and the fuses, named as State names them. -/
inductive Part
  /-- The time. -/
  | now
  /-- The model's counter of free values. -/
  | fresh
  /-- Power, clocks, pins and Fantail. -/
  | pow
  /-- Atluta. -/
  | atl
  /-- The loaded image and its fields. -/
  | ldr
  /-- The fault and event unit. -/
  | evt
  /-- The step controller. -/
  | ctl
  /-- Weir. -/
  | weir
  /-- The Querns. -/
  | querns
  /-- The embedding rows. -/
  | rows
  /-- Replica traffic. -/
  | repl
  /-- Lookup units. -/
  | units
  /-- The number of the next lookup unit. -/
  | nextRef
  /-- The cores and their engines. -/
  | cores
  /-- The arbiters. -/
  | arbs
  /-- The memory tiers. -/
  | tier
  /-- The fabric ports. -/
  | fab
  /-- Recovery. -/
  | rcv
  /-- What the device has sent. -/
  | out
  deriving DecidableEq, Repr

/-- A part is the same in two states. -/
@[reducible] def Part.same : Part → State → State → Prop
  | .now, s, t => t.now = s.now
  | .fresh, s, t => t.fresh = s.fresh
  | .pow, s, t => t.pow = s.pow
  | .atl, s, t => t.atl = s.atl
  | .ldr, s, t => t.ldr = s.ldr
  | .evt, s, t => t.evt = s.evt
  | .ctl, s, t => t.ctl = s.ctl
  | .weir, s, t => t.weir = s.weir
  | .querns, s, t => t.querns = s.querns
  | .rows, s, t => t.rows = s.rows
  | .repl, s, t => t.repl = s.repl
  | .units, s, t => t.units = s.units
  | .nextRef, s, t => t.nextRef = s.nextRef
  | .cores, s, t => t.cores = s.cores
  | .arbs, s, t => t.arbs = s.arbs
  | .tier, s, t => t.tier = s.tier
  | .fab, s, t => t.fab = s.fab
  | .rcv, s, t => t.rcv = s.rcv
  | .out, s, t => t.out = s.out

/-- The parts that a command may change; every other part is outside the frame of what the spec lets it write. -/
def footprint : Instr → List Part
  | .mbAdmit _ => [.now, .ldr, .evt, .ctl, .weir, .cores]
  | .slotRelease _ => [.evt, .ctl, .querns, .cores, .out]
  | .gatherClose _ => [.ctl]
  | .finitenessScreen _ _ => [.ctl, .querns]
  | .qrnLogReserve _ _ => [.evt, .ctl, .querns]
  | .voteSend _ => [.evt, .ctl, .weir, .fab, .out]
  | .vote _ => [.evt, .ctl, .weir, .fab, .out]
  | .voteMirrorStore _ => [.ctl, .out]
  | .decisionBroadcast _ => [.fresh, .ldr, .evt, .ctl, .weir, .querns, .rows, .repl, .units, .cores, .fab, .rcv, .out]
  | .decision _ => [.fresh, .ldr, .evt, .ctl, .weir, .querns, .rows, .repl, .units, .cores, .fab, .rcv, .out]
  | .applyEnd _ => [.evt, .ctl, .weir, .fab, .out]
  | .stbyHeaderWrite _ => [.atl, .ctl, .weir, .querns, .rows]
  | .sealComplete _ => [.ldr, .evt, .ctl, .weir, .querns, .rows, .rcv, .out]
  | .descDecode _ _ _ => [.evt, .ctl, .cores, .tier]
  | .hintIssue _ _ _ => [.cores]
  | .commandIssue _ _ => [.evt, .ctl, .cores]
  | .nop _ _ => [.evt, .ctl, .cores]
  | .signal _ _ => [.ctl, .cores]
  | .wait _ _ => [.ctl, .cores]
  | .fwdEnd _ => [.cores]
  | .bwdEnd _ => [.cores]
  | .mm _ _ _ => [.evt, .ctl, .cores]
  | .vec _ _ => [.evt, .ctl, .cores]
  | .vred _ _ => [.fresh, .evt, .ctl, .cores]
  | .lookup _ => [.evt, .ctl, .weir, .querns, .units, .nextRef, .cores, .fab, .out]
  | .pool _ => [.evt, .ctl, .querns, .cores]
  | .gradSend _ => [.evt, .ctl, .querns, .units, .nextRef, .cores, .fab, .out]
  | .stashWr _ => [.evt, .ctl, .cores]
  | .stashRd _ => [.evt, .ctl, .cores]
  | .stashFree _ => [.evt, .ctl, .cores]
  | .fetch _ _ => [.evt, .ctl, .cores]
  | .write _ _ => [.evt, .ctl, .cores]
  | .prefetch _ _ => [.cores]
  | .cancel _ _ => [.evt, .ctl, .cores]
  | .loadScales _ => [.evt, .ctl, .cores]
  | .loadCsum _ => [.evt, .ctl, .cores]
  | .invalidate _ => [.evt, .ctl, .cores]
  | .prestage _ => [.evt, .ctl, .cores]
  | .commandRetire _ _ _ => [.ctl, .cores]
  | .deferPromote _ _ => [.cores]
  | .handoverUnit _ _ _ => [.evt, .ctl, .querns, .cores]
  | .noProgress _ => [.evt, .ctl, .cores]
  | .dumpValid _ _ => [.cores]
  | .govStreamCtl _ _ => [.cores]
  | .tileLoadStart _ _ _ => [.cores]
  | .tileLoadReady _ _ _ => [.cores]
  | .passStart _ _ _ => [.ldr, .cores]
  | .passEnd _ _ _ _ => [.cores]
  | .passVerdict _ _ _ => [.atl, .evt, .ctl, .cores]
  | .replayStart _ _ _ => [.cores]
  | .engPreemptReq _ _ _ => [.cores]
  | .engPreemptWithdraw _ _ _ => [.cores]
  | .engineQuiet _ _ _ => [.atl, .evt, .ctl, .cores]
  | .engCtrClear _ _ _ => [.cores]
  | .dividerChange _ _ => [.cores]
  | .lbEccError _ _ _ => [.evt, .ctl, .cores]
  | .spillWriteDone _ _ _ _ => [.fresh, .evt, .ctl, .cores, .tier]
  | .stashReadback _ => [.cores]
  | .demandFetchBegin _ _ => [.evt, .ctl, .cores]
  | .sluiceTick _ => [.evt, .ctl, .querns, .units, .cores, .tier, .fab, .out]
  | .transferArrive _ _ _ => [.evt, .ctl, .weir, .cores, .out]
  | .ringRepair _ _ => [.weir, .cores]
  | .tailraceAck _ _ => [.fresh, .cores, .tier]
  | .arbDecision _ _ _ => [.arbs]
  | .arbHold _ _ => [.evt, .ctl, .arbs]
  | .turnEstimate _ _ _ => [.ctl, .weir, .querns, .cores, .arbs]
  | .engineWake _ _ _ => [.cores]
  | .pageMoveStart => [.tier]
  | .heatDecay => [.tier]
  | .migrationPassEnd _ => [.tier]
  | .pageFlip _ => [.fresh, .cores, .tier, .out]
  | .sourceFrameFree _ => [.tier]
  | .hbmEccError _ _ _ => [.atl, .evt, .ctl, .weir, .tier, .out]
  | .pageRefillDone _ => [.fresh, .tier, .out]
  | .hbmPatrol _ => [.atl, .evt, .ctl, .weir, .tier, .out]
  | .tierRefillDone _ => [.fresh, .tier, .out]
  | .cxlPoison _ => [.evt, .ctl, .weir, .tier, .out]
  | .cxlCompletionTimeout _ => [.evt, .ctl, .weir, .tier, .out]
  | .cxlLinkDown _ _ => [.now, .tier]
  | .cxlLinkReturn _ _ => [.now, .fresh, .tier, .out]
  | .cxlDownLimit _ _ => [.now, .atl, .evt, .ctl, .weir, .tier, .out]
  | .accessLate _ _ _ => [.tier]
  | .lkpReq _ => [.ctl, .weir, .querns, .units, .fab, .out]
  | .lkpRsp _ => [.evt, .ctl, .querns, .units, .cores, .fab, .out]
  | .lookupHoldRelease _ => [.evt, .ctl, .weir, .querns, .units, .cores, .fab, .out]
  | .indexFaultReport _ => [.evt, .ctl, .querns, .units, .cores]
  | .replSum _ _ => [.fresh, .evt, .ctl, .weir, .querns, .rows, .repl, .out]
  | .gristAdd _ => [.evt, .ctl, .querns]
  | .gristSlotFree _ => [.evt, .ctl, .querns]
  | .gatherEnd _ _ => [.querns]
  | .sliceArrive _ => [.evt, .ctl, .weir, .cores, .out]
  | .sliceResend _ _ _ _ _ _ _ => [.out]
  | .redNode _ => [.evt, .ctl, .weir, .out]
  | .rootRetain _ _ _ _ => [.weir, .fab, .out]
  | .retRoot _ => [.evt, .ctl, .weir, .out]
  | .candidateForm _ _ _ _ => [.ctl, .weir]
  | .scaleSetDerive _ => [.ctl, .weir, .fab, .out]
  | .scaleSetArrive _ _ => [.evt, .ctl, .weir, .fab, .out]
  | .wcTile _ => [.evt, .ctl, .weir, .fab, .out]
  | .wcResend _ _ _ _ _ => [.out]
  | .digest _ _ => [.evt, .ctl, .weir, .fab, .out]
  | .replicaRepairDone _ _ _ _ => [.evt, .ctl, .weir, .fab, .out]
  | .replayRequest _ _ => [.fresh, .atl, .ldr, .evt, .ctl, .weir, .querns, .rows, .repl, .units, .cores, .tier, .fab, .out]
  | .replay _ => [.fresh, .atl, .ldr, .evt, .ctl, .weir, .querns, .rows, .repl, .units, .cores, .tier, .fab, .out]
  | .rebuildRedo _ _ _ => [.atl, .evt, .ctl, .weir, .rows, .fab, .out]
  | .rebuildHostLimit _ => [.now, .evt, .ctl, .weir]
  | .barrierSend => [.fresh, .atl, .ldr, .evt, .ctl, .weir, .querns, .rows, .repl, .units, .cores, .tier, .fab, .out]
  | .barrier _ => [.fresh, .atl, .ldr, .evt, .ctl, .weir, .querns, .rows, .repl, .units, .cores, .tier, .fab, .out]
  | .move _ => [.fresh, .atl, .ldr, .evt, .ctl, .weir, .querns, .rows, .repl, .units, .cores, .tier, .fab, .out]
  | .shardXfer _ => [.fresh, .atl, .ldr, .evt, .ctl, .weir, .querns, .rows, .repl, .units, .cores, .tier, .fab, .out]
  | .done _ => [.fresh, .atl, .ldr, .evt, .ctl, .weir, .querns, .rows, .repl, .units, .cores, .tier, .fab, .out]
  | .flip _ => [.fresh, .atl, .ldr, .evt, .ctl, .weir, .querns, .rows, .repl, .units, .cores, .tier, .fab, .out]
  | .layoutCancel _ => [.fresh, .atl, .ldr, .evt, .ctl, .weir, .querns, .rows, .repl, .units, .cores, .tier, .fab, .out]
  | .linkTrain _ _ _ => [.fresh, .fab, .rcv, .out]
  | .linkInit _ _ => [.evt, .ctl, .fab, .out]
  | .flitReceive _ _ => [.evt, .ctl, .fab, .out]
  | .nak _ _ _ => [.now, .evt, .ctl, .fab, .out]
  | .popRetrainLimit _ _ => [.now, .evt, .ctl, .fab]
  | .linkDown _ _ => [.now, .fab, .rcv, .out]
  | .creditSync _ _ => [.fab, .out]
  | .frameForward _ _ => [.atl, .evt, .ctl, .fab, .out]
  | .rdReq _ _ _ => [.fresh, .atl, .evt, .ctl, .tier, .fab, .out]
  | .rdRsp _ _ => [.cores, .tier]
  | .wr _ _ => [.fresh, .atl, .evt, .ctl, .tier, .fab, .out]
  | .wrAck _ => [.atl, .cores, .tier]
  | .ctlReq _ _ _ _ => [.now, .fresh, .pow, .atl, .ldr, .evt, .ctl, .weir, .querns, .rows, .repl, .units, .cores, .arbs, .tier, .fab, .rcv, .out]
  | .ctlRsp _ _ => [.out]
  | .ethPacket _ _ _ => [.now, .atl, .evt, .ctl, .fab, .out]
  | .ethRto _ _ _ => [.now, .fab, .out]
  | .ack _ _ => [.fresh, .atl, .ldr, .evt, .ctl, .weir, .querns, .rows, .repl, .units, .cores, .tier, .fab, .out]
  | .popAckLimit _ _ => [.now, .fab, .out]
  | .heartbeatSend _ => [.now, .atl, .fab, .rcv, .out]
  | .heartbeat _ _ => [.now, .fab, .rcv, .out]
  | .heartbeatTimeout _ _ => [.now, .fab, .rcv, .out]
  | .discover _ _ _ => [.now, .evt, .ctl, .fab, .out]
  | .discoveryQuiet _ _ => [.now, .pow, .evt, .ctl, .fab, .rcv, .out]
  | .member _ => [.fresh, .pow, .ldr, .evt, .ctl, .weir, .querns, .rows, .repl, .units, .cores, .tier, .fab, .rcv, .out]
  | .failedReport _ _ => [.now, .rcv, .out]
  | .podSilence _ _ => [.now, .rcv, .out]
  | .fence _ => [.now, .pow, .evt, .ctl, .cores, .rcv]
  | .memberBatch _ => [.now, .fresh, .ldr, .evt, .ctl, .weir, .querns, .rows, .repl, .units, .cores, .tier, .fab, .rcv, .out]
  | .memberAck _ _ _ _ => [.now, .evt, .ctl, .rcv]
  | .leaseGrace _ _ => [.now, .rcv, .out]
  | .fmBindLimit _ _ => [.now, .evt, .ctl, .rcv]
  | .partnerUnitRequest _ _ _ => [.out]
  | .pullComplete => [.fresh, .atl, .ldr, .evt, .ctl, .weir, .querns, .rows, .repl, .units, .tier, .rcv, .out]
  | .takeoverDone _ _ => [.now, .ctl, .rcv, .out]
  | .journalFold _ => [.atl]
  | .releaseFence => [.fresh, .pow, .ldr, .evt, .ctl, .weir, .querns, .rows, .repl, .units, .cores, .tier, .fab, .rcv, .out]
  | .jobStart _ => [.fresh, .atl, .ldr, .evt, .ctl, .weir, .querns, .rows, .repl, .units, .cores, .tier, .fab, .rcv, .out]
  | .jobStop _ => [.atl, .ctl, .weir, .querns, .rows, .repl, .units, .cores, .tier, .fab, .rcv]
  | .jobSwitch _ _ _ => [.atl, .ldr, .fab, .out]
  | .switchInRestore _ => [.fresh, .atl, .ctl, .weir, .querns, .rows, .repl, .units, .cores, .tier, .fab, .out]
  | .jobResume _ => [.atl, .ctl, .weir, .querns, .repl, .units, .cores, .fab]
  | .snapshot _ _ => [.atl, .ldr, .fab, .out]
  | .snapshotWrite => [.fresh, .atl, .ctl, .weir, .fab, .out]
  | .trayRelease _ _ _ _ _ => [.atl, .ldr, .fab, .out]
  | .spareAdd _ _ => [.fresh, .atl, .ldr, .evt, .ctl, .weir, .querns, .rows, .repl, .units, .cores, .tier, .fab, .rcv, .out]
  | .spareRemove _ _ => [.atl, .ldr]
  | .reportFailed _ _ => [.rcv, .out]
  | .hostSupply _ _ _ => [.atl, .ctl, .weir, .fab, .out]
  | .repairMapWrite _ _ _ => [.atl, .evt, .ctl, .cores]
  | .engineDiag _ _ => [.fresh, .atl, .out]
  | .manifestWrite _ => [.atl]
  | .fmBound _ _ _ => [.atl, .rcv]
  | .contextReady _ => [.atl, .ctl]
  | .keyEnrol _ _ => [.fresh, .atl]
  | .keyRevoke _ _ => [.fresh, .atl]
  | .svnRaise _ _ => [.fresh, .atl]
  | .fwSvnCommit _ => [.fresh, .atl]
  | .exportKey _ _ _ => [.fresh, .atl]
  | .getAudit _ _ => [.atl]
  | .recordSign _ => [.fresh, .atl, .ctl, .weir, .querns, .rows, .fab, .out]
  | .logSectorErase _ => [.atl, .evt, .ctl]
  | .diffRingTail _ _ => [.atl]
  | .getVersion => [.fresh, .atl, .out]
  | .getCapabilities => [.fresh, .atl, .out]
  | .negotiateAlgorithms => [.fresh, .atl, .out]
  | .getDigests => [.fresh, .out]
  | .getCertificate _ _ _ => [.fresh, .out]
  | .challenge _ _ => [.fresh, .out]
  | .getMeasurements _ _ => [.fresh, .out]
  | .keyExchange _ _ => [.fresh, .atl, .out]
  | .finish _ _ => [.fresh, .atl, .out]
  | .endSession _ => [.fresh, .atl, .out]
  | .spdmHeartbeat _ => [.fresh, .atl, .out]
  | .keyUpdate _ => [.fresh, .atl, .out]
  | .fwRecovery _ => [.pow, .atl, .ldr, .evt, .ctl, .cores]
  | .store _ _ => [.atl, .ldr, .evt, .ctl]
  | .storeApply _ _ => [.atl, .ldr, .evt, .ctl, .cores]
  | .package _ => [.atl, .ldr, .evt, .ctl, .cores]
  | .fieldRead _ => [.ldr, .evt, .ctl]
  | .fieldWrite _ _ => [.now, .atl, .ldr, .evt, .ctl]
  | .writeStep _ _ _ => [.atl, .ldr, .evt, .ctl, .fab, .out]
  | .writeStepComplete _ => [.ldr]
  | .vauxOn => [.pow]
  | .vauxLoss => [.pow, .atl, .ldr, .evt, .ctl, .weir, .querns, .rows, .repl, .units, .cores, .arbs, .tier, .fab, .rcv]
  | .pwrGoodRise _ _ => [.now, .pow, .atl, .ldr, .evt, .ctl, .cores]
  | .pwrGoodFall _ => [.pow, .atl, .ldr, .evt, .ctl, .weir, .querns, .rows, .repl, .units, .cores, .arbs, .tier, .fab, .rcv]
  | .sysRstNAssert _ => [.pow, .atl, .ldr, .evt, .ctl, .weir, .querns, .rows, .repl, .units, .cores, .arbs, .tier, .fab, .rcv]
  | .sysRstNRelease _ => [.pow, .atl, .ldr, .evt, .ctl, .cores]
  | .perstRelease => [.pow]
  | .perstAssert => [.pow, .evt]
  | .cxPerstRelease _ => [.now, .pow, .tier]
  | .pllLock => [.pow]
  | .pllUnlock => [.pow, .evt, .ctl, .weir, .querns, .rows, .repl, .units, .cores, .arbs, .tier, .fab, .rcv]
  | .domainSwitchOn _ => [.now, .pow]
  | .domainWake _ => [.pow, .cores]
  | .domainSwitchOff _ => [.pow, .cores, .tier]
  | .bringupPhaseEnd _ => [.now, .pow, .atl, .ldr, .evt, .ctl, .cores, .fab, .out]
  | .bringupSlow _ => [.now, .pow, .evt, .ctl]
  | .hbmTrain _ _ => [.pow, .evt, .ctl, .tier]
  | .fantailSample _ _ => [.pow]
  | .fantailEvaluate _ => [.now, .pow, .evt, .ctl]
  | .holdNLow => [.pow]
  | .holdNHigh => [.pow]
  | .droopDetect _ _ => [.pow]
  | .droopEnd _ _ => [.pow]
  | .thermalTrip => [.pow, .evt, .ctl, .cores]
  | .tripPowerOff _ => [.pow, .ctl, .weir, .querns, .rows, .repl, .units, .cores, .arbs, .tier, .fab, .rcv]
  | .stayReduced _ => [.pow]
  | .bypass => [.pow, .out]
  | .idcode => [.pow, .out]
  | .samplePreload => [.fresh, .pow, .out]
  | .extest => [.pow, .out]
  | .extestPulse => [.pow, .out]
  | .extestTrain => [.pow, .out]
  | .highz => [.pow, .out]
  | .clamp => [.pow, .out]
  | .accessErr _ _ _ _ => [.evt, .out]
  | .offAccess _ _ _ => [.pow, .out]
  | .registerWrite _ _ _ => [.now, .fresh, .pow, .atl, .ldr, .evt, .ctl, .weir, .querns, .rows, .repl, .units, .cores, .arbs, .tier, .fab, .rcv, .out]
  | .faultRecord _ => [.now, .pow, .evt, .ctl, .cores, .rcv, .out]
  | .coalesceExpiry _ => [.evt, .out]
  | .vectorUnmask _ => [.evt, .out]
  | .evqCtl _ _ => [.evt]
  | .evqTail _ _ => [.evt]
  | .stallLatch _ => [.evt, .weir, .querns, .cores, .tier]
  | .ethPortDown _ => [.evt, .ctl, .fab]
  | .firmwareUpdate _ => [.atl]
  | .alwaysOnPllUnlock => [.pow, .atl]
  | .suspicionReport _ _ _ _ _ => [.now, .rcv, .out]

end Sys2Proof.Machine
end

