-- ==== Sys2Proof/Certificates/Slice0/Obligations.lean ====
section
/-! DEFINITION. The statements for the provers: what the commands do by the numbered rules of the spec. -/

open Sys2Proof Sys2Proof.Machine

/-- A step runs the command at the front of the queue on the queue's rest. For every command c and state s whose queue is c followed by rest,
step of s is exec of c on s with the queue rest; on an empty queue the block idles (the model's choice, log entry 1). No row of the opcode
table gives bits, so no word spells a command and placing a word changes nothing. (01_the_step.md) -/
def Obligations.StepRunsTheFrontCommand : Prop :=
  (∀ (c : Instr) (rest : List Instr) (s : State), s.pending = c :: rest → step s = exec c { s with pending := rest })
  ∧ (∀ s : State, s.pending = [] → step s = .next s)
  ∧ (∀ (s : State) (nbits w : Nat), decodeTableWord nbits w = none ∧ s.withFetchWord nbits w = s)

/-- MB_ADMIT takes the lowest free slot or counts the unmet conditions, and SLOT_RELEASE frees a slot. Where the device may admit, the forward
stream asks for the next micro-batch, no condition is unmet and slot k is the lowest free one, MB_ADMIT answers the state in which the
micro-batch is admitted to slot k: k is below 8 and was empty, it then holds the next (STEP, MB) with the version that the step reads,
every other slot is unchanged, and the step is in GATHER with one micro-batch more. With a condition unmet or no slot free it counts the
stalls of the unmet conditions. A device that may not admit or is not asked is unchanged. SLOT_RELEASE of a slot that may be released
empties it and changes no other slot, the step counts one micro-batch more released, and when that makes MB_PER_STEP its Gather has ended.
A slot that is empty or may not be released stays as it is. (01_the_step.md, 06_core_and_governor.md) -/
def Obligations.SlotsAreTakenAndFreed : Prop :=
  (∀ (s : State) (k at' cyc : Nat) (l : SampleList), s.admits = true → s.requested s.toAdmit.1 s.toAdmit.2 = true →
      (s.at' at').admitCauses s.toAdmit.1 cyc (some l) = [] → (s.at' at').freeMbSlot cyc = some k →
    exec (.mbAdmit ⟨some l, at', cyc⟩) s = .next ((s.at' at').admitMb k s.toAdmit.1 s.toAdmit.2 l)
      ∧ kvFind k s.ctl.slots = none ∧ k < 8
      ∧ (kvFind k ((s.at' at').admitMb k s.toAdmit.1 s.toAdmit.2 l).ctl.slots).map (fun x => (x.step, x.mb)) = some s.toAdmit
      ∧ (∀ j, j ≠ k → kvFind j ((s.at' at').admitMb k s.toAdmit.1 s.toAdmit.2 l).ctl.slots = kvFind j s.ctl.slots)
      ∧ (((s.at' at').admitMb k s.toAdmit.1 s.toAdmit.2 l).stepOf s.toAdmit.1).st = .gather
      ∧ (((s.at' at').admitMb k s.toAdmit.1 s.toAdmit.2 l).stepOf s.toAdmit.1).admitted = s.toAdmit.2 + 1)
  ∧ (∀ (s : State) (at' cyc : Nat) (feed : Option SampleList), s.admits = true → s.requested s.toAdmit.1 s.toAdmit.2 = true →
      ((s.at' at').admitCauses s.toAdmit.1 cyc feed ≠ [] ∨ (s.at' at').freeMbSlot cyc = none) →
    exec (.mbAdmit ⟨feed, at', cyc⟩) s = .next ((s.at' at').weirStall ((s.at' at').admitCauses s.toAdmit.1 cyc feed)))
  ∧ (∀ (s : State) (at' cyc : Nat) (feed : Option SampleList), (s.admits = false ∨ s.requested s.toAdmit.1 s.toAdmit.2 = false) →
    exec (.mbAdmit ⟨feed, at', cyc⟩) s = .next s)
  ∧ (∀ (s : State) (k : Fin 8) (cyc : Nat) (x : Slot), s.slot k.val = some x → s.releasable x = true →
    exec (.slotRelease ⟨k, cyc⟩) s = .next (s.release k.val cyc x)
      ∧ (s.release k.val cyc x).slot k.val = none ∧ (∀ j, j ≠ k.val → (s.release k.val cyc x).slot j = s.slot j)
      ∧ ((s.release k.val cyc x).stepOf x.step).released = (s.stepOf x.step).released + 1
      ∧ ((s.stepOf x.step).released + 1 = s.mbs → ((s.release k.val cyc x).stepOf x.step).gatherEnded = true))
  ∧ (∀ (s : State) (k : Fin 8) (cyc : Nat), s.slot k.val = none → exec (.slotRelease ⟨k, cyc⟩) s = .next s)
  ∧ (∀ (s : State) (k : Fin 8) (cyc : Nat) (x : Slot), s.slot k.val = some x → s.releasable x = false →
    exec (.slotRelease ⟨k, cyc⟩) s = .next s)

/-- GATHER_CLOSE and APPLY_END move a step between its states. GATHER_CLOSE of a step whose close is complete moves it to CLOSED and changes
nothing else; before, it has no effect. APPLY_END of a step whose Apply has ended moves it to SEAL; a skipped step changes nothing else on
a device that is not the vote root, the root forms P_n at once, and an applied step begins its digest work. Before, it has no effect.
(01_the_step.md, 12_step_commit.md) -/
def Obligations.CloseAndApplyEndMoveTheStep : Prop :=
  (∀ (s : State) (n : Nat), s.closed n = true →
    exec (.gatherClose n) s = .next (s.updStep n fun p => { p with st := .closed }))
  ∧ (∀ (s : State) (n : Nat), s.closed n = false → exec (.gatherClose n) s = .next s)
  ∧ (∀ (s : State) (n : Nat), s.applyEnded n = true → (s.stepOf n).decided = some .skip → s.isRoot = false →
    exec (.applyEnd n) s = .next (s.updStep n fun p => { p with st := .seal }))
  ∧ (∀ (s : State) (n : Nat), s.applyEnded n = true → (s.stepOf n).decided = some .skip → s.isRoot = true →
    exec (.applyEnd n) s = .next ((s.updStep n fun p => { p with st := .seal }).rootParam n true zero48))
  ∧ (∀ (s : State) (n : Nat), s.applyEnded n = true → (s.stepOf n).decided ≠ some .skip →
    exec (.applyEnd n) s = .next ((s.updStep n fun p => { p with st := .seal }).sealDigests n))
  ∧ (∀ (s : State) (n : Nat), s.applyEnded n = false → exec (.applyEnd n) s = .next s)

/-- FINITENESS_SCREEN screens a complete set once, and QRN_LOG_RESERVE reserves, waits or raises. FINITENESS_SCREEN of a closing step, with
the Quern's set complete, the rows those of version n − 1 and the set not yet screened, records the step as screened, counts the numeric
events of screening its entries, and sets the step's OPT flag when the outcome of some entry is not finite; else it has no effect.
QRN_LOG_RESERVE of a closing step with the set complete and nothing reserved: with STEP_LAG 0 it takes no space; with room it takes the
space that the Apply may need; without room it raises QRN_LOG_FULL when the step before is sealed, and holds the close, counts the wait
and its stall while it is not. Else it has no effect. (01_the_step.md, 09_quern_lookups.md, 10_grist_sparse_updates.md) -/
def Obligations.ScreenAndLogReserve : Prop :=
  (∀ (s : State) (q : QuernId) (n : Nat), s.closing n = true → s.setComplete q n = true → n - 1 ≤ (s.quern q).doneVersion →
      (s.quern q).screened.contains n = false →
    exec (.finitenessScreen q n) s = .next
      (((s.updQuern q fun x => { x with screened := insNat n x.screened }).quernEv q n
        (evSum ((((s.quern q).set' n).entries.map (s.screenEntry n)).map fun e => ((), e.2)))).markFlags n
        { opt := (((s.quern q).set' n).entries.map (s.screenEntry n)).any Prod.fst }))
  ∧ (∀ (s : State) (q : QuernId) (n : Nat), (s.closing n = false ∨ s.setComplete q n = false ∨ (s.quern q).doneVersion < n - 1
      ∨ (s.quern q).screened.contains n = true) → exec (.finitenessScreen q n) s = .next s)
  ∧ (∀ (s : State) (q : QuernId) (n : Nat), s.closing n = true → s.setComplete q n = true → kvHas n (s.quern q).reserved = false →
    (s.lag = 0 → exec (.qrnLogReserve q n) s = .next (s.logTake q n 0))
    ∧ (s.lag ≠ 0 → (s.quern q).logUsed + s.logNeed q n ≤ s.field "QRN_LOG_SIZE" q.val →
        exec (.qrnLogReserve q n) s = .next (s.logTake q n (s.logNeed q n)))
    ∧ (s.lag ≠ 0 → s.field "QRN_LOG_SIZE" q.val < (s.quern q).logUsed + s.logNeed q n → n ≤ s.ctl.sealed + 1 →
        exec (.qrnLogReserve q n) s = .next ((s.logTake q n 0).raise .stepFatal 0x044 (unitNo 3 q.val) n 0))
    ∧ (s.lag ≠ 0 → s.field "QRN_LOG_SIZE" q.val < (s.quern q).logUsed + s.logNeed q n → s.ctl.sealed + 1 < n →
        exec (.qrnLogReserve q n) s = .next (s.updQuern q fun x => { x with
          logHold := true, logWait := satAdd 0xFFFFFFFF x.logWait 1, stall := stallCount 17 x.stall })))
  ∧ (∀ (s : State) (q : QuernId) (n : Nat), (s.closing n = false ∨ s.setComplete q n = false ∨ kvHas n (s.quern q).reserved = true) →
    exec (.qrnLogReserve q n) s = .next s)

/-- VOTE_SEND sends the word of a closed step, VOTE joins a child's frame, and the mirror stores the decision. VOTE_SEND of a step that is
CLOSED and next to seal moves the step to VOTE with its word sent, after the late screen has set OPT where an entry asks it, and gives the
device's own word and maxima to the vote; of another step it has no effect. VOTE of a device that is no child has no effect; a child's
weight maxima record joins those of the step that its word names; a child's word and record join the round. VOTE_MIRROR_STORE at the vote
mirror stores the decision and acknowledges it to its sender, and at another device has no effect. (01_the_step.md, 11_weir.md) -/
def Obligations.VoteWordGoesUpOnce : Prop :=
  (∀ (s : State) (n : Nat), (s.stepOf n).st = .closed → s.ctl.sealed + 1 = n → s.lateOpt n = false →
    exec (.voteSend n) s = .next ((s.updStep n fun p => { p with st := .vote, voteSent := true }).takeWord n (s.ownWord n)
      { child := s.me, weights := false, word := s.ownWord n
        maxima := (s.updStep n fun p => { p with st := .vote, voteSent := true }).ownMaxima n, diffEpoch := false, diffLayout := false }))
  ∧ (∀ (s t : State) (n : Nat), (s.stepOf n).st = .closed → s.ctl.sealed + 1 = n → s.lateOpt n = true →
      t = s.updStep n (fun p => { p with flags := { p.flags with opt := true } }) →
    exec (.voteSend n) s = .next ((t.updStep n fun p => { p with st := .vote, voteSent := true }).takeWord n (t.ownWord n)
      { child := s.me, weights := false, word := t.ownWord n
        maxima := (t.updStep n fun p => { p with st := .vote, voteSent := true }).ownMaxima n, diffEpoch := false, diffLayout := false }))
  ∧ (∀ (s : State) (n : Nat), ((s.stepOf n).st ≠ .closed ∨ s.ctl.sealed + 1 ≠ n) → exec (.voteSend n) s = .next s)
  ∧ (∀ (s : State) (v : VoteFrame), v.child ∈ s.voteChildren s.me → v.weights = false →
    exec (.vote v) s = .next (s.takeWord s.voteRound (s.ownCheck s.voteRound) v))
  ∧ (∀ (s : State) (v : VoteFrame), v.child ∈ s.voteChildren s.me → v.weights = true →
    exec (.vote v) s = .next (s.gatherWeights v.word.step v.child v.maxima (s.ownWord v.word.step)))
  ∧ (∀ (s : State) (v : VoteFrame), v.child ∉ s.voteChildren s.me → exec (.vote v) s = .next s)
  ∧ (∀ (s : State) (d : DecisionMsg), s.voteMirror = s.me →
    exec (.voteMirrorStore d) s = .next ((s.updCtl fun c => { c with mirrorHeld := kvPut d.step d c.mirrorHeld }).emit [.ack d.src d.tag]))
  ∧ (∀ (s : State) (d : DecisionMsg), s.voteMirror ≠ s.me → exec (.voteMirrorStore d) s = .next s)

/-- The vote root tests HALT, ABORT, SKIP and APPLY in that order. The decision formed from a reduced word is HALT exactly when FATAL is set
or a layout epoch or step differs; else ABORT exactly when COUNT is not the member count or a membership epoch or view differs; else SKIP
exactly when NAN, INF, SAT or OPT is set; else APPLY. The decisions read 3, 2, 1 and 0. (R36) -/
def Obligations.DecisionOrder : Prop :=
  (∀ (v : VoteWord) (m : Nat) (e l : Bool),
    (decide36 v m e l = .halt ↔ (v.fatal = true ∨ l = true))
    ∧ (decide36 v m e l = .abort ↔ (v.fatal = false ∧ l = false ∧ (v.count ≠ m ∨ e = true)))
    ∧ (decide36 v m e l = .skip ↔ (v.fatal = false ∧ l = false ∧ v.count = m ∧ e = false
        ∧ (v.flags.nan = true ∨ v.flags.inf = true ∨ v.flags.sat = true ∨ v.flags.opt = true)))
    ∧ (decide36 v m e l = .apply ↔ (v.fatal = false ∧ l = false ∧ v.count = m ∧ e = false
        ∧ v.flags.nan = false ∧ v.flags.inf = false ∧ v.flags.sat = false ∧ v.flags.opt = false)))
  ∧ (∀ a b : VoteWord, (voteDiffEpoch a b = true ↔ a.memEpoch ≠ b.memEpoch ∨ a.view ≠ b.view)
    ∧ (voteDiffLayout a b = true ↔ a.layEpoch ≠ b.layEpoch ∨ a.step ≠ b.step))
  ∧ decisionNo .halt = 3 ∧ decisionNo .abort = 2 ∧ decisionNo .skip = 1 ∧ decisionNo .apply = 0

/-- DECISION_BROADCAST and DECISION act on the decision; HALT stops the job. DECISION is acknowledged to its sender and, where the step awaits
it, acted on; a device that is restoring its state neither acknowledges nor acts. DECISION_BROADCAST at the root, once the mirror has
acknowledged and not before, marks the writes it attaches, counts the step as broadcast and, where the step awaits the decision, acts on
it with its writes; a step already broadcast or without a decision changes nothing. A HALT acted on leaves the job halted, the step HALTED
and its decision shown as the last one. (01_the_step.md, 11_weir.md) -/
def Obligations.DecisionTakesEffect : Prop :=
  (∀ (s : State) (d : DecisionMsg), s.restoring = false → s.awaits d = true →
    exec (.decision d) s = .next ((s.emit [.ack d.src d.tag]).takeDecision d))
  ∧ (∀ (s : State) (d : DecisionMsg), s.restoring = false → s.awaits d = false → exec (.decision d) s = .next (s.emit [.ack d.src d.tag]))
  ∧ (∀ (s : State) (d : DecisionMsg), s.restoring = true → exec (.decision d) s = .next s)
  ∧ (∀ (s : State) (n : Nat) (d : DecisionMsg), kvFind n s.ctl.rootDecided = some d → s.ctl.broadcast.contains n = false →
      kvHas (d.tag, s.voteMirror) s.fab.unacked = false →
    exec (.decisionBroadcast n) s = .next
      (if s.awaits d then ((s.markAttached d).updCtl fun c => { c with broadcast := n :: c.broadcast }).takeDecision (s.withWrites d)
       else (s.markAttached d).updCtl fun c => { c with broadcast := n :: c.broadcast }))
  ∧ (∀ (s : State) (n : Nat) (d : DecisionMsg), kvFind n s.ctl.rootDecided = some d → kvHas (d.tag, s.voteMirror) s.fab.unacked = true →
    exec (.decisionBroadcast n) s = .next s)
  ∧ (∀ (s : State) (n : Nat), (s.ctl.broadcast.contains n = true ∨ kvFind n s.ctl.rootDecided = none) →
    exec (.decisionBroadcast n) s = .next s)
  ∧ (∀ (s : State) (d : DecisionMsg), d.decision = .halt →
    ((s.takeDecision d).ctl.halted = true ∧ ((s.takeDecision d).stepOf d.step).st = .halted
      ∧ (s.takeDecision d).ctl.lastDecided = d.step ∧ (s.takeDecision d).ctl.lastDecision = 3))

/-- STBY_HEADER_WRITE appends the step's records or waits for room, and SEAL_COMPLETE commits the step when every condition of R41 holds.
STBY_HEADER_WRITE of the step next to seal in SEAL, with its comparisons settled, on a device that keeps a standby image: with room it
appends the step's records to the journal, writes the next header and marks the step; without room the journal shows the wait and Weir
counts its stall. In reduced service it only marks the step. In every other case it has no effect. SEAL_COMPLETE of a step that may seal
settles its rows and its writes, marks it SEALED, takes its parameter digest, counts consecutive skips, and moves SEALED_STEP to it; so
SEALED_STEP is then the step. Of a step that may not seal it has no effect. (01_the_step.md, 15_recovery.md) -/
def Obligations.SealCommitsTheStep : Prop :=
  (∀ (s : State) (n : Nat), (s.stepOf n).st = .seal → (s.stepOf n).stbyDone = false → s.ctl.sealed + 1 = n → s.compared n = true →
      s.fenced = false → s.standbyLost = false →
    (s.pow.phase = 3 → exec (.stbyHeaderWrite n) s = .next (s.updStep n fun q => { q with stbyDone := true }))
    ∧ (s.pow.phase ≠ 3 →
        s.standby.used + (s.stbyRecords n).foldl (fun a j => a + j.size) 0 ≤ s.field "STBY_JOURNAL_SIZE" →
      exec (.stbyHeaderWrite n) s = .next ((s.updStandby fun x =>
          ({ x with journal := x.journal ++ s.stbyRecords n, fullWait := false } : Standby).write
            (s.nextHeader x n ((s.stbyRecords n).foldl (fun a j => a + j.size) 0))).updStep n fun q => { q with stbyDone := true }))
    ∧ (s.pow.phase ≠ 3 →
        s.field "STBY_JOURNAL_SIZE" < s.standby.used + (s.stbyRecords n).foldl (fun a j => a + j.size) 0 →
      exec (.stbyHeaderWrite n) s = .next ((s.updStandby fun x => { x with fullWait := true }).weirStall [27])))
  ∧ (∀ (s : State) (n : Nat), ((s.stepOf n).st ≠ .seal ∨ (s.stepOf n).stbyDone = true ∨ s.ctl.sealed + 1 ≠ n ∨ s.compared n = false
      ∨ s.fenced = true ∨ s.standbyLost = true) → exec (.stbyHeaderWrite n) s = .next s)
  ∧ (∀ (s t : State) (n : Nat), s.sealable n = true →
      t = ((((s.sealRows n (s.skipped n)).settleWrites n).updStep n fun p => { p with st := .sealed }).updWeir fun w => { w with
        param := ((s.digestOf n).param).getD w.param
        consecSkips := if s.skipped n then satAdd 0xFFFF w.consecSkips 1 else 0
        digests := w.digests.filter fun x => n < x.1 }) →
    exec (.sealComplete n) s = .next ((t.updCtl fun x => { x with
        sealed := n, lastSkipped := s.skipped n, acc := x.acc.filter fun y => n < y.1 }).endRoll n)
      ∧ ((t.updCtl fun x => { x with
        sealed := n, lastSkipped := s.skipped n, acc := x.acc.filter fun y => n < y.1 }).endRoll n).ctl.sealed = n)
  ∧ (∀ (s : State) (n : Nat), s.sealable n = false → exec (.sealComplete n) s = .next s)

/-- An opcode without a unit to run changes nothing, and one whose unit is not ready counts its stall. For NOP, VEC, VRED, LOOKUP, POOL,
GRAD_SEND, STASH_RD, STASH_FREE, FETCH, WRITE, CANCEL, LOAD_SCALES, LOAD_CSUM, INVALIDATE and PRESTAGE on their stream: with no running
command of the opcode the state is unchanged; with an unmet condition of R174 for the next unit of the oldest such command, the stall of
its cause is counted on the core where the cause is a stall cause below 32, and nothing else changes. (06_core_and_governor.md) -/
def Obligations.UnitOpcodesWait : Prop :=
  ∀ (i : Instr) (c : CoreId) (st : Stream) (o : Op) (s : State), unitCommand i = some (c, st, o) →
    ((s.core c).todo st o = none → exec i s = .next s)
    ∧ (∀ (cmd : Cmd) (n cause : Nat), (s.core c).todo st o = some cmd →
        s.unitUnmet c cmd (nthCount cmd.taken 0) (s.core c).lastCyc = some (n, cause) →
        exec i s = .next (if cause < 32 then s.coreStall c cause else s))

/-- NOP, VEC, VRED and POOL run the next unit of their oldest running command. With a running command of the opcode and every condition of
R174 met for its next unit, the unit is taken and: NOP commits it; VEC counts the events of reading its rows and runs the first vector
program on them; VRED takes the lane tree of each row (a free value advances for each row where a row has more than 1,024 elements) and
stages the results; POOL pools the unit's input, or is stopped with the unit's fault. Then the unit is done where the opcode has output,
and the window of fetches moves on. (02_number_formats.md, 06_core_and_governor.md, 09_quern_lookups.md) -/
def Obligations.RowOpcodesRunAUnit : Prop :=
  ∀ (s : State) (c : CoreId) (st : Stream) (cmd : Cmd) (u : Nat), u = nthCount cmd.taken 0 →
      s.unitUnmet c cmd u (s.core c).lastCyc = none →
    ((s.core c).todo st .nop = some cmd →
      exec (.nop c st) s = .next (((s.updCore c fun k => k.takeUnit st cmd 0).commit0 c cmd).fetchMore c cmd))
    ∧ ((s.core c).todo st .vec = some cmd → ∀ t x, t = (s.updCore c fun k => k.takeUnit st cmd 0) → x = t.rowsF32 c cmd u →
        exec (.vec c st) s = .next ((((t.coreEv c cmd.step x.2).runVec c cmd 0 u x.1).unitDone c cmd u).fetchMore c cmd))
    ∧ ((s.core c).todo st .vred = some cmd → ∀ t x l t1, t = (s.updCore c fun k => k.takeUnit st cmd 0) → x = t.rowsF32 c cmd u →
        l = x.1.zipIdx.map (fun r => t.laneRow r.2 r.1) →
        t1 = { t with fresh := t.fresh + (if cmd.desc.dimN ≤ 1024 then 0 else x.1.length) } →
        exec (.vred c st) s = .next ((((t1.coreEv c cmd.step (evAdd x.2 (evSum l))).stageResult c cmd 0 u
          (l.map fun r => [r.1])).unitDone c cmd u).fetchMore c cmd))
    ∧ ((s.core c).todo .f .pool = some cmd → ∀ t x, t = (s.updCore c fun k => k.takeUnit .f cmd 0) → x = t.poolInput c cmd u →
        (t.unitFault c cmd u = none →
          exec (.pool c) s = .next (((t.coreEv c cmd.step x.2).poolStage c cmd 0 u x.1).fetchMore c cmd))
        ∧ ∀ y, t.unitFault c cmd u = some y → exec (.pool c) s = .next (y.fetchMore c cmd))

/-- LOOKUP, GRAD_SEND, STASH_RD and STASH_FREE run the next unit of their oldest running command. With a running command of the opcode and
every condition of R174 met for its next unit, the unit is taken and: LOOKUP hands its bags to the front Quern; GRAD_SEND sends its
gradients and the unit is done; STASH_RD outside a chain commits the unit, and in a chain counts the events of reading the entry's rows
and stages them for the next stage; STASH_FREE frees the entry's blocks, writes of the stash that waited for room are paid, and the unit
commits. Then the window of fetches moves on. (06_core_and_governor.md, 09_quern_lookups.md, 10_grist_sparse_updates.md) -/
def Obligations.LookupOpcodesRunAUnit : Prop :=
  ∀ (s : State) (c : CoreId) (cmd : Cmd) (u : Nat), u = nthCount cmd.taken 0 → s.unitUnmet c cmd u (s.core c).lastCyc = none →
    ((s.core c).todo .f .lookup = some cmd →
      exec (.lookup c) s = .next (((s.updCore c fun k => k.takeUnit .f cmd 0).lookupUnit c cmd u).fetchMore c cmd))
    ∧ ((s.core c).todo .b .gradSend = some cmd →
      exec (.gradSend c) s = .next ((((s.updCore c fun k => k.takeUnit .b cmd 0).gradUnit c cmd u).unitDone c cmd u).fetchMore c cmd))
    ∧ ((s.core c).todo .b .stashRd = some cmd → cmd.desc.chain = [] →
      exec (.stashRd c) s = .next (((s.updCore c fun k => k.takeUnit .b cmd 0).commit0 c cmd).fetchMore c cmd))
    ∧ ((s.core c).todo .b .stashRd = some cmd → cmd.desc.chain ≠ [] →
      ∀ t x, t = (s.updCore c fun k => k.takeUnit .b cmd 0) →
        x = t.rowsF32 c { cmd with desc := { cmd.desc with a := { cmd.desc.a with space := .stash, addr := 0 } } } u →
        exec (.stashRd c) s = .next (((t.coreEv c cmd.step x.2).stageResult c cmd 0 u x.1).fetchMore c cmd))
    ∧ ((s.core c).todo .b .stashFree = some cmd →
      exec (.stashFree c) s = .next (((((s.updCore c fun k => k.takeUnit .b cmd 0).updCore c fun k =>
        { k with lb := k.lb.freeStash (cmd.slot.getD 0) cmd.desc.stashId }).payAll c).commit0 c cmd).fetchMore c cmd))

/-- FETCH, WRITE, CANCEL, LOAD_SCALES, LOAD_CSUM, PRESTAGE and INVALIDATE run their unit. With a running command of the opcode and every
condition of R174 met, its unit is taken and: FETCH copies its operand to LOCAL space where its output names it and keeps it resident
otherwise; WRITE takes its stage credit, writes the operand's bytes back to the output address, and its unit is done; CANCEL cancels the
stream's prefetches and hints of its step that are tagged with the named command, or with any for 0xFF_FFFF; LOAD_SCALES makes the core
hold the scale set of the command's step; LOAD_CSUM adds its tensor to the column sums held; PRESTAGE keeps its tiles resident; INVALIDATE
cancels the prefetches of versions that are not installed, frees local copies of versions that are gone, and keeps column sums of
installed versions only. The unit commits and the window of fetches moves on. (06_core_and_governor.md, 07_headrace_tailrace_sluice.md,
13_mapping_jobs.md) -/
def Obligations.TransferAndUpdateOpcodesRunAUnit : Prop :=
  (∀ (s : State) (c : CoreId) (st : Stream) (cmd : Cmd) (u : Nat) (t : State), u = nthCount cmd.taken 0 →
      s.unitUnmet c cmd u (s.core c).lastCyc = none → t = (s.updCore c fun k => k.takeUnit st cmd 0) →
    ((s.core c).todo st .fetch = some cmd → cmd.desc.out.space = .loc →
      exec (.fetch c st) s = .next (((t.fetchLocal c cmd).commit0 c cmd).fetchMore c cmd))
    ∧ ((s.core c).todo st .fetch = some cmd → cmd.desc.out.space ≠ .loc →
      exec (.fetch c st) s = .next (((t.keepHeld c cmd).commit0 c cmd).fetchMore c cmd))
    ∧ ((s.core c).todo st .write = some cmd →
      exec (.write c st) s = .next (((((t.takeCredit c cmd).writeBack c cmd u cmd.desc.out.addr (t.wholeBytes c cmd)).commit0 c cmd).unitDone
        c cmd u).fetchMore c cmd))
    ∧ ((s.core c).todo st .cancel = some cmd →
      exec (.cancel c st) s = .next (((t.updCore c fun k => k.cancel fun g =>
          g.ctx == t.ctxNo && g.stream == st && g.step == cmd.step
            && (cmd.desc.a.addr % 2 ^ 24 == 0xFFFFFF || g.index == cmd.desc.a.addr % 2 ^ 24)).commit0 c cmd).fetchMore c cmd)))
  ∧ (∀ (s : State) (c : CoreId) (cmd : Cmd) (u : Nat) (t : State), u = nthCount cmd.taken 0 →
      s.unitUnmet c cmd u (s.core c).lastCyc = none → t = (s.updCore c fun k => k.takeUnit .u cmd 0) →
    ((s.core c).todo .u .loadScales = some cmd →
      exec (.loadScales c) s = .next (((t.updCore c fun k => { k with scalesOf := cmd.step }).commit0 c cmd).fetchMore c cmd))
    ∧ ((s.core c).todo .u .loadCsum = some cmd →
      exec (.loadCsum c) s = .next (((t.updCore c fun k =>
        { k with csumsOf := addNew (cmd.step, cmd.desc.tensor) k.csumsOf }).commit0 c cmd).fetchMore c cmd))
    ∧ ((s.core c).todo .u .prestage = some cmd →
      exec (.prestage c) s = .next (((t.keepHeld c cmd).commit0 c cmd).fetchMore c cmd))
    ∧ ((s.core c).todo .u .invalidate = some cmd →
      ∀ (old : XTarget → Bool) (ids : Core → List XTag),
        (∀ a b v, old (.ring a b v) = !(t.installed v)) → (∀ a b, old (.range a b) = false) →
        (∀ k, ids k = ((k.feed.queue.filter fun x => old x.target).flatMap (·.tags))
          ++ (k.feed.pool.filter fun b => old b.target).flatMap (·.tags)) →
      exec (.invalidate c) s = .next (((t.updCore c fun k => { k.cancel (fun g => (ids k).contains g) with
          lb := (k.cancel fun g => (ids k).contains g).lb.freeHeld t.gone
          csumsOf := (k.cancel fun g => (ids k).contains g).csumsOf.filter fun x => t.installed x.1 }).commit0 c cmd).fetchMore c cmd)))

/-- SIGNAL raises its counter and stops at 0xFFFF, WAIT retires at its value, FWD_END shrinks the stash reservation, BWD_END takes its unit.
SIGNAL of a running command raises its counter by 1, stopping at 0xFFFF, and retires it. WAIT retires exactly when its counter has reached
WAIT_VALUE, and changes nothing before. FWD_END, once the micro-batch's earlier commands of the stream have retired, leaves the
reservation of its slot at no more than the blocks written and commits its unit; before, it changes nothing. BWD_END takes its unit and
commits it. Without a running command of the opcode each changes nothing. (06_core_and_governor.md) -/
def Obligations.SignalsWaitsAndMicroBatchEnds : Prop :=
  (∀ (s : State) (c : CoreId) (st : Stream) (cmd : Cmd), (s.core c).todo st .signal = some cmd →
    exec (.signal c st) s = .next ((s.updCore c fun k => k.signal cmd.step cmd.desc.signalCtr).retire c cmd)
      ∧ kvGet 0 (cmd.step, cmd.desc.signalCtr) (((s.updCore c fun k => k.signal cmd.step cmd.desc.signalCtr).retire c cmd).core c).sync
          = min 0xFFFF (kvGet 0 (cmd.step, cmd.desc.signalCtr) (s.core c).sync + 1))
  ∧ (∀ (s : State) (c : CoreId) (st : Stream) (cmd : Cmd), (s.core c).todo st .wait = some cmd →
    (cmd.desc.waitValue ≤ kvGet 0 (cmd.step, cmd.desc.waitCtr) (s.core c).sync → exec (.wait c st) s = .next (s.retire c cmd))
    ∧ (kvGet 0 (cmd.step, cmd.desc.waitCtr) (s.core c).sync < cmd.desc.waitValue → exec (.wait c st) s = .next s))
  ∧ (∀ (s : State) (c : CoreId) (cmd : Cmd) (n : Nat), (s.core c).todo .f .fwdEnd = some cmd → (s.core c).lastOfMb cmd = true →
      cmd.slot = some n →
    exec (.fwdEnd c) s = .next ((s.updCore c fun k => { k.takeUnit .f cmd 0 with lb := { (k.takeUnit .f cmd 0).lb with
      reserves := kvMod {} n (fun r => { r with reserved := min r.reserved r.written }) (k.takeUnit .f cmd 0).lb.reserves } }).commit0 c cmd))
  ∧ (∀ (s : State) (c : CoreId) (cmd : Cmd), (s.core c).todo .f .fwdEnd = some cmd → (s.core c).lastOfMb cmd = true →
      cmd.slot = none → exec (.fwdEnd c) s = .next ((s.updCore c fun k => k.takeUnit .f cmd 0).commit0 c cmd))
  ∧ (∀ (s : State) (c : CoreId) (cmd : Cmd), (s.core c).todo .f .fwdEnd = some cmd → (s.core c).lastOfMb cmd = false →
    exec (.fwdEnd c) s = .next s)
  ∧ (∀ (s : State) (c : CoreId) (cmd : Cmd), (s.core c).todo .b .bwdEnd = some cmd →
    exec (.bwdEnd c) s = .next ((s.updCore c fun k => k.takeUnit .b cmd 0).commit0 c cmd))
  ∧ (∀ (s : State) (c : CoreId) (st : Stream),
    ((s.core c).todo st .signal = none → exec (.signal c st) s = .next s)
    ∧ ((s.core c).todo st .wait = none → exec (.wait c st) s = .next s)
    ∧ ((s.core c).todo .f .fwdEnd = none → exec (.fwdEnd c) s = .next s)
    ∧ ((s.core c).todo .b .bwdEnd = none → exec (.bwdEnd c) s = .next s))

/-- DESC_DECODE takes the next descriptor, COMMAND_ISSUE issues the first ready command, COMMAND_RETIRE retires, DEFER_PROMOTE promotes.
DESC_DECODE on a core whose domain is not ON, on a stream that decodes nothing now, or whose descriptor's page is not ready, changes
nothing; at an address that faults the front end moves past the descriptor and the fault is raised for its step; else the fetch is
translated and the descriptor, as the step program or the sender gives it, is taken. COMMAND_ISSUE at a core cycle moves the core's clock,
issues the first candidate with no unmet condition, notes the cycle and clears the no-progress count; with none ready only the wait is
counted. COMMAND_RETIRE retires the running command of its index that is complete or stopped and whose outputs have left, and else changes
nothing. DEFER_PROMOTE marks every deferred command that has waited DEFER_AGE of its step and counts them. (06_core_and_governor.md) -/
def Obligations.DecodeIssueRetire : Prop :=
  (∀ (s : State) (c : CoreId) (st : Stream) (d : BitVec 512),
      (s.domOn (restDom c.val) = false ∨ s.decodes ((s.core c).front st) st (s.nextDesc st ((s.core c).front st)) = false
        ∨ s.descAt st (s.nextDesc st ((s.core c).front st)).2 d = .wait) →
    exec (.descDecode c st d) s = .next s)
  ∧ (∀ (s : State) (c : CoreId) (st : Stream) (d : BitVec 512) (x : Nat × Nat) (step : State → State), x = s.nextDesc st ((s.core c).front st) →
      (∀ t, step t = t.updCore c fun k => k.updFront st fun y => { y with inst := x.1, next := x.2 + 1 }) →
      s.domOn (restDom c.val) = true → s.decodes ((s.core c).front st) st x = true →
    (∀ code a, s.descAt st x.2 d = .fault code a →
      exec (.descDecode c st d) s = .next ((step s).raise .stepFatal code (unitNo 1 c.val) x.1 a))
    ∧ (∀ w, s.descAt st x.2 d = .word w →
      exec (.descDecode c st d) s = .next ((s.descTranslate c st x.2).takeDesc c st x w step)))
  ∧ (∀ (s : State) (c : CoreId) (cyc : Nat) (cmd : Cmd),
      (((s.clockTo c cyc).core c).candidates.find? fun x => ((s.clockTo c cyc).unmet c x cyc).isNone) = some cmd →
    exec (.commandIssue c cyc) s = .next (((s.clockTo c cyc).issueChecked c cmd).updCore c fun k =>
      { k with issueCyc := max k.issueCyc cyc, blocked := 0 }))
  ∧ (∀ (s : State) (c : CoreId) (cyc : Nat),
      (((s.clockTo c cyc).core c).candidates.find? fun x => ((s.clockTo c cyc).unmet c x cyc).isNone) = none →
    exec (.commandIssue c cyc) s = .next ((s.clockTo c cyc).noIssue c cyc))
  ∧ (∀ (s : State) (c : CoreId) (st : Stream) (i : Nat) (cmd : Cmd),
      ((s.core c).running st fun x => x.index == i && (x.complete || s.stopped c x) && (s.core c).outputsGone x) = some cmd →
    exec (.commandRetire c st i) s = .next (s.retire c cmd))
  ∧ (∀ (s : State) (c : CoreId) (st : Stream) (i : Nat),
      ((s.core c).running st fun x => x.index == i && (x.complete || s.stopped c x) && (s.core c).outputsGone x) = none →
    exec (.commandRetire c st i) s = .next s)
  ∧ (∀ (s : State) (c : CoreId) (cyc : Nat) (due : Cmd → Bool),
      (∀ x, due x = (!x.promoted && decide (x.enteredAt + s.fieldAt x.step "DEFER_AGE" c.val ≤ cyc))) →
    exec (.deferPromote c cyc) s = .next ((s.clockTo c cyc).updCore c fun k => { k with
      deferred := k.deferred.map fun x => if due x then { x with promoted := true } else x
      promotions := satAdd 0xFFFF k.promotions (k.deferred.filter due).length }))

/-- STASH_WR, PREFETCH, HINT_ISSUE and HANDOVER_UNIT run their unit; NO_PROGRESS, DUMP_VALID and GOV_STREAM_CTL act on the core's governor.
STASH_WR with every condition of R174 met writes its unit to the stash, takes and commits it; where the write must wait it keeps the unit.
PREFETCH puts its transfers into the stream's queue as far as that has places and is complete with the last. HINT_ISSUE puts hints for the
first unit of the command in its window into the queue. HANDOVER_UNIT of a matrix stage issues the best pass of that stage; of a vector or
pooling stage it runs the next handed-over unit; of a stash stage it writes it; of stage 0, or with nothing handed over, it changes
nothing. NO_PROGRESS at NOPROG_LIMIT raises the fault and freezes the dump once, and changes nothing before. DUMP_VALID releases the dump
exactly when bit 33 is 1, and GOV_STREAM_CTL sets the three holds from bits 0 to 2. (06_core_and_governor.md,
07_headrace_tailrace_sluice.md) -/
def Obligations.StashPrefetchHintsAndChains : Prop :=
  (∀ (s : State) (c : CoreId) (cmd : Cmd) (u : Nat), (s.core c).todo .f .stashWr = some cmd → u = nthCount cmd.taken 0 →
      s.unitUnmet c cmd u (s.core c).lastCyc = none →
    ((s.stashWrite c cmd (s.stashBytes c cmd u).1).2 = true →
      exec (.stashWr c) s = .next ((((((s.stashWrite c cmd (s.stashBytes c cmd u).1).1.updCore c fun k => k.takeUnit .f cmd 0).coreEv c
        cmd.step (s.stashBytes c cmd u).2).commit0 c cmd).unitDone c cmd u).fetchMore c cmd))
    ∧ ((s.stashWrite c cmd (s.stashBytes c cmd u).1).2 = false →
      exec (.stashWr c) s = .next (s.stashWrite c cmd (s.stashBytes c cmd u).1).1))
  ∧ (∀ (s : State) (c : CoreId) (st : Stream) (cmd : Cmd) (x : State × Nat) (t : State), (s.core c).todo st .prefetch = some cmd →
      x = s.pushTargets c cmd .prefetch (s.prefetchTargets cmd) cmd.sentPf →
      t = x.1.updCore c (fun k => k.updCmd st cmd.step cmd.index fun y => { y with sentPf := x.2 }) →
    (x.2 < (s.prefetchTargets cmd).length → exec (.prefetch c st) s = .next t)
    ∧ ((s.prefetchTargets cmd).length ≤ x.2 → exec (.prefetch c st) s = .next ((t.updCore c fun k => k.takeUnit st cmd 0).commit0 c cmd)))
  ∧ (∀ (s : State) (c : CoreId) (st : Stream) (i : Nat),
    (s.hintCmd c st i = none → exec (.hintIssue c st i) s = .next s)
    ∧ ∀ cmd x, s.hintCmd c st i = some cmd →
        x = s.pushTargets c cmd .hint ((s.fetchPlan c cmd 0).2.flatMap Span.targets) cmd.sentPf →
        exec (.hintIssue c st i) s = .next (x.1.updCore c fun k => k.updAny st cmd.step cmd.index fun y => { y with sentPf := x.2 }))
  ∧ (∀ (s : State) (c : CoreId) (st : Stream) (g : StageNo) (cmd : Cmd) (u : Nat), g ≠ 0 → (s.core c).handTodo st g.val = some cmd →
      u = nthCount cmd.taken g.val →
    (cmd.desc.stages[g.val]? = some .mm →
      exec (.handoverUnit c st g) s = .next
        (s.issueBest c ((s.core c).mmWork fun x => x.desc.stream == st && x.desc.mmStage == g.val) (s.core c).lastCyc))
    ∧ (cmd.desc.stages[g.val]? = some .vec →
      exec (.handoverUnit c st g) s = .next (s.handUnit c cmd g.val u fun t rows => t.runVec c cmd g.val u rows))
    ∧ (cmd.desc.stages[g.val]? = some .pool →
      exec (.handoverUnit c st g) s = .next (s.handUnit c cmd g.val u fun t rows => t.poolStage c cmd g.val u rows))
    ∧ (cmd.desc.stages[g.val]? = some .stashWr → exec (.handoverUnit c st g) s = .next (s.stashStage c cmd g.val u)))
  ∧ (∀ (s : State) (c : CoreId) (st : Stream) (g : StageNo), (g = 0 ∨ (s.core c).handTodo st g.val = none) →
    exec (.handoverUnit c st g) s = .next s)
  ∧ (∀ (s : State) (c : CoreId), (s.core c).fired = false → s.field "NOPROG_LIMIT" c.val ≤ (s.core c).blocked →
    exec (.noProgress c) s = .next ((s.raise .stepFatal 0x022 (unitNo 1 c.val) (s.dumpOf c).step 0).updCore c fun x =>
      { x with fired := true, dump := some (s.dumpOf c) }))
  ∧ (∀ (s : State) (c : CoreId), ((s.core c).fired = true ∨ (s.core c).blocked < s.field "NOPROG_LIMIT" c.val) →
    exec (.noProgress c) s = .next s)
  ∧ (∀ (s : State) (c : CoreId) (v : W64), exec (.govStreamCtl c v) s = .next (s.updCore c fun k => { k with
      fHold := v.getLsbD 0, bHold := v.getLsbD 1, uHold := v.getLsbD 2 })
    ∧ (v.getLsbD 33 = true → exec (.dumpValid c v) s = .next (s.updCore c fun k => { k with fired := false, dump := none }))
    ∧ (v.getLsbD 33 = false → exec (.dumpValid c v) s = .next s))

/-- MM issues the best pass of its stream's running matrix commands. MM at a core cycle moves the core's clock to that cycle and then issues
the best pass among the running commands of its stream whose opcode is MM: the pass of the first such command, in the order of R175, whose
conditions are met. (06_core_and_governor.md) -/
def Obligations.MatrixCommandsIssuePasses : Prop :=
  ∀ (s : State) (c : CoreId) (st : Stream) (cyc : Nat),
    exec (.mm c st cyc) s = .next ((s.clockTo c cyc).issueBest c
      (((s.clockTo c cyc).core c).mmWork fun x => x.desc.stream == st && x.desc.op == .mm) cyc)

/-- A tile load begins when the loader is free and is ready 160 core cycles later; a replay's load begins the same way. After the core's clock
has moved to the command's cycle: TILE_LOAD_START loads the engine's next pass where the engine may run and load and the pass is no
replay; REPLAY_START loads the first waiting replay where the engine may run and load. TILE_LOAD_READY 160 core cycles or more after the
begin ends the load: the loader is free, the tile is loaded where its pass is still wanted, and it is ready at the begin plus 160.
Earlier, or without the condition, only the clock moves. (04_matrix_engine.md, 05_engine_integrity.md) -/
def Obligations.TileLoadTakes160Cycles : Prop :=
  (∀ (s t : State) (c : CoreId) (e : EngId) (cyc : Nat), t = s.clockTo c cyc →
    (t.nextPass c e = none → exec (.tileLoadStart c e cyc) s = .next t)
    ∧ (∀ p, t.nextPass c e = some p → (t.engine c e).mayRun cyc = true → (t.engine c e).mayLoad p cyc = true → p.replay = false →
        exec (.tileLoadStart c e cyc) s = .next (t.updEngine c e fun x => x.load p cyc))
    ∧ (∀ p, t.nextPass c e = some p → ((t.engine c e).mayRun cyc = false ∨ (t.engine c e).mayLoad p cyc = false ∨ p.replay = true) →
        exec (.tileLoadStart c e cyc) s = .next t)
    ∧ ((t.engine c e).replay = [] → exec (.replayStart c e cyc) s = .next t)
    ∧ (∀ p l, (t.engine c e).replay = p :: l → (t.engine c e).mayRun cyc = true → (t.engine c e).mayLoad p cyc = true →
        exec (.replayStart c e cyc) s = .next (t.updEngine c e fun x => x.load p cyc))
    ∧ (∀ p l, (t.engine c e).replay = p :: l → ((t.engine c e).mayRun cyc = false ∨ (t.engine c e).mayLoad p cyc = false) →
        exec (.replayStart c e cyc) s = .next t)
    ∧ ((t.engine c e).loading = none → exec (.tileLoadReady c e cyc) s = .next t)
    ∧ (∀ id l, (t.engine c e).loading = some (id, l) → cyc < l + 160 → exec (.tileLoadReady c e cyc) s = .next t)
    ∧ (∀ id l, (t.engine c e).loading = some (id, l) → l + 160 ≤ cyc → (t.engine c e).replay = [] →
        exec (.tileLoadReady c e cyc) s = .next (t.updEngine c e fun x => { x with
          loading := none, loaded := if (t.engine c e).assigned.any (fun p => p.id == id) then some id else none, readyAt := l + 160 }))
    ∧ (∀ id l p r, (t.engine c e).loading = some (id, l) → l + 160 ≤ cyc → (t.engine c e).replay = p :: r →
        exec (.tileLoadReady c e cyc) s = .next (t.updEngine c e fun x => { x with
          loading := none, loaded := if p.id == id then some id else none, readyAt := l + 160 })))

/-- PASS_START starts the next pass, PASS_END ends it N + 255 cycles later, PASS_VERDICT judges it 32 cycles after that. After the core's
clock has moved: PASS_START starts the engine's next pass where every condition holds; where one fails it counts the stall of its cause,
if it has one. PASS_END of the oldest pass in the array at T0 + N + 255 or later ends it; earlier it waits. PASS_VERDICT of the oldest
ended pass at T0 + N + 287 or later takes it from the list of ended passes: a discarded step's results are dropped; a finding or a bad
operand is a mismatch, else the pass is in order, and the findings left unchecked are counted; earlier it waits. (04_matrix_engine.md,
05_engine_integrity.md) -/
def Obligations.PassesStartAndEnd : Prop :=
  (∀ (s t : State) (c : CoreId) (e : EngId) (cyc : Nat), t = s.clockTo c cyc →
    (t.nextPass c e = none → exec (.passStart c e cyc) s = .next t)
    ∧ (∀ p, t.nextPass c e = some p → t.mayStart c e p cyc = true → exec (.passStart c e cyc) s = .next (t.startPass c e p cyc))
    ∧ (∀ p n, t.nextPass c e = some p → t.mayStart c e p cyc = false → (t.engine c e).startStall p cyc = some n →
        exec (.passStart c e cyc) s = .next (t.coreStall c n))
    ∧ (∀ p, t.nextPass c e = some p → t.mayStart c e p cyc = false → (t.engine c e).startStall p cyc = none →
        exec (.passStart c e cyc) s = .next t))
  ∧ (∀ (s t : State) (c : CoreId) (e : EngId) (cyc : Nat) (ups : List Upset), t = s.clockTo c cyc →
    ((t.engine c e).inArray = [] → exec (.passEnd c e cyc ups) s = .next t)
    ∧ (∀ r l, (t.engine c e).inArray = r :: l → cyc < r.t0 + r.pass.n + 255 → exec (.passEnd c e cyc ups) s = .next t)
    ∧ (∀ r l, (t.engine c e).inArray = r :: l → r.t0 + r.pass.n + 255 ≤ cyc →
        exec (.passEnd c e cyc ups) s = .next (t.updEngine c e fun k => k.endPass r ups)))
  ∧ (∀ (s t : State) (c : CoreId) (e : EngId) (cyc : Nat), t = s.clockTo c cyc →
    ((t.engine c e).ended = [] → exec (.passVerdict c e cyc) s = .next t)
    ∧ ∀ r l, (t.engine c e).ended = r :: l →
      (cyc < r.t0 + r.pass.n + 287 → exec (.passVerdict c e cyc) s = .next t)
      ∧ ∀ t1 t2, t1 = (t.updEngine c e fun x => { x with ended := x.ended.drop 1 }) →
        t2 = (t1.updEngine c e fun x => { x with unchecked := satAdd 0xFFFF x.unchecked ((t.engine c e).finding r).unchecked }) →
        r.t0 + r.pass.n + 287 ≤ cyc →
        (r.pass.discard = true →
          exec (.passVerdict c e cyc) s = .next ((t1.freeStage c r.pass.id).updEngine c e fun x => x.dropSeries r.pass.series))
        ∧ (r.pass.discard = false → (((t.engine c e).finding r).bad || r.lbBad) = true →
          exec (.passVerdict c e cyc) s = .next (t2.mismatch c e r ((t.engine c e).finding r)))
        ∧ (r.pass.discard = false → (((t.engine c e).finding r).bad || r.lbBad) = false →
          exec (.passVerdict c e cyc) s = .next (t2.passOk c e r cyc)))

/-- Pre-emption is requested, becomes quiet and is withdrawn; counters clear; a divider changes at a pass boundary. After the core's clock has
moved: ENG_PREEMPT_REQ takes back a start of that cycle, sets the host's request and notes the cycle. ENG_PREEMPT_WITHDRAW clears the
host's request, and where it stood and no other stands the engine leaves QUIET and its next load is cold. ENGINE_QUIET of a pre-empted
engine with an empty array sets QUIET and the wait, once, and lets a due retirement take effect; of another it only moves the clock.
ENG_CTR_CLEAR with bit 0 written 1 sets the three efficiency counters to 0 and takes from later counts what has run of work and closing in
hand; with 0 it changes nothing. DIVIDER_CHANGE at full service gives the core the level's divider where an engine stands at a pass
boundary in that cycle, and else changes nothing. (04_matrix_engine.md, 05_engine_integrity.md, 18_clocks_power_bringup.md) -/
def Obligations.PreemptionStopsAndResumes : Prop :=
  (∀ (s : State) (c : CoreId) (e : EngId) (cyc : Nat),
    exec (.engPreemptReq c e cyc) s
      = .next ((s.clockTo c cyc).updEngine c e fun x => { x.unstart cyc with reqHost := true, reqCyc := cyc }))
  ∧ (∀ (s : State) (c : CoreId) (e : EngId) (cyc : Nat) (g : Engine → Engine),
      (∀ x, (x.reqHost = false ∨ ({ x with reqHost := false } : Engine).held = true) → g x = { x with reqHost := false }) →
      (∀ x, x.reqHost = true → ({ x with reqHost := false } : Engine).held = false →
        g x = { x with reqHost := false, quiet := false, coldNext := true, loaded := none, loading := none }) →
    exec (.engPreemptWithdraw c e cyc) s = .next ((s.clockTo c cyc).updEngine c e g))
  ∧ (∀ (s t : State) (c : CoreId) (e : EngId) (cyc : Nat), t = s.clockTo c cyc →
    ((t.engine c e).held = true → (t.engine c e).inArray = [] →
      exec (.engineQuiet c e cyc) s = .next ((t.updEngine c e fun x =>
        if x.quiet then x else { x with quiet := true, lastWait := min 0xFFFF (cyc - x.reqCyc) }).retireDue c e))
    ∧ (((t.engine c e).held = false ∨ (t.engine c e).inArray ≠ []) → exec (.engineQuiet c e cyc) s = .next t))
  ∧ (∀ (s : State) (c : CoreId) (e : EngId) (v : W64),
    (v.toNat % 2 = 1 → exec (.engCtrClear c e v) s = .next (s.updEngine c e fun x => { x with
        elapsed := 0, work := 0, close := 0, workCut := x.workRun (s.core c).lastCyc, closeCut := s.closeRun c e }))
    ∧ (v.toNat % 2 = 0 → exec (.engCtrClear c e v) s = .next s))
  ∧ (∀ (s : State) (c : CoreId) (cyc : Nat), 4 ≤ s.pow.phase → (s.core c).div ≠ s.level →
    (((s.engine c 0).inArray = [] ∨ (s.engine c 1).inArray = []) →
      exec (.dividerChange c cyc) s = .next (s.updCore c fun x => { x with div := s.level }))
    ∧ (∀ (e : EngId) (q : PrevPass), (s.engine c e).prev = some q → q.t0 = cyc →
      exec (.dividerChange c cyc) s = .next (s.updCore c fun x => { x with div := s.level })))
  ∧ (∀ (s : State) (c : CoreId) (cyc : Nat), (s.pow.phase < 4 ∨ (s.core c).div = s.level) → exec (.dividerChange c cyc) s = .next s)

/-- LB_ECC_ERROR counts, refetches or faults; SPILL_WRITE_DONE and STASH_READBACK move a stash block. LB_ECC_ERROR corrected counts one
correction; uncorrectable it changes nothing in an empty block, refetches a clean one, and raises the device-fatal fault in a dirty one.
SPILL_WRITE_DONE of a departed spill lands its bytes; a block still in flight of its entry is then spilled, the no-progress count is
cleared, and writes that waited for room are paid. STASH_READBACK, with a read-back block free, queues the transfer that reads the next
spilled block back from its place in the spill region. Each changes nothing where there is nothing to do. (06_core_and_governor.md) -/
def Obligations.LocalBufferErrorsAndSpills : Prop :=
  (∀ (s : State) (c : CoreId) (b : Fin 512),
    exec (.lbEccError c b false) s = .next (s.updCore c fun k => { k with lb := { k.lb with ce := satAdd 0xFFFF k.lb.ce 1 } })
    ∧ (s.blockContent c b.val = .empty → exec (.lbEccError c b true) s = .next s)
    ∧ (s.blockContent c b.val = .clean → exec (.lbEccError c b true) s = .next (s.cleanError c b.val))
    ∧ (s.blockContent c b.val ≠ .empty → s.blockContent c b.val ≠ .clean →
        exec (.lbEccError c b true) s = .next (s.raiseDev .deviceFatal 0x026 (unitNo 1 c.val) 0)))
  ∧ (∀ (s : State) (c : CoreId) (slot : Fin 8) (id b : Nat),
    ((s.core c).feed.queue.find? (fun x => x.departed && x.remote.isNone && x.stashOf .spill slot.val id b) = none →
      exec (.spillWriteDone c slot id b) s = .next s)
    ∧ (∀ x t, (s.core c).feed.queue.find? (fun x => x.departed && x.remote.isNone && x.stashOf .spill slot.val id b) = some x →
        t = (s.dropXfer c fun y => y.id == x.id).landWrite x →
      (kvFind (slot.val, id) (t.core c).lb.stash = none → exec (.spillWriteDone c slot id b) s = .next t)
      ∧ (∀ e, kvFind (slot.val, id) (t.core c).lb.stash = some e → e.inFlight.contains b = false →
          exec (.spillWriteDone c slot id b) s = .next t)
      ∧ (∀ e, kvFind (slot.val, id) (t.core c).lb.stash = some e → e.inFlight.contains b = true →
          exec (.spillWriteDone c slot id b) s = .next ((t.updCore c fun k => { k with
            blocked := 0
            lb := { k.lb.updStash slot.val id fun x => { x with
                inFlight := x.inFlight.filter (· != b), spilled := insNat b x.spilled } with freed := k.lb.freed + 1 } }).payAll c))))
  ∧ (∀ (s : State) (c : CoreId), (s.core c).lb.backUsed + (s.core c).feed.readbacks < s.field "MP_RB_BLOCKS" c.val →
    ((s.core c).nextBack = none → exec (.stashReadback c) s = .next s)
    ∧ (∀ slot id b, (s.core c).nextBack = some (slot, id, b) →
        exec (.stashReadback c) s = .next (s.pushXfer c
          { id := 0, kind := .readback, stream := .b, cls := 1, share := .read, target := .range (s.spillAddr c slot id b) 16384
            bytes := 16384, step := ((s.slot slot).map (·.step)).getD 0, index := slot * 2 ^ 16 + id, unit := b })))
  ∧ (∀ (s : State) (c : CoreId), s.field "MP_RB_BLOCKS" c.val ≤ (s.core c).lb.backUsed + (s.core c).feed.readbacks →
    exec (.stashReadback c) s = .next s)

/-- DEMAND_FETCH_BEGIN opens the next window, SLUICE_TICK lets transfers depart, TRANSFER_ARRIVE, RING_REPAIR and TAILRACE_ACK end them.
DEMAND_FETCH_BEGIN lets the next command of the stream's order fetch the units of its window, and on the backward stream that of the
deferred pool's order too. SLUICE_TICK refills the buckets, offers each head transfer in turn and drains the waiting writes.
TRANSFER_ARRIVE of a departed local transfer: dropped data leave; a read-back block stands in the Millpond; a tile of the ring or bytes of
a range arrive; a write, spill, slice or gradient does not arrive. RING_REPAIR rewrites the tile from its source and lets the fetch depart
again when it verifies, and counts the wait otherwise. TAILRACE_ACK of a departed local write whose page is ready frees its blocks and
lands the bytes unless they were dropped; a write that a final round holds is counted as held. (07_headrace_tailrace_sluice.md,
11_weir.md) -/
def Obligations.TransfersDepartAndStand : Prop :=
  (∀ (s t : State) (c : CoreId) (st : Stream) (go : State → List Cmd → State),
      (∀ a l, fetchNext l = none → go a l = a) → (∀ a l cmd, fetchNext l = some cmd → go a l = State.fetchWindow c 5 a cmd) →
      t = go s ((s.core c).streamOrder st) →
    exec (.demandFetchBegin c st) s = .next (if st = .b then go t (t.core c).poolOrder else t))
  ∧ (∀ (s t : State) (c : CoreId), t = s.updCore c (fun k => { k with feed := s.refill k.feed }) →
    exec (.sluiceTick c) s = .next (((t.heads c).foldl (State.offer c) t).drainAll c))
  ∧ (∀ (s : State) (c : CoreId) (id : Nat) (alt : Option (List Nat)),
    ((s.core c).feed.queue.find? (fun x => x.id == id && x.departed) = none → exec (.transferArrive c id alt) s = .next s)
    ∧ ∀ x, (s.core c).feed.queue.find? (fun x => x.id == id && x.departed) = some x →
      ((x.remote.isSome || x.repair) = true → exec (.transferArrive c id alt) s = .next s)
      ∧ (x.remote = none → x.repair = false → x.dropped = true →
          exec (.transferArrive c id alt) s = .next (s.dropXfer c fun y => y.id == id))
      ∧ (x.remote = none → x.repair = false → x.dropped = false →
          (x.kind = .write ∨ x.kind = .spill ∨ x.kind = .slice ∨ x.kind = .grad) → exec (.transferArrive c id alt) s = .next s)
      ∧ (x.remote = none → x.repair = false → x.dropped = false → x.kind = .readback → ∀ back : LocalBuf → LocalBuf,
          (∀ l, kvHas (x.index / 2 ^ 16, x.index % 2 ^ 16) l.stash = true →
            back l = l.updStash (x.index / 2 ^ 16) (x.index % 2 ^ 16) fun e => e.putBack x.unit x.data) →
          (∀ l, kvHas (x.index / 2 ^ 16, x.index % 2 ^ 16) l.stash = false → back l = l) →
          exec (.transferArrive c id alt) s = .next ((s.dropXfer c fun y => y.id == id).updCore c fun k => { k with lb := back k.lb }))
      ∧ (x.remote = none → x.repair = false → x.dropped = false → (x.kind = .demand ∨ x.kind = .prefetch ∨ x.kind = .hint) →
          (∀ tt tau v, x.target = .ring tt tau v →
            exec (.transferArrive c id alt) s = .next ((s.alterTile v tt tau alt).arriveRing c x tt tau v))
          ∧ (∀ a n, x.target = .range a n → exec (.transferArrive c id alt) s = .next (s.arriveRange c x a))))
  ∧ (∀ (s w : State) (c : CoreId) (id : Nat) (x : Transfer) (tt tau v : Nat),
      (s.core c).feed.queue.find? (fun x => x.id == id && x.repair) = some x → x.target = .ring tt tau v →
      w = (match s.sourceOf v tt tau with
        | some y => if s.tileHome tt tau = s.me then s.storeTile { y with version := v } else s
        | none => s) →
    (w.ringTile v tt tau = none → exec (.ringRepair c id) s = .next (w.coreStall c 21))
    ∧ ∀ z, w.ringTile v tt tau = some z →
      (w.checkOk tt z = true → wcDigest (w.wcFmt tt) (tileKey tt (w.tkOf tt tau) (w.tnOf tt tau)) v z.codes z.csums = z.digest →
        exec (.ringRepair c id) s = .next ((w.updXfer c id fun y => { y with repair := false, departed := false }).updWeir fun y =>
          { y with checkRepairs := satAdd 0xFFFF y.checkRepairs 1 }))
      ∧ ((w.checkOk tt z = false ∨ wcDigest (w.wcFmt tt) (tileKey tt (w.tkOf tt tau) (w.tnOf tt tau)) v z.codes z.csums ≠ z.digest) →
        exec (.ringRepair c id) s = .next (w.coreStall c 21)))
  ∧ (∀ (s : State) (c : CoreId) (id : Nat), (s.core c).feed.queue.find? (fun x => x.id == id && x.repair) = none →
    exec (.ringRepair c id) s = .next s)
  ∧ (∀ (s : State) (c : CoreId) (id a n : Nat) (x : Transfer),
      (s.core c).feed.queue.find? (fun x => x.id == id && x.departed && x.kind == .write) = some x → x.target = .range a n →
    ((x.remote.isSome || !(s.pageReady (pageOf a))) = true → exec (.tailraceAck c id) s = .next s)
    ∧ (x.remote = none → s.pageReady (pageOf a) = true → s.holdsWrites (pageOf a) = true →
        exec (.tailraceAck c id) s = .next s.countMoving)
    ∧ (x.remote = none → s.pageReady (pageOf a) = true → s.holdsWrites (pageOf a) = false →
        ∀ t, t = (s.dropXfer c fun y => y.id == id).updCore c (fun k => { k with
          lb := k.lb.freeBlocks x.blocks, blocked := if x.blocks = [] then k.blocked else 0 }) →
        exec (.tailraceAck c id) s = .next (if x.dropped then t else t.landWrite x)))
  ∧ (∀ (s : State) (c : CoreId) (id : Nat), (s.core c).feed.queue.find? (fun x => x.id == id && x.departed && x.kind == .write) = none →
    exec (.tailraceAck c id) s = .next s)

/-- ARB_DECISION decides, ARB_HOLD cuts an overlong grant, TURN_ESTIMATE tells the wait, ENGINE_WAKE wakes a gated engine. Each of the first
three first adds the requests raised by its cycle to the port. ARB_DECISION keeps the grant of an owner that keeps its request, and else
ends the grant and decides anew. ARB_HOLD of a grant that has lasted ARB_HOLD_LIMIT cycles ends it, flags its owner, counts the cut, which
the owner owes, decides anew, and raises the correctable fault with owner and class; before, or without an owner, it does no more.
TURN_ESTIMATE once another 256 cycles of the requester's wait have passed stores its estimate, counts the wait, and lets the waiting core
gate its engines; before, it does no more. ENGINE_WAKE of a gated engine at the grant or at its wake time ungates it, to run 16 core
cycles later, and else changes nothing. (07_headrace_tailrace_sluice.md) -/
def Obligations.ArbitersGrantAndCut : Prop :=
  (∀ (s t : State) (p : Fin 344) (cyc : Nat) (l : List ArbReq) (kept : Bool), t = s.arbJoin p.val cyc l →
    ((kept && (t.arb p.val).owner.isSome) = true → exec (.arbDecision p ⟨cyc, l⟩ kept) s = .next t)
    ∧ ((kept && (t.arb p.val).owner.isSome) = false →
        exec (.arbDecision p ⟨cyc, l⟩ kept) s = .next (t.updArb p.val fun a => (a.endGrant cyc).decide' cyc)))
  ∧ (∀ (s t : State) (p : Fin 344) (cyc : Nat) (l : List ArbReq), t = s.arbJoin p.val cyc l →
    ((t.arb p.val).owner = none → exec (.arbHold p ⟨cyc, l⟩) s = .next t)
    ∧ (∀ o, (t.arb p.val).owner = some o → cyc < (t.arb p.val).since + t.field "ARB_HOLD_LIMIT" p.val →
        exec (.arbHold p ⟨cyc, l⟩) s = .next t)
    ∧ (∀ o, (t.arb p.val).owner = some o → (t.arb p.val).since + t.field "ARB_HOLD_LIMIT" p.val ≤ cyc →
        exec (.arbHold p ⟨cyc, l⟩) s = .next ((t.updArb p.val fun x => Arb.decide' { x.endGrant cyc with
            flagged := insNat o (x.endGrant cyc).flagged, cuts := satAdd 0xFFFF (x.endGrant cyc).cuts 1
            cutOwed := addNew o (x.endGrant cyc).cutOwed } cyc).raiseDev .correctable 0x030 (unitNo 12 p.val)
          (fld 0 6 o + fld 8 3 (t.arb p.val).ownerCls))))
  ∧ (∀ (s t : State) (p : Fin 344) (r cyc : Nat) (l : List ArbReq), t = s.arbJoin p.val cyc l →
    ((t.arb p.val).waiting.find? (fun w => w.requester == r) = none → exec (.turnEstimate p r ⟨cyc, l⟩) s = .next t)
    ∧ ∀ w, (t.arb p.val).waiting.find? (fun w => w.requester == r) = some w →
      (cyc < w.arrived + 256 * (w.told + 1) → exec (.turnEstimate p r ⟨cyc, l⟩) s = .next t)
      ∧ ∀ u, u = (t.updArb p.val fun x => { x with
          estimates := kvPut r ((t.arb p.val).estimate w cyc) x.estimates
          waiting := x.waiting.map fun (y : ArbWait) => if y.requester = r then { y with told := y.told + 1 } else y }).countGrant p.val r →
        w.arrived + 256 * (w.told + 1) ≤ cyc →
        (∀ c, waitCore p.val r = some c → exec (.turnEstimate p r ⟨cyc, l⟩) s = .next (u.gateEngines c))
        ∧ (waitCore p.val r = none → exec (.turnEstimate p r ⟨cyc, l⟩) s = .next u))
  ∧ (∀ (s : State) (c : CoreId) (e : EngId) (cyc : Nat), (s.engine c e).gated = true →
      (((s.arb ((s.engine c e).gatedBy / 64)).waiting.any fun w => w.requester == (s.engine c e).gatedBy % 64) = false
        ∨ (s.engine c e).wakeAt ≤ cyc) →
    exec (.engineWake c e cyc) s = .next ((s.clockTo c cyc).updEngine c e fun x => { x with gated := false, wakeAt := cyc + 16 }))
  ∧ (∀ (s : State) (c : CoreId) (e : EngId) (cyc : Nat), (s.engine c e).gated = false → exec (.engineWake c e cyc) s = .next s)

/-- Page moves start by heat, pass, flip and free their source frame; HEAT_DECAY halves every heat. PAGE_MOVE_START starts moves while
MIG_ENABLE is set, up to eight, and changes nothing while it is 0. HEAT_DECAY halves every HEAT. MIGRATION_PASS_END begins the final round
with eight or fewer dirty sectors or after the third round, and else another round over the dirty sectors. PAGE_FLIP in the final round
makes the entry name the target, copies the frame, forgets the page in every translation cache, counts the move and the longest hold,
which is a free value, sends held writes to the target and serves waiting accesses. SOURCE_FRAME_FREE frees the source frame of a flipped
move once no access translated to it is under way. Each changes nothing on an empty slot or before its time. (08_memory_tiers.md) -/
def Obligations.MigrationMovesAPage : Prop :=
  (∀ s : State, (s.field "MIG_ENABLE" = 0 → exec .pageMoveStart s = .next s)
    ∧ (s.field "MIG_ENABLE" ≠ 0 → exec .pageMoveStart s = .next (s.startMoves 8))
    ∧ exec .heatDecay s = .next (s.updTier fun t => { t with pages := kvMap (fun _ e => { e with heat := e.heat / 2 }) t.pages }))
  ∧ (∀ (s : State) (k : Fin 8), kvFind k.val s.tier.migs = none →
    exec (.migrationPassEnd k) s = .next s ∧ exec (.pageFlip k) s = .next s ∧ exec (.sourceFrameFree k) s = .next s)
  ∧ (∀ (s : State) (k : Fin 8) (m : Mig), kvFind k.val s.tier.migs = some m →
    ((m.final || m.flipped) = true → exec (.migrationPassEnd k) s = .next s)
    ∧ ((m.final || m.flipped) = false → (m.dirty.length ≤ 8 ∨ 3 ≤ m.round) →
        exec (.migrationPassEnd k) s = .next (s.updTier fun t => { t with
          migs := kvPut k.val { m with work := some m.dirty, pos := 0, dirty := [], final := true } t.migs }))
    ∧ ((m.final || m.flipped) = false → 8 < m.dirty.length → m.round < 3 →
        exec (.migrationPassEnd k) s = .next (s.updTier fun t => { t with
          migs := kvPut k.val { m with work := some m.dirty, pos := 0, dirty := [], round := m.round + 1 } t.migs }))
    ∧ ((m.final = false ∨ m.flipped = true) → exec (.pageFlip k) s = .next s)
    ∧ (m.final = true → m.flipped = false →
        exec (.pageFlip k) s = .next ((((s.tick.updPage m.page fun e => { e with state := .resident, loc := m.target }).updTier fun t =>
          { t.forget m.page with
            mem := copyFrame m.source m.target t.mem
            migs := kvPut k.val { m with flipped := true, dirty := [], work := some [], waits := s.flights m.page } t.migs
            moves := satAdd 0xFFFFFFFF t.moves 1, heldMax := max t.heldMax (Config.freeNat s.fresh % 2 ^ 16) }).redirect m.page
          m.target).serveAsks))
    ∧ (m.flipped = true → (m.waits.all fun w => !(s.flights m.page).contains w) = true →
        exec (.sourceFrameFree k) s = .next (s.updTier fun t => { t with
          migs := kvDel k.val t.migs, used := t.used.filter (· != m.source)
          mem := cellsOut (physOf m.source 0) (2 ^ 21) t.mem }))
    ∧ ((m.flipped = false ∨ (m.waits.all fun w => !(s.flights m.page).contains w) = false) →
        exec (.sourceFrameFree k) s = .next s))

/-- Memory errors retire or fault pages, links go down and return, refills restore, and late accesses count. HBM_ECC_ERROR uncorrectable
retires the frame and asks for the tiles that are lost; corrected it changes nothing. HBM_PATROL does so for each uncorrectable finding.
PAGE_REFILL_DONE refills a faulted page whose standby page was rewritten, or all of whose tiles have come; TIER_REFILL_DONE a faulted
COPY_HOST page; else they change nothing. CXL_POISON counts at the page's port and faults the page, CXL_COMPLETION_TIMEOUT faults it.
CXL_LINK_DOWN marks the port down and abandons moves into it; CXL_LINK_RETURN trains a port that never trained where it may, and else
brings it up, counts and serves what waited; CXL_DOWN_LIMIT once the limit has passed faults every page of the port. ACCESS_LATE counts by
tier. (08_memory_tiers.md) -/
def Obligations.PooledLinksMemoryErrorsAndRefills : Prop :=
  (∀ (s : State) (k : StackId) (f : Nat),
    exec (.hbmEccError k f true) s = .next ((s.retireFrame { tier := .hbm, unit := k.val, frame := f }).askLost s)
    ∧ exec (.hbmEccError k f false) s = .next s)
  ∧ (∀ (s : State) (bad : List (StackId × Nat × Bool)), exec (.hbmPatrol bad) s = .next ((bad.foldl (fun a b =>
      if b.2.2 then a.retireFrame { tier := .hbm, unit := b.1.val, frame := b.2.1 } else a) s).askLost s))
  ∧ (∀ (s : State) (p : Nat),
    ((s.faultedKind p (· == 4) || (s.faultedKind p (· == 3) && (s.tilesOn p).all s.tileThere)) = true →
      exec (.pageRefillDone p) s = .next (s.refillPage p))
    ∧ ((s.faultedKind p (· == 4) || (s.faultedKind p (· == 3) && (s.tilesOn p).all s.tileThere)) = false →
      exec (.pageRefillDone p) s = .next s))
  ∧ (∀ (s : State) (v : W64),
    (s.faultedKind (v.toNat % 2 ^ 35) (· == 2) = true → exec (.tierRefillDone v) s = .next (s.refillPage (v.toNat % 2 ^ 35)))
    ∧ (s.faultedKind (v.toNat % 2 ^ 35) (· == 2) = false → exec (.tierRefillDone v) s = .next s))
  ∧ (∀ (s : State) (p : Nat),
    (s.cxlPortOf p = none → exec (.cxlPoison p) s = .next s ∧ exec (.cxlCompletionTimeout p) s = .next s)
    ∧ (∀ k, s.cxlPortOf p = some k →
      exec (.cxlPoison p) s = .next (((s.updTier fun t => { t with
          cxl := kvMod {} k (fun x => { x with poison := satAdd 0xFFFF x.poison 1 }) t.cxl }).faultPage p).askLost s)
      ∧ exec (.cxlCompletionTimeout p) s = .next ((s.faultPage p).askLost s)))
  ∧ (∀ (s : State) (p : CxlId) (at' : Nat),
    ((s.cxl p).up = true → exec (.cxlLinkDown p at') s = .next (((s.updCxl p fun x =>
        { x with up := false, downWait := true, downAt := at' }).abandonMoves fun m => m.target.tier == .cxl && m.target.unit == p.val).at' at')
      ∧ exec (.cxlLinkReturn p at') s = .next s)
    ∧ ((s.cxl p).up = false → exec (.cxlLinkDown p at') s = .next s)
    ∧ ((s.cxl p).up = false → (s.cxl p).gen = 0 → (s.cxl p).perstN = true → 4 ≤ s.pow.phase →
        exec (.cxlLinkReturn p at') s = .next ((s.trainCxl p).at' at'))
    ∧ ((s.cxl p).up = false → (s.cxl p).gen = 0 → ((s.cxl p).perstN = false ∨ s.pow.phase < 4) →
        exec (.cxlLinkReturn p at') s = .next s)
    ∧ ((s.cxl p).up = false → (s.cxl p).gen ≠ 0 →
        exec (.cxlLinkReturn p at') s = .next ((s.updCxl p fun x =>
          { x with up := true, downWait := false, retrains := satAdd 0xFFFF x.retrains 1 }).serveAsks.at' at'))
    ∧ (((s.cxl p).downWait && (s.cxl p).downAt + s.cxlLimit p ≤ at') = true →
        exec (.cxlDownLimit p at') s = .next ((((s.updCxl p fun x => { x with downWait := false }).faultWhere fun l =>
          l.tier == .cxl && l.unit == p.val).askLost s).at' at'))
    ∧ (((s.cxl p).downWait && (s.cxl p).downAt + s.cxlLimit p ≤ at') = false → exec (.cxlDownLimit p at') s = .next s))
  ∧ (∀ (s : State) (ns : Nat) (b : Bool),
    exec (.accessLate 0 ns b) s = .next (s.updTier fun t => { t with lateHbm := lateCount (s.field "LATE_HBM_NS") ns b t.lateHbm })
    ∧ exec (.accessLate 1 ns b) s = .next (s.updTier fun t => { t with lateCxl := lateCount (s.field "LATE_CXL_NS") ns b t.lateCxl })
    ∧ exec (.accessLate 2 ns b) s = .next (s.updTier fun t => { t with lateRemote := lateCount (s.field "LATE_REMOTE_NS") ns b t.lateRemote })
    ∧ ∀ n, 3 ≤ n → exec (.accessLate n ns b) s = .next (s.updTier fun t => t))

/-- LKP_REQ holds or serves, LKP_RSP records an outcome, LOOKUP_HOLD_RELEASE serves what was held, INDEX_FAULT_REPORT records the fault.
LKP_REQ of a step that is aborting is dropped, and else held or served. LKP_RSP for a unit that is gone is dropped; one without a row
record records the fault, else the record is decoded and taken and complete units are delivered. LOOKUP_HOLD_RELEASE serves, in order, the
held requests whose version the Quern has reached, keeps the others and delivers complete units. INDEX_FAULT_REPORT of a unit with every
outcome known and a fault among them drops the unit, stops its command there and records the fault of the first faulty item; else it
changes nothing. (09_quern_lookups.md) -/
def Obligations.LookupsAreServedByVersion : Prop :=
  (∀ (s : State) (r : LkpReq), ((s.stepOf r.step).st = .aborting → exec (.lkpReq r) s = .next s)
    ∧ ((s.stepOf r.step).st ≠ .aborting → exec (.lkpReq r) s = .next (s.holdOrServe r)))
  ∧ (∀ (s : State) (r : LkpRsp), (s.unitOf r.ref = none → exec (.lkpRsp r) s = .next s)
    ∧ ∀ u, s.unitOf r.ref = some u →
      (r.record = none → exec (.lkpRsp r) s = .next (s.setOutcome u.ref (u.itemFor r.row) (.fault 1)))
      ∧ ∀ x, r.record = some x →
        exec (.lkpRsp r) s = .next (s.takeRecord (s.frontQ u.core) u.step u.table u.ref (u.itemFor r.row) x).deliverAll)
  ∧ (∀ (s : State) (q : QuernId), exec (.lookupHoldRelease q) s = .next
      (((s.quern q).held.filter fun r => s.reads r.step ≤ (s.quern q).doneVersion).foldl State.serve (s.updQuern q fun x =>
        { x with held := x.held.filter fun r => (s.quern q).doneVersion < s.reads r.step })).deliverAll)
  ∧ (∀ (s : State) (ref : Nat),
    (s.units.find? (fun u => u.ref == ref) = none → exec (.indexFaultReport ref) s = .next s)
    ∧ ∀ u, s.units.find? (fun u => u.ref == ref) = some u →
      (u.known = false → exec (.indexFaultReport ref) s = .next s)
      ∧ ∀ bad : LkpItem → Option (LkpItem × Nat),
        (∀ x k, x.out = .fault k → bad x = some (x, k)) → (∀ x, (∀ k, x.out ≠ .fault k) → bad x = none) → u.known = true →
        (u.items.findSome? bad = none → exec (.indexFaultReport ref) s = .next s)
        ∧ ∀ f, u.items.findSome? bad = some f →
          exec (.indexFaultReport ref) s = .next ((({ s with units := s.units.filter fun x => x.ref != ref } : State).updCore u.core fun k =>
            k.stopCmd u.stream u.step u.index u.unit).qrnFault (s.frontQ u.core) (0x040 + f.2) u.step
              (qrnDetail u.table f.1.bag f.1.pos f.2 u.core.val u.mb) f.1.index))

/-- GRIST_ADD, GRIST_SLOT_FREE and GATHER_END build the step's sets; REPL_SUM takes replica sums after the decision. GRIST_ADD gives the
contribution to its home Quern. GRIST_SLOT_FREE takes the contributions that waited, in order, as far as they find a set slot, and counts
each that waits again. GATHER_END keeps the member's marker of an open step, and discards that of an aborting or sealed one. REPL_SUM with
good content is acknowledged; on APPLY it takes effect, on SKIP or of an aborting step it is discarded, and before the decision it is
held; with bad content the same happens without the acknowledgement. (10_grist_sparse_updates.md) -/
def Obligations.GradientsAreGathered : Prop :=
  (∀ (s : State) (g : Contribution), exec (.gristAdd g) s = .next (s.gristAccept g))
  ∧ (∀ (s : State) (q : QuernId), exec (.gristSlotFree q) s = .next ((s.quern q).waiting.foldl (fun t g =>
      if t.slotFor q g.step then t.gristTake q g
      else t.updQuern q fun k => { k with
        waiting := k.waiting ++ [g], fullWait := satAdd 0xFFFFFFFF k.fullWait 1, stall := stallCount 18 k.stall })
      (s.updQuern q fun k => { k with waiting := [] })))
  ∧ (∀ (s : State) (q : QuernId) (m : GatherMarker),
    (((s.stepOf m.step).st = .aborting ∨ m.step ≤ s.ctl.sealed) → exec (.gatherEnd q m) s = .next s)
    ∧ ((s.stepOf m.step).st ≠ .aborting → s.ctl.sealed < m.step →
      exec (.gatherEnd q m) s = .next (s.updSet q m.step fun x => { x with markers := kvPut m.src m.count x.markers })))
  ∧ (∀ (s t : State) (tag : Nat) (m : ReplMsg), t = (if replGood m then s.emit [.ack (replSrc m) tag] else s) →
    ((s.stepOf (replStep m)).decided = some .apply → exec (.replSum tag m) s = .next ((t.replTake m).tryDone (replStep m)))
    ∧ ((s.stepOf (replStep m)).decided = some .skip → exec (.replSum tag m) s = .next t)
    ∧ ((s.stepOf (replStep m)).decided ≠ some .apply → (s.stepOf (replStep m)).decided ≠ some .skip →
        (s.stepOf (replStep m)).st = .aborting → exec (.replSum tag m) s = .next t)
    ∧ ((s.stepOf (replStep m)).decided ≠ some .apply → (s.stepOf (replStep m)).decided ≠ some .skip →
        (s.stepOf (replStep m)).st ≠ .aborting →
        exec (.replSum tag m) s = .next { t with repl := { t.repl with held := t.repl.held ++ [m] } }))

/-- SLICE_ARRIVE, RED_NODE and SLICE_RESEND: good content is placed, bad slices are asked for again. While Weir withholds credits SLICE_ARRIVE
and RED_NODE change nothing. A slice with a good CRC leaves its core's staging, is counted, and is accepted as a node; one with a bad CRC
is counted and refused to its core, and the third time rejected with SLICE_CRC. A node of another device with a good CRC is accepted, and
one with a bad CRC changes nothing. SLICE_RESEND sends the staged slice again, and changes nothing where none is staged. (11_weir.md) -/
def Obligations.SlicesAndNodesAreChecked : Prop :=
  (∀ (s : State) (x : Slice), s.weir.creditHeld = true → exec (.sliceArrive x) s = .next s)
  ∧ (∀ (s : State) (x : Slice), s.weir.creditHeld = false → crc32c (f32Bytes x.payload) = x.crc →
    exec (.sliceArrive x) s = .next (((s.unstage x).updWeir fun w => { w with
        sliceTries := kvDel (s.sliceKey x, x.src) w.sliceTries, slices := satAdd 0xFFFFFFFF w.slices 1 }).acceptNode (s.sliceKey x)
      x.src s.me x.layEpoch x.ctx x.payload))
  ∧ (∀ (s t : State) (x : Slice) (n : Nat), s.weir.creditHeld = false → crc32c (f32Bytes x.payload) ≠ x.crc →
      n = kvGet 0 (s.sliceKey x, x.src) s.weir.sliceTries + 1 →
      t = (s.updWeir fun w => { w with
        sliceTries := kvPut (s.sliceKey x, x.src) n w.sliceTries, crcResends := satAdd 0xFFFF w.crcResends 1 }).emit
          [.sliceAck x.src x.step x.mb x.tensor x.tileK x.tileN false] →
    (n = 3 → exec (.sliceArrive x) s = .next (t.weirReject 0x050 x.step x.tensor (s.sliceKey x).tau (s.sliceKey x).index 0))
    ∧ (n ≠ 3 → exec (.sliceArrive x) s = .next t))
  ∧ (∀ (s : State) (n : RedNode),
    (s.weir.creditHeld = true → exec (.redNode n) s = .next s)
    ∧ (s.weir.creditHeld = false → crc32c (f32Bytes n.vals) ≠ n.crc → exec (.redNode n) s = .next s)
    ∧ (s.weir.creditHeld = false → crc32c (f32Bytes n.vals) = n.crc →
      exec (.redNode n) s = .next (s.acceptNode (s.redKey n) n.src (s.nodeDest (s.redKey n)) n.layEpoch n.ctx n.vals)))
  ∧ (∀ (s : State) (c : CoreId) (e : EngId) (n mb t k l : Nat),
    ((s.engine c e).slices.find? (fun y => y.step == n && y.mb == mb && y.tensor == t && y.tileK == k && y.tileN == l) = none →
      exec (.sliceResend c e n mb t k l) s = .next s)
    ∧ ∀ y, (s.engine c e).slices.find? (fun y => y.step == n && y.mb == mb && y.tensor == t && y.tileK == k && y.tileN == l) = some y →
      exec (.sliceResend c e n mb t k l) s = .next (s.emit [.slice y]))

/-- ROOT_RETAIN and RET_ROOT retain a root at home and mirror; CANDIDATE_FORM forms the tile's candidate. ROOT_RETAIN of a root that is there,
with a retention slot free, retains it and sends it to the mirror under acknowledgement; without a free slot it counts the stall
WEIR_RET_FULL; without the root it changes nothing. RET_ROOT with a bad CRC or of an aborting step is dropped; at a device that does not
mirror the tile, unless it rolls the step forward as the tile's home, it is rejected as misrouted; else it is retained and acknowledged,
or without a free slot counts the stall. CANDIDATE_FORM with the root retained, the master current and no candidate of the step yet writes
the staged frame of the tile, notes events and the maximum, and sets OPT as the frame asks; else it changes nothing. (11_weir.md) -/
def Obligations.RootsAreRetainedAndCandidatesFormed : Prop :=
  (∀ (s : State) (n t k l : Nat) (m : Nat), m = s.tileMirror t (s.tauOf t k l) →
    (kvFind (n, t, s.tauOf t k l) s.weir.roots = none → exec (.rootRetain n t k l) s = .next s)
    ∧ ∀ v, kvFind (n, t, s.tauOf t k l) s.weir.roots = some v →
      (s.retFree n = true → exec (.rootRetain n t k l) s = .next ((s.retain n t (s.tauOf t k l) v).emitAcked m fun tag => .retRoot m
          { src := s.me, tag := tag, step := n, tensor := t, tileK := k, tileN := l,
            crc := crc32c (f32Bytes v), vals := v, layEpoch := (s.stepOf n).layEpoch }))
      ∧ (s.retFree n = false → exec (.rootRetain n t k l) s = .next (s.weirStall [20])))
  ∧ (∀ (s : State) (r : RetRoot), (crc32c (f32Bytes r.vals) ≠ r.crc ∨ (s.stepOf r.step).st = .aborting) →
    exec (.retRoot r) s = .next s)
  ∧ (∀ (s : State) (r : RetRoot) (tau : Nat), tau = s.tauOf r.tensor r.tileK r.tileN →
      crc32c (f32Bytes r.vals) = r.crc → (s.stepOf r.step).st ≠ .aborting →
    (s.tileMirror r.tensor tau ≠ s.me → (s.tileHome r.tensor tau ≠ s.me ∨ (s.stepOf r.step).rolled = false) →
      exec (.retRoot r) s = .next (s.weirReject 0x051 r.step r.tensor tau 0 1))
    ∧ ((s.tileMirror r.tensor tau = s.me ∨ (s.tileHome r.tensor tau = s.me ∧ (s.stepOf r.step).rolled = true)) →
      (s.retFree r.step = true → exec (.retRoot r) s = .next ((s.retain r.step r.tensor tau r.vals).emit [.ack r.src r.tag]))
      ∧ (s.retFree r.step = false → exec (.retRoot r) s = .next (s.weirStall [20]))))
  ∧ (∀ (s : State) (n t k l tau : Nat), tau = s.tauOf t k l →
    (kvFind (n, t, tau) s.weir.retained = none → exec (.candidateForm n t k l) s = .next s)
    ∧ ((s.masterCurrent n = false ∨ (s.tile t tau).cand = some n) → exec (.candidateForm n t k l) s = .next s)
    ∧ ∀ g p z u, kvFind (n, t, tau) s.weir.retained = some g → s.masterCurrent n = true → (s.tile t tau).cand ≠ some n →
      p = s.prelude n t → z = s.candFrame n t p.1 (s.tile t tau).current g →
      u = ((s.updWeir fun w => { w with scalars := kvPut t p.1 w.scalars }).updTile t tau fun x => { x.setStaged z.1 with cand := some n }) →
      exec (.candidateForm n t k l) s = .next
        (((u.weirEv n (evAdd p.2 z.2)).noteMax n t tau z.1).markFlags n { opt := s.candOpt n t p.1 z.1 }))

/-- SCALE_SET_DERIVE derives once, SCALE_SET_ARRIVE, WC_TILE and WC_RESEND check and store the new version. SCALE_SET_DERIVE at the vote root
of an applied step, with every weight maxima record there and the step's set not yet taken, derives the set from the decision's maxima and
the weight maxima, counts its clamps and accepts it; else it changes nothing. SCALE_SET_ARRIVE of a version that is arriving is accepted
and acknowledged when its digest is right and handled as bad otherwise; of another version it changes nothing. WC_TILE is counted and
passed on; of a version without a slot it does no more; with its digest right it is stored, acknowledged and may complete a version, else
it is handled as bad. WC_RESEND sends the tile's source copy of its version, and changes nothing without one.
(03_scales_and_narrow_weights.md, 11_weir.md) -/
def Obligations.WorkingCopiesAndScaleSetsArrive : Prop :=
  (∀ (s : State) (n : Nat), s.isRoot = true → (s.stepOf n).decided = some .apply → s.weightsAll n = true → s.weir.ssChecked.contains n = false →
    exec (.scaleSetDerive n) s = .next ((s.updWeir fun w => { w with
      clamps := satAdd 0xFFFF w.clamps (s.scaleNext n false (((kvFind n s.ctl.rootDecided).map (·.maxima)).getD []) (s.weightsMax n)).1.2 }).acceptSet
      (s.scaleNext n false (((kvFind n s.ctl.rootDecided).map (·.maxima)).getD []) (s.weightsMax n)).1.1))
  ∧ (∀ (s : State) (n : Nat), (s.isRoot = false ∨ (s.stepOf n).decided ≠ some .apply ∨ s.weightsAll n = false
      ∨ s.weir.ssChecked.contains n = true) → exec (.scaleSetDerive n) s = .next s)
  ∧ (∀ (s : State) (tag : Nat) (x : ScaleSet),
    (s.entryOf x.version = none → exec (.scaleSetArrive tag x) s = .next s)
    ∧ (s.entryOf x.version ≠ none → setGood x = true →
        exec (.scaleSetArrive tag x) s = .next ((s.acceptSet x).emit [.ack (s.voteParent s.me) tag]))
    ∧ (s.entryOf x.version ≠ none → setGood x = false → exec (.scaleSetArrive tag x) s = .next (s.badSet x.version)))
  ∧ (∀ (s t : State) (x : WcTile), t = (s.updWeir fun w => { w with bcastTiles := satAdd 0xFFFFFFFF w.bcastTiles 1 }).emit
      ((s.wcTargets x.tensor x.src).map fun d => .wcTile d x) →
    (s.wcSlotOf x.version x.tensor = none → exec (.wcTile x) s = .next t)
    ∧ (s.wcSlotOf x.version x.tensor ≠ none →
        wcDigest (s.wcFmt x.tensor) (tileKey x.tensor x.tileK x.tileN) x.version x.codes x.csums = x.digest →
        exec (.wcTile x) s = .next ((t.storeTile x).emit [.ack x.src x.tag]).tryInstall)
    ∧ (s.wcSlotOf x.version x.tensor ≠ none →
        wcDigest (s.wcFmt x.tensor) (tileKey x.tensor x.tileK x.tileN) x.version x.codes x.csums ≠ x.digest →
        exec (.wcTile x) s = .next (t.badTile x)))
  ∧ (∀ (s : State) (d : DevId) (t k l v : Nat),
    (∀ x, s.sourceOf v t (s.tauOf t k l) = some x → exec (.wcResend d t k l v) s = .next (s.emit [.wcTile d x]))
    ∧ (s.sourceOf v t (s.tauOf t k l) = none → exec (.wcResend d t k l v) s = .next s))

/-- DIGEST is acknowledged and taken; repairs, replays and rebuilds are settled by their comparisons. DIGEST acknowledges the frame to its
sender and takes it. REPLICA_REPAIR_DONE of a repair that is ready installs the entry when no other reference stands or the repaired
content agrees with it, and raises REPLICA_FAULT when it differs; without such a repair it changes nothing. REPLAY_REQUEST of a member
makes the vote root issue the order for its step, once, and else changes nothing; REPLAY takes the order. REBUILD_REDO with equal earlier
leaves ends the rebuild when the redone leaf equals the partner's, and otherwise drops it and raises MASTER_DIVERGE where the unit
diverges; with different earlier leaves it asks host software once. REBUILD_HOST_LIMIT drops the rebuilds whose asked content is late and
raises MASTER_DIVERGE for each that diverges. (12_step_commit.md) -/
def Obligations.DigestsRepairsAndReplays : Prop :=
  (∀ (s : State) (tag : Nat) (f : DigestFrame), exec (.digest tag f) s = .next ((s.emit [.ack (digestSrc f) tag]).takeDigest f))
  ∧ (∀ (s : State) (n : Nat) (rows : Bool) (t h : Nat),
    ((((s.digestOf n).repairing.any fun x => x.1 == rows && x.2.1 == t && x.2.2.1 == h) = false ∨ s.repairReady n rows t = false) →
      exec (.replicaRepairDone n rows t h) s = .next s)
    ∧ (((s.digestOf n).repairing.any fun x => x.1 == rows && x.2.1 == t && x.2.2.1 == h) = true → s.repairReady n rows t = true →
      ((s.digestOf n).refs.find? (fun x => x.1 == rows && x.2.1 == t && x.2.2.1 == h) = none →
        exec (.replicaRepairDone n rows t h) s = .next (s.repairOk n rows t h))
      ∧ ∀ x, (s.digestOf n).refs.find? (fun x => x.1 == rows && x.2.1 == t && x.2.2.1 == h) = some x →
        ((x.2.2.2 = [] ∨ x.2.2.2 = s.repaired n rows t h) →
          exec (.replicaRepairDone n rows t h) s = .next (s.repairOk n rows t h))
        ∧ (x.2.2.2 ≠ [] → x.2.2.2 ≠ s.repaired n rows t h →
          exec (.replicaRepairDone n rows t h) s = .next (s.raise .deviceFatal 0x061 (unitNo 4 0) n t))))
  ∧ (∀ (s : State) (d : DevId) (n : Nat),
    (s.isRoot = true → d ∈ s.ctl.members → s.orderKnown "REPLAY" (s.orderFor (n + 1 + s.lag)) = false →
      exec (.replayRequest d n) s = .next (s.issueOrder "REPLAY" (s.orderFor (n + 1 + s.lag))).settled)
    ∧ ((s.isRoot = false ∨ d ∉ s.ctl.members ∨ s.orderKnown "REPLAY" (s.orderFor (n + 1 + s.lag)) = true) →
      exec (.replayRequest d n) s = .next s))
  ∧ (∀ (s : State) (o : OrderMsg), exec (.replay o) s = .next (s.takeOrder "REPLAY" o))
  ∧ (∀ (s : State) (key : Nat) (pre leaf : List Byte),
    (s.weir.rebuilding.find? (fun r => r.key == key) = none → exec (.rebuildRedo key pre leaf) s = .next s)
    ∧ ∀ r, s.weir.rebuilding.find? (fun r => r.key == key) = some r →
      (leafOf r.pre ≠ pre → (r.fromHost = true ∨ r.askedAt ≠ none) → exec (.rebuildRedo key pre leaf) s = .next s)
      ∧ (leafOf r.pre ≠ pre → r.fromHost = false → r.askedAt = none →
        exec (.rebuildRedo key pre leaf) s = .next (s.updRebuild key fun x => { x with askedAt := some s.now }))
      ∧ (leafOf r.pre = pre → s.redoLeaf r.step key r.pre = leaf → exec (.rebuildRedo key pre leaf) s = .next (s.endRebuild r))
      ∧ ∀ t, t = (s.updWeir fun w => { w with rebuilding := w.rebuilding.filter fun x => x.key != key }) →
        leafOf r.pre = pre → s.redoLeaf r.step key r.pre ≠ leaf →
        exec (.rebuildRedo key pre leaf) s
          = .next (if s.diverges key then t.raise .deviceFatal 0x063 (unitNo 4 0) r.step key else t))
  ∧ (∀ (s : State) (at' : Nat) (late : Rebuild → Bool),
      (∀ r t, r.askedAt = some t →
        late r = (!r.fromHost && decide (t + s.field "REBUILD_HOST_LIMIT" * 1000000 ≤ at'))) →
      (∀ r, r.askedAt = none → late r = false) →
    exec (.rebuildHostLimit at') s = .next ((s.weir.rebuilding.filter late).foldl (fun a r =>
        if s.diverges r.key then a.raise .deviceFatal 0x063 (unitNo 4 0) r.step r.key else a)
      ((s.at' at').updWeir fun w => { w with
        rebuilding := w.rebuilding.filter fun r => !(s.weir.rebuilding.filter late).contains r })))

/-- BARRIER_SEND sends the barrier word once; BARRIER, MOVE, SHARD_XFER, DONE, FLIP and LAYOUT_CANCEL carry the layout change on. BARRIER_SEND
with the step before the barrier's target sealed, its word not yet sent and the job not halted sends the word once and moves the layout
state to BARRIER unless a context switch is the target; else it changes nothing. BARRIER and DONE of a child join the word and settle what
waits on it; of a device that is no child they change nothing. MOVE, FLIP and LAYOUT_CANCEL take the order of their kind. SHARD_XFER whose
digest and copies are good is acknowledged, taken in as a replica or a shard, and settled; a bad one is counted, the first time raising
MOVE_DIGEST and after that MOVE_FAULT. (12_step_commit.md) -/
def Obligations.ReshardBarrierAndMove : Prop :=
  (∀ (s : State) (n : Nat), s.barrierTarget = some n → s.ctl.sealed + 1 = n → s.ctl.layout.barrierSent = false → s.ctl.halted = false →
    exec .barrierSend s = .next (((s.updLayout fun l => { l with
      barrierSent := true, lstate := if s.ctl.switchTarget.isSome then l.lstate else .barrier }).takeBarrier s.me (s.ownBarrier n)).settled))
  ∧ (∀ s : State, s.barrierTarget = none → exec .barrierSend s = .next s)
  ∧ (∀ (s : State) (n : Nat), s.barrierTarget = some n →
      (s.ctl.sealed + 1 ≠ n ∨ s.ctl.layout.barrierSent = true ∨ s.ctl.halted = true) → exec .barrierSend s = .next s)
  ∧ (∀ (s : State) (w : BarrierWord),
    (w.child ∈ s.voteChildren s.me → exec (.barrier w) s = .next (s.takeBarrier w.child w).settled
      ∧ exec (.done w) s = .next (s.takeDone w.child w).settled)
    ∧ (w.child ∉ s.voteChildren s.me → exec (.barrier w) s = .next s ∧ exec (.done w) s = .next s))
  ∧ (∀ (s : State) (o : OrderMsg), exec (.move o) s = .next (s.takeOrder "MOVE" o) ∧ exec (.flip o) s = .next (s.takeOrder "FLIP" o)
    ∧ exec (.layoutCancel o) s = .next (s.takeOrder "CANCEL" o))
  ∧ (∀ (s : State) (x : ShardXfer), moveDigest x.epoch x.units = x.digest → s.copiesGood x.units = true →
    exec (.shardXfer x) s = .next (if xferReplica x then (s.emit [.ack x.src x.tag]).takeReplicas x
      else (s.emit [.ack x.src x.tag]).takeShard x).settled)
  ∧ (∀ (s t : State) (x : ShardXfer) (n : Nat), (moveDigest x.epoch x.units ≠ x.digest ∨ s.copiesGood x.units = false) →
      n = kvGet 0 (xferKind x, x.table, x.shard, x.src) s.ctl.layout.xferTries + 1 →
      t = s.updLayout (fun l => { l with xferTries := kvPut (xferKind x, x.table, x.shard, x.src) n l.xferTries }) →
    exec (.shardXfer x) s = .next (if n = 1 then t.raise .correctable 0x068 (unitNo 4 0) 0 x.table
      else t.raiseDev .deviceFatal 0x069 (unitNo 4 0) x.table))

/-- LINK_TRAIN, LINK_INIT, LINK_DOWN and POP_RETRAIN_LIMIT move a port between its states; NAK, FLIT_RECEIVE and CREDIT_SYNC carry its flits.
LINK_TRAIN without a rate that both ends permit or on an absent port changes nothing; an ETH port that lost lanes goes down; else the port
takes the highest rate with a free round-trip value, is UP if it was, retrained or is ETH, and TRAINING otherwise, a NATIVE port sends
LINK_INIT and CTRL flits, a retrained one resends and withdraws its suspicion, and waiting frames drain. LINK_INIT on a NATIVE port that
is neither absent nor down takes the peer's revision, credits and identity: below revision 2 the port is down; a peer of another pod or
manifest leaves it held with the fault; else it is up, announced, and drains. FLIT_RECEIVE discards and counts a flit with a bad CRC and
sends NAK; with a good CRC its header is taken, an idle flit drains, a NAK flit resends, a data flit in order is accepted, and one out of
order sends NAK unless a resend is awaited. NAK resends. POP_RETRAIN_LIMIT of a retraining port whose limit has passed takes it down with
its flits lost and raises the fault; LINK_DOWN of a NATIVE port that is up or held retrains it and reports its neighbour; CREDIT_SYNC
replaces the credits and drains. (14_popor_fabric.md) -/
def Obligations.LinksTrainAndRetrain : Prop :=
  (∀ (s : State) (p : PortId) (rates : List Nat) (half : Bool) (r : Nat),
      r = (rates.filter fun r => 1 ≤ r && r ≤ s.rateCap p).foldl (fun a r => max a r) 0 →
    ((r = 0 ∨ s.portMode p = 0) → exec (.linkTrain p rates half) s = .next s)
    ∧ (r ≠ 0 → s.portMode p = 2 → half = true →
        exec (.linkTrain p rates half) s = .next (s.updPort p fun x => { x with state := .down, rate := 0 }))
    ∧ ∀ t u v, t = s.tick.updPort p (fun x => { x with
          state := if (s.portMode p == 2 || (s.port p).state == .retraining || (s.port p).state == .up) then .up else .training
          rate := r, half := half, rtt := Config.freeNat s.fresh % 2 ^ 16, rev := if s.portMode p = 2 then 3 else x.rev }) →
        u = (if s.portMode p = 1 then (t.emit [.linkInit p (t.ownInit p)]).sendCtrl p else t) →
        v = (if ((s.port p).state == .retraining) = true then (u.resendFrom p 4096).reportSuspicion (s.port p).peerId p.val true s.now else u) →
        r ≠ 0 → s.portMode p ≠ 0 → ¬(s.portMode p = 2 ∧ half = true) → exec (.linkTrain p rates half) s = .next v.drain)
  ∧ (∀ (s : State) (p : PortId) (l : LinkInit),
    ((s.portMode p ≠ 1 ∨ (s.port p).state = .absent ∨ (s.port p).state = .down) → exec (.linkInit p l) s = .next s)
    ∧ ∀ (st : PortState) (t : State), t = (s.updPort p fun x => { x with
          state := st, rev := min 3 l.rev, credits := l.bufs, peerId := l.peerId, peerTray := l.trayId, peerPort := l.port
          rate := if min 3 l.rev = 2 then min 2 x.rate else x.rate }).takeId →
        s.portMode p = 1 → (s.port p).state ≠ .absent → (s.port p).state ≠ .down →
        (l.rev < 2 → st = .down → exec (.linkInit p l) s = .next t)
        ∧ (2 ≤ l.rev → (l.pod == s.podNo && l.manifest == s.manifestDigest) = true → st = .up →
            exec (.linkInit p l) s = .next t.announce.drain)
        ∧ (2 ≤ l.rev → (l.pod == s.podNo && l.manifest == s.manifestDigest) = false → st = .held →
            exec (.linkInit p l) s = .next (t.portFault p 0x073)))
  ∧ (∀ (s : State) (p : PortId) (f : Flit),
    (((s.port p).state = .absent ∨ (s.port p).state = .down) → exec (.flitReceive p f) s = .next s)
    ∧ ((s.port p).state ≠ .absent → (s.port p).state ≠ .down → crc32c f.body ≠ f.crc →
        exec (.flitReceive p f) s = .next ((s.updPort p fun x => { x with crcErr := satAdd 0xFFFF x.crcErr 1 }).sendNak p))
    ∧ ∀ t, t = s.updPort p (fun x => x.flitHeader f) → (s.port p).state ≠ .absent → (s.port p).state ≠ .down → crc32c f.body = f.crc →
        (f.type = .idle → exec (.flitReceive p f) s = .next t.drain)
        ∧ (f.type = .nak → exec (.flitReceive p f) s = .next (t.takeNak p f.ack s.now).drain)
        ∧ (f.type ≠ .idle → f.type ≠ .nak → f.seq = (s.port p).expect → exec (.flitReceive p f) s = .next (t.updPort p fun x =>
            { x with expect := (x.expect + 1) % 4096, awaitResend := false }).drain)
        ∧ (f.type ≠ .idle → f.type ≠ .nak → f.seq ≠ (s.port p).expect → (s.port p).awaitResend = true →
            exec (.flitReceive p f) s = .next t.drain)
        ∧ (f.type ≠ .idle → f.type ≠ .nak → f.seq ≠ (s.port p).expect → (s.port p).awaitResend = false →
            exec (.flitReceive p f) s = .next (t.sendNak p).drain))
  ∧ (∀ (s : State) (p : PortId) (a n : Nat), exec (.nak p a n) s = .next ((s.at' n).takeNak p a n))
  ∧ (∀ (s : State) (p : PortId) (n : Nat),
    ((s.port p).state = .retraining → (s.port p).retrainAt + s.field "POP_RETRAIN_LIMIT" p.val * 1000000 ≤ n →
      exec (.popRetrainLimit p n) s = .next ((((s.at' n).updPort p fun x =>
        { x with state := .down, rate := 0, retry := [], credits := [] }).updFab fun f =>
          { f with gen := (f.gen + 1) % 2 ^ 32 }).portFault p 0x071))
    ∧ (((s.port p).state ≠ .retraining ∨ n < (s.port p).retrainAt + s.field "POP_RETRAIN_LIMIT" p.val * 1000000) →
      exec (.popRetrainLimit p n) s = .next s)
    ∧ (s.portMode p = 1 → ((s.port p).state = .up ∨ (s.port p).state = .held) →
      exec (.linkDown p n) s = .next (((s.at' n).updPort p fun x => { x with
        state := .retraining, retrainAt := n, retrains := satAdd 0xFFFF x.retrains 1 }).reportSuspicion (s.port p).peerId p.val false n))
    ∧ ((s.portMode p ≠ 1 ∨ ((s.port p).state ≠ .up ∧ (s.port p).state ≠ .held)) → exec (.linkDown p n) s = .next (s.at' n)))
  ∧ (∀ (s : State) (p : PortId) (l : List Nat), exec (.creditSync p l) s = .next (s.updPort p fun k => { k with credits := l }).drain)

/-- FRAME_FORWARD validates and routes a frame; RD_REQ, RD_RSP, WR and WR_ACK serve remote accesses. FRAME_FORWARD first drains waiting
frames. A frame that came by a port is taken in there. One of this device's own is filled with the records that wait for it; where there
is none to send, or it is invalid or may not be sent, no more happens; else the frame takes the next COUNTER under its key and is consumed
here when it is for this device and routed otherwise. RD_REQ and WR are admitted as a frame of their kind, and an admitted one at a device
that is not fenced is accepted as an access. RD_RSP gives the data to the transfer that waits for its tag, and changes nothing without
one. WR_ACK ends the write that waits for its tag and frees its blocks, and changes nothing without one. (08_memory_tiers.md,
14_popor_fabric.md) -/
def Obligations.FramesAreServed : Prop :=
  (∀ (s : State) (p : PortId) (f : Frame), exec (.frameForward (some p) f) s = .next (s.drain.frameIn p f))
  ∧ (∀ (s : State) (f : Frame),
    (s.drain.fillFrame' f = none → exec (.frameForward none f) s = .next s.drain)
    ∧ ∀ f' t' g u, s.drain.fillFrame' f = some (f', t') → g = t'.ownFrame f' →
        u = t'.useCounters f'.ctx.val 1 →
      ((frameInvalidOn g 0 || !(t'.maySend g)) = true → exec (.frameForward none f) s = .next s.drain)
      ∧ ((frameInvalidOn g 0 || !(t'.maySend g)) = false →
          exec (.frameForward none f) s = .next (if u.mine g then u.consume g else u.route none g)))
  ∧ (∀ (s : State) (f : Frame) (a n : Nat),
    exec (.rdReq f a n) s = .next (if (s.admitFrame f).2 && !s.fenced then
        (s.admitFrame f).1.acceptAsk { src := f.src, tag := f.tag, addr := a, len := n } f.step else (s.admitFrame f).1)
    ∧ exec (.wr f a) s = .next (if (s.admitFrame f).2 && !s.fenced then
        (s.admitFrame f).1.acceptAsk { src := f.src, tag := f.tag, addr := a, len := f.payload.length, write := some f.payload } f.step
      else (s.admitFrame f).1))
  ∧ (∀ (s : State) (tag : Nat) (data : List Byte),
    (s.tier.remoteWait.find? (fun x => x.1 == tag) = none → exec (.rdRsp tag data) s = .next s)
    ∧ ∀ w, s.tier.remoteWait.find? (fun x => x.1 == tag) = some w →
      exec (.rdRsp tag data) s = .next ((s.updTier fun y =>
        { y with remoteWait := y.remoteWait.filter fun x => x.1 != tag }).updCore (Fin.ofNat 32 w.2.2) fun k => { k with feed := { k.feed with
          queue := k.feed.queue.map fun x => if x.remote = some tag then { x with data := data, remote := none } else x } }))

/-- WR_ACK completes a write, CTL_REQ and CTL_RSP carry control accesses. WR_ACK ends the wait of its tag, lets the transfer that waits for it
complete, and marks difference-stream segments of that tag as collected. CTL_REQ, while Atluta runs, admitted, and not carrying an SPDM
message, performs the 64-bit write and answers 0, or performs the read and answers the value; else only the admission happens. CTL_RSP
hands the tag and the value to host software. (08_memory_tiers.md, 14_popor_fabric.md, 20_control_space.md) -/
def Obligations.RemoteAccessesComplete : Prop :=
  (∀ (s t u : State) (tag : Nat), t = s.updTier (fun y => { y with remoteWait := y.remoteWait.filter fun x => x.1 != tag }) →
      (s.tier.remoteWait.find? (fun x => x.1 == tag) = none → u = t) →
      (∀ w, s.tier.remoteWait.find? (fun x => x.1 == tag) = some w → u = t.updCore (Fin.ofNat 32 w.2.2) fun k => { k with feed := { k.feed with
        queue := k.feed.queue.map fun x => if x.remote = some tag then { x with remote := none } else x } }) →
    exec (.wrAck tag) s = .next (u.updAtl fun a => { a with ctxs := a.ctxs.map fun x => (x.1, ackSpool tag x.2) }))
  ∧ (∀ (s : State) (f : Frame) (w : Bool) (a : Nat) (v : W64),
    (((s.admitFrame f).2 = false ∨ s.atl.running = false ∨ f.payload.headD 0 = 1) →
      exec (.ctlReq f w a v) s = .next (s.admitFrame f).1)
    ∧ ((s.admitFrame f).2 = true → s.atl.running = true → f.payload.headD 0 ≠ 1 →
      exec (.ctlReq f true a v) s = .next (((s.admitFrame f).1.writeAccess a 8 v.toNat).emit [.ctlRsp f.src f.tag 0])
      ∧ exec (.ctlReq f false a v) s = .next (((s.admitFrame f).1.readAccess a 8).1.emit
          [.ctlRsp f.src f.tag (BitVec.ofNat 64 ((s.admitFrame f).1.readAccess a 8).2)])))
  ∧ (∀ (s : State) (tag : Nat) (v : W64),
    exec (.ctlRsp tag v) s = .next (s.emit [.mailbox (leBytes 2 tag ++ leBytes 8 v.toNat)]))

/-- ETH_PACKET takes frames in PSN order, ETH_RTO resends, ACK frees and POP_ACK_LIMIT resends an unacknowledged frame. ETH_PACKET on an ETH
port that is up has its control parts handled and its CE mark noted; without a frame the port drains; a frame with the expected PSN is
taken in, counted and acknowledged; another is discarded and acknowledged again, with NAK for a gap. On another port it changes nothing.
ETH_RTO of a flow toward a device with an ETH port, whose deadline has passed, resends its unacknowledged frames, or asks for a grant
again when frames only wait, and doubles the timeout up to 64 times its base; else it changes nothing. ACK removes the sender's copy and
what waited for it and settles. POP_ACK_LIMIT sends each expired frame of the tag again with its limit doubled up to 8 times the base.
(14_popor_fabric.md) -/
def Obligations.EthernetAndAcksRetry : Prop :=
  (∀ (s : State) (p : PortId) (k : EthPacket) (n : Nat), (s.portMode p ≠ 2 ∨ (s.port p).state ≠ .up) → exec (.ethPacket p k n) s = .next s)
  ∧ (∀ (s t u : State) (p : PortId) (k : EthPacket) (n : Nat) (answer : State → Bool → State), s.portMode p = 2 → (s.port p).state = .up →
      t = (s.at' n).ethControl p k n →
      u = (if k.ceMark then t.updFlow k.src k.vc fun x => { x with ceSeen := true } else t) →
      (∀ v nak, answer v nak = (v.emit [.eth p (v.ethPacketOf k.src k.vc 0 nak none)]).updFlow k.src k.vc fun x => { x with ceSeen := false }) →
    (k.frame = none → exec (.ethPacket p k n) s = .next u.drain)
    ∧ ∀ f, k.frame = some f →
      (k.psn = (u.flow k.src k.vc).expect → exec (.ethPacket p k n) s = .next (answer ((u.updFlow k.src k.vc fun x =>
        { x with expect := (x.expect + 1) % 2 ^ 32 }).frameIn p f) false).drain)
      ∧ (k.psn ≠ (u.flow k.src k.vc).expect → exec (.ethPacket p k n) s = .next
        (answer u (decide ((k.psn + 2 ^ 32 - (u.flow k.src k.vc).expect) % 2 ^ 32 < 2 ^ 31))).drain))
  ∧ (∀ (s : State) (d : DevId) (vc n : Nat), s.ethPortOf d = none → exec (.ethRto d vc n) s = .next s)
  ∧ (∀ (s : State) (d : DevId) (vc n : Nat) (p : PortId) (waits : Bool), s.ethPortOf d = some p →
      waits = (s.fab.waitingFrames.any fun x => s.bound x.2.dst == d && x.2.vc == vc) →
    ((((s.flow d vc).unacked = [] ∧ waits = false) ∨ n < (s.flow d vc).deadline) → exec (.ethRto d vc n) s = .next s)
    ∧ ((s.flow d vc).unacked = [] → waits = true → (s.flow d vc).deadline ≤ n →
        exec (.ethRto d vc n) s = .next (((s.at' n).updFlow d vc fun x => { x with rto := min (64 * s.rtoBase) (2 * x.rto) }).askGrant d vc))
    ∧ ((s.flow d vc).unacked ≠ [] → (s.flow d vc).deadline ≤ n →
        exec (.ethRto d vc n) s = .next (((s.at' n).ethResend p d vc (s.flow d vc).unacked).updFlow d vc fun x =>
          { x with rto := min (64 * s.rtoBase) (2 * (s.flow d vc).rto), deadline := n + min (64 * s.rtoBase) (2 * (s.flow d vc).rto) })))
  ∧ (∀ (s : State) (d : DevId) (tag : Nat), exec (.ack d tag) s = .next (((s.updFab fun f =>
      { f with unacked := kvDel (tag, d) f.unacked }).updWeir fun w => { w with wcAcks := kvDel (tag, d) w.wcAcks }).settled))
  ∧ (∀ (s : State) (tag n : Nat) (due : List ((Nat × DevId) × Unacked)),
      due = (s.fab.unacked.filter fun x => x.1.1 == tag && x.2.deadline ≤ n) →
    exec (.popAckLimit tag n) s = .next (((s.at' n).updFab fun f => { f with
      unacked := f.unacked.map fun x => if x.1.1 == tag && decide (x.2.deadline ≤ n) then (x.1,
        { x.2 with limit := min (8 * s.ackLimit) (2 * x.2.limit), deadline := n + min (8 * s.ackLimit) (2 * x.2.limit) }) else x }).emit
          (due.map fun x => x.2.msg)))

/-- Heartbeats go out each millisecond and are watched; discovery floods the pod graph and settles it. HEARTBEAT_SEND in phase 3 or later of a
numbered device whose Atluta runs, once 1 ms has passed since the last or none was sent, raises the liveness count, notes whether a
coordinator or deputy that hears too few pods stops, and sends the heartbeat to its targets; else it changes nothing. HEARTBEAT notes what
the sender's heartbeat says and suspects it at the third equal count; one of a confirmed device with an older epoch only moves the time.
HEARTBEAT_TIMEOUT suspects a watched device that is not heard and not confirmed. DISCOVER of new information enters it and floods it on;
of this device's own ID from another device it gives the ID up with the conflict fault; else only the time moves. DISCOVERY_QUIET before 1
ms of quiet, after it is done or before phase 3 changes nothing; else the device takes its ID, routes and role, and the coordinator or a
device whose graph digest agrees is done, while another announces itself again. (14_popor_fabric.md, 15_recovery.md) -/
def Obligations.DiscoveryAndHeartbeats : Prop :=
  (∀ (s : State) (n : Nat), s.pow.phase < 3 ∨ s.fab.devId = 0 ∨ s.atl.running = false ∨ (∃ t, s.fab.hbAt = some t ∧ n < t + ms) →
    exec (.heartbeatSend n) s = .next s)
  ∧ (∀ (s t : State) (n : Nat) (h : Heartbeat), 3 ≤ s.pow.phase → s.fab.devId ≠ 0 → s.atl.running = true →
      (∀ x, s.fab.hbAt = some x → x + ms ≤ n) →
      t = ((s.at' n).updRcv fun r => { r with hbStopped := (s.rcv.isCoord || s.rcv.isDeputy) && !s.podsHeard n }).updAtl (fun a => { a with
        live := (a.live + 1) % 2 ^ 32 }) →
      h = { src := s.fab.devId, epoch := s.ctl.memEpoch, live := t.atl.live, sealedLo := s.ctl.sealed % 2 ^ 32 } →
    exec (.heartbeatSend n) s = .next ((t.updFab fun f => { f with hbAt := some n, hbSent := f.hbSent + t.beatTo.length }).emit
      (t.beatTo.map fun d => .heartbeat d h)))
  ∧ (∀ (s : State) (h : Heartbeat) (n : Nat), s.rcv.failedIds.contains h.src = true → h.epoch < s.ctl.memEpoch →
    exec (.heartbeat h n) s = .next (s.at' n))
  ∧ (∀ (s u v : State) (h : Heartbeat) (n same : Nat) (live : List DevId), ¬(s.rcv.failedIds.contains h.src = true ∧ h.epoch < s.ctl.memEpoch) →
      same = (if kvHas h.src s.fab.heard && (kvGet {} h.src s.fab.heard).live == h.live then (kvGet {} h.src s.fab.heard).same + 1 else 0) →
      u = (s.at' n).updFab (fun f => { f with heard := kvPut h.src {
        at' := n, live := h.live, same := same, epoch := h.epoch
        sealedLo := h.sealedLo, suspected := (kvGet {} h.src s.fab.heard).suspected } f.heard }) →
      live = (u.podDevices.filter fun d => d != 0 && !s.dead d) →
      v = u.updRcv (fun r => { r with
        coordHeard := if (h.src == live.headD 0 || h.src == (live.drop 1).headD 0) && s.podOf h.src == s.podNo then n else r.coordHeard
        podHeard := if s.podOf h.src != s.podNo then kvPut (s.podOf h.src) n r.podHeard else r.podHeard }) →
    exec (.heartbeat h n) s = .next (if 2 ≤ same then v.suspect h.src n else v))
  ∧ (∀ (s : State) (d : DevId) (n : Nat), exec (.heartbeatTimeout d n) s = .next
      (if kvHas d s.fab.heard && !s.hears d n && !s.rcv.failedIds.contains d then (s.at' n).suspect d n else s.at' n))
  ∧ (∀ (s : State) (d : DevId) (l : List Neighbour) (n : Nat),
    (d ≠ 0 → d = s.fab.devId → l = s.ownNeighbours → exec (.discover d l n) s = .next (s.at' n))
    ∧ (d ≠ 0 → d = s.fab.devId → l ≠ s.ownNeighbours → exec (.discover d l n) s = .next
        (((s.at' n).updFab fun f => { f with devId := 0, conflict := true }).raiseDev .correctable 0x074 (unitNo 0 0) 0))
    ∧ ((d = 0 ∨ (d ≠ s.fab.devId ∧ kvFind d s.fab.graph = some l)) → exec (.discover d l n) s = .next (s.at' n))
    ∧ (d ≠ 0 → d ≠ s.fab.devId → kvFind d s.fab.graph ≠ some l → exec (.discover d l n) s = .next (((s.at' n).updFab fun f => { f with
        graph := kvPut d l f.graph, graphAt := n, graphDone := false }).flood d l)))
  ∧ (∀ (s : State) (g : List Byte) (n : Nat), (n < s.fab.graphAt + 1000000 ∨ s.fab.graphDone = true ∨ s.pow.phase < 3) →
    exec (.discoveryQuiet g n) s = .next s)
  ∧ (∀ (s t : State) (g : List Byte) (n : Nat) (fin : State → State), s.fab.graphAt + 1000000 ≤ n → s.fab.graphDone = false → 3 ≤ s.pow.phase →
      t = ((s.at' n).takeId.updFab fun f => { f with graph := kvPut f.devId (s.at' n).takeId.ownNeighbours f.graph }).reroute.podRoles →
      (∀ u, fin u = (u.updFab fun f => { f with graphDone := true }).updPow fun p => { p with discovered := true }) →
    (t.rcv.isCoord = true → exec (.discoveryQuiet g n) s = .next (fin (t.emit [.graphDigest (graphDigest t.fab.graph)])))
    ∧ (t.rcv.isCoord = false → g = graphDigest t.fab.graph → exec (.discoveryQuiet g n) s = .next (fin t))
    ∧ (t.rcv.isCoord = false → g ≠ graphDigest t.fab.graph → exec (.discoveryQuiet g n) s = .next t.announce))

/-- Reported and silent devices are confirmed failed, and a device that hears no coordinator fences itself. FAILED_REPORT at the coordinator
of the sender's pod while it hears a majority, or at the job coordinator for another pod, confirms the device, unless this device is
fenced. POD_SILENCE at the job coordinator, not fenced, for another pod unheard for 10 ms while it hears enough pods and members are in
several pods, confirms every job device of that pod. FENCE of a member, spare or device in takeover that leads without a majority, or does
not lead and has heard no coordinator for 3 ms, fences it. In every other case only the time moves. (15_recovery.md) -/
def Obligations.FailuresAreConfirmedAndFenced : Prop :=
  (∀ (s : State) (d : DevId) (n : Nat), exec (.failedReport d n) s = .next
      (if !s.fenced && (((s.podOf d == s.podNo) && s.rcv.isCoord && s.majority n) || (!(s.podOf d == s.podNo) && s.rcv.isJobCoord))
       then (s.at' n).confirm d n else s.at' n))
  ∧ (∀ (s : State) (pod n : Nat), exec (.podSilence pod n) s = .next
      (if s.rcv.isJobCoord && !s.fenced && pod != s.podNo && decide (kvGet 0 pod s.rcv.podHeard + 10 * ms ≤ n) && s.podsHeard n
          && decide (1 < s.memberPods.length)
       then (s.jobDevices.filter fun d => s.podOf d == pod).foldl (fun u d => u.confirm d n) (s.at' n) else s.at' n))
  ∧ (∀ (s : State) (n : Nat), exec (.fence n) s = .next
      (if (s.rcv.role == .member || s.rcv.role == .spare || s.rcv.role == .takeover)
          && ((!(s.rcv.isCoord || s.rcv.isDeputy) && decide (s.rcv.coordHeard + 3 * ms ≤ n))
            || ((s.rcv.isCoord || s.rcv.isDeputy) && !s.majority n))
       then (s.at' n).fence .fenced false else s.at' n))

/-- MEMBER_BATCH forms the record, MEMBER applies and acknowledges it, MEMBER_ACK makes it final, LEASE_GRACE and FM_BIND_LIMIT grant or wait.
MEMBER of the epoch in force is acknowledged to the job coordinator; of an older epoch or at a fenced device it changes nothing more; a
newer record that names this member's own ID failed fences it; else it is applied, a device bound to an ID it has a section for begins the
takeover and acknowledges, one without refuses by reporting itself, and any other acknowledges. MEMBER_BATCH at a job coordinator that is
not fenced, once MEMBER_BATCH_US has passed since the first confirmation, notes when the failed IDs were asked and sends the record; else
only the time moves. MEMBER_ACK of the record's epoch at the job coordinator is noted; the one that makes the record final notes the
times, grants the leases, and where FM_BIND_LIMIT is not 0 raises the rebind event for each binding. LEASE_GRACE after the grace time and
the bind report grants CXL_REGION; on another device it is the grant to itself. FM_BIND_LIMIT without the report in time makes the job
wait and raises the fault. (15_recovery.md) -/
def Obligations.MembershipChangesByRecord : Prop :=
  (∀ (s : State) (m : MemberRec),
    ((m.epoch = s.ctl.memEpoch ∧ (m.epoch ≤ s.ctl.memEpoch ∨ s.fenced = true)) →
      exec (.member m) s = .next (s.emit [.memberAck s.jobCoordDev m.epoch]))
    ∧ ((m.epoch < s.ctl.memEpoch ∨ (s.fenced = true ∧ m.epoch ≠ s.ctl.memEpoch)) → exec (.member m) s = .next s)
    ∧ (s.ctl.memEpoch < m.epoch → s.fenced = false →
      ((m.failed.contains s.me && (s.rcv.role == .member || s.rcv.role == .takeover)) = true →
        exec (.member m) s = .next (s.fence .fenced false))
      ∧ ((m.failed.contains s.me && (s.rcv.role == .member || s.rcv.role == .takeover)) = false →
        (s.bindingHere m = none → exec (.member m) s = .next ((s.applyEpoch m).emit [.memberAck (s.applyEpoch m).jobCoordDev m.epoch]))
        ∧ ∀ d, s.bindingHere m = some d →
          (s.hasMember d = true → exec (.member m) s = .next (((s.applyEpoch m).beginTakeover m d).emit
            [.memberAck ((s.applyEpoch m).beginTakeover m d).jobCoordDev m.epoch]))
          ∧ (s.hasMember d = false → exec (.member m) s = .next ((s.applyEpoch m).emit [.failed (s.applyEpoch m).jobCoordDev])))))
  ∧ (∀ (s : State) (n : Nat),
    (s.rcv.confirmed = [] → exec (.memberBatch n) s = .next (s.at' n))
    ∧ ∀ x l ids, s.rcv.confirmed = x :: l →
      ids = (s.ctl.members.filter fun d => (s.rcv.confirmed.map Prod.fst).contains (s.bound d)) →
      ((s.rcv.isJobCoord = false ∨ s.fenced = true ∨ n < x.2 + s.field "MEMBER_BATCH_US" * 1000) → exec (.memberBatch n) s = .next (s.at' n))
      ∧ (s.rcv.isJobCoord = true → s.fenced = false → x.2 + s.field "MEMBER_BATCH_US" * 1000 ≤ n →
        exec (.memberBatch n) s = .next (((s.at' n).updRcv fun r => { r with
          fmAsked := (ids ++ s.voidIds).foldl (fun k d => kvPut d x.2 k) (s.at' n).rcv.fmAsked }).sendRecord ids)))
  ∧ (∀ (s : State) (d : DevId) (e n : Nat) (dep : Bool),
    (s.rcv.record = none → exec (.memberAck d e dep n) s = .next (s.at' n))
    ∧ ∀ m u, s.rcv.record = some m → u = ((s.at' n).updRcv fun r => { r with acks := addNew d r.acks, deputyHolds := r.deputyHolds || dep }) →
      ((s.rcv.isJobCoord = false ∨ e ≠ m.epoch) → exec (.memberAck d e dep n) s = .next (s.at' n))
      ∧ (s.rcv.isJobCoord = true → e = m.epoch → (s.recordFinal m = true ∨ u.recordFinal m = false) →
        exec (.memberAck d e dep n) s = .next u)
      ∧ (s.rcv.isJobCoord = true → e = m.epoch → s.recordFinal m = false → u.recordFinal m = true →
        ∀ w, w = (u.updRcv fun r => { r with
            finalAt := n
            epochUs := min 0xFFFF ((n - (m.failed.filterMap fun d => kvFind d s.rcv.fmAsked).foldl min n) / 1000) }).grantLeases m →
        exec (.memberAck d e dep n) s = .next (if s.field "FM_BIND_LIMIT" = 0 then w
          else m.bindings.foldl (fun a x => a.raiseDev .event 0x0F0 (unitNo 9 0) x.1) w)))
  ∧ (∀ (s : State) (d : DevId) (n : Nat) (grant : State → State),
      (∀ u, u.rcv.takeover = none → grant u = u) →
      (∀ u x, u.rcv.takeover = some x → grant u = if x.id = d then u.updRcv fun r => { r with takeover := some { x with cxlGranted := true } } else u) →
    (s.rcv.isJobCoord = false → exec (.leaseGrace d n) s = .next (grant (s.at' n)))
    ∧ (s.rcv.isJobCoord = true → kvFind d s.rcv.fmAsked = none → exec (.leaseGrace d n) s = .next (s.at' n))
    ∧ ∀ c, s.rcv.isJobCoord = true → kvFind d s.rcv.fmAsked = some c →
      (¬(s.rcv.finalAt ≠ 0 ∧ c + s.field "LEASE_GRACE_MS" * ms ≤ n
          ∧ (decide (s.field "FM_BIND_LIMIT" = 0) || s.rcv.fmBound.contains d) = true ∧ s.rcv.unbound.contains d = false) →
        exec (.leaseGrace d n) s = .next (s.at' n))
      ∧ ∀ u, u = ((s.at' n).updRcv fun r => { r with
          leases := kvPut (.cxlRegion, d) (s.bound d, s.ctl.memEpoch) r.leases, fmAsked := kvDel d r.fmAsked
          fmBound := r.fmBound.filter (· != d), fmLate := r.fmLate.filter (· != d)
          jobWait := !r.unbound.isEmpty || (r.fmLate.filter (· != d)) != [] }) →
        s.rcv.finalAt ≠ 0 → c + s.field "LEASE_GRACE_MS" * ms ≤ n →
        (decide (s.field "FM_BIND_LIMIT" = 0) || s.rcv.fmBound.contains d) = true → s.rcv.unbound.contains d = false →
        (s.bound d = s.fab.devId → exec (.leaseGrace d n) s = .next (grant u))
        ∧ (s.bound d ≠ s.fab.devId → s.rcv.record = none → exec (.leaseGrace d n) s = .next u)
        ∧ (∀ m, s.bound d ≠ s.fab.devId → s.rcv.record = some m → exec (.leaseGrace d n) s = .next (u.emit [.member (s.bound d) m])))
  ∧ (∀ (s : State) (d : DevId) (n : Nat), exec (.fmBindLimit d n) s = .next
      (if s.rcv.isJobCoord = true ∧ s.field "FM_BIND_LIMIT" ≠ 0 ∧ s.rcv.finalAt ≠ 0 ∧ kvHas d s.rcv.fmAsked = true
          ∧ s.rcv.fmBound.contains d = false ∧ s.rcv.fmLate.contains d = false ∧ s.rcv.finalAt + s.field "FM_BIND_LIMIT" * ms ≤ n
       then ((s.at' n).updRcv fun r => { r with fmLate := addNew d r.fmLate, jobWait := true }).raiseDev .correctable 0x082 (unitNo 9 0) d
       else s.at' n))

/-- PARTNER_UNIT_REQUEST serves a unit, PULL_COMPLETE restores the ID, TAKEOVER_DONE ends it, JOURNAL_FOLD folds, RELEASE_FENCE releases.
PARTNER_UNIT_REQUEST sends the unit of the version that this device's standby image holds, and changes nothing without it. PULL_COMPLETE
of a takeover whose pooled memory is granted and not yet pulled restores the state from the lost device's standby image, asks its partner
for each damaged unit, and rolls the step forward or ends the takeover; else it changes nothing. TAKEOVER_DONE of an ID that is being
taken over ends it; the job coordinator tells the members, and with no takeover left the aborted steps run again and a release whose
target comes next is over. JOURNAL_FOLD of the step after BASE_STEP, once all devices have sealed far enough and this one is not fenced,
folds its records and writes the next header; else it changes nothing. RELEASE_FENCE with the step before the target sealed fences a
released member whose header is stored, and the job coordinator sends the record that binds the released IDs. (15_recovery.md,
16_mioxa_image.md) -/
def Obligations.TakeoversRestoreAnId : Prop :=
  (∀ (s : State) (d : DevId) (k v : Nat),
    (s.standby.unitAt k v = none → exec (.partnerUnitRequest d k v) s = .next s)
    ∧ ∀ c, s.standby.unitAt k v = some c → exec (.partnerUnitRequest d k v) s = .next (s.emit [.unit d k v c]))
  ∧ (∀ s : State, s.rcv.takeover = none → exec .pullComplete s = .next s)
  ∧ (∀ (s : State) (x : Takeover), s.rcv.takeover = some x → (x.cxlGranted = false ∨ x.pulled = true) → exec .pullComplete s = .next s)
  ∧ (∀ (s t u w w1 y z : State) (x : Takeover) (v : Nat) (base jour : List (Bool × Journal)) (b : Standby) (rolls : Bool),
      s.rcv.takeover = some x → x.cxlGranted = true → x.pulled = false →
      v = ((s.pooledStandby x.id).header.map (·.sealedStep)).getD ((match x.roll with
        | some n => n - 1
        | none => s.ctl.sealed)) →
      base = s.pooledOf x.id true (s.pooledStandby x.id).header.isSome v →
      jour = s.pooledOf x.id false (s.pooledStandby x.id).header.isSome v →
      b = { s.pooledStandby x.id with base := base.map Prod.snd, journal := (jour.map Prod.snd).filter fun j => j.step ≤ v } →
      t = (if (s.pooledStandby x.id).header.isNone then s.raiseDev .correctable 0x083 (unitNo 9 0) x.id else s) →
      u = ((((t.mapPages []).pullPages x.id).loadProgs).restore b v).updStandby (fun _ => b) →
      w = (u.setRoll v x.roll).askVersions v →
      rolls = (match x.roll with
        | some n => decide (v < n)
        | none => false) →
      w1 = (match s.atl.runCtx with
        | some c => w.updCtx c fun q => { q with diffSeq := leNat ((((b.recAt 6 0 v).getD []).drop 16).take 8) }
        | none => w) →
      y = (w1.updLdr fun l => { l with memberWrites := l.memberWrites ++ (Config.spareWrites s.fresh).map fun x =>
          { index := x.1, value := x.2.1, target := x.2.2.1, serial := x.2.2.2 } }).updRcv (fun r => { r with
        takeover := some { x with pulled := true, version := v, roll := if rolls then x.roll else none }
        partnerUnits := satAdd 0xFFFF r.partnerUnits (((base ++ jour).filter fun y => !y.1).map fun y => y.2.key).length }) →
      z = y.emit ((((base ++ jour).filter fun y => !y.1).map fun y => y.2.key).map fun k => .unitAsk (s.partnerFor x.id k) k v) →
    exec .pullComplete s = .next (if rolls then z else z.endTakeover x.id).serveAsks)
  ∧ (∀ (s : State) (d : DevId) (n : Nat), s.rcv.taking.contains d = false → exec (.takeoverDone d n) s = .next (s.at' n))
  ∧ (∀ (s u v : State) (d : DevId) (n : Nat), s.rcv.taking.contains d = true →
      u = (s.at' n).updRcv (fun r => { r with
        taking := r.taking.filter (· != d), takeoverMs := if r.isJobCoord then (n - r.finalAt) / ms else r.takeoverMs }) →
      v = (if s.rcv.isJobCoord then u.emit (((s.ctl.members.map s.bound).filter (· != s.fab.devId)).map fun e => .takeoverDone e d) else u) →
    (v.rcv.taking ≠ [] → exec (.takeoverDone d n) s = .next v)
    ∧ (v.rcv.taking = [] → exec (.takeoverDone d n) s = .next (v.rerun.updCtl fun c => { c with releaseTarget := match c.releaseTarget with
        | some x => if x = c.sealed + 1 then none else some x
        | none => none })))
  ∧ (∀ (s : State) (n : Nat) (h : StbyHeader), s.standby.header = some h → n = h.baseStep + 1 → n + s.lag + 1 ≤ h.sealedStep →
      s.sealedByAll n = true → s.fenced = false →
    exec (.journalFold n) s = .next (s.updStandby fun x => (x.fold n).write { h with
      seq := h.seq + 1, baseStep := n
      head := (h.head + (s.standby.journal.filter fun j => j.step == n).foldl (fun a j => a + j.size) 0)
        % max 64 (s.field "STBY_JOURNAL_SIZE") }))
  ∧ (∀ (s : State) (n : Nat), s.standby.header = none → exec (.journalFold n) s = .next s)
  ∧ (∀ (s : State) (n : Nat) (h : StbyHeader), s.standby.header = some h →
      ¬(n = h.baseStep + 1 ∧ n + s.lag + 1 ≤ h.sealedStep ∧ s.sealedByAll n = true ∧ s.fenced = false) → exec (.journalFold n) s = .next s)
  ∧ (∀ s : State, (s.ctl.releaseTarget = none ∨ ∃ t, s.ctl.releaseTarget = some t ∧ s.ctl.sealed + 1 ≠ t) →
    exec .releaseFence s = .next s)
  ∧ (∀ (s a b : State) (t : Nat) (now : List Release) (ids : List DevId), s.ctl.releaseTarget = some t → s.ctl.sealed + 1 = t →
      now = (s.rcv.releases.filter fun r => r.target == t) →
      a = (if (now.any s.released) && s.rcv.role == .member && (match s.standby.header with
          | some h => h.sealedStep + 1 == t
          | none => false) then s.fence .released false else s) →
      ids = (s.ctl.members.filter fun d => now.any fun r => if r.dev ≠ 0 then r.dev == d else s.trayOf (s.bound d) == (r.pod, r.tray)) →
      b = a.updRcv (fun r => { r with
        releases := r.releases.filter fun x => x.target != t, finalAt := 0, fmAsked := ids.foldl (fun k d => kvPut d s.now k) r.fmAsked }) →
    exec .releaseFence s = .next (if s.rcv.isJobCoord = true ∧ s.rcv.taking = [] ∧ s.sealedByAll (t - 1) = true ∧ now ≠ []
      then (if ids = [] then b else b.sendRecord ids) else a))

/-- JOB_START loads a job, JOB_STOP scrubs it, JOB_SWITCH and SWITCH_IN_RESTORE change contexts, JOB_RESUME resumes a halted one. Without
running Atluta none has an effect. JOB_START of an unknown context answers 2 and of a loaded one 3; an audit context starts the audit
where none runs; a running context, or no rack mode before phase 5, answers 3; no ID, rack mode outside phase 3 or a fenced device answers
2; an image whose start check fails is refused as invalid; a spare gets its keys and answers 0; a member loads the job, is keyed and
writes its standby image, or with a wrong snapshot digest answers 2 and raises SNAPSHOT_BAD. JOB_STOP of a context that is not loaded
answers 2, ends the audit of an audit context, unloads the running context, and frees the kept pages of another, each with its keys erased
and a scrub. JOB_SWITCH between two loaded contexts, neither in audit and the first running, is accepted under the timing rule, else it
answers 2. SWITCH_IN_RESTORE of the context that is to switch in restores it from its standby image. JOB_RESUME of the running halted
context that has lost no shard ends the halt, else it answers 2. (16_mioxa_image.md) -/
def Obligations.JobsStartStopAndSwitch : Prop :=
  (∀ (s : State) (c d : CtxId) (n : Nat), s.atl.running = false → exec (.jobStart c) s = .next s ∧ exec (.jobStop c) s = .next s
    ∧ exec (.jobSwitch c d n) s = .next s ∧ exec (.switchInRestore c) s = .next s ∧ exec (.jobResume c) s = .next s)
  ∧ (∀ (s z : State) (c : CtxId), z = s.enterCtx c → s.atl.running = true →
    (((s.ldr.image.map contextsOf).getD []).contains c = false → exec (.jobStart c) s = .next (s.mbox 2))
    ∧ (((s.ldr.image.map contextsOf).getD []).contains c = true → (s.ctx c).loaded = true → exec (.jobStart c) s = .next (s.mbox 3))
    ∧ (((s.ldr.image.map contextsOf).getD []).contains c = true → (s.ctx c).loaded = false →
      (z.field "AUDIT" = 1 → exec (.jobStart c) s = .next (if s.atl.audit.isSome then s.mbox 3 else s.startAudit c))
      ∧ (z.field "AUDIT" ≠ 1 → (s.atl.runCtx.isSome = true ∨ ((z.field "JOB_LINK_MODE" == 1) = false ∧ s.pow.phase < 5)) →
        exec (.jobStart c) s = .next (s.mbox 3))
      ∧ (z.field "AUDIT" ≠ 1 → s.atl.runCtx = none → ((z.field "JOB_LINK_MODE" == 1) = true ∨ 5 ≤ s.pow.phase) →
        ((s.fab.devId = 0 ∨ ((z.field "JOB_LINK_MODE" == 1) = true ∧ s.pow.phase ≠ 3) ∨ s.fenced = true) →
          exec (.jobStart c) s = .next (s.mbox 2))
        ∧ (s.fab.devId ≠ 0 → ((z.field "JOB_LINK_MODE" == 1) = false ∨ s.pow.phase = 3) → s.fenced = false →
          (z.startOk = false → exec (.jobStart c) s = .next s.mboxInvalid)
          ∧ (z.startOk = true → z.ctl.members.contains s.fab.devId = false → exec (.jobStart c) s = .next ((z.keyCtx c true).mbox 0))
          ∧ (z.startOk = true → z.ctl.members.contains s.fab.devId = true →
            (∀ d, z.jobData.snapshotDigest = some d → d ≠ z.loadJob.weir.param →
              exec (.jobStart c) s = .next ((s.mbox 2).raiseDev .correctable 0x055 (unitNo 4 0) 0))
            ∧ (z.jobData.snapshotDigest = none ∨ z.jobData.snapshotDigest = some z.loadJob.weir.param →
              exec (.jobStart c) s = .next (((z.loadJob.keyCtx c false).updStandby fun _ =>
                { hdr0 := some (z.loadJob.keyCtx c false).loadHeader, base := (z.loadJob.keyCtx c false).loadBase }).mbox 0)))))))
  ∧ (∀ (s : State) (c : CtxId) (erase : State → State), s.atl.running = true →
      (∀ t, erase t = t.updCtx c fun x => { ringBase := x.ringBase, ringSize := x.ringSize, exportKey := x.exportKey }) →
    ((s.ctx c).loaded = false → exec (.jobStop c) s = .next (s.mbox 2))
    ∧ ((s.ctx c).loaded = true → s.atl.audit = some c → exec (.jobStop c) s = .next
        ((erase (s.updAtl fun a => { a with audit := none, auditRing := [], scrubs := satAdd 0xFFFF a.scrubs 1 })).mbox 0))
    ∧ ((s.ctx c).loaded = true → s.atl.audit ≠ some c → s.atl.runCtx = some c → exec (.jobStop c) s = .next
        ((((erase ((s.scrub true).updAtl fun a => { a with runCtx := none })).updRcv fun r => { r with
          role := .none, taking := [], takeover := none, unbound := [], jobWait := false }).updFab fun f => { f with boundId := 0 }).mbox 0))
    ∧ ((s.ctx c).loaded = true → s.atl.audit ≠ some c → s.atl.runCtx ≠ some c → exec (.jobStop c) s = .next
        (((erase (s.updTier fun y => { y with
          mem := zeroPages (s.ctx c).kept (fun _ => true) y.mem
          used := y.used.filter fun l => !((s.ctx c).kept.any fun p => p.2.loc == l) })).updAtl fun a => { a with
            scrubs := satAdd 0xFFFF a.scrubs 1 }).mbox 0)))
  ∧ (∀ (s : State) (o i : CtxId) (n : Nat), s.atl.running = true →
    ((s.atl.runCtx ≠ some o ∨ (s.ctx i).loaded = false ∨ s.atl.audit = some i ∨ o = i) → exec (.jobSwitch o i n) s = .next (s.mbox 2))
    ∧ (s.atl.runCtx = some o → (s.ctx i).loaded = true → s.atl.audit ≠ some i → o ≠ i →
      exec (.jobSwitch o i n) s = .next (s.acceptTarget idxSwitch [o.val, i.val] n)))
  ∧ (∀ (s : State) (c : CtxId), ((s.ctx c).standby.header = none ∨ (s.ctx c).switchedOut = false ∨ s.atl.switchIn ≠ some c
      ∨ s.atl.runCtx.isSome = true) → exec (.switchInRestore c) s = .next s)
  ∧ (∀ (s a m d : State) (c : CtxId) (h : StbyHeader), (s.ctx c).standby.header = some h → (s.ctx c).switchedOut = true →
      s.atl.switchIn = some c → s.atl.runCtx = none → s.atl.running = true →
      a = (s.updAtl fun q => { q with runCtx := some c, switchIn := none }).updCtl (fun _ =>
        { s0 := (s.ctx c).s0, sealed := h.sealedStep, memEpoch := (s.ctx c).memEpoch, layEpoch := h.layEpoch, members := (s.ctx c).members }) →
      m = (a.mapPages (s.ctx c).kept).updTier (fun t => { t with
        mem := (s.ctx c).imaged.foldl (fun m p => match kvFind p.1 (a.mapPages (s.ctx c).kept).tier.pages with
          | some e => fillFrame e.loc p.2 m
          | none => m) t.mem }) →
      d = ((((m.loadProgs).restore (s.ctx c).standby h.sealedStep).fillBuckets.startFronts h.sealedStep).rebuildVersions (s.ctx c).standby
        h.sealedStep).updCtl (fun k => { k with started := (s.ctx c).ready }) →
    exec (.switchInRestore c) s = .next (d.updCtx c fun y => { y with switchedOut := false, kept := [], imaged := [] }).serveAsks)
  ∧ (∀ (s : State) (c : CtxId), s.atl.running = true →
    (s.atl.runCtx = some c → s.ctl.halted = true → s.ctl.shardLost = false → exec (.jobResume c) s = .next (s.unhalt.mbox 0))
    ∧ ((s.atl.runCtx ≠ some c ∨ s.ctl.halted = false ∨ s.ctl.shardLost = true) → exec (.jobResume c) s = .next (s.mbox 2)))

/-- SNAPSHOT, SNAPSHOT_WRITE and TRAY_RELEASE; CONTEXT_READY, FM_BOUND and HOST_SUPPLY report to the device. Without running Atluta the
commands of the mailbox have no effect, and for a context that is not the running one SNAPSHOT and TRAY_RELEASE answer 2. SNAPSHOT is
accepted under the timing rule. SNAPSHOT_WRITE of a device that is not fenced, with the target step sealed and the snapshot not yet
written, sends the parts and the end and notes it as done, or waits for room in the spool; else it changes nothing. TRAY_RELEASE is
accepted at the vote root, sent to it by the job coordinator in time, and answered 5 when late and 4 elsewhere. CONTEXT_READY of a loaded
context marks it ready and lets the running one start, else it answers 2. FM_BOUND for the spare that holds the ID, of a loaded context,
notes the report, else it reads 2. HOST_SUPPLY of a unit asked for and not supplied, for the running context, takes the content in,
repairs and sends the redo, else it answers 2. (15_recovery.md, 16_mioxa_image.md, 17_atluta_and_audit.md) -/
def Obligations.SnapshotsAndReleasesAreOrdered : Prop :=
  (∀ (s : State) (c : CtxId) (n pod tray key : Nat) (d e : DevId) (l : List Byte), s.atl.running = false →
    exec (.snapshot c n) s = .next s ∧ exec (.trayRelease c n pod tray d) s = .next s ∧ exec (.contextReady c) s = .next s
    ∧ exec (.fmBound c d e) s = .next s ∧ exec (.hostSupply c key l) s = .next s)
  ∧ (∀ (s : State) (c : CtxId) (n pod tray : Nat) (d : DevId), s.atl.running = true →
    (s.atl.runCtx ≠ some c → exec (.snapshot c n) s = .next (s.mbox 2) ∧ exec (.trayRelease c n pod tray d) s = .next (s.mbox 2))
    ∧ (s.atl.runCtx = some c →
      exec (.snapshot c n) s = .next (s.acceptTarget idxSnapshot [] n)
      ∧ (s.isRoot = true → exec (.trayRelease c n pod tray d) s = .next (s.acceptTarget idxRelease [pod, tray, d] n))
      ∧ (s.isRoot = false → s.rcv.isJobCoord = true → s.tooLate n = true → exec (.trayRelease c n pod tray d) s = .next (s.mbox 5))
      ∧ (s.isRoot = false → s.rcv.isJobCoord = true → s.tooLate n = false → exec (.trayRelease c n pod tray d) s = .next
          ((s.emit [.stepWrite (s.field "VOTE_ROOT") 0 { index := idxRelease, value := [pod, tray, d], target := n, serial := 0 }]).mbox 0))
      ∧ (s.isRoot = false → s.rcv.isJobCoord = false → exec (.trayRelease c n pod tray d) s = .next (s.mbox 4))))
  ∧ (∀ s : State, (s.ctl.snapTarget = none ∨ s.atl.runCtx = none) → exec .snapshotWrite s = .next s)
  ∧ (∀ (s : State) (n : Nat) (c : CtxId), s.ctl.snapTarget = some n → s.atl.runCtx = some c →
    ((s.ctl.snapDone = true ∨ s.ctl.sealed < n ∨ s.fenced = true) → exec .snapshotWrite s = .next s)
    ∧ (s.ctl.snapDone = false → n ≤ s.ctl.sealed → s.fenced = false →
      (s.spoolRoom (128 + (s.snapshotBody n).length + (s.snapshotEnd n (s.snapshotBody n)).length) = false →
        exec .snapshotWrite s = .next (s.weirStall [28]))
      ∧ (s.spoolRoom (128 + (s.snapshotBody n).length + (s.snapshotEnd n (s.snapshotBody n)).length) = true →
        exec .snapshotWrite s = .next (((s.tick.sendSegment c 1 n (s.snapshotBody n)).sendSegment c 2 n
          (s.snapshotEnd n (s.snapshotBody n))).updCtl fun k => { k with snapDone := true, snapTarget := none }))))
  ∧ (∀ (s : State) (c : CtxId), s.atl.running = true →
    ((s.ctx c).loaded = false → exec (.contextReady c) s = .next (s.mbox 2))
    ∧ ((s.ctx c).loaded = true → s.atl.runCtx = some c → exec (.contextReady c) s = .next
        (((s.updCtx c fun x => { x with ready := true }).updCtl fun k => { k with started := true }).mbox 0))
    ∧ ((s.ctx c).loaded = true → s.atl.runCtx ≠ some c → exec (.contextReady c) s = .next
        ((s.updCtx c fun x => { x with ready := true }).mbox 0)))
  ∧ (∀ (s : State) (c : CtxId) (d e : DevId), s.atl.running = true →
    (s.bound d = e → (s.ctx c).loaded = true →
      exec (.fmBound c d e) s = .next (s.updRcv fun r => { r with fmBound := addNew d r.fmBound }))
    ∧ ((s.bound d ≠ e ∨ (s.ctx c).loaded = false) → exec (.fmBound c d e) s = .next (s.updAtl fun a => { a with mboxResult := 2 })))
  ∧ (∀ (s : State) (c : CtxId) (key : Nat) (l : List Byte), s.atl.running = true →
    ((s.weir.rebuilding.find? (fun r => r.key == key && r.askedAt.isSome && !r.fromHost) = none ∨ s.atl.runCtx ≠ some c) →
      exec (.hostSupply c key l) s = .next (s.mbox 2))
    ∧ ∀ r, s.weir.rebuilding.find? (fun r => r.key == key && r.askedAt.isSome && !r.fromHost) = some r → s.atl.runCtx = some c →
      exec (.hostSupply c key l) s = .next ((((s.updRebuild key fun _ => { r with pre := l, fromHost := true }).repair r.step 4 s.me
        key).sendRedo { r with pre := l, fromHost := true }).mbox 0))

/-- SPARE_ADD and SPARE_REMOVE change the spares, REPORT_FAILED reports, REPAIR_MAP_WRITE, ENGINE_DIAG and MANIFEST_WRITE write their tables.
Without running Atluta none has an effect. SPARE_ADD for the running context of an ID that is valid, no member, no spare yet and within
256 adds it, clears what was held against it, the job coordinator tells it, and where an ID waits for a spare sends a further record; else
it answers 2. SPARE_REMOVE of a spare of the running context removes it, else it answers 2. REPORT_FAILED is confirmed by a coordinator
that may, and passed on otherwise. REPAIR_MAP_WRITE removes an entry that is there or answers 2; it adds one below 256 entries or answers
2; an added RETIRE entry of an engine in service asks Atluta's pre-emption and retires it when due. ENGINE_DIAG of a retired engine whose
sibling serves answers a free reply, else 2. MANIFEST_WRITE of a manifest with pod 1 to 1,023 and IDs that are legal and distinct is
stored for the next boot, else it answers 2. (05_engine_integrity.md, 14_popor_fabric.md, 15_recovery.md) -/
def Obligations.SparesReportsAndDiagnostics : Prop :=
  (∀ (s : State) (c : CtxId) (d : DevId) (b : Bool) (r : RepairEntry) (n : Nat) (k : CoreId) (e : EngId) (m : Manifest), s.atl.running = false →
    exec (.spareAdd c d) s = .next s ∧ exec (.spareRemove c d) s = .next s ∧ exec (.reportFailed c d) s = .next s
    ∧ exec (.repairMapWrite b r n) s = .next s ∧ exec (.engineDiag k e) s = .next s ∧ exec (.manifestWrite m) s = .next s)
  ∧ (∀ (s : State) (c : CtxId) (d : DevId), s.atl.running = true →
    ((s.atl.runCtx ≠ some c ∨ d = 0 ∨ d = 0xFFFF ∨ 256 ≤ s.spares.length ∨ s.spares.contains d = true ∨ s.ctl.members.contains d = true) →
      exec (.spareAdd c d) s = .next (s.mbox 2))
    ∧ (s.atl.runCtx = some c → d ≠ 0 → d ≠ 0xFFFF → s.spares.length < 256 → s.spares.contains d = false → s.ctl.members.contains d = false →
      ∀ t u, t = (s.setSpares (s.spares ++ [d])).updRcv (fun r => { r with
          badSpares := r.badSpares.filter (· != d), failedIds := r.failedIds.filter (· != d) }) →
        u = (if s.rcv.isJobCoord then t.emit [.jm d (s.ctx c).jobId] else t) →
        exec (.spareAdd c d) s = .next ((if s.rcv.isJobCoord = true ∧ s.rcv.unbound ≠ [] then
          (u.updRcv fun r => { r with fmAsked := r.unbound.foldl (fun k d => kvPut d s.now k) r.fmAsked, finalAt := 0 }).sendRecord []
        else u).mbox 0))
    ∧ ((s.atl.runCtx ≠ some c ∨ s.spares.contains d = false) → exec (.spareRemove c d) s = .next (s.mbox 2))
    ∧ (s.atl.runCtx = some c → s.spares.contains d = true →
      exec (.spareRemove c d) s = .next ((s.setSpares (s.spares.filter (· != d))).mbox 0))
    ∧ ((s.rcv.isCoord && s.mayConfirm d s.now) = true → exec (.reportFailed c d) s = .next (s.confirm d s.now))
    ∧ ((s.rcv.isCoord && s.mayConfirm d s.now) = false →
      exec (.reportFailed c d) s = .next (s.emit [.confirmed s.fab.coord d, .jm s.fab.coord (s.ctx c).jobId])))
  ∧ (∀ (s : State) (e : RepairEntry) (n : Nat) (same : RepairEntry → Bool), s.atl.running = true →
      (∀ x, same x = (x.core == e.core && x.eng == e.eng && x.kind == e.kind && x.index == e.index)) →
    (s.atl.repairMap.any same = true → exec (.repairMapWrite true e n) s = .next
      ((s.updAtl fun a => a.writeRepairs (s.atl.repairMap.filter fun x => !same x)).mbox 0))
    ∧ (s.atl.repairMap.any same = false → exec (.repairMapWrite true e n) s = .next (s.mbox 2))
    ∧ (256 ≤ s.atl.repairMap.length → exec (.repairMapWrite false e n) s = .next (s.mbox 2))
    ∧ ∀ t, t = (s.updAtl fun a => a.writeRepairs (s.atl.repairMap ++ [{ e with origin := 0, stepLo := s.ctl.sealed % 2 ^ 32 }])).mbox 0 →
      s.atl.repairMap.length < 256 →
      ((e.kind ≠ .retire ∨ (s.engine e.core e.eng).retired = true ∨ s.pow.phase < 1) → exec (.repairMapWrite false e n) s = .next t)
      ∧ (e.kind = .retire → (s.engine e.core e.eng).retired = false → 1 ≤ s.pow.phase →
        exec (.repairMapWrite false e n) s = .next ((t.updEngine e.core e.eng fun k =>
          { k.unstart n with reqAtl := true, reqCyc := n, retireWhenQuiet := some 3 }).retireDue e.core e.eng)))
  ∧ (∀ (s : State) (c : CoreId) (e : EngId), s.atl.running = true →
    (((s.engine c e).retired = false ∨ (s.engine c (sibling e)).retired = true) → exec (.engineDiag c e) s = .next (s.mbox 2))
    ∧ ∀ reply, reply = ((List.range (Config.freeNat s.fresh % 261)).map fun i => Config.freeByte s.fresh i) →
      (s.engine c e).retired = true → (s.engine c (sibling e)).retired = false →
      exec (.engineDiag c e) s = .next (((s.tick.updAtl fun a => { a with mboxBuf := memWrite [] 0 reply }).emit [.mailbox reply]).mbox 0))
  ∧ (∀ (s : State) (m : Manifest), s.atl.running = true →
    ((m.pod = 0 ∨ 1023 < m.pod ∨ (m.plan.map Prod.snd).contains 0 = true ∨ (m.plan.map Prod.snd).contains 0xFFFF = true
      ∨ (m.plan.map Prod.snd).dedup ≠ m.plan.map Prod.snd ∨ (m.alternates.map Prod.snd).contains 0xFFFF = true) →
      exec (.manifestWrite m) s = .next (s.mbox 2))
    ∧ (m.pod ≠ 0 → m.pod ≤ 1023 → (m.plan.map Prod.snd).contains 0 = false → (m.plan.map Prod.snd).contains 0xFFFF = false →
      (m.plan.map Prod.snd).dedup = m.plan.map Prod.snd → (m.alternates.map Prod.snd).contains 0xFFFF = false →
      exec (.manifestWrite m) s = .next ((s.updAtl fun a => { a with nextManifest := some m }).mbox 0)))

/-- Firmware goes to the inactive slot, and keys and floors change only under a good signature. Without running Atluta the mailbox commands
have no effect. A signed command whose signature fails reads 1, one whose signature holds has its effect, and both take a new nonce.
KEY_ENROL adds the key; unsigned it does so only while the table is empty in an OWNER_ENROL boot. KEY_REVOKE takes a listed key out unless
the table would be empty or 64 changes are burnt, else it reads 2. SVN_RAISE sets a higher image floor below 2^32 while changes are left,
else it reads 2. FW_SVN_COMMIT reads 0 where the running firmware is not above the floor, 2 with 64 fuses burnt, else it raises the floor
to that firmware's SVN. EXPORT_KEY sets the context's key. FIRMWARE_UPDATE writes the inactive slot and makes it active where it verifies,
else reads 1. FW_RECOVERY of a good slot in a recovery boot after the first rise, with Atluta not running and the always-on PLL locked,
writes the inactive slot and boots the ROM; else it changes nothing. (17_atluta_and_audit.md) -/
def Obligations.FirmwareSlotsAndOwnerKeys : Prop :=
  (∀ (s : State) (key : List Byte) (n m : Nat) (sig : Option Sig) (c : CtxId) (e : BitVec 256) (f : FwSlot), s.atl.running = false →
    exec (.keyEnrol key sig) s = .next s ∧ exec (.keyRevoke n sig) s = .next s ∧ exec (.svnRaise n sig) s = .next s
    ∧ exec (.fwSvnCommit sig) s = .next s ∧ exec (.exportKey c e sig) s = .next s ∧ exec (.firmwareUpdate f) s = .next s
    ∧ exec (.getAudit n m) s = .next s)
  ∧ (∀ (s : State) (key : List Byte) (n : Nat) (sig : Option Sig) (c : CtxId) (e : BitVec 256), s.atl.running = true →
    (sig = none → s.atl.keys = [] → s.pow.boot = .ownerEnrol → exec (.keyEnrol key sig) s = .next (s.addKey key))
    ∧ ((sig ≠ none ∨ s.atl.keys ≠ [] ∨ s.pow.boot ≠ .ownerEnrol) →
      (s.signedOk 0x10 key sig = false → exec (.keyEnrol key sig) s = .next (s.mbox 1).newNonce)
      ∧ (s.signedOk 0x10 key sig = true → exec (.keyEnrol key sig) s = .next (s.addKey key).newNonce))
    ∧ (s.signedOk 0x11 (leBytes 16 n) sig = false → exec (.keyRevoke n sig) s = .next (s.mbox 1).newNonce)
    ∧ (∀ l, l = (s.atl.keys.filter fun k => k.1 != n) → s.signedOk 0x11 (leBytes 16 n) sig = true →
      ((l = [] ∨ l = s.atl.keys ∨ 64 ≤ s.atl.keyBurns) → exec (.keyRevoke n sig) s = .next (s.mbox 2).newNonce)
      ∧ (l ≠ [] → l ≠ s.atl.keys → s.atl.keyBurns < 64 →
        exec (.keyRevoke n sig) s = .next (s.burnTable fun a => { a with keys := l }).newNonce))
    ∧ (s.signedOk 0x12 (leBytes 4 n) sig = false → exec (.svnRaise n sig) s = .next (s.mbox 1).newNonce)
    ∧ (s.signedOk 0x12 (leBytes 4 n) sig = true →
      ((n ≤ s.atl.imageFloor ∨ 2 ^ 32 ≤ n ∨ 64 ≤ s.atl.keyBurns) → exec (.svnRaise n sig) s = .next (s.mbox 2).newNonce)
      ∧ (s.atl.imageFloor < n → n < 2 ^ 32 → s.atl.keyBurns < 64 →
        exec (.svnRaise n sig) s = .next (s.burnTable fun a => { a with imageFloor := n }).newNonce))
    ∧ (s.signedOk 0x13 [] sig = false → exec (.fwSvnCommit sig) s = .next (s.mbox 1).newNonce)
    ∧ (∀ svn, svn = ((s.atl.slot s.atl.runSlot).map (·.svn)).getD 0 → s.signedOk 0x13 [] sig = true →
      (svn ≤ s.atl.fwFloor → exec (.fwSvnCommit sig) s = .next (s.mbox 0).newNonce)
      ∧ (s.atl.fwFloor < svn → 64 ≤ s.atl.fwFuses → exec (.fwSvnCommit sig) s = .next (s.mbox 2).newNonce)
      ∧ (s.atl.fwFloor < svn → s.atl.fwFuses < 64 → exec (.fwSvnCommit sig) s = .next
          ((s.updAtl fun a => { a with fwFloor := svn, fwFuses := a.fwFuses + 1 }).mbox 0).newNonce))
    ∧ (s.signedOk 0x14 (leBytes 32 e.toNat) sig = false → exec (.exportKey c e sig) s = .next (s.mbox 1).newNonce)
    ∧ (s.signedOk 0x14 (leBytes 32 e.toNat) sig = true →
      exec (.exportKey c e sig) s = .next ((s.updCtx c fun x => { x with exportKey := some e }).mbox 0).newNonce))
  ∧ (∀ (s : State) (f : FwSlot), s.atl.running = true →
    (s.fwOk f = true → exec (.firmwareUpdate f) s = .next
      (((s.updAtl fun a => a.putSlot (1 - s.atl.active) f).updAtl fun a => { a with active := 1 - s.atl.active }).mbox 0))
    ∧ (s.fwOk f = false → exec (.firmwareUpdate f) s = .next ((s.updAtl fun a => a.putSlot (1 - s.atl.active) f).mbox 1)))
  ∧ (∀ (s : State) (f : FwSlot),
    ((s.pow.boot ≠ .fwRecovery ∨ s.pow.firstRise = false ∨ s.atl.running = true ∨ s.pow.aonLock = false ∨ s.fwOk f = false) →
      exec (.fwRecovery f) s = .next s)
    ∧ (s.pow.boot = .fwRecovery → s.pow.firstRise = true → s.atl.running = false → s.pow.aonLock = true → s.fwOk f = true →
      exec (.fwRecovery f) s = .next (s.updAtl fun a => a.putSlot (1 - a.active) f).bootRom))

/-- No command ever lowers the fused firmware floor, and the fuse bank keeps within its 64 steps. For every command and state, whatever the
command answers next has a fused firmware floor, an image floor and counts of burnt fuses that are no lower than before, and counts within
64 stay within 64. FW_SVN_COMMIT, signed, with a free step and running firmware above the floor raises it to that firmware's SVN;
FIRMWARE_UPDATE of a verified slot writes the inactive slot and marks it ACTIVE; the slot that runs does not change then; the boot takes
the active slot where it is good. (R479) -/
def Obligations.FloorsNeverFall : Prop :=
  (∀ (i : Instr) (s t : State), exec i s = .next t →
    s.atl.fwFloor ≤ t.atl.fwFloor ∧ s.atl.imageFloor ≤ t.atl.imageFloor ∧ s.atl.fwFuses ≤ t.atl.fwFuses ∧ s.atl.keyBurns ≤ t.atl.keyBurns
      ∧ (s.atl.fwFuses ≤ 64 → t.atl.fwFuses ≤ 64) ∧ (s.atl.keyBurns ≤ 64 → t.atl.keyBurns ≤ 64))
  ∧ (∀ (s : State) (f : FwSlot) (sig : Option Sig), s.atl.running = true → s.signedOk 0x13 [] sig = true →
      s.atl.slot s.atl.runSlot = some f → s.atl.fwFloor < f.svn → s.atl.fwFuses < 64 →
    ∃ t, exec (.fwSvnCommit sig) s = .next t ∧ t.atl.fwFloor = f.svn ∧ t.atl.fwFuses = s.atl.fwFuses + 1)
  ∧ (∀ (s : State) (f : FwSlot), s.atl.running = true → s.atl.active < 2 → s.fwOk f = true →
    ∃ t, exec (.firmwareUpdate f) s = .next t ∧ t.atl.slot (1 - s.atl.active) = some f ∧ t.atl.active = 1 - s.atl.active
      ∧ t.atl.runSlot = s.atl.runSlot)
  ∧ (∀ s : State, s.slotOk s.atl.active = true → s.bootRom.atl.runSlot = s.atl.active)

/-- The SPDM responder answers version, capabilities and algorithms in order, and sessions only when established. Without running Atluta no
request has an effect. GET_VERSION begins the negotiation anew; GET_CAPABILITIES and NEGOTIATE_ALGORITHMS are answered in order and
refused out of order; before the negotiation has ended every other request is refused. After it digests are answered, and certificates,
challenges and key exchanges of slots 0 to 2, those of another slot refused; a measurement request within a good session or none gives the
number 8, one of the blocks 1 to 8 or all of them, and is refused otherwise; KEY_EXCHANGE opens the next session; FINISH establishes a
session not yet established when its code verifies, else it is refused; HEARTBEAT, KEY_UPDATE and END_SESSION act on an established
session and are refused otherwise. Response codes are the protocol's (log entry 38). (17_atluta_and_audit.md) -/
def Obligations.SpdmNegotiatesFirst : Prop :=
  (∀ (s : State) (n o l : Nat) (b : List Byte) (x : SpdmSession), s.atl.running = false →
    exec .getVersion s = .next s ∧ exec .getCapabilities s = .next s ∧ exec .negotiateAlgorithms s = .next s ∧ exec .getDigests s = .next s
    ∧ exec (.getCertificate n o l) s = .next s ∧ exec (.challenge n b) s = .next s ∧ exec (.getMeasurements n x) s = .next s
    ∧ exec (.keyExchange n b) s = .next s ∧ exec (.finish n b) s = .next s ∧ exec (.endSession n) s = .next s
    ∧ exec (.spdmHeartbeat n) s = .next s ∧ exec (.keyUpdate n) s = .next s)
  ∧ (∀ s : State, s.atl.running = true →
    exec .getVersion s = .next ((s.updAtl fun a => { a with spdmVersion := true, spdmCaps := false, spdmAlgs := false }).answer 0x04 [])
    ∧ (s.atl.spdmVersion = true → exec .getCapabilities s = .next ((s.updAtl fun a => { a with spdmCaps := true }).answer 0x61 []))
    ∧ (s.atl.spdmVersion = false → exec .getCapabilities s = .next s.spdmRefuse)
    ∧ (s.atl.spdmVersion = true → s.atl.spdmCaps = true →
        exec .negotiateAlgorithms s = .next ((s.updAtl fun a => { a with spdmAlgs := true }).answer 0x63 []))
    ∧ ((s.atl.spdmVersion = false ∨ s.atl.spdmCaps = false) → exec .negotiateAlgorithms s = .next s.spdmRefuse))
  ∧ (∀ (s : State) (n o l : Nat) (b : List Byte) (x : SpdmSession), s.atl.running = true → s.negotiated = false →
    exec .getDigests s = .next s.spdmRefuse ∧ exec (.getCertificate n o l) s = .next s.spdmRefuse ∧ exec (.challenge n b) s = .next s.spdmRefuse
    ∧ exec (.getMeasurements n x) s = .next s.spdmRefuse ∧ exec (.keyExchange n b) s = .next s.spdmRefuse
    ∧ exec (.finish n b) s = .next s.spdmRefuse ∧ exec (.endSession n) s = .next s.spdmRefuse
    ∧ exec (.spdmHeartbeat n) s = .next s.spdmRefuse ∧ exec (.keyUpdate n) s = .next s.spdmRefuse)
  ∧ (∀ (s : State) (n o l : Nat) (b : List Byte), s.atl.running = true → s.negotiated = true →
    exec .getDigests s = .next (s.answer 0x01 [])
    ∧ (n ≤ 2 → exec (.getCertificate n o l) s = .next (s.answer 0x02 (leBytes 1 n ++ leBytes 2 o ++ leBytes 2 (min l 4096)))
        ∧ exec (.challenge n b) s = .next (s.answer 0x03 (leBytes 1 n ++ b))
        ∧ exec (.keyExchange n b) s = .next ((s.updAtl fun a => { a with
            sessions := kvPut s.atl.sessionNext { established := false, keyGen := 0, beats := 0 } a.sessions
            sessionNext := s.atl.sessionNext + 1 }).answer 0x64 (leBytes 4 s.atl.sessionNext ++ b)))
    ∧ (2 < n → exec (.getCertificate n o l) s = .next s.spdmRefuse ∧ exec (.challenge n b) s = .next s.spdmRefuse
        ∧ exec (.keyExchange n b) s = .next s.spdmRefuse))
  ∧ (∀ (s : State) (i : Nat) (x : SpdmSession), s.atl.running = true → s.negotiated = true →
    (s.sessionOk x = false → exec (.getMeasurements i x) s = .next s.spdmRefuse)
    ∧ (s.sessionOk x = true →
      exec (.getMeasurements 0 x) s = .next (s.emit [.spdm 0x60 (leBytes 1 8)])
      ∧ (1 ≤ i → i ≤ 8 → exec (.getMeasurements i x) s = .next (s.emit [.spdm 0x60 (leBytes 1 i ++ s.measure i)]))
      ∧ exec (.getMeasurements 0xFF x) s = .next (s.emit [.spdm 0x60 ((List.range 8).flatMap fun i => leBytes 1 (i + 1) ++ s.measure (i + 1))])
      ∧ (8 < i → i ≠ 0xFF → exec (.getMeasurements i x) s = .next s.spdmRefuse)))
  ∧ (∀ (s : State) (n : Nat) (b : List Byte), s.atl.running = true → s.negotiated = true → kvFind n s.atl.sessions = none →
    exec (.finish n b) s = .next s.spdmRefuse ∧ exec (.endSession n) s = .next s.spdmRefuse
    ∧ exec (.spdmHeartbeat n) s = .next s.spdmRefuse ∧ exec (.keyUpdate n) s = .next s.spdmRefuse)
  ∧ (∀ (s : State) (n : Nat) (b : List Byte) (x : Session), s.atl.running = true → s.negotiated = true → kvFind n s.atl.sessions = some x →
    ((x.established = true ∨ Config.spdmMacOk n b s.fresh = false) → exec (.finish n b) s = .next s.spdmRefuse)
    ∧ (x.established = false → Config.spdmMacOk n b s.fresh = true → exec (.finish n b) s = .next
        ((s.updAtl fun a => { a with sessions := kvPut n { x with established := true } a.sessions }).answer 0x65 (leBytes 4 n)))
    ∧ (x.established = false → exec (.endSession n) s = .next s.spdmRefuse ∧ exec (.spdmHeartbeat n) s = .next s.spdmRefuse
        ∧ exec (.keyUpdate n) s = .next s.spdmRefuse)
    ∧ (x.established = true →
      exec (.endSession n) s = .next ((s.updAtl fun a => { a with sessions := kvDel n a.sessions }).answer 0x6C (leBytes 4 n))
      ∧ exec (.spdmHeartbeat n) s = .next
        ((s.updAtl fun a => { a with sessions := kvPut n { x with beats := x.beats + 1 } a.sessions }).answer 0x68 (leBytes 4 n))
      ∧ exec (.keyUpdate n) s = .next
        ((s.updAtl fun a => { a with sessions := kvPut n { x with keyGen := x.keyGen + 1 } a.sessions }).answer 0x69 (leBytes 4 n))))

/-- RECORD_SIGN signs and logs the step record or waits, GET_AUDIT exports, sectors are erased ahead, and the ring's tail frees the spool.
RECORD_SIGN of the step after the last sealed one, in its Seal and not yet signed, its comparisons settled, with Atluta running and the
device not fenced: without room in the spool it counts a wait under EXPORT_FULL; with room there but none in the log it changes nothing;
else it keeps the record, writes its log form, moves the chain head in an audit, hands the segment of the running context to the exporter,
and marks the step signed, logged and spooled. Otherwise it changes nothing. GET_AUDIT of at most 25 entries in an audit puts their log
forms into the mailbox buffer, else reads 2. LOG_SECTOR_ERASE of a sector neither erased nor the head marks it erased, or retires it with
LOG_SECTOR. DIFF_RING_TAIL sets the read offset, takes what was read out of the spool, and lets waiting segments follow. (01_the_step.md,
17_atluta_and_audit.md) -/
def Obligations.RecordsAreSignedOrWait : Prop :=
  (∀ (s : State) (n : Nat), ((s.stepOf n).st ≠ .seal ∨ (s.stepOf n).signed = true ∨ s.ctl.sealed + 1 ≠ n ∨ s.compared n = false
      ∨ s.atl.running = false ∨ s.fenced = true) → exec (.recordSign n) s = .next s)
  ∧ (∀ (s : State) (n : Nat) (r : StepRecord) (body : List Byte), r = s.stepRecord n →
      body = (s.segmentRecords n).flatMap (·.bytes) ++ r.fixed ++ r.form.sig ++ r.lists →
      (s.stepOf n).st = .seal → (s.stepOf n).signed = false → s.ctl.sealed + 1 = n → s.compared n = true →
      s.atl.running = true → s.fenced = false →
    (s.spoolRoom (64 + body.length) = false → exec (.recordSign n) s = .next (s.weirStall [28]))
    ∧ (s.spoolRoom (64 + body.length) = true → s.atl.logRoom = false → exec (.recordSign n) s = .next s)
    ∧ (s.spoolRoom (64 + body.length) = true → s.atl.logRoom = true →
      ∀ head a b, head = (if s.atl.audit.isSome then sha384 ((0x0C : Byte) :: (s.atl.chainHead ++ r.form.digest)) else s.atl.chainHead) →
        a = (s.tick.updAtl fun x => { x.logPut r.form with
          records := [r], chainHead := head, chainSeq := if x.audit.isSome then r.chainSeq else x.chainSeq
          auditRing := s.auditPut r.form }) →
        b = (match s.atl.runCtx with
          | some c => a.sendSegment c 0 n body
          | none => a) →
        exec (.recordSign n) s = .next (b.updStep n fun q => { q with signed := true, logged := true, spooled := true })))
  ∧ (∀ (s : State) (first count : Nat), s.atl.running = true →
    ((s.atl.audit = none ∨ 25 < count) → exec (.getAudit first count) s = .next (s.mbox 2))
    ∧ (s.atl.audit ≠ none → count ≤ 25 → exec (.getAudit first count) s = .next
        ((s.updAtl fun a => { a with mboxBuf := memWrite [] 0 (((s.atl.auditRing.drop first).take count).flatMap LogForm.bytes) }).mbox 0)))
  ∧ (∀ (s : State) (k : Nat), k = s.atl.nextSector s.atl.logHead →
    ((s.atl.running = false ∨ s.atl.logErased.contains k = true ∨ k = s.atl.logHead) →
      exec (.logSectorErase true) s = .next s ∧ exec (.logSectorErase false) s = .next s)
    ∧ (s.atl.running = true → s.atl.logErased.contains k = false → k ≠ s.atl.logHead →
      exec (.logSectorErase true) s = .next (s.updAtl fun a => { a with
        logErased := a.logErased ++ [k], logErases := (a.logErases + 1) % 2 ^ 32, logSectors := kvDel k a.logSectors })
      ∧ exec (.logSectorErase false) s = .next ((s.updAtl fun a => { a with
        logRetired := a.logRetired ++ [k], logErases := (a.logErases + 1) % 2 ^ 32 }).raiseDev .correctable 0x097 (unitNo 9 0) k)))
  ∧ (∀ (s : State) (c : CtxId) (v : W64), ∃ t, exec (.diffRingTail c v) s = .next t
    ∧ ∀ d, d = { s.ctx c with ringTail := v.toNat } → t = s.updCtx c fun _ =>
        Ctx.drainRing (ackRing d.ringUsed d.spool).length { d with spool := ackRing d.ringUsed d.spool })

/-- STORE and STORE_APPLY write a bank only with an image that verifies, and PACKAGE extends the running image. Without running Atluta none
has an effect. STORE of an image that fails its checks ends with that result; of one that passes it writes the bank and ends OK, or FLASH
where the flash failed. STORE_APPLY is refused as BUSY while a job is loaded; it ends with the check's result; with a job for a core
without an engine in service it ends INVALID and raises CORE_NO_ENGINE; else it writes the bank and applies the image, or ends FLASH.
PACKAGE of one that fails checks 1 to 4 ends with that result, an image that is no package INVALID, without a running image or with
another base BASE; one that holds only a LAYOUT section while a context runs is staged where its fields are good, else INVALID; one for a
loaded context is BUSY; else the extended image is taken with its fields where they are good and no section is for a core without an
engine, else INVALID, in the latter case with CORE_NO_ENGINE. (16_mioxa_image.md) -/
def Obligations.ImagesAreVerifiedAndStored : Prop :=
  (∀ (s : State) (i : Image) (b : Bool), s.atl.running = false →
    exec (.store i b) s = .next s ∧ exec (.storeApply i b) s = .next s ∧ exec (.package i) s = .next s)
  ∧ (∀ (s : State) (i : Image), s.atl.running = true →
    (s.storeEnd i ≠ .ok → ∀ b, exec (.store i b) s = .next (s.loadEnd (s.storeEnd i)))
    ∧ (s.storeEnd i = .ok → exec (.store i true) s = .next ((s.putBank i true).loadEnd .ok)
      ∧ exec (.store i false) s = .next ((s.putBank i false).loadEnd .flash))
    ∧ (s.anyJob = true → ∀ b, exec (.storeApply i b) s = .next (s.loadEnd .busy))
    ∧ (s.anyJob = false → s.storeEnd i ≠ .ok → ∀ b, exec (.storeApply i b) s = .next (s.loadEnd (s.storeEnd i)))
    ∧ (s.anyJob = false → s.storeEnd i = .ok →
      (s.deadCore i (fieldsOf i) = true → ∀ b, exec (.storeApply i b) s = .next
        ((s.updLdr fun l => { l with loadResult := 2 }).raiseDev .correctable 0x013 (unitNo 11 0) 0))
      ∧ (s.deadCore i (fieldsOf i) = false →
        exec (.storeApply i true) s = .next (((s.putBank i true).applyImage i s.writeBank).loadEnd .ok)
        ∧ exec (.storeApply i false) s = .next ((s.putBank i false).loadEnd .flash)))
    ∧ (s.verify4 i ≠ .ok → exec (.package i) s = .next (s.loadEnd (s.verify4 i)))
    ∧ (s.verify4 i = .ok →
      (i.package = false → exec (.package i) s = .next (s.loadEnd .invalid))
      ∧ (i.package = true → s.ldr.image = none → exec (.package i) s = .next (s.loadEnd .base))
      ∧ (∀ a, i.package = true → s.ldr.image = some a →
        (i.baseDigest ≠ headDigest a → exec (.package i) s = .next (s.loadEnd .base))
        ∧ (i.baseDigest = headDigest a →
          (onlyLayout i = true → s.atl.runCtx ≠ none →
            (i.fields.all (fieldEntryOk i.sections) = true → exec (.package i) s = .next (s.stage i))
            ∧ (i.fields.all (fieldEntryOk i.sections) = false → exec (.package i) s = .next (s.loadEnd .invalid)))
          ∧ ((onlyLayout i = false ∨ s.atl.runCtx = none) → ∀ held e fs,
            held = (i.sections.any fun x => match x.ctx with
              | some c => (s.ctx c).loaded
              | none => false) →
            e = extendImage a i →
            fs = (s.ldr.fields.filter fun f => !((contextsOf i).any fun c => f.ctx == some c)) ++ fieldsOf i →
            (held = true → exec (.package i) s = .next (s.loadEnd .busy))
            ∧ (held = false → s.deadCore e fs = true → exec (.package i) s = .next
                ((s.updLdr fun l => { l with loadResult := 2 }).raiseDev .correctable 0x013 (unitNo 11 0) 0))
            ∧ (held = false → s.deadCore e fs = false → (i.fields.all (fieldEntryOk i.sections) && s.fieldsOk e fs) = true →
                exec (.package i) s = .next
                  ((s.updLdr fun l => { l with image := some e, fields := fs, packages := l.packages ++ [i] }).loadEnd .ok))
            ∧ (held = false → s.deadCore e fs = false → (i.fields.all (fieldEntryOk i.sections) && s.fieldsOk e fs) = false →
                exec (.package i) s = .next (s.loadEnd .invalid)))))))

/-- FIELD_READ gives the last written value, and FIELD_WRITE and WRITE_STEP are refused, locked, late or taken by the class. An index without
a field, a field longer than the buffer, and a value out of range or against a joint condition end with 5 and FIELD_RANGE. FIELD_READ puts
the last written value into the buffer. FIELD_WRITE of a NUMERIC field ends with 2, of a Locked field of a running owner with 1, each with
its fault; a good value of a Shadowed field of a running owner waits for its boundary, any other good value is taken at once. WRITE_STEP
of a field that is no Shadowed JOB field ends with 6, away from the vote root with 4, too late with 3 and its fault; else it is accepted
and stays busy until WRITE_STEP_COMPLETE of its serial number, which changes nothing for another. (00_scope.md, 16_mioxa_image.md) -/
def Obligations.FieldsAreReadAndWritten : Prop :=
  (∀ (s t : State) (k : Nat), t = s.updLdr (fun l => { l with sel := k }) →
    (s.ldr.fields[k]? = none → exec (.fieldRead k) s = .next (t.fieldFault 5 0x090 k))
    ∧ ∀ f, s.ldr.fields[k]? = some f →
      (4096 < f.inst.len → exec (.fieldRead k) s = .next (t.fieldFault 5 0x090 k))
      ∧ (f.inst.len ≤ 4096 → exec (.fieldRead k) s = .next
          ((t.updLdr fun l => { l with buf := memWrite [] 0 (fieldBytes f.inst.len (s.lastWritten k f)) }).fieldEnd 0)))
  ∧ (∀ (s t : State) (k n : Nat) (v : List Nat), t = (s.at' n).updLdr (fun l => { l with sel := k }) →
    (s.ldr.fields[k]? = none → exec (.fieldWrite k ⟨v, n⟩) s = .next (t.fieldFault 5 0x090 k))
    ∧ ∀ f, s.ldr.fields[k]? = some f →
      (f.inst.numeric = true → exec (.fieldWrite k ⟨v, n⟩) s = .next (t.fieldFault 2 0x095 k))
      ∧ (f.inst.numeric = false → s.ownerRuns f = true → f.inst.cls = .locked →
        exec (.fieldWrite k ⟨v, n⟩) s = .next (t.fieldFault 1 0x094 k))
      ∧ (f.inst.numeric = false → (s.ownerRuns f = false ∨ f.inst.cls ≠ .locked) → ∀ range,
        range = ((fieldSpec f.inst.name).map (·.range.has v)).getD false →
        ((4096 < f.inst.len ∨ range = false) → exec (.fieldWrite k ⟨v, n⟩) s = .next (t.fieldFault 5 0x090 k))
        ∧ (f.inst.len ≤ 4096 → range = true →
          ((s.ownerRuns f = false ∨ f.inst.cls ≠ .shadowed) → exec (.fieldWrite k ⟨v, n⟩) s = .next ((t.setField k v false).fieldEnd 0))
          ∧ (s.ownerRuns f = true → f.inst.cls = .shadowed →
            (s.jointAfter k f v = true → exec (.fieldWrite k ⟨v, n⟩) s = .next ((t.setField k v true).fieldEnd 0))
            ∧ (s.jointAfter k f v = false → exec (.fieldWrite k ⟨v, n⟩) s = .next (t.fieldFault 5 0x090 k))))))
  ∧ (∀ (s t : State) (k n : Nat) (v : List Nat), t = s.updLdr (fun l => { l with sel := k }) →
    (s.ldr.fields[k]? = none → exec (.writeStep k n v) s = .next (t.fieldFault 5 0x090 k))
    ∧ ∀ f, s.ldr.fields[k]? = some f →
      ((f.sect ≠ .job ∨ f.inst.cls ≠ .shadowed) → exec (.writeStep k n v) s = .next (t.fieldEnd 6))
      ∧ (f.sect = .job → f.inst.cls = .shadowed → s.isRoot = false → exec (.writeStep k n v) s = .next (t.fieldEnd 4))
      ∧ (f.sect = .job → f.inst.cls = .shadowed → s.isRoot = true → ∀ good,
        good = ((((fieldSpec f.inst.name).map (·.range.has v)).getD false) && s.jointAfter k f v) →
        (good = false → exec (.writeStep k n v) s = .next (t.fieldFault 5 0x090 k))
        ∧ (good = true → s.tooLate n = true → exec (.writeStep k n v) s = .next
            (t.fieldFault 3 (if f.inst.name = "LAYOUT_TARGET" then 0x065 else 0x096) n))
        ∧ (good = true → s.tooLate n = false → exec (.writeStep k n v) s = .next
            ((t.acceptWrite k v n).updLdr fun l => { l with busy := true, result := 0 }))))
  ∧ (∀ (s : State) (n : Nat) (held : Bool), held = (s.ldr.rootWrites.any fun w => w.w.serial == n && !w.complete) →
    (held = false → exec (.writeStepComplete n) s = .next s)
    ∧ (held = true → exec (.writeStepComplete n) s = .next ((s.updLdr fun l => { l with
        rootWrites := l.rootWrites.map fun w => if w.w.serial = n then { w with complete := true } else w }).fieldEnd 0)))

/-- VAUX powers pd000 alone, PWR_GOOD latches the straps and starts bring-up, and the reset inputs switch the other domains off. VAUX_ON of an
unpowered device powers it with the always-on PLL locked, FAULT_N low and IDCODE selected. VAUX_LOSS switches everything off and keeps
flash, fuses, banks and the levels of the inputs. PWR_GOOD_RISE without VAUX or with PWR_GOOD high changes nothing; it latches TRAY_ID,
clears the latched fatal condition and restarts bring-up, or, at the first rise, sets time to 0, latches BOOT_SEL, begins phase 0 and
boots the ROM unless BOOT_SEL is FW_RECOVERY or the always-on PLL has no lock. PWR_GOOD_FALL and SYS_RST_N_ASSERT of less than 10 µs, or
of an input already low, change nothing; else they are a reset event (SYS_RST_N only after a first rise). SYS_RST_N_RELEASE of an asserted
input latches TRAY_ID where VAUX is present and restarts bring-up. (17_atluta_and_audit.md, 18_clocks_power_bringup.md,
19_package_and_signals.md) -/
def Obligations.SupplyAndResetInputs : Prop :=
  (∀ s : State, (s.pow.vaux = true → exec .vauxOn s = .next s)
    ∧ (s.pow.vaux = false → exec .vauxOn s = .next (s.updPow fun p => { p with vaux := true, aonLock := true, faultLow := true, jtag := "IDCODE" })))
  ∧ (∀ s : State, exec .vauxLoss s = .next { s.switchAllOff with
      evt := {}, atl := s.switchAllOff.atl.unpowered, rcv := {}, ldr := { bankA := s.ldr.bankA, bankB := s.ldr.bankB }
      pow := { sysRstN := s.pow.sysRstN, perstN := s.pow.perstN, holdN := s.pow.holdN } })
  ∧ (∀ (s t u : State) (y : BitVec 6) (b : BootSel),
      t = (s.updPow fun p => { p with pwrGood := true, tray := y }).updEvt (fun e => { e with fatalLatched := false }) →
      u = (({ t with now := 0 } : State).updPow fun p => { p with firstRise := true, started := true, startAt := 0, phase := 0, boot := b }) →
    ((s.pow.vaux = false ∨ s.pow.pwrGood = true) → exec (.pwrGoodRise y b) s = .next s)
    ∧ (s.pow.vaux = true → s.pow.pwrGood = false →
      (s.pow.firstRise = true → exec (.pwrGoodRise y b) s = .next t.restart)
      ∧ (s.pow.firstRise = false → (b = .fwRecovery ∨ s.pow.aonLock = false) → exec (.pwrGoodRise y b) s = .next u)
      ∧ (s.pow.firstRise = false → b ≠ .fwRecovery → s.pow.aonLock = true → exec (.pwrGoodRise y b) s = .next u.bootRom)))
  ∧ (∀ (s : State) (n : Nat),
    ((n < 10000 ∨ s.pow.pwrGood = false) → exec (.pwrGoodFall n) s = .next s)
    ∧ (10000 ≤ n → s.pow.pwrGood = true → exec (.pwrGoodFall n) s = .next (s.resetEvent.updPow fun p => { p with pwrGood := false }))
    ∧ ((n < 10000 ∨ s.pow.sysRstN = false) → exec (.sysRstNAssert n) s = .next s)
    ∧ (10000 ≤ n → s.pow.sysRstN = true → s.pow.firstRise = true →
      exec (.sysRstNAssert n) s = .next (s.resetEvent.updPow fun p => { p with sysRstN := false }))
    ∧ (10000 ≤ n → s.pow.sysRstN = true → s.pow.firstRise = false →
      exec (.sysRstNAssert n) s = .next (s.updPow fun p => { p with sysRstN := false })))
  ∧ (∀ (s : State) (y : BitVec 6),
    (s.pow.sysRstN = true → exec (.sysRstNRelease y) s = .next s)
    ∧ (s.pow.sysRstN = false → exec (.sysRstNRelease y) s = .next
        (s.updPow fun p => { p with sysRstN := true, tray := if p.vaux then y else p.tray }).restart))

/-- PERST_N, CX_PERST_N, the PLLs and HOLD_N act as their rules say, and domains wake and go off in full service. PERST_N released lets the
host port train where pd109 is ON, asserted resets the port and the vectors. CX_PERST_N is released in phase 4 or later 100 ms after pd110
was switched ON while it is ON, else not. PLL_LOCK is taken in phase 1 of a started bring-up. PLL_UNLOCK of a locked root PLL loses the
work of its units and raises the device-fatal PLL_UNLOCK with FAULT_N low; the loss of a locked always-on PLL stops Atluta. HOLD_N sets
its level. DOMAIN_WAKE of a domain OFF in phase 5 makes it ready, wakes the engines of an engine domain, and a busy core counts its ramp
under DOMAIN_WAKE. DOMAIN_SWITCH_OFF of an ON domain that may go off in phase 5 makes it OFF: a core's rest loses all but its repairs,
divider and cycle, an engine domain its engines' contents, pd110 the CXL ports. Otherwise these change nothing, but for the clock of
CX_PERST_RELEASE. (05_engine_integrity.md, 18_clocks_power_bringup.md, 19_package_and_signals.md) -/
def Obligations.PinsClocksAndDomains : Prop :=
  (∀ s : State, exec .perstRelease s = .next (s.updPow fun p => { p with perstN := true, hostUp := s.domOn 109 })
    ∧ exec .perstAssert s = .next ((s.updPow fun p => { p with perstN := false, hostUp := false }).updEvt fun e => { e with vecs := [] }))
  ∧ (∀ (s t : State) (n : Nat), t = (s.at' n).settle n →
    (t.pow.cxPerstAt = none → exec (.cxPerstRelease n) s = .next t)
    ∧ ∀ t0, t.pow.cxPerstAt = some t0 →
      (t.domOn 110 = true → t0 + 100 * ms ≤ n → 4 ≤ t.pow.phase →
        exec (.cxPerstRelease n) s = .next ((t.updCxl 0 fun x => { x with perstN := true }).updCxl 1 fun x => { x with perstN := true }))
      ∧ ((t.domOn 110 = false ∨ n < t0 + 100 * ms ∨ t.pow.phase < 4) → exec (.cxPerstRelease n) s = .next t))
  ∧ (∀ s : State,
    (s.pow.phase = 1 → s.pow.started = true → exec .pllLock s = .next (s.updPow fun p => { p with pllLock := true }))
    ∧ ((s.pow.phase ≠ 1 ∨ s.pow.started = false) → exec .pllLock s = .next s)
    ∧ (s.pow.pllLock = false → exec .pllUnlock s = .next s)
    ∧ (s.pow.pllLock = true → exec .pllUnlock s = .next ((s.loseWork.updPow fun p => { p with
        pllLock := false, failed := true, started := false, faultLow := true }).raiseDev .deviceFatal 0x0A0 (unitNo 10 0) 0))
    ∧ (s.pow.aonLock = false → exec .alwaysOnPllUnlock s = .next s)
    ∧ (s.pow.aonLock = true → exec .alwaysOnPllUnlock s = .next
        ((s.updPow fun p => { p with aonLock := false, faultLow := true }).updAtl fun a => { a with running := false }))
    ∧ exec .holdNLow s = .next (s.updPow fun p => { { p with holdN := false } with levelH := ({ p with holdN := false } : Power).holdLevel })
    ∧ exec .holdNHigh s = .next (s.updPow fun p => { p with holdN := true, levelH := 0 }))
  ∧ (∀ (s t : State) (d : DomainId), t = s.domReady d.val s.now →
    ((s.pow.phase ≠ 5 ∨ s.domOn d.val = true) → exec (.domainWake d) s = .next s)
    ∧ (s.pow.phase = 5 → s.domOn d.val = false →
      (coreOfDom d.val = none → exec (.domainWake d) s = .next t)
      ∧ ∀ c u, coreOfDom d.val = some c →
        u = (if d.val = engDom c.val then (t.updEngine c 0 Engine.domainOn).updEngine c 1 Engine.domainOn else t) →
        ((s.core c).busy = true → exec (.domainWake d) s = .next (u.updCore c fun x => { x with
            stall := kvMod 0 29 (satAdd stallMax · (rampCycles s.fuses.isAS (s.core c).div)) x.stall }))
        ∧ ((s.core c).busy = false → exec (.domainWake d) s = .next u)))
  ∧ (∀ (s t : State) (d : DomainId) (bare : Engine → Engine), t = s.updPow (fun p => { p with doms := kvPut d.val .off p.doms }) →
      (∀ k, bare k = { retired := k.retired, cause := k.cause, colRep := k.colRep, rowRep := k.rowRep, colFuse := k.colFuse
                       rowFuse := k.rowFuse, recur := k.recur }) →
    ((s.pow.phase ≠ 5 ∨ s.domOn d.val = false ∨ s.mayOff d.val = false) → exec (.domainSwitchOff d) s = .next s)
    ∧ (s.pow.phase = 5 → s.domOn d.val = true → s.mayOff d.val = true →
      (∀ c, coreOfDom d.val = some c →
        (d.val = restDom c.val → exec (.domainSwitchOff d) s = .next (t.updCore c fun k =>
          { eng := kvMap (fun _ e => bare e) k.eng, div := k.div, lastCyc := k.lastCyc }))
        ∧ (d.val ≠ restDom c.val → exec (.domainSwitchOff d) s = .next
          ((t.updEngine c 0 fun x => x.domainOff (s.core c).lastCyc).updEngine c 1 fun x => x.domainOff (s.core c).lastCyc)))
      ∧ (coreOfDom d.val = none →
        (d.val = 110 → exec (.domainSwitchOff d) s = .next
          (((t.updPow fun p => { p with cxPerstAt := none }).updCxl 0 fun _ => {}).updCxl 1 fun _ => {}))
        ∧ (d.val ≠ 110 → exec (.domainSwitchOff d) s = .next t))))

/-- DOMAIN_SWITCH_ON ramps the lowest OFF domain, and BRINGUP_PHASE_END, BRINGUP_SLOW, HBM_TRAIN and STAY_REDUCED move bring-up.
DOMAIN_SWITCH_ON in a started bring-up, 50 µs after the one before, begins the ramp of the lowest OFF domain of the phase; else only the
clock moves. BRINGUP_PHASE_END of a phase that is done enters the next: 0 to 1, 1 to 2, 2 to 3 with FAULT_N released unless a device-fatal
condition holds it, 3 to 4 with the dividers set, the links to full rate and the graph sent, 4 to 5 with the levels' clocks set and the
dividers again; a phase not done stays. BRINGUP_SLOW raises its fault once for a phase beyond its bound, not while HOLD_N holds phase 0.
HBM_TRAIN in phase 2 of a powered stack with fewer than three failures, not yet trained: a success marks it and sets its retired frames
aside, a failure counts, the third raises the device-fatal HBM_TRAIN with FAULT_N low; else it changes nothing. STAY_REDUCED sets its bit.
(08_memory_tiers.md, 18_clocks_power_bringup.md) -/
def Obligations.BringUpPhasesFollow : Prop :=
  (∀ (s t : State) (n : Nat), t = (s.at' n).settle n →
    (∀ d, (t.phaseDoms.find? fun d => t.dom d == .off) = some d → s.pow.started = true → (∀ t0, s.pow.lastOn = some t0 → t0 + 50000 ≤ n) →
      exec (.domainSwitchOn n) s = .next (t.updPow fun p => { p with doms := kvPut d .ramp p.doms, lastOn := some n }))
    ∧ (((t.phaseDoms.find? fun d => t.dom d == .off) = none ∨ s.pow.started = false ∨ (∃ t0, s.pow.lastOn = some t0 ∧ n < t0 + 50000)) →
      exec (.domainSwitchOn n) s = .next t)
    ∧ ((t.pow.started = false ∨ t.phaseDone = false) → exec (.bringupPhaseEnd n) s = .next t)
    ∧ (t.pow.started = true → t.phaseDone = true →
      (t.pow.phase = 0 → exec (.bringupPhaseEnd n) s = .next t.enterPhase1)
      ∧ (t.pow.phase = 1 → exec (.bringupPhaseEnd n) s = .next (t.updPow fun p => { p with phase := 2 }))
      ∧ (t.pow.phase = 2 → exec (.bringupPhaseEnd n) s = .next (t.updPow fun p => { p with
          phase := 3, phase3Ms := s.sinceStart n
          faultLow := t.evt.fatalLatched || t.fenced || t.evt.raised.any fun r => r.cls == .deviceFatal }))
      ∧ (t.pow.phase = 3 → exec (.bringupPhaseEnd n) s = .next (t.updPow fun p => { p with phase := 4 }).setDividers.toFullRate.sendGraph)
      ∧ (4 ≤ t.pow.phase → ∀ q : Power, q = { t.pow with
          phase := 5, phase5Ms := s.sinceStart n, changedP := n, changedT := n, lastEval := n, evals := [] } →
          exec (.bringupPhaseEnd n) s = .next (t.updPow fun _ => { q with levelH := q.holdLevel }).setDividers)))
  ∧ (∀ (s : State) (n k : Nat), k = s.pow.phase →
    (s.pow.started = true → k < 5 → k ∉ s.pow.slow → s.pow.startAt + phaseBound k * ms < n → (k ≠ 0 ∨ s.pow.holdN = true) →
      exec (.bringupSlow n) s = .next (((s.at' n).updPow fun p => { p with slow := k :: p.slow }).raiseDev .correctable 0x0A4 (unitNo 10 0) 0))
    ∧ ((s.pow.started = false ∨ 5 ≤ k ∨ k ∈ s.pow.slow ∨ n ≤ s.pow.startAt + phaseBound k * ms ∨ (k = 0 ∧ s.pow.holdN = false)) →
      exec (.bringupSlow n) s = .next (s.at' n)))
  ∧ (∀ (s : State) (k : StackId) (m : Nat), m = kvGet 0 k.val s.pow.attempts →
    ((s.pow.phase ≠ 2 ∨ s.pow.started = false ∨ s.domOn (65 + k.val) = false ∨ 3 ≤ m ∨ k.val ∈ s.pow.trained) →
      exec (.hbmTrain k true) s = .next s ∧ exec (.hbmTrain k false) s = .next s)
    ∧ (s.pow.phase = 2 → s.pow.started = true → s.domOn (65 + k.val) = true → m < 3 → k.val ∉ s.pow.trained →
      exec (.hbmTrain k true) s = .next ((s.updPow fun p => { p with trained := k.val :: p.trained }).updTier fun t =>
        { t with retired := t.retired ++ s.atl.frameRetired.filter fun l => l.tier == .hbm && l.unit == k.val })
      ∧ (m < 2 → exec (.hbmTrain k false) s = .next (s.updPow fun p => { p with attempts := kvPut k.val (m + 1) p.attempts }))
      ∧ (m = 2 → exec (.hbmTrain k false) s = .next
          (((s.updPow fun p => { p with attempts := kvPut k.val 3 p.attempts }).updPow fun p => { p with
            failed := true, faultLow := true }).raiseDev .deviceFatal 0x0A3 (unitNo 5 k.val) 0))))
  ∧ (∀ (s : State) (v : W64), exec (.stayReduced v) s = .next (s.updPow fun p => { p with stayReduced := v.getLsbD 0 }))

/-- FANTAIL_SAMPLE and FANTAIL_EVALUATE move the levels by the samples, droops are counted when they end, and a trip switches off. In phase 0
samples, evaluations, droops and trips have no effect but the clock's. FANTAIL_SAMPLE keeps the newest samples of the window.
FANTAIL_EVALUATE comes 100 µs after the one before, unless tripped: the levels move in phase 5, elsewhere only the time is noted; then the
unmet limits are evaluated and THERM_N follows the condition. A droop of units 0 to 47 is noted with its stretch and, when it ends after
256 cycles or more, counted under that stretch. THERMAL_TRIP at 115 °C or 105 °C, not yet tripped, asks every engine to stop, marks the
trip and raises the device-fatal fault. TRIP_POWER_OFF of a started, tripped device, with every engine quiet or 4,352 cycles counted,
switches every domain but pd000 off with FAULT_N and THERM_N low; else it changes nothing. (18_clocks_power_bringup.md) -/
def Obligations.FantailMovesTheLevel : Prop :=
  (∀ (s : State) (p : PowerSample) (y : ThermalSample),
    (s.pow.phase = 0 → exec (.fantailSample p y) s = .next s)
    ∧ (s.pow.phase ≠ 0 → exec (.fantailSample p y) s = .next (s.updPow fun q => { q with
        samples := (p :: q.samples).take s.windowSamples, thermal := y })))
  ∧ (∀ (s t : State) (n : Nat), t = s.at' n →
    ((s.pow.phase = 0 ∨ s.pow.tripped = true ∨ n < s.pow.lastEval + 100000) → exec (.fantailEvaluate n) s = .next t)
    ∧ (s.pow.phase ≠ 0 → s.pow.tripped = false → s.pow.lastEval + 100000 ≤ n →
      (s.pow.phase = 5 → exec (.fantailEvaluate n) s = .next
        (((t.evalLevels n).evalUnmet n).updPow fun p => { p with thermLow := s.hot }))
      ∧ (s.pow.phase ≠ 5 → exec (.fantailEvaluate n) s = .next
        (((t.updPow fun p => { p with lastEval := n }).evalUnmet n).updPow fun p => { p with thermLow := s.hot }))))
  ∧ (∀ (s : State) (u : Nat) (deep : Bool),
    ((s.pow.phase = 0 ∨ 48 ≤ u) → exec (.droopDetect u deep) s = .next s)
    ∧ (s.pow.phase ≠ 0 → u < 48 → exec (.droopDetect u deep) s = .next
        (s.updPow fun p => { p with droops := kvPut u (if deep then 2 else 1) p.droops })))
  ∧ (∀ (s : State) (u n : Nat),
    ((kvFind u s.pow.droops = none ∨ n < 256) → exec (.droopEnd u n) s = .next s)
    ∧ ∀ k, kvFind u s.pow.droops = some k → 256 ≤ n → exec (.droopEnd u n) s = .next (s.updPow fun p => { p with
        droops := kvDel u p.droops
        stretch1 := if k = 1 then satAdd (2 ^ 32 - 1) p.stretch1 n else p.stretch1
        stretch2 := if k = 1 then p.stretch2 else satAdd (2 ^ 32 - 1) p.stretch2 n }))
  ∧ (∀ (s : State) (hot : Bool), hot = ((s.pow.thermal.junction.any (115 ≤ ·)) || s.pow.thermal.hbm.any (105 ≤ ·)) →
    ((s.pow.phase = 0 ∨ s.pow.tripped = true ∨ hot = false) → exec .thermalTrip s = .next s)
    ∧ (s.pow.phase ≠ 0 → s.pow.tripped = false → hot = true → ∀ ask : Core → Engine → Engine,
      (∀ k e, ask k e = { e.unstart k.lastCyc with reqFan := true, reqCyc := k.lastCyc }) →
      exec .thermalTrip s = .next ((((List.finRange 32).foldl (fun u c => u.updCore c fun k => { k with
        eng := kvPut 0 (ask k (kvGet {} 0 k.eng)) (kvPut 1 (ask k (kvGet {} 1 k.eng)) k.eng) }) s).updPow fun p => { p with
          tripped := true, failed := true }).raiseDev .deviceFatal 0x0A2 (unitNo 10 0) 0)))
  ∧ (∀ (s : State) (n : Nat) (quiet : Bool), quiet = ((List.finRange 32).all fun c => (s.engine c 0).still && (s.engine c 1).still) →
    ((s.pow.tripped = false ∨ s.pow.started = false ∨ (quiet = false ∧ n < 4352)) → exec (.tripPowerOff n) s = .next s)
    ∧ (s.pow.tripped = true → s.pow.started = true → (quiet = true ∨ 4352 ≤ n) →
      exec (.tripPowerOff n) s = .next (s.switchAllOff.updPow fun p => { p with thermLow := true, faultLow := true })))

/-- A JTAG instruction becomes the selected one, with what its register captures, and drives pins only under reset. With VAUX, BYPASS and
HIGHZ capture 0, IDCODE captures 0x1096_0C9D and SAMPLE/PRELOAD a sample of the balls (a free value). EXTEST, EXTEST_PULSE, EXTEST_TRAIN
and CLAMP are in force while SYS_RST_N is asserted and select BYPASS otherwise. Without VAUX none has an effect on the selection;
SAMPLE/PRELOAD then only takes its free value. (19_package_and_signals.md) -/
def Obligations.JtagInstructionsSelectTheirRegister : Prop :=
  (∀ s : State, s.pow.vaux = true →
    exec .bypass s = .next ((s.updPow fun p => { p with jtag := "BYPASS" }).emit [.tdo "BYPASS" 0])
    ∧ exec .idcode s = .next ((s.updPow fun p => { p with jtag := "IDCODE" }).emit [.tdo "IDCODE" 0x10960C9D])
    ∧ exec .highz s = .next ((s.updPow fun p => { p with jtag := "HIGHZ" }).emit [.tdo "HIGHZ" 0])
    ∧ exec .samplePreload s = .next ((s.tick.updPow fun p => { p with jtag := "SAMPLE_PRELOAD" }).emit
        [.tdo "SAMPLE_PRELOAD" (Config.freeNat s.fresh)])
    ∧ (s.pow.sysRstN = false →
        exec .extest s = .next ((s.updPow fun p => { p with jtag := "EXTEST" }).emit [])
        ∧ exec .extestPulse s = .next ((s.updPow fun p => { p with jtag := "EXTEST_PULSE" }).emit [])
        ∧ exec .extestTrain s = .next ((s.updPow fun p => { p with jtag := "EXTEST_TRAIN" }).emit [])
        ∧ exec .clamp s = .next ((s.updPow fun p => { p with jtag := "CLAMP" }).emit []))
    ∧ (s.pow.sysRstN = true → exec .extest s = exec .bypass s ∧ exec .extestPulse s = exec .bypass s
        ∧ exec .extestTrain s = exec .bypass s ∧ exec .clamp s = exec .bypass s))
  ∧ (∀ s : State, s.pow.vaux = false → exec .idcode s = .next s ∧ exec .bypass s = .next s ∧ exec .highz s = .next s
    ∧ exec .extest s = .next s ∧ exec .extestPulse s = .next s ∧ exec .extestTrain s = .next s ∧ exec .clamp s = .next s
    ∧ exec .samplePreload s = .next s.tick)

/-- A register access of a bad size or address, or to a block that is OFF, only counts; a good write has its register's effect. With the host
port up, an access of another size or unaligned leaves the registers alone, is counted once in the saturating error counter, and a read of
it returns 0; one to a block that is OFF is counted in OFF_ACCESS and a read returns all ones. A write of a good access of 8 bytes writes
its register whole, one of 4 bytes its lower or upper half. ACCESS_ERR of a good access and OFF_ACCESS of a block that is not OFF, and
everything without the host port, changes nothing. EVQ_CTL and EVQ_TAIL write their queue, VECTOR_UNMASK of a vector below 2,048 unmasks
it, and STALL_LATCH copies the counters as its bit 0 says. (00_scope.md, 18_clocks_power_bringup.md, 20_control_space.md) -/
def Obligations.AccessesAreCounted : Prop :=
  (∀ (s : State) (w : Bool) (a n : Nat) (v : W64), s.pow.hostUp = true →
    (accessOk a n = false →
      exec (.accessErr w a n v) s = .next (if w then s.countAccess else s.countAccess.emit [.readData 0])
      ∧ exec (.registerWrite a n v) s = .next s.countAccess
      ∧ s.countAccess.evt.accessErr = min (2 ^ 32 - 1) (s.evt.accessErr + 1))
    ∧ (accessOk a n = true → exec (.accessErr w a n v) s = .next s)
    ∧ (s.addrOff a = true →
      exec (.offAccess w a v) s = .next (if w then s.countOff else s.countOff.emit [.readData (BitVec.allOnes 64)])
      ∧ (accessOk a n = true → exec (.registerWrite a n v) s = .next s.countOff)
      ∧ s.countOff.pow.offAccess = min 0xFFFF (s.pow.offAccess + 1))
    ∧ (s.addrOff a = false → exec (.offAccess w a v) s = .next s))
  ∧ (∀ (s : State) (a : Nat) (v : W64), s.pow.hostUp = true → a % 8 = 0 → s.addrOff a = false →
    exec (.registerWrite a 8 v) s = .next (s.regWrite a (2 ^ 64 - 1) v.toNat)
    ∧ exec (.registerWrite a 4 v) s = .next (s.regWrite a (2 ^ 32 - 1) v.toNat)
    ∧ (s.addrOff (a + 4) = false → exec (.registerWrite (a + 4) 4 v) s = .next (s.regWrite a (2 ^ 64 - 2 ^ 32)
        (v.toNat % 2 ^ 32 * 2 ^ 32))))
  ∧ (∀ (s : State) (w : Bool) (a n : Nat) (v : W64) (q : QueueId), s.pow.hostUp = false →
    exec (.accessErr w a n v) s = .next s ∧ exec (.offAccess w a v) s = .next s ∧ exec (.registerWrite a n v) s = .next s
    ∧ exec (.vectorUnmask n) s = .next s ∧ exec (.evqCtl q v) s = .next s ∧ exec (.evqTail q v) s = .next s
    ∧ exec (.stallLatch v) s = .next s)
  ∧ (∀ (s : State) (n : Nat) (v : W64) (q : QueueId), s.pow.hostUp = true →
    (n < 2048 → exec (.vectorUnmask n) s = .next (s.unmask n)) ∧ (2048 ≤ n → exec (.vectorUnmask n) s = .next s)
    ∧ exec (.evqCtl q v) s = .next (s.updEvq q.val fun x => x.ctl v.toNat v.toNat)
    ∧ exec (.evqTail q v) s = .next (s.updEvq q.val fun x => x.putTail v.toNat)
    ∧ exec (.stallLatch v) s = .next (s.latch (v.getLsbD 0)))

/-- FAULT_RECORD records the oldest raised condition, COALESCE_EXPIRY sends a pending message, and reports of ports and suspicions are noted.
FAULT_RECORD with VAUX takes the oldest raised condition out and records it, and a device-fatal one then acts on the device; without VAUX
or with none raised it changes nothing. COALESCE_EXPIRY of a busy vector sends a pending unmasked message where the host port is up, and
stays busy only where its queue coalesces; else it ends the interval; a vector that is not busy is left alone. ETH_PORT_DOWN of a port in
ETH mode that is not down takes it down with its fault, else nothing changes. SUSPICION_REPORT at a coordinator or its deputy notes the
report and confirms the failure once all the ports report it and it may be confirmed; elsewhere it changes nothing. (14_popor_fabric.md,
15_recovery.md, 20_control_space.md) -/
def Obligations.FaultsAreRecordedAndNotified : Prop :=
  (∀ (s : State) (n : Nat), (s.evt.raised = [] ∨ s.pow.vaux = false) → exec (.faultRecord n) s = .next s)
  ∧ (∀ (s u : State) (x : Raised) (l : List Raised) (n : Nat), s.evt.raised = x :: l → s.pow.vaux = true →
      u = ((s.at' n).updEvt fun e => { e with raised := l }).putRecord (((s.at' n).updEvt fun e => { e with raised := l }).recordOf x) →
    (x.cls = .deviceFatal → exec (.faultRecord n) s = .next u.deviceFatal)
    ∧ (x.cls ≠ .deviceFatal → exec (.faultRecord n) s = .next u))
  ∧ (∀ (s : State) (n : Nat),
    ((s.vec n).busy = false → exec (.coalesceExpiry n) s = .next s)
    ∧ ((s.vec n).busy = true →
      ((s.vec n).pend = true → (s.vec n).masked = false → s.pow.hostUp = true → exec (.coalesceExpiry n) s = .next
        ((s.updVec n fun y => { y with pend := false, busy := (s.evq (n / 64)).coal != 0 }).emit [.msix n]))
      ∧ (((s.vec n).pend = false ∨ (s.vec n).masked = true ∨ s.pow.hostUp = false) →
        exec (.coalesceExpiry n) s = .next (s.updVec n fun y => { y with busy := false }))))
  ∧ (∀ (s : State) (p : PortId),
    (s.portMode p = 2 → (s.port p).state ≠ .down → exec (.ethPortDown p) s = .next
      ((s.updPort p fun k => { k with state := .down, rate := 0 }).portFault p 0x071))
    ∧ ((s.portMode p ≠ 2 ∨ (s.port p).state = .down) → exec (.ethPortDown p) s = .next s))
  ∧ (∀ (s t : State) (src dev : DevId) (port : Nat) (w : Bool) (n : Nat), t = (s.at' n).noteSuspicion src dev port w n →
    (s.rcv.isCoord = false → s.rcv.isDeputy = false → exec (.suspicionReport src dev port w n) s = .next s)
    ∧ ((s.rcv.isCoord = true ∨ s.rcv.isDeputy = true) →
      ((t.allPortsDown dev && t.mayConfirm dev n) = true → exec (.suspicionReport src dev port w n) s = .next (t.confirm dev n))
      ∧ ((t.allPortsDown dev && t.mayConfirm dev n) = false → exec (.suspicionReport src dev port w n) s = .next t)))

/-- After reset the device is unpowered with FAULT_N low, every queue empty and every register at its stated value. State.reset has no VAUX,
no PWR_GOOD, no host port, FAULT_N low, phase 0, no loaded context, no raised condition, no waiting command and no listed byte of memory;
every core stands at divider 3 (the level before full service) and every array is empty, no context runs, every vector is masked, and
event queues have their stated size (LOG2_ENTRIES 6). Values without a stated reset are the model's (log entries 40, 42, 44, 45).
(18_clocks_power_bringup.md, 20_control_space.md) -/
def Obligations.ResetIsUnpowered : Prop :=
  State.reset.pow.vaux = false ∧ State.reset.pow.pwrGood = false ∧ State.reset.pow.hostUp = false ∧ State.reset.pow.faultLow = true
  ∧ State.reset.pow.phase = 0 ∧ State.reset.atl.running = false ∧ State.reset.atl.runCtx = none ∧ (∀ c, (State.reset.ctx c).loaded = false)
  ∧ State.reset.evt.raised = [] ∧ State.reset.pending = [] ∧ State.reset.tier.mem = []
  ∧ (∀ q, (State.reset.evq q).log2 = 6 ∧ (State.reset.evq q).enable = false)
  ∧ (∀ n, (State.reset.vec n).masked = true)
  ∧ (∀ d, State.reset.dom d = .off)
  ∧ (∀ c : CoreId, (State.reset.core c).div = 3) ∧ (∀ (c : CoreId) (e : EngId), (State.reset.engine c e).inArray = [])
  ∧ State.reset.level = 3

/-- No command's effect touches the waiting commands, nor the fuses that manufacture wrote. For every command and state, the next state of the
command has the same queue of waiting commands and the same manufacturing fuses (repairs, identity, lifecycle) as the state before; so a
step on a queue leaves exactly the queue's rest. (05_engine_integrity.md, 17_atluta_and_audit.md) -/
def Obligations.QueueAndFusesAreKept : Prop :=
  (∀ (i : Instr) (s t : State), exec i s = .next t → t.pending = s.pending ∧ t.fuses = s.fuses)
  ∧ (∀ (c : Instr) (rest : List Instr) (s t : State), s.pending = c :: rest → step s = .next t → t.pending = rest)

/-- Every command keeps the pages, the mailbox and field buffers and the local memories in canonical form, in which equal contents are equal
data. If the device's pages, the mailbox buffer, the field buffer and every core's local memory are in canonical form (addresses rise
strictly, no listed byte is 0), then they are in it after any command. Reset's memories are in it. A byte written reads back and no other
byte changes, and two memories in the form that read alike are equal. (Canonical form and reading unlisted bytes as 0 are the model's: log
entry 3.) (07_headrace_tailrace_sluice.md, 08_memory_tiers.md, 17_atluta_and_audit.md) -/
def Obligations.MemoriesKeepTheirForm : Prop :=
  (∀ (i : Instr) (s t : State), s.memOk = true → exec i s = .next t → t.memOk = true)
  ∧ State.reset.memOk = true
  ∧ (∀ (m : List Host.Cell) (a x : Nat) (b : Byte), Memory.wf m = true →
      cellRead (cellWrite a b m) x = if x = a then b else cellRead m x)
  ∧ (∀ (m n : List Host.Cell), Memory.wf m = true → Memory.wf n = true → (∀ x, cellRead m x = cellRead n x) → m = n)

/-- INT32 accumulators saturate and stay, and unsaturated FX48 sums have the same bits in any order. An INT32 accumulator that an addition
takes out of range goes to −2^31 or 2^31 − 1 and keeps that value for the rest of the dot product, which sets INF and counts in INT32_SAT
up to its stop. An FX48 addition is exact in range and goes to the nearer end outside it, setting SAT; each contribution is converted
before any addition, and two orders or groupings of the same contributions that do not saturate give the same sum. (R69, R71) -/
def Obligations.IntegerAndFx48Sums : Prop :=
  (∀ (acc : Int) (ab : List (Int × Int)), addChunkInt (acc, false) ab =
    if acc + chunkInt ab < -2 ^ 31 then (-2 ^ 31, true)
    else if 2 ^ 31 - 1 < acc + chunkInt ab then (2 ^ 31 - 1, true) else (acc + chunkInt ab, false))
  ∧ (∀ (acc : Int) (ab : List (Int × Int)), dotInt (acc, true) ab = (acc, true))
  ∧ (∀ (n : Nat) (e : NumEvents), 0 < n → (evFlags { i32 := n }).inf = true ∧ (numAdd e { i32 := n }).i32 = min 0xFFFF (e.i32 + n))
  ∧ (∀ a b : Int, fxAdd a b = if a + b < -2 ^ 47 then (-2 ^ 47, true) else if 2 ^ 47 - 1 < a + b then (2 ^ 47 - 1, true) else (a + b, false))
  ∧ (∀ a b : Int, (evFlags { sat := bit (fxAdd a b).2 }).sat = (fxAdd a b).2)
  ∧ (∀ (x : Int) (v : F32) (l : List F32), fxSum x (l ++ [v]) =
    ((fxAdd (fxSum x l).1 (toFX48 x v).1).1, (fxSum x l).2 || (fxAdd (fxSum x l).1 (toFX48 x v).1).2))
  ∧ (∀ (x : Int) (l m : List F32), l.Perm m → (fxSum x l).2 = false → (fxSum x m).2 = false → (fxSum x l).1 = (fxSum x m).1)
  ∧ (∀ (x : Int) (l m : List F32), (fxSum x (l ++ m)).2 = false → (fxSum x l).2 = false → (fxSum x m).2 = false →
    fxAdd (fxSum x l).1 (fxSum x m).1 = ((fxSum x (l ++ m)).1, false))

/-- A command changes only the parts of the device that its footprint lists. For every command, state and part of the state (time, power,
Atluta, the image, the event unit, the step controller, Weir, the Querns, the rows, the cores, the arbiters, the tiers, the fabric,
recovery and the rest): where the command answers a next state and its footprint does not list the part, the part is as it was; the same
of a step that takes the command from the front of the queue. The footprints are the model's reading of what the rules of each chapter let
the command write. (01_the_step.md, 06_core_and_governor.md, 07_headrace_tailrace_sluice.md, 08_memory_tiers.md, 09_quern_lookups.md,
10_grist_sparse_updates.md, 11_weir.md, 12_step_commit.md, 14_popor_fabric.md, 15_recovery.md, 17_atluta_and_audit.md,
18_clocks_power_bringup.md) -/
def Obligations.CommandsStayInTheirFootprint : Prop :=
  (∀ (c : Instr) (s t : State) (p : Part), exec c s = .next t → p ∉ footprint c → p.same s t)
  ∧ (∀ (c : Instr) (rest : List Instr) (s t : State) (p : Part), s.pending = c :: rest → step s = .next t → p ∉ footprint c → p.same s t)
end

