-- ==== Sys2Proof/Laws/Maps.lean ====
section
/-! SUPPORT. Laws of finite maps, of byte memories in canonical form and of the saturating counters. -/

namespace Sys2Proof.Machine

section Maps
variable {κ α : Type} [DecidableEq κ]

@[simp] theorem kvFind_nil (k : κ) : kvFind k ([] : KV κ α) = none := rfl

/-- The key just put is found with its value. -/
@[simp] theorem kvFind_put_self (k : κ) (v : α) (m : KV κ α) : kvFind k (kvPut k v m) = some v := by
  induction m with
  | nil => simp [kvPut, kvFind]
  | cons p m ih =>
    obtain ⟨j, w⟩ := p
    by_cases h : j = k <;> simp [kvPut, kvFind, h, ih]

/-- Every other key keeps its value. -/
theorem kvFind_put_ne {j k : κ} (h : j ≠ k) (v : α) (m : KV κ α) : kvFind j (kvPut k v m) = kvFind j m := by
  induction m with
  | nil => simp [kvPut, kvFind, h.symm]
  | cons p m ih =>
    obtain ⟨i, w⟩ := p
    by_cases h1 : i = k
    · subst h1; simp [kvPut, kvFind, h.symm]
    · simp only [kvPut, if_neg h1, kvFind]
      split <;> simp_all

theorem kvFind_put (j k : κ) (v : α) (m : KV κ α) : kvFind j (kvPut k v m) = if j = k then some v else kvFind j m := by
  by_cases h : j = k
  · subst h; simp
  · simp [h, kvFind_put_ne h]

@[simp] theorem kvGet_put_self (d : α) (k : κ) (v : α) (m : KV κ α) : kvGet d k (kvPut k v m) = v := by simp [kvGet]

theorem kvGet_put_ne (d : α) {j k : κ} (h : j ≠ k) (v : α) (m : KV κ α) : kvGet d j (kvPut k v m) = kvGet d j m := by
  simp [kvGet, kvFind_put_ne h]

theorem kvGet_put (d : α) (j k : κ) (v : α) (m : KV κ α) : kvGet d j (kvPut k v m) = if j = k then v else kvGet d j m := by
  by_cases h : j = k
  · subst h; simp
  · simp [h, kvGet_put_ne d h]

/-- A deleted key is not found. -/
@[simp] theorem kvFind_del_self (k : κ) (m : KV κ α) : kvFind k (kvDel k m) = none := by
  induction m with
  | nil => rfl
  | cons p m ih =>
    obtain ⟨j, w⟩ := p
    by_cases h : j = k <;> simp [kvDel, kvFind, h, ih]

theorem kvFind_del_ne {j k : κ} (h : j ≠ k) (m : KV κ α) : kvFind j (kvDel k m) = kvFind j m := by
  induction m with
  | nil => rfl
  | cons p m ih =>
    obtain ⟨i, w⟩ := p
    by_cases h1 : i = k
    · subst h1; simp [kvDel, kvFind, h.symm, ih]
    · simp [kvDel, kvFind, h1, ih]

theorem kvFind_map (f : κ → α → α) (k : κ) (m : KV κ α) : kvFind k (kvMap f m) = (kvFind k m).map (f k) := by
  induction m with
  | nil => rfl
  | cons p m ih =>
    obtain ⟨j, w⟩ := p
    by_cases h : j = k
    · subst h; simp [kvMap, kvFind]
    · simp [kvMap, kvFind, h, ih]

/-- A property of every value is kept by a put of a value that has it. -/
theorem kvPut_all {p : α → Bool} {k : κ} {v : α} {m : KV κ α} (hm : m.all (fun x => p x.2) = true) (hv : p v = true) :
    (kvPut k v m).all (fun x => p x.2) = true := by
  induction m with
  | nil => simp [kvPut, hv]
  | cons q m ih =>
    obtain ⟨j, w⟩ := q
    simp only [List.all_cons, Bool.and_eq_true] at hm
    by_cases h : j = k
    · simp [kvPut, h, hv, hm.2]
    · simp [kvPut, h, hm.1, ih hm.2]

/-- A value of a map has a property that every value and the default have. -/
theorem kvGet_all {p : α → Bool} {d : α} {k : κ} {m : KV κ α} (hm : m.all (fun x => p x.2) = true) (hd : p d = true) :
    p (kvGet d k m) = true := by
  induction m with
  | nil => simpa [kvGet, kvFind] using hd
  | cons q m ih =>
    obtain ⟨j, w⟩ := q
    simp only [List.all_cons, Bool.and_eq_true] at hm
    by_cases h : j = k
    · simpa [kvGet, kvFind, h] using hm.1
    · simpa [kvGet, kvFind, h] using ih hm.2

end Maps

/-! ## Byte memories -/

theorem cellsAbove_mono {lo lo' : Nat} (h : lo' ≤ lo) {m : List Host.Cell} (hm : cellsAbove lo m = true) : cellsAbove lo' m = true := by
  cases m with
  | nil => rfl
  | cons c m =>
    obtain ⟨a, b⟩ := c
    simp only [cellsAbove, Bool.and_eq_true, decide_eq_true_eq] at hm ⊢
    exact ⟨⟨by omega, hm.1.2⟩, hm.2⟩

theorem cellsAbove_write {lo a : Nat} (h : lo ≤ a) (b : Byte) {m : List Host.Cell} (hm : cellsAbove lo m = true) :
    cellsAbove lo (cellWrite a b m) = true := by
  induction m generalizing lo with
  | nil =>
    simp only [cellWrite]
    split
    · rfl
    · rename_i hb
      simp only [cellsAbove, Bool.and_eq_true, decide_eq_true_eq]
      exact ⟨⟨h, by simpa using hb⟩, trivial⟩
  | cons c m ih =>
    obtain ⟨i, x⟩ := c
    simp only [cellsAbove, Bool.and_eq_true, decide_eq_true_eq] at hm
    obtain ⟨⟨h1, h2⟩, h3⟩ := hm
    simp only [cellWrite]
    split
    · rename_i hlt
      split
      · simp only [cellsAbove, Bool.and_eq_true, decide_eq_true_eq]
        exact ⟨⟨h1, h2⟩, h3⟩
      · rename_i hb
        simp only [cellsAbove, Bool.and_eq_true, decide_eq_true_eq]
        exact ⟨⟨h, by simpa using hb⟩, ⟨⟨by omega, h2⟩, h3⟩⟩
    · split
      · rename_i heq
        split
        · exact cellsAbove_mono (by omega) h3
        · rename_i hb
          simp only [cellsAbove, Bool.and_eq_true, decide_eq_true_eq]
          subst heq
          exact ⟨⟨h, by simpa using hb⟩, h3⟩
      · simp only [cellsAbove, Bool.and_eq_true, decide_eq_true_eq]
        exact ⟨⟨h1, h2⟩, ih (by omega) h3⟩

/-- A write of one byte keeps the canonical form. -/
theorem cellWrite_wf (a : Nat) (b : Byte) {m : List Host.Cell} (hm : Memory.wf m = true) : Memory.wf (cellWrite a b m) = true :=
  cellsAbove_write (Nat.zero_le a) b hm

/-- A write of bytes keeps the canonical form. -/
theorem memWrite_wf (l : List Byte) (a : Nat) {m : List Host.Cell} (hm : Memory.wf m = true) : Memory.wf (memWrite m a l) = true := by
  induction l generalizing a m with
  | nil => exact hm
  | cons b l ih => exact ih (a + 1) (cellWrite_wf a b hm)

/-- An empty memory is in canonical form. -/
@[simp] theorem wf_nil : Memory.wf [] = true := rfl

theorem cellsAbove_filter {p : Host.Cell → Bool} {lo : Nat} {m : List Host.Cell} (hm : cellsAbove lo m = true) :
    cellsAbove lo (m.filter p) = true := by
  induction m generalizing lo with
  | nil => rfl
  | cons c m ih =>
    obtain ⟨a, b⟩ := c
    simp only [cellsAbove, Bool.and_eq_true, decide_eq_true_eq] at hm
    rw [List.filter_cons]
    split
    · simp only [cellsAbove, Bool.and_eq_true, decide_eq_true_eq]
      exact ⟨hm.1, ih hm.2⟩
    · exact cellsAbove_mono (by omega) (ih hm.2)

/-- Entries left out keep the canonical form. -/
theorem wf_filter (p : Host.Cell → Bool) {m : List Host.Cell} (hm : Memory.wf m = true) : Memory.wf (m.filter p) = true :=
  cellsAbove_filter hm

theorem cellRead_below {lo a : Nat} (h : a < lo) {m : List Host.Cell} (hm : cellsAbove lo m = true) : cellRead m a = 0 := by
  induction m generalizing lo with
  | nil => rfl
  | cons c m ih =>
    obtain ⟨i, x⟩ := c
    simp only [cellsAbove, Bool.and_eq_true, decide_eq_true_eq] at hm
    simp only [cellRead]
    rw [if_neg (by omega)]
    exact ih (lo := i + 1) (by omega) hm.2

theorem cellRead_write_above {lo a x : Nat} (h : lo ≤ a) (b : Byte) {m : List Host.Cell} (hm : cellsAbove lo m = true) :
    cellRead (cellWrite a b m) x = if x = a then b else cellRead m x := by
  induction m generalizing lo with
  | nil =>
    simp only [cellWrite]
    split
    · rename_i hb; subst hb; simp [cellRead]
    · by_cases hx : x = a
      · subst hx; simp [cellRead]
      · simp [cellRead, hx, show a ≠ x from fun h => hx h.symm]
  | cons c m ih =>
    obtain ⟨i, y⟩ := c
    simp only [cellsAbove, Bool.and_eq_true, decide_eq_true_eq] at hm
    obtain ⟨⟨h1, h2⟩, h3⟩ := hm
    simp only [cellWrite]
    split
    · rename_i hlt
      have h0 : cellRead m a = 0 := cellRead_below (lo := i + 1) (by omega) h3
      split
      · rename_i hb; subst hb
        by_cases hx : x = a
        · subst hx; simp [cellRead, h0, show i ≠ x from by omega]
        · simp [hx]
      · by_cases hx : x = a
        · subst hx; simp [cellRead]
        · simp [cellRead, hx, show a ≠ x from fun h => hx h.symm]
    · split
      · rename_i heq
        subst heq
        have h0 : cellRead m a = 0 := cellRead_below (lo := a + 1) (by omega) h3
        split
        · rename_i hb; subst hb
          by_cases hx : x = a
          · subst hx; simp [h0]
          · simp [cellRead, hx, show a ≠ x from fun h => hx h.symm]
        · by_cases hx : x = a
          · subst hx; simp [cellRead]
          · simp [cellRead, hx, show a ≠ x from fun h => hx h.symm]
      · simp only [cellRead]
        by_cases hx : i = x
        · have : x ≠ a := by omega
          simp [hx, this]
        · simp only [if_neg hx]
          exact ih (lo := i + 1) (by omega) h3

/-! ## Counters -/

theorem satAdd_le (m n k : Nat) : satAdd m n k ≤ m := Nat.min_le_left _ _

theorem satAdd_eq (m n k : Nat) : satAdd m n k = min m (n + k) := rfl

end Sys2Proof.Machine
end

