-- ==== Sys2Proof/Laws/State.lean ====
section
/-! SUPPORT. What each named update of the state writes, and what it leaves: one lemma for each field, so that no proof unfolds a record
update. -/

namespace Sys2Proof.Machine
variable (s : State)

/-! ### updCore -/

@[simp] theorem State.updCore_nextRef (c : CoreId) (f : Core → Core) : (s.updCore c f).nextRef = s.nextRef := rfl
@[simp] theorem State.updCore_cores (c : CoreId) (f : Core → Core) : (s.updCore c f).cores = kvPut c.val (f (s.core c)) s.cores := rfl
@[simp] theorem State.updCore_arbs (c : CoreId) (f : Core → Core) : (s.updCore c f).arbs = s.arbs := rfl
@[simp] theorem State.updCore_querns (c : CoreId) (f : Core → Core) : (s.updCore c f).querns = s.querns := rfl
@[simp] theorem State.updCore_rows (c : CoreId) (f : Core → Core) : (s.updCore c f).rows = s.rows := rfl
@[simp] theorem State.updCore_repl (c : CoreId) (f : Core → Core) : (s.updCore c f).repl = s.repl := rfl
@[simp] theorem State.updCore_units (c : CoreId) (f : Core → Core) : (s.updCore c f).units = s.units := rfl
@[simp] theorem State.updCore_weir (c : CoreId) (f : Core → Core) : (s.updCore c f).weir = s.weir := rfl
@[simp] theorem State.updCore_ctl (c : CoreId) (f : Core → Core) : (s.updCore c f).ctl = s.ctl := rfl
@[simp] theorem State.updCore_tier (c : CoreId) (f : Core → Core) : (s.updCore c f).tier = s.tier := rfl
@[simp] theorem State.updCore_fab (c : CoreId) (f : Core → Core) : (s.updCore c f).fab = s.fab := rfl
@[simp] theorem State.updCore_rcv (c : CoreId) (f : Core → Core) : (s.updCore c f).rcv = s.rcv := rfl
@[simp] theorem State.updCore_atl (c : CoreId) (f : Core → Core) : (s.updCore c f).atl = s.atl := rfl
@[simp] theorem State.updCore_ldr (c : CoreId) (f : Core → Core) : (s.updCore c f).ldr = s.ldr := rfl
@[simp] theorem State.updCore_pow (c : CoreId) (f : Core → Core) : (s.updCore c f).pow = s.pow := rfl
@[simp] theorem State.updCore_evt (c : CoreId) (f : Core → Core) : (s.updCore c f).evt = s.evt := rfl
@[simp] theorem State.updCore_now (c : CoreId) (f : Core → Core) : (s.updCore c f).now = s.now := rfl
@[simp] theorem State.updCore_fresh (c : CoreId) (f : Core → Core) : (s.updCore c f).fresh = s.fresh := rfl
@[simp] theorem State.updCore_out (c : CoreId) (f : Core → Core) : (s.updCore c f).out = s.out := rfl
@[simp] theorem State.updCore_pending (c : CoreId) (f : Core → Core) : (s.updCore c f).pending = s.pending := rfl
@[simp] theorem State.updCore_fuses (c : CoreId) (f : Core → Core) : (s.updCore c f).fuses = s.fuses := rfl

/-! ### updEngine -/

@[simp] theorem State.updEngine_nextRef (c : CoreId) (e : EngId) (f : Engine → Engine) : (s.updEngine c e f).nextRef = s.nextRef := rfl
@[simp] theorem State.updEngine_arbs (c : CoreId) (e : EngId) (f : Engine → Engine) : (s.updEngine c e f).arbs = s.arbs := rfl
@[simp] theorem State.updEngine_querns (c : CoreId) (e : EngId) (f : Engine → Engine) : (s.updEngine c e f).querns = s.querns := rfl
@[simp] theorem State.updEngine_rows (c : CoreId) (e : EngId) (f : Engine → Engine) : (s.updEngine c e f).rows = s.rows := rfl
@[simp] theorem State.updEngine_repl (c : CoreId) (e : EngId) (f : Engine → Engine) : (s.updEngine c e f).repl = s.repl := rfl
@[simp] theorem State.updEngine_units (c : CoreId) (e : EngId) (f : Engine → Engine) : (s.updEngine c e f).units = s.units := rfl
@[simp] theorem State.updEngine_weir (c : CoreId) (e : EngId) (f : Engine → Engine) : (s.updEngine c e f).weir = s.weir := rfl
@[simp] theorem State.updEngine_ctl (c : CoreId) (e : EngId) (f : Engine → Engine) : (s.updEngine c e f).ctl = s.ctl := rfl
@[simp] theorem State.updEngine_tier (c : CoreId) (e : EngId) (f : Engine → Engine) : (s.updEngine c e f).tier = s.tier := rfl
@[simp] theorem State.updEngine_fab (c : CoreId) (e : EngId) (f : Engine → Engine) : (s.updEngine c e f).fab = s.fab := rfl
@[simp] theorem State.updEngine_rcv (c : CoreId) (e : EngId) (f : Engine → Engine) : (s.updEngine c e f).rcv = s.rcv := rfl
@[simp] theorem State.updEngine_atl (c : CoreId) (e : EngId) (f : Engine → Engine) : (s.updEngine c e f).atl = s.atl := rfl
@[simp] theorem State.updEngine_ldr (c : CoreId) (e : EngId) (f : Engine → Engine) : (s.updEngine c e f).ldr = s.ldr := rfl
@[simp] theorem State.updEngine_pow (c : CoreId) (e : EngId) (f : Engine → Engine) : (s.updEngine c e f).pow = s.pow := rfl
@[simp] theorem State.updEngine_evt (c : CoreId) (e : EngId) (f : Engine → Engine) : (s.updEngine c e f).evt = s.evt := rfl
@[simp] theorem State.updEngine_now (c : CoreId) (e : EngId) (f : Engine → Engine) : (s.updEngine c e f).now = s.now := rfl
@[simp] theorem State.updEngine_fresh (c : CoreId) (e : EngId) (f : Engine → Engine) : (s.updEngine c e f).fresh = s.fresh := rfl
@[simp] theorem State.updEngine_out (c : CoreId) (e : EngId) (f : Engine → Engine) : (s.updEngine c e f).out = s.out := rfl
@[simp] theorem State.updEngine_pending (c : CoreId) (e : EngId) (f : Engine → Engine) : (s.updEngine c e f).pending = s.pending := rfl
@[simp] theorem State.updEngine_fuses (c : CoreId) (e : EngId) (f : Engine → Engine) : (s.updEngine c e f).fuses = s.fuses := rfl

/-! ### updQuern -/

@[simp] theorem State.updQuern_nextRef (q : QuernId) (f : Quern → Quern) : (s.updQuern q f).nextRef = s.nextRef := rfl
@[simp] theorem State.updQuern_cores (q : QuernId) (f : Quern → Quern) : (s.updQuern q f).cores = s.cores := rfl
@[simp] theorem State.updQuern_arbs (q : QuernId) (f : Quern → Quern) : (s.updQuern q f).arbs = s.arbs := rfl
@[simp] theorem State.updQuern_querns (q : QuernId) (f : Quern → Quern) : (s.updQuern q f).querns = kvPut q.val (f (s.quern q)) s.querns := rfl
@[simp] theorem State.updQuern_rows (q : QuernId) (f : Quern → Quern) : (s.updQuern q f).rows = s.rows := rfl
@[simp] theorem State.updQuern_repl (q : QuernId) (f : Quern → Quern) : (s.updQuern q f).repl = s.repl := rfl
@[simp] theorem State.updQuern_units (q : QuernId) (f : Quern → Quern) : (s.updQuern q f).units = s.units := rfl
@[simp] theorem State.updQuern_weir (q : QuernId) (f : Quern → Quern) : (s.updQuern q f).weir = s.weir := rfl
@[simp] theorem State.updQuern_ctl (q : QuernId) (f : Quern → Quern) : (s.updQuern q f).ctl = s.ctl := rfl
@[simp] theorem State.updQuern_tier (q : QuernId) (f : Quern → Quern) : (s.updQuern q f).tier = s.tier := rfl
@[simp] theorem State.updQuern_fab (q : QuernId) (f : Quern → Quern) : (s.updQuern q f).fab = s.fab := rfl
@[simp] theorem State.updQuern_rcv (q : QuernId) (f : Quern → Quern) : (s.updQuern q f).rcv = s.rcv := rfl
@[simp] theorem State.updQuern_atl (q : QuernId) (f : Quern → Quern) : (s.updQuern q f).atl = s.atl := rfl
@[simp] theorem State.updQuern_ldr (q : QuernId) (f : Quern → Quern) : (s.updQuern q f).ldr = s.ldr := rfl
@[simp] theorem State.updQuern_pow (q : QuernId) (f : Quern → Quern) : (s.updQuern q f).pow = s.pow := rfl
@[simp] theorem State.updQuern_evt (q : QuernId) (f : Quern → Quern) : (s.updQuern q f).evt = s.evt := rfl
@[simp] theorem State.updQuern_now (q : QuernId) (f : Quern → Quern) : (s.updQuern q f).now = s.now := rfl
@[simp] theorem State.updQuern_fresh (q : QuernId) (f : Quern → Quern) : (s.updQuern q f).fresh = s.fresh := rfl
@[simp] theorem State.updQuern_out (q : QuernId) (f : Quern → Quern) : (s.updQuern q f).out = s.out := rfl
@[simp] theorem State.updQuern_pending (q : QuernId) (f : Quern → Quern) : (s.updQuern q f).pending = s.pending := rfl
@[simp] theorem State.updQuern_fuses (q : QuernId) (f : Quern → Quern) : (s.updQuern q f).fuses = s.fuses := rfl

/-! ### updPort -/

@[simp] theorem State.updPort_nextRef (p : PortId) (f : Port → Port) : (s.updPort p f).nextRef = s.nextRef := rfl
@[simp] theorem State.updPort_cores (p : PortId) (f : Port → Port) : (s.updPort p f).cores = s.cores := rfl
@[simp] theorem State.updPort_arbs (p : PortId) (f : Port → Port) : (s.updPort p f).arbs = s.arbs := rfl
@[simp] theorem State.updPort_querns (p : PortId) (f : Port → Port) : (s.updPort p f).querns = s.querns := rfl
@[simp] theorem State.updPort_rows (p : PortId) (f : Port → Port) : (s.updPort p f).rows = s.rows := rfl
@[simp] theorem State.updPort_repl (p : PortId) (f : Port → Port) : (s.updPort p f).repl = s.repl := rfl
@[simp] theorem State.updPort_units (p : PortId) (f : Port → Port) : (s.updPort p f).units = s.units := rfl
@[simp] theorem State.updPort_weir (p : PortId) (f : Port → Port) : (s.updPort p f).weir = s.weir := rfl
@[simp] theorem State.updPort_ctl (p : PortId) (f : Port → Port) : (s.updPort p f).ctl = s.ctl := rfl
@[simp] theorem State.updPort_tier (p : PortId) (f : Port → Port) : (s.updPort p f).tier = s.tier := rfl
@[simp] theorem State.updPort_fab (p : PortId) (f : Port → Port) : (s.updPort p f).fab = { s.fab with ports := kvPut p.val (f (s.port p)) s.fab.ports } := rfl
@[simp] theorem State.updPort_rcv (p : PortId) (f : Port → Port) : (s.updPort p f).rcv = s.rcv := rfl
@[simp] theorem State.updPort_atl (p : PortId) (f : Port → Port) : (s.updPort p f).atl = s.atl := rfl
@[simp] theorem State.updPort_ldr (p : PortId) (f : Port → Port) : (s.updPort p f).ldr = s.ldr := rfl
@[simp] theorem State.updPort_pow (p : PortId) (f : Port → Port) : (s.updPort p f).pow = s.pow := rfl
@[simp] theorem State.updPort_evt (p : PortId) (f : Port → Port) : (s.updPort p f).evt = s.evt := rfl
@[simp] theorem State.updPort_now (p : PortId) (f : Port → Port) : (s.updPort p f).now = s.now := rfl
@[simp] theorem State.updPort_fresh (p : PortId) (f : Port → Port) : (s.updPort p f).fresh = s.fresh := rfl
@[simp] theorem State.updPort_out (p : PortId) (f : Port → Port) : (s.updPort p f).out = s.out := rfl
@[simp] theorem State.updPort_pending (p : PortId) (f : Port → Port) : (s.updPort p f).pending = s.pending := rfl
@[simp] theorem State.updPort_fuses (p : PortId) (f : Port → Port) : (s.updPort p f).fuses = s.fuses := rfl

/-! ### updCtx -/

@[simp] theorem State.updCtx_nextRef (c : CtxId) (f : Ctx → Ctx) : (s.updCtx c f).nextRef = s.nextRef := rfl
@[simp] theorem State.updCtx_cores (c : CtxId) (f : Ctx → Ctx) : (s.updCtx c f).cores = s.cores := rfl
@[simp] theorem State.updCtx_arbs (c : CtxId) (f : Ctx → Ctx) : (s.updCtx c f).arbs = s.arbs := rfl
@[simp] theorem State.updCtx_querns (c : CtxId) (f : Ctx → Ctx) : (s.updCtx c f).querns = s.querns := rfl
@[simp] theorem State.updCtx_rows (c : CtxId) (f : Ctx → Ctx) : (s.updCtx c f).rows = s.rows := rfl
@[simp] theorem State.updCtx_repl (c : CtxId) (f : Ctx → Ctx) : (s.updCtx c f).repl = s.repl := rfl
@[simp] theorem State.updCtx_units (c : CtxId) (f : Ctx → Ctx) : (s.updCtx c f).units = s.units := rfl
@[simp] theorem State.updCtx_weir (c : CtxId) (f : Ctx → Ctx) : (s.updCtx c f).weir = s.weir := rfl
@[simp] theorem State.updCtx_ctl (c : CtxId) (f : Ctx → Ctx) : (s.updCtx c f).ctl = s.ctl := rfl
@[simp] theorem State.updCtx_tier (c : CtxId) (f : Ctx → Ctx) : (s.updCtx c f).tier = s.tier := rfl
@[simp] theorem State.updCtx_fab (c : CtxId) (f : Ctx → Ctx) : (s.updCtx c f).fab = s.fab := rfl
@[simp] theorem State.updCtx_rcv (c : CtxId) (f : Ctx → Ctx) : (s.updCtx c f).rcv = s.rcv := rfl
@[simp] theorem State.updCtx_atl (c : CtxId) (f : Ctx → Ctx) : (s.updCtx c f).atl = { s.atl with ctxs := kvPut c.val (f (s.ctx c)) s.atl.ctxs } := rfl
@[simp] theorem State.updCtx_ldr (c : CtxId) (f : Ctx → Ctx) : (s.updCtx c f).ldr = s.ldr := rfl
@[simp] theorem State.updCtx_pow (c : CtxId) (f : Ctx → Ctx) : (s.updCtx c f).pow = s.pow := rfl
@[simp] theorem State.updCtx_evt (c : CtxId) (f : Ctx → Ctx) : (s.updCtx c f).evt = s.evt := rfl
@[simp] theorem State.updCtx_now (c : CtxId) (f : Ctx → Ctx) : (s.updCtx c f).now = s.now := rfl
@[simp] theorem State.updCtx_fresh (c : CtxId) (f : Ctx → Ctx) : (s.updCtx c f).fresh = s.fresh := rfl
@[simp] theorem State.updCtx_out (c : CtxId) (f : Ctx → Ctx) : (s.updCtx c f).out = s.out := rfl
@[simp] theorem State.updCtx_pending (c : CtxId) (f : Ctx → Ctx) : (s.updCtx c f).pending = s.pending := rfl
@[simp] theorem State.updCtx_fuses (c : CtxId) (f : Ctx → Ctx) : (s.updCtx c f).fuses = s.fuses := rfl

/-! ### updStep -/

@[simp] theorem State.updStep_nextRef (n : Nat) (f : StepRec → StepRec) : (s.updStep n f).nextRef = s.nextRef := rfl
@[simp] theorem State.updStep_cores (n : Nat) (f : StepRec → StepRec) : (s.updStep n f).cores = s.cores := rfl
@[simp] theorem State.updStep_arbs (n : Nat) (f : StepRec → StepRec) : (s.updStep n f).arbs = s.arbs := rfl
@[simp] theorem State.updStep_querns (n : Nat) (f : StepRec → StepRec) : (s.updStep n f).querns = s.querns := rfl
@[simp] theorem State.updStep_rows (n : Nat) (f : StepRec → StepRec) : (s.updStep n f).rows = s.rows := rfl
@[simp] theorem State.updStep_repl (n : Nat) (f : StepRec → StepRec) : (s.updStep n f).repl = s.repl := rfl
@[simp] theorem State.updStep_units (n : Nat) (f : StepRec → StepRec) : (s.updStep n f).units = s.units := rfl
@[simp] theorem State.updStep_weir (n : Nat) (f : StepRec → StepRec) : (s.updStep n f).weir = s.weir := rfl
@[simp] theorem State.updStep_ctl (n : Nat) (f : StepRec → StepRec) : (s.updStep n f).ctl = { s.ctl with steps := kvPut n (f (s.stepOf n)) s.ctl.steps } := rfl
@[simp] theorem State.updStep_tier (n : Nat) (f : StepRec → StepRec) : (s.updStep n f).tier = s.tier := rfl
@[simp] theorem State.updStep_fab (n : Nat) (f : StepRec → StepRec) : (s.updStep n f).fab = s.fab := rfl
@[simp] theorem State.updStep_rcv (n : Nat) (f : StepRec → StepRec) : (s.updStep n f).rcv = s.rcv := rfl
@[simp] theorem State.updStep_atl (n : Nat) (f : StepRec → StepRec) : (s.updStep n f).atl = s.atl := rfl
@[simp] theorem State.updStep_ldr (n : Nat) (f : StepRec → StepRec) : (s.updStep n f).ldr = s.ldr := rfl
@[simp] theorem State.updStep_pow (n : Nat) (f : StepRec → StepRec) : (s.updStep n f).pow = s.pow := rfl
@[simp] theorem State.updStep_evt (n : Nat) (f : StepRec → StepRec) : (s.updStep n f).evt = s.evt := rfl
@[simp] theorem State.updStep_now (n : Nat) (f : StepRec → StepRec) : (s.updStep n f).now = s.now := rfl
@[simp] theorem State.updStep_fresh (n : Nat) (f : StepRec → StepRec) : (s.updStep n f).fresh = s.fresh := rfl
@[simp] theorem State.updStep_out (n : Nat) (f : StepRec → StepRec) : (s.updStep n f).out = s.out := rfl
@[simp] theorem State.updStep_pending (n : Nat) (f : StepRec → StepRec) : (s.updStep n f).pending = s.pending := rfl
@[simp] theorem State.updStep_fuses (n : Nat) (f : StepRec → StepRec) : (s.updStep n f).fuses = s.fuses := rfl

/-! ### updCxl -/

@[simp] theorem State.updCxl_nextRef (p : CxlId) (f : CxlPort → CxlPort) : (s.updCxl p f).nextRef = s.nextRef := rfl
@[simp] theorem State.updCxl_cores (p : CxlId) (f : CxlPort → CxlPort) : (s.updCxl p f).cores = s.cores := rfl
@[simp] theorem State.updCxl_arbs (p : CxlId) (f : CxlPort → CxlPort) : (s.updCxl p f).arbs = s.arbs := rfl
@[simp] theorem State.updCxl_querns (p : CxlId) (f : CxlPort → CxlPort) : (s.updCxl p f).querns = s.querns := rfl
@[simp] theorem State.updCxl_rows (p : CxlId) (f : CxlPort → CxlPort) : (s.updCxl p f).rows = s.rows := rfl
@[simp] theorem State.updCxl_repl (p : CxlId) (f : CxlPort → CxlPort) : (s.updCxl p f).repl = s.repl := rfl
@[simp] theorem State.updCxl_units (p : CxlId) (f : CxlPort → CxlPort) : (s.updCxl p f).units = s.units := rfl
@[simp] theorem State.updCxl_weir (p : CxlId) (f : CxlPort → CxlPort) : (s.updCxl p f).weir = s.weir := rfl
@[simp] theorem State.updCxl_ctl (p : CxlId) (f : CxlPort → CxlPort) : (s.updCxl p f).ctl = s.ctl := rfl
@[simp] theorem State.updCxl_tier (p : CxlId) (f : CxlPort → CxlPort) : (s.updCxl p f).tier = { s.tier with cxl := kvPut p.val (f (s.cxl p)) s.tier.cxl } := rfl
@[simp] theorem State.updCxl_fab (p : CxlId) (f : CxlPort → CxlPort) : (s.updCxl p f).fab = s.fab := rfl
@[simp] theorem State.updCxl_rcv (p : CxlId) (f : CxlPort → CxlPort) : (s.updCxl p f).rcv = s.rcv := rfl
@[simp] theorem State.updCxl_atl (p : CxlId) (f : CxlPort → CxlPort) : (s.updCxl p f).atl = s.atl := rfl
@[simp] theorem State.updCxl_ldr (p : CxlId) (f : CxlPort → CxlPort) : (s.updCxl p f).ldr = s.ldr := rfl
@[simp] theorem State.updCxl_pow (p : CxlId) (f : CxlPort → CxlPort) : (s.updCxl p f).pow = s.pow := rfl
@[simp] theorem State.updCxl_evt (p : CxlId) (f : CxlPort → CxlPort) : (s.updCxl p f).evt = s.evt := rfl
@[simp] theorem State.updCxl_now (p : CxlId) (f : CxlPort → CxlPort) : (s.updCxl p f).now = s.now := rfl
@[simp] theorem State.updCxl_fresh (p : CxlId) (f : CxlPort → CxlPort) : (s.updCxl p f).fresh = s.fresh := rfl
@[simp] theorem State.updCxl_out (p : CxlId) (f : CxlPort → CxlPort) : (s.updCxl p f).out = s.out := rfl
@[simp] theorem State.updCxl_pending (p : CxlId) (f : CxlPort → CxlPort) : (s.updCxl p f).pending = s.pending := rfl
@[simp] theorem State.updCxl_fuses (p : CxlId) (f : CxlPort → CxlPort) : (s.updCxl p f).fuses = s.fuses := rfl

/-! ### updArb -/

@[simp] theorem State.updArb_nextRef (i : Nat) (f : Arb → Arb) : (s.updArb i f).nextRef = s.nextRef := rfl
@[simp] theorem State.updArb_cores (i : Nat) (f : Arb → Arb) : (s.updArb i f).cores = s.cores := rfl
@[simp] theorem State.updArb_arbs (i : Nat) (f : Arb → Arb) : (s.updArb i f).arbs = kvPut i (f (s.arb i)) s.arbs := rfl
@[simp] theorem State.updArb_querns (i : Nat) (f : Arb → Arb) : (s.updArb i f).querns = s.querns := rfl
@[simp] theorem State.updArb_rows (i : Nat) (f : Arb → Arb) : (s.updArb i f).rows = s.rows := rfl
@[simp] theorem State.updArb_repl (i : Nat) (f : Arb → Arb) : (s.updArb i f).repl = s.repl := rfl
@[simp] theorem State.updArb_units (i : Nat) (f : Arb → Arb) : (s.updArb i f).units = s.units := rfl
@[simp] theorem State.updArb_weir (i : Nat) (f : Arb → Arb) : (s.updArb i f).weir = s.weir := rfl
@[simp] theorem State.updArb_ctl (i : Nat) (f : Arb → Arb) : (s.updArb i f).ctl = s.ctl := rfl
@[simp] theorem State.updArb_tier (i : Nat) (f : Arb → Arb) : (s.updArb i f).tier = s.tier := rfl
@[simp] theorem State.updArb_fab (i : Nat) (f : Arb → Arb) : (s.updArb i f).fab = s.fab := rfl
@[simp] theorem State.updArb_rcv (i : Nat) (f : Arb → Arb) : (s.updArb i f).rcv = s.rcv := rfl
@[simp] theorem State.updArb_atl (i : Nat) (f : Arb → Arb) : (s.updArb i f).atl = s.atl := rfl
@[simp] theorem State.updArb_ldr (i : Nat) (f : Arb → Arb) : (s.updArb i f).ldr = s.ldr := rfl
@[simp] theorem State.updArb_pow (i : Nat) (f : Arb → Arb) : (s.updArb i f).pow = s.pow := rfl
@[simp] theorem State.updArb_evt (i : Nat) (f : Arb → Arb) : (s.updArb i f).evt = s.evt := rfl
@[simp] theorem State.updArb_now (i : Nat) (f : Arb → Arb) : (s.updArb i f).now = s.now := rfl
@[simp] theorem State.updArb_fresh (i : Nat) (f : Arb → Arb) : (s.updArb i f).fresh = s.fresh := rfl
@[simp] theorem State.updArb_out (i : Nat) (f : Arb → Arb) : (s.updArb i f).out = s.out := rfl
@[simp] theorem State.updArb_pending (i : Nat) (f : Arb → Arb) : (s.updArb i f).pending = s.pending := rfl
@[simp] theorem State.updArb_fuses (i : Nat) (f : Arb → Arb) : (s.updArb i f).fuses = s.fuses := rfl

/-! ### updCtl -/

@[simp] theorem State.updCtl_nextRef (f : StepCtl → StepCtl) : (s.updCtl f).nextRef = s.nextRef := rfl
@[simp] theorem State.updCtl_cores (f : StepCtl → StepCtl) : (s.updCtl f).cores = s.cores := rfl
@[simp] theorem State.updCtl_arbs (f : StepCtl → StepCtl) : (s.updCtl f).arbs = s.arbs := rfl
@[simp] theorem State.updCtl_querns (f : StepCtl → StepCtl) : (s.updCtl f).querns = s.querns := rfl
@[simp] theorem State.updCtl_rows (f : StepCtl → StepCtl) : (s.updCtl f).rows = s.rows := rfl
@[simp] theorem State.updCtl_repl (f : StepCtl → StepCtl) : (s.updCtl f).repl = s.repl := rfl
@[simp] theorem State.updCtl_units (f : StepCtl → StepCtl) : (s.updCtl f).units = s.units := rfl
@[simp] theorem State.updCtl_weir (f : StepCtl → StepCtl) : (s.updCtl f).weir = s.weir := rfl
@[simp] theorem State.updCtl_ctl (f : StepCtl → StepCtl) : (s.updCtl f).ctl = f s.ctl := rfl
@[simp] theorem State.updCtl_tier (f : StepCtl → StepCtl) : (s.updCtl f).tier = s.tier := rfl
@[simp] theorem State.updCtl_fab (f : StepCtl → StepCtl) : (s.updCtl f).fab = s.fab := rfl
@[simp] theorem State.updCtl_rcv (f : StepCtl → StepCtl) : (s.updCtl f).rcv = s.rcv := rfl
@[simp] theorem State.updCtl_atl (f : StepCtl → StepCtl) : (s.updCtl f).atl = s.atl := rfl
@[simp] theorem State.updCtl_ldr (f : StepCtl → StepCtl) : (s.updCtl f).ldr = s.ldr := rfl
@[simp] theorem State.updCtl_pow (f : StepCtl → StepCtl) : (s.updCtl f).pow = s.pow := rfl
@[simp] theorem State.updCtl_evt (f : StepCtl → StepCtl) : (s.updCtl f).evt = s.evt := rfl
@[simp] theorem State.updCtl_now (f : StepCtl → StepCtl) : (s.updCtl f).now = s.now := rfl
@[simp] theorem State.updCtl_fresh (f : StepCtl → StepCtl) : (s.updCtl f).fresh = s.fresh := rfl
@[simp] theorem State.updCtl_out (f : StepCtl → StepCtl) : (s.updCtl f).out = s.out := rfl
@[simp] theorem State.updCtl_pending (f : StepCtl → StepCtl) : (s.updCtl f).pending = s.pending := rfl
@[simp] theorem State.updCtl_fuses (f : StepCtl → StepCtl) : (s.updCtl f).fuses = s.fuses := rfl

/-! ### updWeir -/

@[simp] theorem State.updWeir_nextRef (f : Weir → Weir) : (s.updWeir f).nextRef = s.nextRef := rfl
@[simp] theorem State.updWeir_cores (f : Weir → Weir) : (s.updWeir f).cores = s.cores := rfl
@[simp] theorem State.updWeir_arbs (f : Weir → Weir) : (s.updWeir f).arbs = s.arbs := rfl
@[simp] theorem State.updWeir_querns (f : Weir → Weir) : (s.updWeir f).querns = s.querns := rfl
@[simp] theorem State.updWeir_rows (f : Weir → Weir) : (s.updWeir f).rows = s.rows := rfl
@[simp] theorem State.updWeir_repl (f : Weir → Weir) : (s.updWeir f).repl = s.repl := rfl
@[simp] theorem State.updWeir_units (f : Weir → Weir) : (s.updWeir f).units = s.units := rfl
@[simp] theorem State.updWeir_weir (f : Weir → Weir) : (s.updWeir f).weir = f s.weir := rfl
@[simp] theorem State.updWeir_ctl (f : Weir → Weir) : (s.updWeir f).ctl = s.ctl := rfl
@[simp] theorem State.updWeir_tier (f : Weir → Weir) : (s.updWeir f).tier = s.tier := rfl
@[simp] theorem State.updWeir_fab (f : Weir → Weir) : (s.updWeir f).fab = s.fab := rfl
@[simp] theorem State.updWeir_rcv (f : Weir → Weir) : (s.updWeir f).rcv = s.rcv := rfl
@[simp] theorem State.updWeir_atl (f : Weir → Weir) : (s.updWeir f).atl = s.atl := rfl
@[simp] theorem State.updWeir_ldr (f : Weir → Weir) : (s.updWeir f).ldr = s.ldr := rfl
@[simp] theorem State.updWeir_pow (f : Weir → Weir) : (s.updWeir f).pow = s.pow := rfl
@[simp] theorem State.updWeir_evt (f : Weir → Weir) : (s.updWeir f).evt = s.evt := rfl
@[simp] theorem State.updWeir_now (f : Weir → Weir) : (s.updWeir f).now = s.now := rfl
@[simp] theorem State.updWeir_fresh (f : Weir → Weir) : (s.updWeir f).fresh = s.fresh := rfl
@[simp] theorem State.updWeir_out (f : Weir → Weir) : (s.updWeir f).out = s.out := rfl
@[simp] theorem State.updWeir_pending (f : Weir → Weir) : (s.updWeir f).pending = s.pending := rfl
@[simp] theorem State.updWeir_fuses (f : Weir → Weir) : (s.updWeir f).fuses = s.fuses := rfl

/-! ### updTier -/

@[simp] theorem State.updTier_nextRef (f : Tier → Tier) : (s.updTier f).nextRef = s.nextRef := rfl
@[simp] theorem State.updTier_cores (f : Tier → Tier) : (s.updTier f).cores = s.cores := rfl
@[simp] theorem State.updTier_arbs (f : Tier → Tier) : (s.updTier f).arbs = s.arbs := rfl
@[simp] theorem State.updTier_querns (f : Tier → Tier) : (s.updTier f).querns = s.querns := rfl
@[simp] theorem State.updTier_rows (f : Tier → Tier) : (s.updTier f).rows = s.rows := rfl
@[simp] theorem State.updTier_repl (f : Tier → Tier) : (s.updTier f).repl = s.repl := rfl
@[simp] theorem State.updTier_units (f : Tier → Tier) : (s.updTier f).units = s.units := rfl
@[simp] theorem State.updTier_weir (f : Tier → Tier) : (s.updTier f).weir = s.weir := rfl
@[simp] theorem State.updTier_ctl (f : Tier → Tier) : (s.updTier f).ctl = s.ctl := rfl
@[simp] theorem State.updTier_tier (f : Tier → Tier) : (s.updTier f).tier = f s.tier := rfl
@[simp] theorem State.updTier_fab (f : Tier → Tier) : (s.updTier f).fab = s.fab := rfl
@[simp] theorem State.updTier_rcv (f : Tier → Tier) : (s.updTier f).rcv = s.rcv := rfl
@[simp] theorem State.updTier_atl (f : Tier → Tier) : (s.updTier f).atl = s.atl := rfl
@[simp] theorem State.updTier_ldr (f : Tier → Tier) : (s.updTier f).ldr = s.ldr := rfl
@[simp] theorem State.updTier_pow (f : Tier → Tier) : (s.updTier f).pow = s.pow := rfl
@[simp] theorem State.updTier_evt (f : Tier → Tier) : (s.updTier f).evt = s.evt := rfl
@[simp] theorem State.updTier_now (f : Tier → Tier) : (s.updTier f).now = s.now := rfl
@[simp] theorem State.updTier_fresh (f : Tier → Tier) : (s.updTier f).fresh = s.fresh := rfl
@[simp] theorem State.updTier_out (f : Tier → Tier) : (s.updTier f).out = s.out := rfl
@[simp] theorem State.updTier_pending (f : Tier → Tier) : (s.updTier f).pending = s.pending := rfl
@[simp] theorem State.updTier_fuses (f : Tier → Tier) : (s.updTier f).fuses = s.fuses := rfl

/-! ### updFab -/

@[simp] theorem State.updFab_nextRef (f : Fabric → Fabric) : (s.updFab f).nextRef = s.nextRef := rfl
@[simp] theorem State.updFab_cores (f : Fabric → Fabric) : (s.updFab f).cores = s.cores := rfl
@[simp] theorem State.updFab_arbs (f : Fabric → Fabric) : (s.updFab f).arbs = s.arbs := rfl
@[simp] theorem State.updFab_querns (f : Fabric → Fabric) : (s.updFab f).querns = s.querns := rfl
@[simp] theorem State.updFab_rows (f : Fabric → Fabric) : (s.updFab f).rows = s.rows := rfl
@[simp] theorem State.updFab_repl (f : Fabric → Fabric) : (s.updFab f).repl = s.repl := rfl
@[simp] theorem State.updFab_units (f : Fabric → Fabric) : (s.updFab f).units = s.units := rfl
@[simp] theorem State.updFab_weir (f : Fabric → Fabric) : (s.updFab f).weir = s.weir := rfl
@[simp] theorem State.updFab_ctl (f : Fabric → Fabric) : (s.updFab f).ctl = s.ctl := rfl
@[simp] theorem State.updFab_tier (f : Fabric → Fabric) : (s.updFab f).tier = s.tier := rfl
@[simp] theorem State.updFab_fab (f : Fabric → Fabric) : (s.updFab f).fab = f s.fab := rfl
@[simp] theorem State.updFab_rcv (f : Fabric → Fabric) : (s.updFab f).rcv = s.rcv := rfl
@[simp] theorem State.updFab_atl (f : Fabric → Fabric) : (s.updFab f).atl = s.atl := rfl
@[simp] theorem State.updFab_ldr (f : Fabric → Fabric) : (s.updFab f).ldr = s.ldr := rfl
@[simp] theorem State.updFab_pow (f : Fabric → Fabric) : (s.updFab f).pow = s.pow := rfl
@[simp] theorem State.updFab_evt (f : Fabric → Fabric) : (s.updFab f).evt = s.evt := rfl
@[simp] theorem State.updFab_now (f : Fabric → Fabric) : (s.updFab f).now = s.now := rfl
@[simp] theorem State.updFab_fresh (f : Fabric → Fabric) : (s.updFab f).fresh = s.fresh := rfl
@[simp] theorem State.updFab_out (f : Fabric → Fabric) : (s.updFab f).out = s.out := rfl
@[simp] theorem State.updFab_pending (f : Fabric → Fabric) : (s.updFab f).pending = s.pending := rfl
@[simp] theorem State.updFab_fuses (f : Fabric → Fabric) : (s.updFab f).fuses = s.fuses := rfl

/-! ### updRcv -/

@[simp] theorem State.updRcv_nextRef (f : Recovery → Recovery) : (s.updRcv f).nextRef = s.nextRef := rfl
@[simp] theorem State.updRcv_cores (f : Recovery → Recovery) : (s.updRcv f).cores = s.cores := rfl
@[simp] theorem State.updRcv_arbs (f : Recovery → Recovery) : (s.updRcv f).arbs = s.arbs := rfl
@[simp] theorem State.updRcv_querns (f : Recovery → Recovery) : (s.updRcv f).querns = s.querns := rfl
@[simp] theorem State.updRcv_rows (f : Recovery → Recovery) : (s.updRcv f).rows = s.rows := rfl
@[simp] theorem State.updRcv_repl (f : Recovery → Recovery) : (s.updRcv f).repl = s.repl := rfl
@[simp] theorem State.updRcv_units (f : Recovery → Recovery) : (s.updRcv f).units = s.units := rfl
@[simp] theorem State.updRcv_weir (f : Recovery → Recovery) : (s.updRcv f).weir = s.weir := rfl
@[simp] theorem State.updRcv_ctl (f : Recovery → Recovery) : (s.updRcv f).ctl = s.ctl := rfl
@[simp] theorem State.updRcv_tier (f : Recovery → Recovery) : (s.updRcv f).tier = s.tier := rfl
@[simp] theorem State.updRcv_fab (f : Recovery → Recovery) : (s.updRcv f).fab = s.fab := rfl
@[simp] theorem State.updRcv_rcv (f : Recovery → Recovery) : (s.updRcv f).rcv = f s.rcv := rfl
@[simp] theorem State.updRcv_atl (f : Recovery → Recovery) : (s.updRcv f).atl = s.atl := rfl
@[simp] theorem State.updRcv_ldr (f : Recovery → Recovery) : (s.updRcv f).ldr = s.ldr := rfl
@[simp] theorem State.updRcv_pow (f : Recovery → Recovery) : (s.updRcv f).pow = s.pow := rfl
@[simp] theorem State.updRcv_evt (f : Recovery → Recovery) : (s.updRcv f).evt = s.evt := rfl
@[simp] theorem State.updRcv_now (f : Recovery → Recovery) : (s.updRcv f).now = s.now := rfl
@[simp] theorem State.updRcv_fresh (f : Recovery → Recovery) : (s.updRcv f).fresh = s.fresh := rfl
@[simp] theorem State.updRcv_out (f : Recovery → Recovery) : (s.updRcv f).out = s.out := rfl
@[simp] theorem State.updRcv_pending (f : Recovery → Recovery) : (s.updRcv f).pending = s.pending := rfl
@[simp] theorem State.updRcv_fuses (f : Recovery → Recovery) : (s.updRcv f).fuses = s.fuses := rfl

/-! ### updAtl -/

@[simp] theorem State.updAtl_nextRef (f : Atluta → Atluta) : (s.updAtl f).nextRef = s.nextRef := rfl
@[simp] theorem State.updAtl_cores (f : Atluta → Atluta) : (s.updAtl f).cores = s.cores := rfl
@[simp] theorem State.updAtl_arbs (f : Atluta → Atluta) : (s.updAtl f).arbs = s.arbs := rfl
@[simp] theorem State.updAtl_querns (f : Atluta → Atluta) : (s.updAtl f).querns = s.querns := rfl
@[simp] theorem State.updAtl_rows (f : Atluta → Atluta) : (s.updAtl f).rows = s.rows := rfl
@[simp] theorem State.updAtl_repl (f : Atluta → Atluta) : (s.updAtl f).repl = s.repl := rfl
@[simp] theorem State.updAtl_units (f : Atluta → Atluta) : (s.updAtl f).units = s.units := rfl
@[simp] theorem State.updAtl_weir (f : Atluta → Atluta) : (s.updAtl f).weir = s.weir := rfl
@[simp] theorem State.updAtl_ctl (f : Atluta → Atluta) : (s.updAtl f).ctl = s.ctl := rfl
@[simp] theorem State.updAtl_tier (f : Atluta → Atluta) : (s.updAtl f).tier = s.tier := rfl
@[simp] theorem State.updAtl_fab (f : Atluta → Atluta) : (s.updAtl f).fab = s.fab := rfl
@[simp] theorem State.updAtl_rcv (f : Atluta → Atluta) : (s.updAtl f).rcv = s.rcv := rfl
@[simp] theorem State.updAtl_atl (f : Atluta → Atluta) : (s.updAtl f).atl = f s.atl := rfl
@[simp] theorem State.updAtl_ldr (f : Atluta → Atluta) : (s.updAtl f).ldr = s.ldr := rfl
@[simp] theorem State.updAtl_pow (f : Atluta → Atluta) : (s.updAtl f).pow = s.pow := rfl
@[simp] theorem State.updAtl_evt (f : Atluta → Atluta) : (s.updAtl f).evt = s.evt := rfl
@[simp] theorem State.updAtl_now (f : Atluta → Atluta) : (s.updAtl f).now = s.now := rfl
@[simp] theorem State.updAtl_fresh (f : Atluta → Atluta) : (s.updAtl f).fresh = s.fresh := rfl
@[simp] theorem State.updAtl_out (f : Atluta → Atluta) : (s.updAtl f).out = s.out := rfl
@[simp] theorem State.updAtl_pending (f : Atluta → Atluta) : (s.updAtl f).pending = s.pending := rfl
@[simp] theorem State.updAtl_fuses (f : Atluta → Atluta) : (s.updAtl f).fuses = s.fuses := rfl

/-! ### updLdr -/

@[simp] theorem State.updLdr_nextRef (f : Loader → Loader) : (s.updLdr f).nextRef = s.nextRef := rfl
@[simp] theorem State.updLdr_cores (f : Loader → Loader) : (s.updLdr f).cores = s.cores := rfl
@[simp] theorem State.updLdr_arbs (f : Loader → Loader) : (s.updLdr f).arbs = s.arbs := rfl
@[simp] theorem State.updLdr_querns (f : Loader → Loader) : (s.updLdr f).querns = s.querns := rfl
@[simp] theorem State.updLdr_rows (f : Loader → Loader) : (s.updLdr f).rows = s.rows := rfl
@[simp] theorem State.updLdr_repl (f : Loader → Loader) : (s.updLdr f).repl = s.repl := rfl
@[simp] theorem State.updLdr_units (f : Loader → Loader) : (s.updLdr f).units = s.units := rfl
@[simp] theorem State.updLdr_weir (f : Loader → Loader) : (s.updLdr f).weir = s.weir := rfl
@[simp] theorem State.updLdr_ctl (f : Loader → Loader) : (s.updLdr f).ctl = s.ctl := rfl
@[simp] theorem State.updLdr_tier (f : Loader → Loader) : (s.updLdr f).tier = s.tier := rfl
@[simp] theorem State.updLdr_fab (f : Loader → Loader) : (s.updLdr f).fab = s.fab := rfl
@[simp] theorem State.updLdr_rcv (f : Loader → Loader) : (s.updLdr f).rcv = s.rcv := rfl
@[simp] theorem State.updLdr_atl (f : Loader → Loader) : (s.updLdr f).atl = s.atl := rfl
@[simp] theorem State.updLdr_ldr (f : Loader → Loader) : (s.updLdr f).ldr = f s.ldr := rfl
@[simp] theorem State.updLdr_pow (f : Loader → Loader) : (s.updLdr f).pow = s.pow := rfl
@[simp] theorem State.updLdr_evt (f : Loader → Loader) : (s.updLdr f).evt = s.evt := rfl
@[simp] theorem State.updLdr_now (f : Loader → Loader) : (s.updLdr f).now = s.now := rfl
@[simp] theorem State.updLdr_fresh (f : Loader → Loader) : (s.updLdr f).fresh = s.fresh := rfl
@[simp] theorem State.updLdr_out (f : Loader → Loader) : (s.updLdr f).out = s.out := rfl
@[simp] theorem State.updLdr_pending (f : Loader → Loader) : (s.updLdr f).pending = s.pending := rfl
@[simp] theorem State.updLdr_fuses (f : Loader → Loader) : (s.updLdr f).fuses = s.fuses := rfl

/-! ### updPow -/

@[simp] theorem State.updPow_nextRef (f : Power → Power) : (s.updPow f).nextRef = s.nextRef := rfl
@[simp] theorem State.updPow_cores (f : Power → Power) : (s.updPow f).cores = s.cores := rfl
@[simp] theorem State.updPow_arbs (f : Power → Power) : (s.updPow f).arbs = s.arbs := rfl
@[simp] theorem State.updPow_querns (f : Power → Power) : (s.updPow f).querns = s.querns := rfl
@[simp] theorem State.updPow_rows (f : Power → Power) : (s.updPow f).rows = s.rows := rfl
@[simp] theorem State.updPow_repl (f : Power → Power) : (s.updPow f).repl = s.repl := rfl
@[simp] theorem State.updPow_units (f : Power → Power) : (s.updPow f).units = s.units := rfl
@[simp] theorem State.updPow_weir (f : Power → Power) : (s.updPow f).weir = s.weir := rfl
@[simp] theorem State.updPow_ctl (f : Power → Power) : (s.updPow f).ctl = s.ctl := rfl
@[simp] theorem State.updPow_tier (f : Power → Power) : (s.updPow f).tier = s.tier := rfl
@[simp] theorem State.updPow_fab (f : Power → Power) : (s.updPow f).fab = s.fab := rfl
@[simp] theorem State.updPow_rcv (f : Power → Power) : (s.updPow f).rcv = s.rcv := rfl
@[simp] theorem State.updPow_atl (f : Power → Power) : (s.updPow f).atl = s.atl := rfl
@[simp] theorem State.updPow_ldr (f : Power → Power) : (s.updPow f).ldr = s.ldr := rfl
@[simp] theorem State.updPow_pow (f : Power → Power) : (s.updPow f).pow = f s.pow := rfl
@[simp] theorem State.updPow_evt (f : Power → Power) : (s.updPow f).evt = s.evt := rfl
@[simp] theorem State.updPow_now (f : Power → Power) : (s.updPow f).now = s.now := rfl
@[simp] theorem State.updPow_fresh (f : Power → Power) : (s.updPow f).fresh = s.fresh := rfl
@[simp] theorem State.updPow_out (f : Power → Power) : (s.updPow f).out = s.out := rfl
@[simp] theorem State.updPow_pending (f : Power → Power) : (s.updPow f).pending = s.pending := rfl
@[simp] theorem State.updPow_fuses (f : Power → Power) : (s.updPow f).fuses = s.fuses := rfl

/-! ### updEvt -/

@[simp] theorem State.updEvt_nextRef (f : EventUnit → EventUnit) : (s.updEvt f).nextRef = s.nextRef := rfl
@[simp] theorem State.updEvt_cores (f : EventUnit → EventUnit) : (s.updEvt f).cores = s.cores := rfl
@[simp] theorem State.updEvt_arbs (f : EventUnit → EventUnit) : (s.updEvt f).arbs = s.arbs := rfl
@[simp] theorem State.updEvt_querns (f : EventUnit → EventUnit) : (s.updEvt f).querns = s.querns := rfl
@[simp] theorem State.updEvt_rows (f : EventUnit → EventUnit) : (s.updEvt f).rows = s.rows := rfl
@[simp] theorem State.updEvt_repl (f : EventUnit → EventUnit) : (s.updEvt f).repl = s.repl := rfl
@[simp] theorem State.updEvt_units (f : EventUnit → EventUnit) : (s.updEvt f).units = s.units := rfl
@[simp] theorem State.updEvt_weir (f : EventUnit → EventUnit) : (s.updEvt f).weir = s.weir := rfl
@[simp] theorem State.updEvt_ctl (f : EventUnit → EventUnit) : (s.updEvt f).ctl = s.ctl := rfl
@[simp] theorem State.updEvt_tier (f : EventUnit → EventUnit) : (s.updEvt f).tier = s.tier := rfl
@[simp] theorem State.updEvt_fab (f : EventUnit → EventUnit) : (s.updEvt f).fab = s.fab := rfl
@[simp] theorem State.updEvt_rcv (f : EventUnit → EventUnit) : (s.updEvt f).rcv = s.rcv := rfl
@[simp] theorem State.updEvt_atl (f : EventUnit → EventUnit) : (s.updEvt f).atl = s.atl := rfl
@[simp] theorem State.updEvt_ldr (f : EventUnit → EventUnit) : (s.updEvt f).ldr = s.ldr := rfl
@[simp] theorem State.updEvt_pow (f : EventUnit → EventUnit) : (s.updEvt f).pow = s.pow := rfl
@[simp] theorem State.updEvt_evt (f : EventUnit → EventUnit) : (s.updEvt f).evt = f s.evt := rfl
@[simp] theorem State.updEvt_now (f : EventUnit → EventUnit) : (s.updEvt f).now = s.now := rfl
@[simp] theorem State.updEvt_fresh (f : EventUnit → EventUnit) : (s.updEvt f).fresh = s.fresh := rfl
@[simp] theorem State.updEvt_out (f : EventUnit → EventUnit) : (s.updEvt f).out = s.out := rfl
@[simp] theorem State.updEvt_pending (f : EventUnit → EventUnit) : (s.updEvt f).pending = s.pending := rfl
@[simp] theorem State.updEvt_fuses (f : EventUnit → EventUnit) : (s.updEvt f).fuses = s.fuses := rfl

/-! ### emit -/

@[simp] theorem State.emit_nextRef (ms : List Msg) : (s.emit ms).nextRef = s.nextRef := rfl
@[simp] theorem State.emit_cores (ms : List Msg) : (s.emit ms).cores = s.cores := rfl
@[simp] theorem State.emit_arbs (ms : List Msg) : (s.emit ms).arbs = s.arbs := rfl
@[simp] theorem State.emit_querns (ms : List Msg) : (s.emit ms).querns = s.querns := rfl
@[simp] theorem State.emit_rows (ms : List Msg) : (s.emit ms).rows = s.rows := rfl
@[simp] theorem State.emit_repl (ms : List Msg) : (s.emit ms).repl = s.repl := rfl
@[simp] theorem State.emit_units (ms : List Msg) : (s.emit ms).units = s.units := rfl
@[simp] theorem State.emit_weir (ms : List Msg) : (s.emit ms).weir = s.weir := rfl
@[simp] theorem State.emit_ctl (ms : List Msg) : (s.emit ms).ctl = s.ctl := rfl
@[simp] theorem State.emit_tier (ms : List Msg) : (s.emit ms).tier = s.tier := rfl
@[simp] theorem State.emit_fab (ms : List Msg) : (s.emit ms).fab = s.fab := rfl
@[simp] theorem State.emit_rcv (ms : List Msg) : (s.emit ms).rcv = s.rcv := rfl
@[simp] theorem State.emit_atl (ms : List Msg) : (s.emit ms).atl = s.atl := rfl
@[simp] theorem State.emit_ldr (ms : List Msg) : (s.emit ms).ldr = s.ldr := rfl
@[simp] theorem State.emit_pow (ms : List Msg) : (s.emit ms).pow = s.pow := rfl
@[simp] theorem State.emit_evt (ms : List Msg) : (s.emit ms).evt = s.evt := rfl
@[simp] theorem State.emit_now (ms : List Msg) : (s.emit ms).now = s.now := rfl
@[simp] theorem State.emit_fresh (ms : List Msg) : (s.emit ms).fresh = s.fresh := rfl
@[simp] theorem State.emit_out (ms : List Msg) : (s.emit ms).out = s.out ++ if s.fenced then ms.filter s.stillSends else ms := rfl
@[simp] theorem State.emit_pending (ms : List Msg) : (s.emit ms).pending = s.pending := rfl
@[simp] theorem State.emit_fuses (ms : List Msg) : (s.emit ms).fuses = s.fuses := rfl

/-! ### tick -/

@[simp] theorem State.tick_nextRef : (s.tick).nextRef = s.nextRef := rfl
@[simp] theorem State.tick_cores : (s.tick).cores = s.cores := rfl
@[simp] theorem State.tick_arbs : (s.tick).arbs = s.arbs := rfl
@[simp] theorem State.tick_querns : (s.tick).querns = s.querns := rfl
@[simp] theorem State.tick_rows : (s.tick).rows = s.rows := rfl
@[simp] theorem State.tick_repl : (s.tick).repl = s.repl := rfl
@[simp] theorem State.tick_units : (s.tick).units = s.units := rfl
@[simp] theorem State.tick_weir : (s.tick).weir = s.weir := rfl
@[simp] theorem State.tick_ctl : (s.tick).ctl = s.ctl := rfl
@[simp] theorem State.tick_tier : (s.tick).tier = s.tier := rfl
@[simp] theorem State.tick_fab : (s.tick).fab = s.fab := rfl
@[simp] theorem State.tick_rcv : (s.tick).rcv = s.rcv := rfl
@[simp] theorem State.tick_atl : (s.tick).atl = s.atl := rfl
@[simp] theorem State.tick_ldr : (s.tick).ldr = s.ldr := rfl
@[simp] theorem State.tick_pow : (s.tick).pow = s.pow := rfl
@[simp] theorem State.tick_evt : (s.tick).evt = s.evt := rfl
@[simp] theorem State.tick_now : (s.tick).now = s.now := rfl
@[simp] theorem State.tick_fresh : (s.tick).fresh = s.fresh + 1 := rfl
@[simp] theorem State.tick_out : (s.tick).out = s.out := rfl
@[simp] theorem State.tick_pending : (s.tick).pending = s.pending := rfl
@[simp] theorem State.tick_fuses : (s.tick).fuses = s.fuses := rfl

/-! ### at' -/

@[simp] theorem State.at'_nextRef (n : Nat) : (s.at' n).nextRef = s.nextRef := rfl
@[simp] theorem State.at'_cores (n : Nat) : (s.at' n).cores = s.cores := rfl
@[simp] theorem State.at'_arbs (n : Nat) : (s.at' n).arbs = s.arbs := rfl
@[simp] theorem State.at'_querns (n : Nat) : (s.at' n).querns = s.querns := rfl
@[simp] theorem State.at'_rows (n : Nat) : (s.at' n).rows = s.rows := rfl
@[simp] theorem State.at'_repl (n : Nat) : (s.at' n).repl = s.repl := rfl
@[simp] theorem State.at'_units (n : Nat) : (s.at' n).units = s.units := rfl
@[simp] theorem State.at'_weir (n : Nat) : (s.at' n).weir = s.weir := rfl
@[simp] theorem State.at'_ctl (n : Nat) : (s.at' n).ctl = s.ctl := rfl
@[simp] theorem State.at'_tier (n : Nat) : (s.at' n).tier = s.tier := rfl
@[simp] theorem State.at'_fab (n : Nat) : (s.at' n).fab = s.fab := rfl
@[simp] theorem State.at'_rcv (n : Nat) : (s.at' n).rcv = s.rcv := rfl
@[simp] theorem State.at'_atl (n : Nat) : (s.at' n).atl = s.atl := rfl
@[simp] theorem State.at'_ldr (n : Nat) : (s.at' n).ldr = s.ldr := rfl
@[simp] theorem State.at'_pow (n : Nat) : (s.at' n).pow = s.pow := rfl
@[simp] theorem State.at'_evt (n : Nat) : (s.at' n).evt = s.evt := rfl
@[simp] theorem State.at'_now (n : Nat) : (s.at' n).now = max s.now n := rfl
@[simp] theorem State.at'_fresh (n : Nat) : (s.at' n).fresh = s.fresh := rfl
@[simp] theorem State.at'_out (n : Nat) : (s.at' n).out = s.out := rfl
@[simp] theorem State.at'_pending (n : Nat) : (s.at' n).pending = s.pending := rfl
@[simp] theorem State.at'_fuses (n : Nat) : (s.at' n).fuses = s.fuses := rfl

/-! ### Units after an update -/

@[simp] theorem State.core_updCore_self (c : CoreId) (f : Core → Core) : (s.updCore c f).core c = f (s.core c) := by
  simp [State.core, State.updCore]

theorem State.core_updCore_ne {c d : CoreId} (h : d ≠ c) (f : Core → Core) : (s.updCore c f).core d = s.core d := by
  simp [State.core, State.updCore, kvGet_put_ne _ (show d.val ≠ c.val from fun e => h (Fin.ext e))]

theorem State.updEngine_eq (c : CoreId) (e : EngId) (f : Engine → Engine) :
    s.updEngine c e f = s.updCore c fun k => { k with eng := kvPut e.val (f (kvGet {} e.val k.eng)) k.eng } := rfl

@[simp] theorem State.engine_updEngine_self (c : CoreId) (e : EngId) (f : Engine → Engine) :
    (s.updEngine c e f).engine c e = f (s.engine c e) := by
  simp [State.engine, State.updEngine]

@[simp] theorem State.quern_updQuern_self (q : QuernId) (f : Quern → Quern) : (s.updQuern q f).quern q = f (s.quern q) := by
  simp [State.quern, State.updQuern]

theorem State.quern_updQuern_ne {q r : QuernId} (h : r ≠ q) (f : Quern → Quern) : (s.updQuern q f).quern r = s.quern r := by
  simp [State.quern, State.updQuern, kvGet_put_ne _ (show r.val ≠ q.val from fun e => h (Fin.ext e))]

@[simp] theorem State.port_updPort_self (p : PortId) (f : Port → Port) : (s.updPort p f).port p = f (s.port p) := by
  simp [State.port, State.updPort]

theorem State.port_updPort_ne {p q : PortId} (h : q ≠ p) (f : Port → Port) : (s.updPort p f).port q = s.port q := by
  simp [State.port, State.updPort, kvGet_put_ne _ (show q.val ≠ p.val from fun e => h (Fin.ext e))]

@[simp] theorem State.ctx_updCtx_self (c : CtxId) (f : Ctx → Ctx) : (s.updCtx c f).ctx c = f (s.ctx c) := by
  simp [State.ctx, State.updCtx]

theorem State.ctx_updCtx_ne {c d : CtxId} (h : d ≠ c) (f : Ctx → Ctx) : (s.updCtx c f).ctx d = s.ctx d := by
  simp [State.ctx, State.updCtx, kvGet_put_ne _ (show d.val ≠ c.val from fun e => h (Fin.ext e))]

@[simp] theorem State.stepOf_updStep_self (n : Nat) (f : StepRec → StepRec) : (s.updStep n f).stepOf n = f (s.stepOf n) := by
  simp [State.stepOf, State.updStep]

theorem State.stepOf_updStep_ne {n m : Nat} (h : m ≠ n) (f : StepRec → StepRec) : (s.updStep n f).stepOf m = s.stepOf m := by
  simp [State.stepOf, State.updStep, kvGet_put_ne _ h]

@[simp] theorem State.cxl_updCxl_self (p : CxlId) (f : CxlPort → CxlPort) : (s.updCxl p f).cxl p = f (s.cxl p) := by
  simp [State.cxl, State.updCxl]

theorem State.cxl_updCxl_ne {p q : CxlId} (h : q ≠ p) (f : CxlPort → CxlPort) : (s.updCxl p f).cxl q = s.cxl q := by
  simp [State.cxl, State.updCxl, kvGet_put_ne _ (show q.val ≠ p.val from fun e => h (Fin.ext e))]

@[simp] theorem State.arb_updArb_self (i : Nat) (f : Arb → Arb) : (s.updArb i f).arb i = f (s.arb i) := by
  simp [State.arb, State.updArb]

theorem State.arb_updArb_ne {i j : Nat} (h : j ≠ i) (f : Arb → Arb) : (s.updArb i f).arb j = s.arb j := by
  simp [State.arb, State.updArb, kvGet_put_ne _ h]

/-! ### core through updates of the rest -/

@[simp] theorem State.core_updQuern (d : CoreId) (q : QuernId) (f : Quern → Quern) : (s.updQuern q f).core d = s.core d := rfl
@[simp] theorem State.core_updPort (d : CoreId) (p : PortId) (f : Port → Port) : (s.updPort p f).core d = s.core d := rfl
@[simp] theorem State.core_updCtx (d : CoreId) (c : CtxId) (f : Ctx → Ctx) : (s.updCtx c f).core d = s.core d := rfl
@[simp] theorem State.core_updStep (d : CoreId) (n : Nat) (f : StepRec → StepRec) : (s.updStep n f).core d = s.core d := rfl
@[simp] theorem State.core_updCxl (d : CoreId) (p : CxlId) (f : CxlPort → CxlPort) : (s.updCxl p f).core d = s.core d := rfl
@[simp] theorem State.core_updArb (d : CoreId) (i : Nat) (f : Arb → Arb) : (s.updArb i f).core d = s.core d := rfl
@[simp] theorem State.core_updCtl (d : CoreId) (f : StepCtl → StepCtl) : (s.updCtl f).core d = s.core d := rfl
@[simp] theorem State.core_updWeir (d : CoreId) (f : Weir → Weir) : (s.updWeir f).core d = s.core d := rfl
@[simp] theorem State.core_updTier (d : CoreId) (f : Tier → Tier) : (s.updTier f).core d = s.core d := rfl
@[simp] theorem State.core_updFab (d : CoreId) (f : Fabric → Fabric) : (s.updFab f).core d = s.core d := rfl
@[simp] theorem State.core_updRcv (d : CoreId) (f : Recovery → Recovery) : (s.updRcv f).core d = s.core d := rfl
@[simp] theorem State.core_updAtl (d : CoreId) (f : Atluta → Atluta) : (s.updAtl f).core d = s.core d := rfl
@[simp] theorem State.core_updLdr (d : CoreId) (f : Loader → Loader) : (s.updLdr f).core d = s.core d := rfl
@[simp] theorem State.core_updPow (d : CoreId) (f : Power → Power) : (s.updPow f).core d = s.core d := rfl
@[simp] theorem State.core_updEvt (d : CoreId) (f : EventUnit → EventUnit) : (s.updEvt f).core d = s.core d := rfl
@[simp] theorem State.core_emit (d : CoreId) (ms : List Msg) : (s.emit ms).core d = s.core d := rfl
@[simp] theorem State.core_tick (d : CoreId) : (s.tick).core d = s.core d := rfl
@[simp] theorem State.core_at' (d : CoreId) (n : Nat) : (s.at' n).core d = s.core d := rfl

/-! ### quern through updates of the rest -/

@[simp] theorem State.quern_updCore (d : QuernId) (c : CoreId) (f : Core → Core) : (s.updCore c f).quern d = s.quern d := rfl
@[simp] theorem State.quern_updEngine (d : QuernId) (c : CoreId) (e : EngId) (f : Engine → Engine) : (s.updEngine c e f).quern d = s.quern d := rfl
@[simp] theorem State.quern_updPort (d : QuernId) (p : PortId) (f : Port → Port) : (s.updPort p f).quern d = s.quern d := rfl
@[simp] theorem State.quern_updCtx (d : QuernId) (c : CtxId) (f : Ctx → Ctx) : (s.updCtx c f).quern d = s.quern d := rfl
@[simp] theorem State.quern_updStep (d : QuernId) (n : Nat) (f : StepRec → StepRec) : (s.updStep n f).quern d = s.quern d := rfl
@[simp] theorem State.quern_updCxl (d : QuernId) (p : CxlId) (f : CxlPort → CxlPort) : (s.updCxl p f).quern d = s.quern d := rfl
@[simp] theorem State.quern_updArb (d : QuernId) (i : Nat) (f : Arb → Arb) : (s.updArb i f).quern d = s.quern d := rfl
@[simp] theorem State.quern_updCtl (d : QuernId) (f : StepCtl → StepCtl) : (s.updCtl f).quern d = s.quern d := rfl
@[simp] theorem State.quern_updWeir (d : QuernId) (f : Weir → Weir) : (s.updWeir f).quern d = s.quern d := rfl
@[simp] theorem State.quern_updTier (d : QuernId) (f : Tier → Tier) : (s.updTier f).quern d = s.quern d := rfl
@[simp] theorem State.quern_updFab (d : QuernId) (f : Fabric → Fabric) : (s.updFab f).quern d = s.quern d := rfl
@[simp] theorem State.quern_updRcv (d : QuernId) (f : Recovery → Recovery) : (s.updRcv f).quern d = s.quern d := rfl
@[simp] theorem State.quern_updAtl (d : QuernId) (f : Atluta → Atluta) : (s.updAtl f).quern d = s.quern d := rfl
@[simp] theorem State.quern_updLdr (d : QuernId) (f : Loader → Loader) : (s.updLdr f).quern d = s.quern d := rfl
@[simp] theorem State.quern_updPow (d : QuernId) (f : Power → Power) : (s.updPow f).quern d = s.quern d := rfl
@[simp] theorem State.quern_updEvt (d : QuernId) (f : EventUnit → EventUnit) : (s.updEvt f).quern d = s.quern d := rfl
@[simp] theorem State.quern_emit (d : QuernId) (ms : List Msg) : (s.emit ms).quern d = s.quern d := rfl
@[simp] theorem State.quern_tick (d : QuernId) : (s.tick).quern d = s.quern d := rfl
@[simp] theorem State.quern_at' (d : QuernId) (n : Nat) : (s.at' n).quern d = s.quern d := rfl

/-! ### port through updates of the rest -/

@[simp] theorem State.port_updCore (d : PortId) (c : CoreId) (f : Core → Core) : (s.updCore c f).port d = s.port d := rfl
@[simp] theorem State.port_updEngine (d : PortId) (c : CoreId) (e : EngId) (f : Engine → Engine) : (s.updEngine c e f).port d = s.port d := rfl
@[simp] theorem State.port_updQuern (d : PortId) (q : QuernId) (f : Quern → Quern) : (s.updQuern q f).port d = s.port d := rfl
@[simp] theorem State.port_updCtx (d : PortId) (c : CtxId) (f : Ctx → Ctx) : (s.updCtx c f).port d = s.port d := rfl
@[simp] theorem State.port_updStep (d : PortId) (n : Nat) (f : StepRec → StepRec) : (s.updStep n f).port d = s.port d := rfl
@[simp] theorem State.port_updCxl (d : PortId) (p : CxlId) (f : CxlPort → CxlPort) : (s.updCxl p f).port d = s.port d := rfl
@[simp] theorem State.port_updArb (d : PortId) (i : Nat) (f : Arb → Arb) : (s.updArb i f).port d = s.port d := rfl
@[simp] theorem State.port_updCtl (d : PortId) (f : StepCtl → StepCtl) : (s.updCtl f).port d = s.port d := rfl
@[simp] theorem State.port_updWeir (d : PortId) (f : Weir → Weir) : (s.updWeir f).port d = s.port d := rfl
@[simp] theorem State.port_updTier (d : PortId) (f : Tier → Tier) : (s.updTier f).port d = s.port d := rfl
@[simp] theorem State.port_updRcv (d : PortId) (f : Recovery → Recovery) : (s.updRcv f).port d = s.port d := rfl
@[simp] theorem State.port_updAtl (d : PortId) (f : Atluta → Atluta) : (s.updAtl f).port d = s.port d := rfl
@[simp] theorem State.port_updLdr (d : PortId) (f : Loader → Loader) : (s.updLdr f).port d = s.port d := rfl
@[simp] theorem State.port_updPow (d : PortId) (f : Power → Power) : (s.updPow f).port d = s.port d := rfl
@[simp] theorem State.port_updEvt (d : PortId) (f : EventUnit → EventUnit) : (s.updEvt f).port d = s.port d := rfl
@[simp] theorem State.port_emit (d : PortId) (ms : List Msg) : (s.emit ms).port d = s.port d := rfl
@[simp] theorem State.port_tick (d : PortId) : (s.tick).port d = s.port d := rfl
@[simp] theorem State.port_at' (d : PortId) (n : Nat) : (s.at' n).port d = s.port d := rfl

/-! ### ctx through updates of the rest -/

@[simp] theorem State.ctx_updCore (d : CtxId) (c : CoreId) (f : Core → Core) : (s.updCore c f).ctx d = s.ctx d := rfl
@[simp] theorem State.ctx_updEngine (d : CtxId) (c : CoreId) (e : EngId) (f : Engine → Engine) : (s.updEngine c e f).ctx d = s.ctx d := rfl
@[simp] theorem State.ctx_updQuern (d : CtxId) (q : QuernId) (f : Quern → Quern) : (s.updQuern q f).ctx d = s.ctx d := rfl
@[simp] theorem State.ctx_updPort (d : CtxId) (p : PortId) (f : Port → Port) : (s.updPort p f).ctx d = s.ctx d := rfl
@[simp] theorem State.ctx_updStep (d : CtxId) (n : Nat) (f : StepRec → StepRec) : (s.updStep n f).ctx d = s.ctx d := rfl
@[simp] theorem State.ctx_updCxl (d : CtxId) (p : CxlId) (f : CxlPort → CxlPort) : (s.updCxl p f).ctx d = s.ctx d := rfl
@[simp] theorem State.ctx_updArb (d : CtxId) (i : Nat) (f : Arb → Arb) : (s.updArb i f).ctx d = s.ctx d := rfl
@[simp] theorem State.ctx_updCtl (d : CtxId) (f : StepCtl → StepCtl) : (s.updCtl f).ctx d = s.ctx d := rfl
@[simp] theorem State.ctx_updWeir (d : CtxId) (f : Weir → Weir) : (s.updWeir f).ctx d = s.ctx d := rfl
@[simp] theorem State.ctx_updTier (d : CtxId) (f : Tier → Tier) : (s.updTier f).ctx d = s.ctx d := rfl
@[simp] theorem State.ctx_updFab (d : CtxId) (f : Fabric → Fabric) : (s.updFab f).ctx d = s.ctx d := rfl
@[simp] theorem State.ctx_updRcv (d : CtxId) (f : Recovery → Recovery) : (s.updRcv f).ctx d = s.ctx d := rfl
@[simp] theorem State.ctx_updLdr (d : CtxId) (f : Loader → Loader) : (s.updLdr f).ctx d = s.ctx d := rfl
@[simp] theorem State.ctx_updPow (d : CtxId) (f : Power → Power) : (s.updPow f).ctx d = s.ctx d := rfl
@[simp] theorem State.ctx_updEvt (d : CtxId) (f : EventUnit → EventUnit) : (s.updEvt f).ctx d = s.ctx d := rfl
@[simp] theorem State.ctx_emit (d : CtxId) (ms : List Msg) : (s.emit ms).ctx d = s.ctx d := rfl
@[simp] theorem State.ctx_tick (d : CtxId) : (s.tick).ctx d = s.ctx d := rfl
@[simp] theorem State.ctx_at' (d : CtxId) (n : Nat) : (s.at' n).ctx d = s.ctx d := rfl

/-! ### stepOf through updates of the rest -/

@[simp] theorem State.stepOf_updCore (d : Nat) (c : CoreId) (f : Core → Core) : (s.updCore c f).stepOf d = s.stepOf d := rfl
@[simp] theorem State.stepOf_updEngine (d : Nat) (c : CoreId) (e : EngId) (f : Engine → Engine) : (s.updEngine c e f).stepOf d = s.stepOf d := rfl
@[simp] theorem State.stepOf_updQuern (d : Nat) (q : QuernId) (f : Quern → Quern) : (s.updQuern q f).stepOf d = s.stepOf d := rfl
@[simp] theorem State.stepOf_updPort (d : Nat) (p : PortId) (f : Port → Port) : (s.updPort p f).stepOf d = s.stepOf d := rfl
@[simp] theorem State.stepOf_updCtx (d : Nat) (c : CtxId) (f : Ctx → Ctx) : (s.updCtx c f).stepOf d = s.stepOf d := rfl
@[simp] theorem State.stepOf_updCxl (d : Nat) (p : CxlId) (f : CxlPort → CxlPort) : (s.updCxl p f).stepOf d = s.stepOf d := rfl
@[simp] theorem State.stepOf_updArb (d : Nat) (i : Nat) (f : Arb → Arb) : (s.updArb i f).stepOf d = s.stepOf d := rfl
@[simp] theorem State.stepOf_updWeir (d : Nat) (f : Weir → Weir) : (s.updWeir f).stepOf d = s.stepOf d := rfl
@[simp] theorem State.stepOf_updTier (d : Nat) (f : Tier → Tier) : (s.updTier f).stepOf d = s.stepOf d := rfl
@[simp] theorem State.stepOf_updFab (d : Nat) (f : Fabric → Fabric) : (s.updFab f).stepOf d = s.stepOf d := rfl
@[simp] theorem State.stepOf_updRcv (d : Nat) (f : Recovery → Recovery) : (s.updRcv f).stepOf d = s.stepOf d := rfl
@[simp] theorem State.stepOf_updAtl (d : Nat) (f : Atluta → Atluta) : (s.updAtl f).stepOf d = s.stepOf d := rfl
@[simp] theorem State.stepOf_updLdr (d : Nat) (f : Loader → Loader) : (s.updLdr f).stepOf d = s.stepOf d := rfl
@[simp] theorem State.stepOf_updPow (d : Nat) (f : Power → Power) : (s.updPow f).stepOf d = s.stepOf d := rfl
@[simp] theorem State.stepOf_updEvt (d : Nat) (f : EventUnit → EventUnit) : (s.updEvt f).stepOf d = s.stepOf d := rfl
@[simp] theorem State.stepOf_emit (d : Nat) (ms : List Msg) : (s.emit ms).stepOf d = s.stepOf d := rfl
@[simp] theorem State.stepOf_tick (d : Nat) : (s.tick).stepOf d = s.stepOf d := rfl
@[simp] theorem State.stepOf_at' (d : Nat) (n : Nat) : (s.at' n).stepOf d = s.stepOf d := rfl

/-! ### cxl through updates of the rest -/

@[simp] theorem State.cxl_updCore (d : CxlId) (c : CoreId) (f : Core → Core) : (s.updCore c f).cxl d = s.cxl d := rfl
@[simp] theorem State.cxl_updEngine (d : CxlId) (c : CoreId) (e : EngId) (f : Engine → Engine) : (s.updEngine c e f).cxl d = s.cxl d := rfl
@[simp] theorem State.cxl_updQuern (d : CxlId) (q : QuernId) (f : Quern → Quern) : (s.updQuern q f).cxl d = s.cxl d := rfl
@[simp] theorem State.cxl_updPort (d : CxlId) (p : PortId) (f : Port → Port) : (s.updPort p f).cxl d = s.cxl d := rfl
@[simp] theorem State.cxl_updCtx (d : CxlId) (c : CtxId) (f : Ctx → Ctx) : (s.updCtx c f).cxl d = s.cxl d := rfl
@[simp] theorem State.cxl_updStep (d : CxlId) (n : Nat) (f : StepRec → StepRec) : (s.updStep n f).cxl d = s.cxl d := rfl
@[simp] theorem State.cxl_updArb (d : CxlId) (i : Nat) (f : Arb → Arb) : (s.updArb i f).cxl d = s.cxl d := rfl
@[simp] theorem State.cxl_updCtl (d : CxlId) (f : StepCtl → StepCtl) : (s.updCtl f).cxl d = s.cxl d := rfl
@[simp] theorem State.cxl_updWeir (d : CxlId) (f : Weir → Weir) : (s.updWeir f).cxl d = s.cxl d := rfl
@[simp] theorem State.cxl_updFab (d : CxlId) (f : Fabric → Fabric) : (s.updFab f).cxl d = s.cxl d := rfl
@[simp] theorem State.cxl_updRcv (d : CxlId) (f : Recovery → Recovery) : (s.updRcv f).cxl d = s.cxl d := rfl
@[simp] theorem State.cxl_updAtl (d : CxlId) (f : Atluta → Atluta) : (s.updAtl f).cxl d = s.cxl d := rfl
@[simp] theorem State.cxl_updLdr (d : CxlId) (f : Loader → Loader) : (s.updLdr f).cxl d = s.cxl d := rfl
@[simp] theorem State.cxl_updPow (d : CxlId) (f : Power → Power) : (s.updPow f).cxl d = s.cxl d := rfl
@[simp] theorem State.cxl_updEvt (d : CxlId) (f : EventUnit → EventUnit) : (s.updEvt f).cxl d = s.cxl d := rfl
@[simp] theorem State.cxl_emit (d : CxlId) (ms : List Msg) : (s.emit ms).cxl d = s.cxl d := rfl
@[simp] theorem State.cxl_tick (d : CxlId) : (s.tick).cxl d = s.cxl d := rfl
@[simp] theorem State.cxl_at' (d : CxlId) (n : Nat) : (s.at' n).cxl d = s.cxl d := rfl

/-! ### arb through updates of the rest -/

@[simp] theorem State.arb_updCore (d : Nat) (c : CoreId) (f : Core → Core) : (s.updCore c f).arb d = s.arb d := rfl
@[simp] theorem State.arb_updEngine (d : Nat) (c : CoreId) (e : EngId) (f : Engine → Engine) : (s.updEngine c e f).arb d = s.arb d := rfl
@[simp] theorem State.arb_updQuern (d : Nat) (q : QuernId) (f : Quern → Quern) : (s.updQuern q f).arb d = s.arb d := rfl
@[simp] theorem State.arb_updPort (d : Nat) (p : PortId) (f : Port → Port) : (s.updPort p f).arb d = s.arb d := rfl
@[simp] theorem State.arb_updCtx (d : Nat) (c : CtxId) (f : Ctx → Ctx) : (s.updCtx c f).arb d = s.arb d := rfl
@[simp] theorem State.arb_updStep (d : Nat) (n : Nat) (f : StepRec → StepRec) : (s.updStep n f).arb d = s.arb d := rfl
@[simp] theorem State.arb_updCxl (d : Nat) (p : CxlId) (f : CxlPort → CxlPort) : (s.updCxl p f).arb d = s.arb d := rfl
@[simp] theorem State.arb_updCtl (d : Nat) (f : StepCtl → StepCtl) : (s.updCtl f).arb d = s.arb d := rfl
@[simp] theorem State.arb_updWeir (d : Nat) (f : Weir → Weir) : (s.updWeir f).arb d = s.arb d := rfl
@[simp] theorem State.arb_updTier (d : Nat) (f : Tier → Tier) : (s.updTier f).arb d = s.arb d := rfl
@[simp] theorem State.arb_updFab (d : Nat) (f : Fabric → Fabric) : (s.updFab f).arb d = s.arb d := rfl
@[simp] theorem State.arb_updRcv (d : Nat) (f : Recovery → Recovery) : (s.updRcv f).arb d = s.arb d := rfl
@[simp] theorem State.arb_updAtl (d : Nat) (f : Atluta → Atluta) : (s.updAtl f).arb d = s.arb d := rfl
@[simp] theorem State.arb_updLdr (d : Nat) (f : Loader → Loader) : (s.updLdr f).arb d = s.arb d := rfl
@[simp] theorem State.arb_updPow (d : Nat) (f : Power → Power) : (s.updPow f).arb d = s.arb d := rfl
@[simp] theorem State.arb_updEvt (d : Nat) (f : EventUnit → EventUnit) : (s.updEvt f).arb d = s.arb d := rfl
@[simp] theorem State.arb_emit (d : Nat) (ms : List Msg) : (s.emit ms).arb d = s.arb d := rfl
@[simp] theorem State.arb_tick (d : Nat) : (s.tick).arb d = s.arb d := rfl
@[simp] theorem State.arb_at' (d : Nat) (n : Nat) : (s.at' n).arb d = s.arb d := rfl

/-! ### engine through updates of the rest -/

@[simp] theorem State.engine_updQuern (d : CoreId) (g : EngId) (q : QuernId) (f : Quern → Quern) : (s.updQuern q f).engine d g = s.engine d g := rfl
@[simp] theorem State.engine_updPort (d : CoreId) (g : EngId) (p : PortId) (f : Port → Port) : (s.updPort p f).engine d g = s.engine d g := rfl
@[simp] theorem State.engine_updCtx (d : CoreId) (g : EngId) (c : CtxId) (f : Ctx → Ctx) : (s.updCtx c f).engine d g = s.engine d g := rfl
@[simp] theorem State.engine_updStep (d : CoreId) (g : EngId) (n : Nat) (f : StepRec → StepRec) : (s.updStep n f).engine d g = s.engine d g := rfl
@[simp] theorem State.engine_updCxl (d : CoreId) (g : EngId) (p : CxlId) (f : CxlPort → CxlPort) : (s.updCxl p f).engine d g = s.engine d g := rfl
@[simp] theorem State.engine_updArb (d : CoreId) (g : EngId) (i : Nat) (f : Arb → Arb) : (s.updArb i f).engine d g = s.engine d g := rfl
@[simp] theorem State.engine_updCtl (d : CoreId) (g : EngId) (f : StepCtl → StepCtl) : (s.updCtl f).engine d g = s.engine d g := rfl
@[simp] theorem State.engine_updWeir (d : CoreId) (g : EngId) (f : Weir → Weir) : (s.updWeir f).engine d g = s.engine d g := rfl
@[simp] theorem State.engine_updTier (d : CoreId) (g : EngId) (f : Tier → Tier) : (s.updTier f).engine d g = s.engine d g := rfl
@[simp] theorem State.engine_updFab (d : CoreId) (g : EngId) (f : Fabric → Fabric) : (s.updFab f).engine d g = s.engine d g := rfl
@[simp] theorem State.engine_updRcv (d : CoreId) (g : EngId) (f : Recovery → Recovery) : (s.updRcv f).engine d g = s.engine d g := rfl
@[simp] theorem State.engine_updAtl (d : CoreId) (g : EngId) (f : Atluta → Atluta) : (s.updAtl f).engine d g = s.engine d g := rfl
@[simp] theorem State.engine_updLdr (d : CoreId) (g : EngId) (f : Loader → Loader) : (s.updLdr f).engine d g = s.engine d g := rfl
@[simp] theorem State.engine_updPow (d : CoreId) (g : EngId) (f : Power → Power) : (s.updPow f).engine d g = s.engine d g := rfl
@[simp] theorem State.engine_updEvt (d : CoreId) (g : EngId) (f : EventUnit → EventUnit) : (s.updEvt f).engine d g = s.engine d g := rfl
@[simp] theorem State.engine_emit (d : CoreId) (g : EngId) (ms : List Msg) : (s.emit ms).engine d g = s.engine d g := rfl
@[simp] theorem State.engine_tick (d : CoreId) (g : EngId) : (s.tick).engine d g = s.engine d g := rfl
@[simp] theorem State.engine_at' (d : CoreId) (g : EngId) (n : Nat) : (s.at' n).engine d g = s.engine d g := rfl

end Sys2Proof.Machine
end

