-- ==== Sys2Proof/Laws/Sound.lean ====
section
/-! SUPPORT. What every named operation keeps, said once: the queue and the fuses as they were, the floors of R479 and R482 no lower, and
every memory in canonical form; and every part of the state outside a list of parts as it was. -/

namespace Sys2Proof.Machine

set_option Elab.async false

/-- Whether every part of one list is in another. -/
def partsIn (l m : List Part) : Bool := l.all fun p => m.contains p

/-- From `s` to `t` the parts outside `m` stay, the queue of commands and the fuses stay, no floor falls, no fuse bank passes its 64 steps, and memories in canonical
form stay in it. -/
structure Sound (m : List Part) (s t : State) : Prop where
  keeps : ∀ p : Part, m.contains p = true ∨ p.same s t
  pending : t.pending = s.pending
  fuses : t.fuses = s.fuses
  fwFloor : s.atl.fwFloor ≤ t.atl.fwFloor
  imageFloor : s.atl.imageFloor ≤ t.atl.imageFloor
  fwFuses : s.atl.fwFuses ≤ t.atl.fwFuses
  keyBurns : s.atl.keyBurns ≤ t.atl.keyBurns
  fwBound : s.atl.fwFuses ≤ 64 → t.atl.fwFuses ≤ 64
  keyBound : s.atl.keyBurns ≤ 64 → t.atl.keyBurns ≤ 64
  tierMem : Memory.wf s.tier.mem = true → Memory.wf t.tier.mem = true
  mbox : Memory.wf s.atl.mboxBuf = true → Memory.wf t.atl.mboxBuf = true
  buf : Memory.wf s.ldr.buf = true → Memory.wf t.ldr.buf = true
  cores : (s.cores.all fun k => Memory.wf k.2.lb.mem) = true → (t.cores.all fun k => Memory.wf k.2.lb.mem) = true

theorem Part.same_refl (p : Part) (s : State) : p.same s s := by cases p <;> rfl
theorem Part.same_trans {p : Part} {s t u : State} (h : p.same s t) (k : p.same t u) : p.same s u := by
  cases p <;> exact Eq.trans k h

theorem Sound.refl {m : List Part} (s : State) : Sound m s s := ⟨fun p => .inr (p.same_refl s), rfl, rfl, le_rfl, le_rfl, le_rfl, le_rfl, id, id, id, id, id, id⟩

/-- More parts may be allowed to change. -/
theorem Sound.up {l m : List Part} {s t : State} (h : Sound l s t) (e : partsIn l m = true := by decide +kernel) : Sound m s t :=
  { h with keeps := fun p => (h.keeps p).imp_left fun hp => List.all_eq_true.1 e p (List.contains_iff_mem.1 hp) }

/-- One operation after another of the same parts. -/
theorem Sound.both {m : List Part} {s t u : State} (h : Sound m s t) (k : Sound m t u) : Sound m s u where
  keeps p := by
    rcases h.keeps p with hp | hp
    · exact .inl hp
    · exact (k.keeps p).imp_right fun kp => Part.same_trans hp kp
  pending := k.pending.trans h.pending
  fuses := k.fuses.trans h.fuses
  fwFloor := h.fwFloor.trans k.fwFloor
  imageFloor := h.imageFloor.trans k.imageFloor
  fwFuses := h.fwFuses.trans k.fwFuses
  keyBurns := h.keyBurns.trans k.keyBurns
  fwBound := k.fwBound ∘ h.fwBound
  keyBound := k.keyBound ∘ h.keyBound
  tierMem := k.tierMem ∘ h.tierMem
  mbox := k.mbox ∘ h.mbox
  buf := k.buf ∘ h.buf
  cores := k.cores ∘ h.cores

/-- One operation after another: the parts of both. -/
theorem Sound.trans {l m : List Part} {s t u : State} (h : Sound l s t) (k : Sound m t u) : Sound (l ++ m) s u := by
  refine Sound.both { h with keeps := fun p => (h.keeps p).imp_left fun hp => ?_ } { k with keeps := fun p => (k.keeps p).imp_left fun hp => ?_ }
  all_goals simp_all

/-- An operation whose parts are among those allowed, after another. -/
theorem Sound.andThen {l m : List Part} {s t u : State} (h : Sound m s t) (k : Sound l t u)
    (e : partsIn l m = true := by decide +kernel) : Sound m s u := h.both (k.up e)

/-- A state that agrees with the one before in what `Sound` speaks of. -/
theorem Sound.same {m : List Part} {s t : State} (h1 : t.pending = s.pending) (h2 : t.fuses = s.fuses) (h3 : t.atl = s.atl)
    (h4 : t.tier.mem = s.tier.mem) (h5 : t.ldr = s.ldr) (h6 : t.cores = s.cores)
    (hk : ∀ p : Part, m.contains p = true ∨ p.same s t :=
      by intro p; cases p <;> first | exact .inl rfl | exact .inr rfl) :
    Sound m s t := by
  constructor
  case keeps => exact hk
  all_goals simp_all

/-- The same, with the tier's memory changed in a way that keeps canonical form. -/
theorem Sound.ofMem {m : List Part} {s t : State} (h1 : t.pending = s.pending) (h2 : t.fuses = s.fuses) (h3 : t.atl = s.atl)
    (h4 : Memory.wf s.tier.mem = true → Memory.wf t.tier.mem = true) (h5 : t.ldr = s.ldr) (h6 : t.cores = s.cores)
    (hk : ∀ p : Part, m.contains p = true ∨ p.same s t :=
      by intro p; cases p <;> first | exact .inl rfl | exact .inr rfl) :
    Sound m s t := by
  constructor
  case keeps => exact hk
  all_goals simp_all

/-- A record update of a state that leaves what `Sound` speaks of. -/
theorem Sound.lit {m : List Part} {s t : State} {now fresh : Nat} {pow : Power} {evt : EventUnit} {ctl : StepCtl} {weir : Weir}
    {querns : KV Nat Quern} {rows : KV (Nat × Nat) Row} {repl : Repl} {units : List LkpUnit} {nextRef : Nat} {arbs : KV Nat Arb}
    {fab : Fabric} {rcv : Recovery} {out : List Msg} (h : Sound m s t)
    (hk : ∀ p : Part, m.contains p = true ∨ p.same t (State.mk t.pending now fresh t.fuses pow t.atl t.ldr evt ctl weir
      querns rows repl units nextRef t.cores arbs t.tier fab rcv out) :=
      by with_reducible (intro p; cases p <;> first | exact .inr rfl | exact .inl (by decide +kernel))) :
    Sound m s (State.mk t.pending now fresh t.fuses pow t.atl t.ldr evt ctl weir
      querns rows repl units nextRef t.cores arbs t.tier fab rcv out) :=
  h.both (.same rfl rfl rfl rfl rfl rfl hk)

/-- The same with the tier block changed. -/
theorem Sound.litTier {m : List Part} {s t : State} {now fresh : Nat} {pow : Power} {evt : EventUnit} {ctl : StepCtl} {weir : Weir}
    {querns : KV Nat Quern} {rows : KV (Nat × Nat) Row} {repl : Repl} {units : List LkpUnit} {nextRef : Nat} {arbs : KV Nat Arb}
    {fab : Fabric} {rcv : Recovery} {out : List Msg} {tier : Tier} (h : Sound m s t)
    (hm : Memory.wf t.tier.mem = true → Memory.wf tier.mem = true)
    (hk : ∀ p : Part, m.contains p = true ∨ p.same t (State.mk t.pending now fresh t.fuses pow t.atl t.ldr evt ctl weir
      querns rows repl units nextRef t.cores arbs tier fab rcv out) :=
      by with_reducible (intro p; cases p <;> first | exact .inr rfl | exact .inl (by decide +kernel))) :
    Sound m s (State.mk t.pending now fresh t.fuses pow t.atl t.ldr evt ctl weir
      querns rows repl units nextRef t.cores arbs tier fab rcv out) :=
  h.both (.ofMem rfl rfl rfl hm rfl rfl hk)

/-- An operation over a list that is sound at every element. -/
theorem Sound.foldl {m : List Part} {α : Type} {f : State → α → State} (h : ∀ a x, Sound m a (f a x)) (l : List α) (s : State) :
    Sound m s (l.foldl f s) := by
  induction l generalizing s with
  | nil => exact Sound.refl s
  | cons x l ih => exact (h s x).both (ih (f s x))

/-- The same over a state with other data beside it. -/
theorem Sound.foldl1 {m : List Part} {α β : Type} {f : State × β → α → State × β} (h : ∀ a x, Sound m a.1 (f a x).1) (l : List α)
    (s : State × β) : Sound m s.1 (l.foldl f s).1 := by
  induction l generalizing s with
  | nil => exact Sound.refl s.1
  | cons x l ih => exact (h s x).both (ih (f s x))

/-- An operation over a list, after another. -/
theorem Sound.andFold {m : List Part} {α : Type} {f : State → α → State} {l : List α} {s t : State} (k : Sound m s t)
    (h : ∀ a x, Sound m a (f a x)) : Sound m s (l.foldl f t) := k.both (.foldl h l t)
theorem Sound.andFold1 {m : List Part} {α β : Type} {f : State × β → α → State × β} {l : List α} {s : State} {t : State × β}
    (k : Sound m s t.1) (h : ∀ a x, Sound m a.1 (f a x).1) : Sound m s (l.foldl f t).1 := k.both (.foldl1 h l t)

/-- A command's outcome is sound when a next state is. -/
def SoundOut (m : List Part) (s : State) (o : Out) : Prop := ∀ t, o = .next t → Sound m s t

theorem SoundOut.next {m : List Part} {s t : State} (h : Sound m s t) : SoundOut m s (.next t) := fun _ e => by cases e; exact h

/-- More parts may be allowed to change. -/
theorem SoundOut.up {l m : List Part} {s : State} {o : Out} (h : SoundOut l s o) (e : partsIn l m = true := by decide +kernel) :
    SoundOut m s o := fun t k => (h t k).up e

/-! ## Named updates -/

theorem State.updCore_sound {f : Core → Core} (h : ∀ k, Memory.wf k.lb.mem = true → Memory.wf (f k).lb.mem = true) (s : State) (c : CoreId) :
    Sound [.cores] s (s.updCore c f) := by
  refine ⟨fun p => by cases p <;> first | exact .inl rfl | exact .inr rfl,
     rfl, rfl, le_rfl, le_rfl, le_rfl, le_rfl, id, id, id, id, id, fun hs => ?_⟩
  exact kvPut_all (p := fun k : Core => Memory.wf k.lb.mem) hs (h _ (kvGet_all (p := fun k : Core => Memory.wf k.lb.mem) hs rfl))

theorem State.updEngine_sound (s : State) (c : CoreId) (e : EngId) (f : Engine → Engine) : Sound [.cores] s (s.updEngine c e f) :=
  State.updCore_sound (f := fun k => { k with eng := kvPut e.val (f (kvGet {} e.val k.eng)) k.eng }) (fun _ h => h) s c
theorem State.updQuern_sound (s : State) (q : QuernId) (f : Quern → Quern) : Sound [.querns] s (s.updQuern q f) := .same rfl rfl rfl rfl rfl rfl
theorem State.updPort_sound (s : State) (p : PortId) (f : Port → Port) : Sound [.fab] s (s.updPort p f) := .same rfl rfl rfl rfl rfl rfl
theorem State.updCtx_sound (s : State) (c : CtxId) (f : Ctx → Ctx) : Sound [.atl] s (s.updCtx c f) :=
  ⟨fun p => by cases p <;> first | exact .inl rfl | exact .inr rfl,
     rfl, rfl, le_rfl, le_rfl, le_rfl, le_rfl, id, id, id, id, id, id⟩
theorem State.updStep_sound (s : State) (n : Nat) (f : StepRec → StepRec) : Sound [.ctl] s (s.updStep n f) := .same rfl rfl rfl rfl rfl rfl
theorem State.updCxl_sound (s : State) (p : CxlId) (f : CxlPort → CxlPort) : Sound [.tier] s (s.updCxl p f) := .same rfl rfl rfl rfl rfl rfl
theorem State.updArb_sound (s : State) (i : Nat) (f : Arb → Arb) : Sound [.arbs] s (s.updArb i f) := .same rfl rfl rfl rfl rfl rfl
theorem State.updCtl_sound (s : State) (f : StepCtl → StepCtl) : Sound [.ctl] s (s.updCtl f) := .same rfl rfl rfl rfl rfl rfl
theorem State.updWeir_sound (s : State) (f : Weir → Weir) : Sound [.weir] s (s.updWeir f) := .same rfl rfl rfl rfl rfl rfl
theorem State.updFab_sound (s : State) (f : Fabric → Fabric) : Sound [.fab] s (s.updFab f) := .same rfl rfl rfl rfl rfl rfl
theorem State.updRcv_sound (s : State) (f : Recovery → Recovery) : Sound [.rcv] s (s.updRcv f) := .same rfl rfl rfl rfl rfl rfl
theorem State.updPow_sound (s : State) (f : Power → Power) : Sound [.pow] s (s.updPow f) := .same rfl rfl rfl rfl rfl rfl
theorem State.updEvt_sound (s : State) (f : EventUnit → EventUnit) : Sound [.evt] s (s.updEvt f) := .same rfl rfl rfl rfl rfl rfl
theorem State.emit_sound (s : State) (l : List Msg) : Sound [.out] s (s.emit l) := .same rfl rfl rfl rfl rfl rfl
theorem State.tick_sound (s : State) : Sound [.fresh] s s.tick := .same rfl rfl rfl rfl rfl rfl
theorem State.at'_sound (s : State) (n : Nat) : Sound [.now] s (s.at' n) := .same rfl rfl rfl rfl rfl rfl

theorem State.updTier_sound {f : Tier → Tier} {s : State} (h : Memory.wf s.tier.mem = true → Memory.wf (f s.tier).mem = true) :
    Sound [.tier] s (s.updTier f) := ⟨fun p => by cases p <;> first | exact .inl rfl | exact .inr rfl,
     rfl, rfl, le_rfl, le_rfl, le_rfl, le_rfl, id, id, h, id, id, id⟩

theorem State.updLdr_sound {f : Loader → Loader} {s : State} (h : Memory.wf s.ldr.buf = true → Memory.wf (f s.ldr).buf = true) :
    Sound [.ldr] s (s.updLdr f) := ⟨fun p => by cases p <;> first | exact .inl rfl | exact .inr rfl,
     rfl, rfl, le_rfl, le_rfl, le_rfl, le_rfl, id, id, id, id, h, id⟩

/-- An update of Atluta that leaves the floors, the counts of burnt fuses and the mailbox buffer. -/
theorem State.updAtl_sound {f : Atluta → Atluta} {s : State} (h1 : (f s.atl).fwFloor = s.atl.fwFloor)
    (h2 : (f s.atl).imageFloor = s.atl.imageFloor) (h3 : (f s.atl).fwFuses = s.atl.fwFuses) (h4 : (f s.atl).keyBurns = s.atl.keyBurns)
    (h5 : Memory.wf s.atl.mboxBuf = true → Memory.wf (f s.atl).mboxBuf = true) : Sound [.atl] s (s.updAtl f) :=
  ⟨fun p => by cases p <;> first | exact .inl rfl | exact .inr rfl,
    rfl, rfl, h1.ge, h2.ge, h3.ge, h4.ge, fun h => h3.le.trans h, fun h => h4.le.trans h, id, h5, id, id⟩

end Sys2Proof.Machine
end

