-- ==== Sys2Proof/Laws/Cores.lean ====
section
/-! SUPPORT. What operations on one core, on the tier block and on a byte memory keep: the local memory of a core, and canonical form. -/

namespace Sys2Proof.Machine

/-! ## The local memory of a core -/

@[simp] theorem LocalBuf.mark_mem (l : LocalBuf) (bs : List Nat) (x : Block) : (l.mark bs x).mem = l.mem := rfl
@[simp] theorem LocalBuf.freeIf_mem (l : LocalBuf) (p : Nat × Block → Bool) : (l.freeIf p).mem = l.mem := rfl
@[simp] theorem LocalBuf.freeWhere_mem (l : LocalBuf) (p : Block → Bool) : (l.freeWhere p).mem = l.mem := rfl
@[simp] theorem LocalBuf.updHeld_mem (l : LocalBuf) (n : Nat) (g : Held → Held) : (l.updHeld n g).mem = l.mem := rfl
@[simp] theorem LocalBuf.freeHeld_mem (l : LocalBuf) (p : Held → Bool) : (l.freeHeld p).mem = l.mem := rfl
@[simp] theorem LocalBuf.endUse_mem (l : LocalBuf) (p : Nat × Nat × Nat → Bool) : (l.endUse p).mem = l.mem := rfl
@[simp] theorem LocalBuf.updStash_mem (l : LocalBuf) (a b : Nat) (g : Stash → Stash) : (l.updStash a b g).mem = l.mem := rfl
@[simp] theorem LocalBuf.freeStash_mem (l : LocalBuf) (a b : Nat) : (l.freeStash a b).mem = l.mem := rfl
@[simp] theorem LocalBuf.freeSlot_mem (l : LocalBuf) (a : Nat) : (l.freeSlot a).mem = l.mem := rfl
@[simp] theorem discardLb_mem (p : Nat → Bool) (bs : List Nat) (l : LocalBuf) : (discardLb p bs l).mem = l.mem := rfl

/-- An operation on the local buffer over a list that leaves its memory. -/
theorem LocalBuf.foldl_mem {α : Type} {f : LocalBuf → α → LocalBuf} (h : ∀ a x, (f a x).mem = a.mem) (l : List α) (b : LocalBuf) :
    (l.foldl f b).mem = b.mem := by
  induction l generalizing b with
  | nil => rfl
  | cons x l ih => rw [List.foldl_cons, ih, h]

@[simp] theorem Core.updFront_lb (k : Core) (st : Stream) (g : Front → Front) : (k.updFront st g).lb = k.lb := by cases st <;> rfl
@[simp] theorem Core.updCmd_lb (k : Core) (st : Stream) (n i : Nat) (g : Cmd → Cmd) : (k.updCmd st n i g).lb = k.lb := by
  simp [Core.updCmd]
@[simp] theorem Core.stopCmd_lb (k : Core) (st : Stream) (n i u : Nat) : (k.stopCmd st n i u).lb = k.lb := by simp [Core.stopCmd]
@[simp] theorem Core.updAny_lb (k : Core) (st : Stream) (n i : Nat) (g : Cmd → Cmd) : (k.updAny st n i g).lb = k.lb := by
  simp [Core.updAny]
@[simp] theorem Core.takeUnit_lb (k : Core) (st : Stream) (c : Cmd) (g : Nat) : (k.takeUnit st c g).lb = k.lb := by simp [Core.takeUnit]
@[simp] theorem Core.commitUnit_lb (k : Core) (st : Stream) (c : Cmd) (g : Nat) : (k.commitUnit st c g).lb = k.lb := by
  simp [Core.commitUnit]
@[simp] theorem Core.signal_lb (k : Core) (n i : Nat) : (k.signal n i).lb = k.lb := rfl
@[simp] theorem Core.keepStage_mem (k : Core) (bs : List Nat) : (k.keepStage bs).lb.mem = k.lb.mem := rfl
@[simp] theorem LocalBuf.freeBlocks_mem (l : LocalBuf) (bs : List Nat) : (l.freeBlocks bs).mem = l.mem := rfl
@[simp] theorem Core.freeHand_mem (k : Core) (c : Cmd) (b u : Nat) : (k.freeHand c b u).lb.mem = k.lb.mem := rfl
@[simp] theorem Core.cancel_mem (k : Core) (p : XTag → Bool) : (k.cancel p).lb.mem = k.lb.mem := rfl
@[simp] theorem Core.addCarry_lb (k : Core) (p : Pass) (t : TileOp) (r : List (List Nat)) (n : Nat) : (k.addCarry p t r n).lb = k.lb := rfl
@[simp] theorem Core.dropCarries_mem (k : Core) (q : Carry → Bool) : (k.dropCarries q).lb.mem = k.lb.mem := rfl
@[simp] theorem Core.dropWrites_lb (k : Core) : k.dropWrites.lb = k.lb := rfl
@[simp] theorem Core.scrub_mem (k : Core) : k.scrub.lb.mem = [] := rfl
@[simp] theorem Core.accept_lb (k : Core) (st : Stream) (c : Cmd) : (k.accept st c).lb = k.lb := by
  unfold Core.accept; split <;> simp
@[simp] theorem Core.discard_mem (k : Core) (lo : Nat) (p : Nat → Bool) (l : List Nat) : (k.discard lo p l).lb.mem = k.lb.mem := by
  simp only [Core.discard, Core.cancel_mem, discardLb_mem]
  exact LocalBuf.foldl_mem (fun a x => LocalBuf.freeSlot_mem a x) l k.lb

/-- Every core changed by an operation that keeps a local memory in form. -/
theorem cores_map {f : Nat × Core → Nat × Core} {l : KV Nat Core}
    (h : ∀ k, Memory.wf k.2.lb.mem = true → Memory.wf (f k).2.lb.mem = true) (hl : (l.all fun k => Memory.wf k.2.lb.mem) = true) :
    ((l.map f).all fun k => Memory.wf k.2.lb.mem) = true := by
  simp only [List.all_eq_true, List.mem_map] at hl ⊢
  rintro x ⟨y, hy, rfl⟩
  exact h y (hl y hy)

/-- A state that agrees with the one before but for what an operation did to every core. -/
theorem Sound.ofMap {m : List Part} {s t : State} {f : Nat × Core → Nat × Core} (h1 : t.pending = s.pending) (h2 : t.fuses = s.fuses)
    (h3 : t.atl = s.atl) (h4 : t.tier.mem = s.tier.mem) (h5 : t.ldr = s.ldr) (h6 : t.cores = s.cores.map f)
    (h : ∀ k, Memory.wf k.2.lb.mem = true → Memory.wf (f k).2.lb.mem = true)
    (hk : ∀ p : Part, m.contains p = true ∨ p.same s t :=
      by intro p; cases p <;> first | exact .inl rfl | exact .inr rfl) :
    Sound m s t := by
  constructor
  case keeps => exact hk
  case cores => rw [h6]; exact cores_map h
  all_goals simp_all

/-- A record update that changes every core by an operation. -/
theorem Sound.litCores {m : List Part} {s t : State} {now fresh : Nat} {pow : Power} {evt : EventUnit} {ctl : StepCtl} {weir : Weir}
    {querns : KV Nat Quern} {rows : KV (Nat × Nat) Row} {repl : Repl} {units : List LkpUnit} {nextRef : Nat} {arbs : KV Nat Arb}
    {fab : Fabric} {rcv : Recovery} {out : List Msg} {f : Nat × Core → Nat × Core} (h : Sound m s t)
    (hf : ∀ k, Memory.wf k.2.lb.mem = true → Memory.wf (f k).2.lb.mem = true)
    (hk : ∀ p : Part, m.contains p = true ∨ p.same t (State.mk t.pending now fresh t.fuses pow t.atl t.ldr evt ctl weir
      querns rows repl units nextRef (t.cores.map f) arbs t.tier fab rcv out) :=
      by with_reducible (intro p; cases p <;> first | exact .inr rfl | exact .inl (by decide +kernel))) :
    Sound m s (State.mk t.pending now fresh t.fuses pow t.atl t.ldr evt ctl weir
      querns rows repl units nextRef (t.cores.map f) arbs t.tier fab rcv out) :=
  h.both (.ofMap rfl rfl rfl rfl rfl rfl hf hk)

/-! ## Byte memories -/

/-- An operation on a memory over a list that keeps canonical form. -/
theorem wf_foldl {α : Type} {f : List Host.Cell → α → List Host.Cell} (h : ∀ a x, Memory.wf a = true → Memory.wf (f a x) = true)
    (l : List α) {m : List Host.Cell} (hm : Memory.wf m = true) : Memory.wf (l.foldl f m) = true := by
  induction l generalizing m with
  | nil => exact hm
  | cons x l ih => exact ih (h m x hm)

theorem cellsOut_wf (lo n : Nat) {m : List Host.Cell} (hm : Memory.wf m = true) : Memory.wf (cellsOut lo n m) = true := wf_filter _ hm

theorem copyFrame_wf (a b : Loc) {m : List Host.Cell} (hm : Memory.wf m = true) : Memory.wf (copyFrame a b m) = true :=
  wf_foldl (fun _ _ h => cellWrite_wf _ _ h) _ (cellsOut_wf _ _ hm)

theorem fillFrame_wf (l : Loc) (cs : List Host.Cell) {m : List Host.Cell} (hm : Memory.wf m = true) : Memory.wf (fillFrame l cs m) = true :=
  wf_foldl (fun _ _ h => cellWrite_wf _ _ h) _ (cellsOut_wf _ _ hm)

theorem zeroPages_wf (l : KV Nat Page) (p : Page → Bool) {m : List Host.Cell} (hm : Memory.wf m = true) :
    Memory.wf (zeroPages l p m) = true := wf_foldl (fun _ _ h => cellsOut_wf _ _ h) _ hm

theorem putWord8_wf (a mask v : Nat) {m : List Host.Cell} (hm : Memory.wf m = true) : Memory.wf (putWord8 m a mask v) = true :=
  wf_foldl (fun _ _ h => by split; exacts [h, cellWrite_wf _ _ h]) _ hm

@[simp] theorem Tier.placePage_mem (t : Tier) (r : Region) (i : Nat) : (t.placePage r i).mem = t.mem := by
  unfold Tier.placePage; split <;> rfl
@[simp] theorem Tier.placeRegion_mem (r : Region) (n i : Nat) (t : Tier) : (Tier.placeRegion t r n i).mem = t.mem := by
  induction n generalizing i t with
  | zero => rfl
  | succ n ih => simp [Tier.placeRegion, ih]
@[simp] theorem Tier.placeAll_mem (t : Tier) (l : List Region) : (t.placeAll l).mem = t.mem := by
  unfold Tier.placeAll
  induction l generalizing t with
  | nil => rfl
  | cons x l ih => simp [ih]

end Sys2Proof.Machine
end

