-- ==== Sys2Proof/Laws/PerInstr.lean ====
section
/-! SUPPORT. The laws that hold of every command one by one: the opcode table gives no command bits, so no word spells one. -/

/-- No word of any length spells the command: commands come from outside and are not encoded. -/
def Sys2Proof.Laws.NoWord.Statement (i : Sys2Proof.Instr) : Prop := ∀ nbits w : Nat, Sys2Proof.decodeTableWord nbits w ≠ some i

/-- The one reason: the table gives no row bits. -/
theorem Sys2Proof.Laws.noWord (i : Sys2Proof.Instr) : Sys2Proof.Laws.NoWord.Statement i := by
  intro nbits w h
  simp [Sys2Proof.decodeTableWord] at h

theorem Sys2Proof.Laws.NoWord.mbAdmit : ∀ x1, Sys2Proof.Laws.NoWord.Statement (Sys2Proof.Instr.mbAdmit x1) :=
  fun _ => Sys2Proof.Laws.noWord _
theorem Sys2Proof.Laws.NoWord.slotRelease : ∀ x1, Sys2Proof.Laws.NoWord.Statement (Sys2Proof.Instr.slotRelease x1) :=
  fun _ => Sys2Proof.Laws.noWord _
theorem Sys2Proof.Laws.NoWord.gatherClose : ∀ x1, Sys2Proof.Laws.NoWord.Statement (Sys2Proof.Instr.gatherClose x1) :=
  fun _ => Sys2Proof.Laws.noWord _
theorem Sys2Proof.Laws.NoWord.finitenessScreen : ∀ x1 x2, Sys2Proof.Laws.NoWord.Statement (Sys2Proof.Instr.finitenessScreen x1 x2) :=
  fun _ _ => Sys2Proof.Laws.noWord _
theorem Sys2Proof.Laws.NoWord.qrnLogReserve : ∀ x1 x2, Sys2Proof.Laws.NoWord.Statement (Sys2Proof.Instr.qrnLogReserve x1 x2) :=
  fun _ _ => Sys2Proof.Laws.noWord _
theorem Sys2Proof.Laws.NoWord.voteSend : ∀ x1, Sys2Proof.Laws.NoWord.Statement (Sys2Proof.Instr.voteSend x1) :=
  fun _ => Sys2Proof.Laws.noWord _
theorem Sys2Proof.Laws.NoWord.vote : ∀ x1, Sys2Proof.Laws.NoWord.Statement (Sys2Proof.Instr.vote x1) :=
  fun _ => Sys2Proof.Laws.noWord _
theorem Sys2Proof.Laws.NoWord.voteMirrorStore : ∀ x1, Sys2Proof.Laws.NoWord.Statement (Sys2Proof.Instr.voteMirrorStore x1) :=
  fun _ => Sys2Proof.Laws.noWord _
theorem Sys2Proof.Laws.NoWord.decisionBroadcast : ∀ x1, Sys2Proof.Laws.NoWord.Statement (Sys2Proof.Instr.decisionBroadcast x1) :=
  fun _ => Sys2Proof.Laws.noWord _
theorem Sys2Proof.Laws.NoWord.decision : ∀ x1, Sys2Proof.Laws.NoWord.Statement (Sys2Proof.Instr.decision x1) :=
  fun _ => Sys2Proof.Laws.noWord _
theorem Sys2Proof.Laws.NoWord.applyEnd : ∀ x1, Sys2Proof.Laws.NoWord.Statement (Sys2Proof.Instr.applyEnd x1) :=
  fun _ => Sys2Proof.Laws.noWord _
theorem Sys2Proof.Laws.NoWord.stbyHeaderWrite : ∀ x1, Sys2Proof.Laws.NoWord.Statement (Sys2Proof.Instr.stbyHeaderWrite x1) :=
  fun _ => Sys2Proof.Laws.noWord _
theorem Sys2Proof.Laws.NoWord.sealComplete : ∀ x1, Sys2Proof.Laws.NoWord.Statement (Sys2Proof.Instr.sealComplete x1) :=
  fun _ => Sys2Proof.Laws.noWord _
theorem Sys2Proof.Laws.NoWord.descDecode : ∀ x1 x2 x3, Sys2Proof.Laws.NoWord.Statement (Sys2Proof.Instr.descDecode x1 x2 x3) :=
  fun _ _ _ => Sys2Proof.Laws.noWord _
theorem Sys2Proof.Laws.NoWord.hintIssue : ∀ x1 x2 x3, Sys2Proof.Laws.NoWord.Statement (Sys2Proof.Instr.hintIssue x1 x2 x3) :=
  fun _ _ _ => Sys2Proof.Laws.noWord _
theorem Sys2Proof.Laws.NoWord.commandIssue : ∀ x1 x2, Sys2Proof.Laws.NoWord.Statement (Sys2Proof.Instr.commandIssue x1 x2) :=
  fun _ _ => Sys2Proof.Laws.noWord _
theorem Sys2Proof.Laws.NoWord.nop : ∀ x1 x2, Sys2Proof.Laws.NoWord.Statement (Sys2Proof.Instr.nop x1 x2) :=
  fun _ _ => Sys2Proof.Laws.noWord _
theorem Sys2Proof.Laws.NoWord.signal : ∀ x1 x2, Sys2Proof.Laws.NoWord.Statement (Sys2Proof.Instr.signal x1 x2) :=
  fun _ _ => Sys2Proof.Laws.noWord _
theorem Sys2Proof.Laws.NoWord.wait : ∀ x1 x2, Sys2Proof.Laws.NoWord.Statement (Sys2Proof.Instr.wait x1 x2) :=
  fun _ _ => Sys2Proof.Laws.noWord _
theorem Sys2Proof.Laws.NoWord.fwdEnd : ∀ x1, Sys2Proof.Laws.NoWord.Statement (Sys2Proof.Instr.fwdEnd x1) :=
  fun _ => Sys2Proof.Laws.noWord _
theorem Sys2Proof.Laws.NoWord.bwdEnd : ∀ x1, Sys2Proof.Laws.NoWord.Statement (Sys2Proof.Instr.bwdEnd x1) :=
  fun _ => Sys2Proof.Laws.noWord _
theorem Sys2Proof.Laws.NoWord.mm : ∀ x1 x2 x3, Sys2Proof.Laws.NoWord.Statement (Sys2Proof.Instr.mm x1 x2 x3) :=
  fun _ _ _ => Sys2Proof.Laws.noWord _
theorem Sys2Proof.Laws.NoWord.vec : ∀ x1 x2, Sys2Proof.Laws.NoWord.Statement (Sys2Proof.Instr.vec x1 x2) :=
  fun _ _ => Sys2Proof.Laws.noWord _
theorem Sys2Proof.Laws.NoWord.vred : ∀ x1 x2, Sys2Proof.Laws.NoWord.Statement (Sys2Proof.Instr.vred x1 x2) :=
  fun _ _ => Sys2Proof.Laws.noWord _
theorem Sys2Proof.Laws.NoWord.lookup : ∀ x1, Sys2Proof.Laws.NoWord.Statement (Sys2Proof.Instr.lookup x1) :=
  fun _ => Sys2Proof.Laws.noWord _
theorem Sys2Proof.Laws.NoWord.pool : ∀ x1, Sys2Proof.Laws.NoWord.Statement (Sys2Proof.Instr.pool x1) :=
  fun _ => Sys2Proof.Laws.noWord _
theorem Sys2Proof.Laws.NoWord.gradSend : ∀ x1, Sys2Proof.Laws.NoWord.Statement (Sys2Proof.Instr.gradSend x1) :=
  fun _ => Sys2Proof.Laws.noWord _
theorem Sys2Proof.Laws.NoWord.stashWr : ∀ x1, Sys2Proof.Laws.NoWord.Statement (Sys2Proof.Instr.stashWr x1) :=
  fun _ => Sys2Proof.Laws.noWord _
theorem Sys2Proof.Laws.NoWord.stashRd : ∀ x1, Sys2Proof.Laws.NoWord.Statement (Sys2Proof.Instr.stashRd x1) :=
  fun _ => Sys2Proof.Laws.noWord _
theorem Sys2Proof.Laws.NoWord.stashFree : ∀ x1, Sys2Proof.Laws.NoWord.Statement (Sys2Proof.Instr.stashFree x1) :=
  fun _ => Sys2Proof.Laws.noWord _
theorem Sys2Proof.Laws.NoWord.fetch : ∀ x1 x2, Sys2Proof.Laws.NoWord.Statement (Sys2Proof.Instr.fetch x1 x2) :=
  fun _ _ => Sys2Proof.Laws.noWord _
theorem Sys2Proof.Laws.NoWord.write : ∀ x1 x2, Sys2Proof.Laws.NoWord.Statement (Sys2Proof.Instr.write x1 x2) :=
  fun _ _ => Sys2Proof.Laws.noWord _
theorem Sys2Proof.Laws.NoWord.prefetch : ∀ x1 x2, Sys2Proof.Laws.NoWord.Statement (Sys2Proof.Instr.prefetch x1 x2) :=
  fun _ _ => Sys2Proof.Laws.noWord _
theorem Sys2Proof.Laws.NoWord.cancel : ∀ x1 x2, Sys2Proof.Laws.NoWord.Statement (Sys2Proof.Instr.cancel x1 x2) :=
  fun _ _ => Sys2Proof.Laws.noWord _
theorem Sys2Proof.Laws.NoWord.loadScales : ∀ x1, Sys2Proof.Laws.NoWord.Statement (Sys2Proof.Instr.loadScales x1) :=
  fun _ => Sys2Proof.Laws.noWord _
theorem Sys2Proof.Laws.NoWord.loadCsum : ∀ x1, Sys2Proof.Laws.NoWord.Statement (Sys2Proof.Instr.loadCsum x1) :=
  fun _ => Sys2Proof.Laws.noWord _
theorem Sys2Proof.Laws.NoWord.invalidate : ∀ x1, Sys2Proof.Laws.NoWord.Statement (Sys2Proof.Instr.invalidate x1) :=
  fun _ => Sys2Proof.Laws.noWord _
theorem Sys2Proof.Laws.NoWord.prestage : ∀ x1, Sys2Proof.Laws.NoWord.Statement (Sys2Proof.Instr.prestage x1) :=
  fun _ => Sys2Proof.Laws.noWord _
theorem Sys2Proof.Laws.NoWord.commandRetire : ∀ x1 x2 x3, Sys2Proof.Laws.NoWord.Statement (Sys2Proof.Instr.commandRetire x1 x2 x3) :=
  fun _ _ _ => Sys2Proof.Laws.noWord _
theorem Sys2Proof.Laws.NoWord.deferPromote : ∀ x1 x2, Sys2Proof.Laws.NoWord.Statement (Sys2Proof.Instr.deferPromote x1 x2) :=
  fun _ _ => Sys2Proof.Laws.noWord _
theorem Sys2Proof.Laws.NoWord.handoverUnit : ∀ x1 x2 x3, Sys2Proof.Laws.NoWord.Statement (Sys2Proof.Instr.handoverUnit x1 x2 x3) :=
  fun _ _ _ => Sys2Proof.Laws.noWord _
theorem Sys2Proof.Laws.NoWord.noProgress : ∀ x1, Sys2Proof.Laws.NoWord.Statement (Sys2Proof.Instr.noProgress x1) :=
  fun _ => Sys2Proof.Laws.noWord _
theorem Sys2Proof.Laws.NoWord.dumpValid : ∀ x1 x2, Sys2Proof.Laws.NoWord.Statement (Sys2Proof.Instr.dumpValid x1 x2) :=
  fun _ _ => Sys2Proof.Laws.noWord _
theorem Sys2Proof.Laws.NoWord.govStreamCtl : ∀ x1 x2, Sys2Proof.Laws.NoWord.Statement (Sys2Proof.Instr.govStreamCtl x1 x2) :=
  fun _ _ => Sys2Proof.Laws.noWord _
theorem Sys2Proof.Laws.NoWord.tileLoadStart : ∀ x1 x2 x3, Sys2Proof.Laws.NoWord.Statement (Sys2Proof.Instr.tileLoadStart x1 x2 x3) :=
  fun _ _ _ => Sys2Proof.Laws.noWord _
theorem Sys2Proof.Laws.NoWord.tileLoadReady : ∀ x1 x2 x3, Sys2Proof.Laws.NoWord.Statement (Sys2Proof.Instr.tileLoadReady x1 x2 x3) :=
  fun _ _ _ => Sys2Proof.Laws.noWord _
theorem Sys2Proof.Laws.NoWord.passStart : ∀ x1 x2 x3, Sys2Proof.Laws.NoWord.Statement (Sys2Proof.Instr.passStart x1 x2 x3) :=
  fun _ _ _ => Sys2Proof.Laws.noWord _
theorem Sys2Proof.Laws.NoWord.passEnd : ∀ x1 x2 x3 x4, Sys2Proof.Laws.NoWord.Statement (Sys2Proof.Instr.passEnd x1 x2 x3 x4) :=
  fun _ _ _ _ => Sys2Proof.Laws.noWord _
theorem Sys2Proof.Laws.NoWord.passVerdict : ∀ x1 x2 x3, Sys2Proof.Laws.NoWord.Statement (Sys2Proof.Instr.passVerdict x1 x2 x3) :=
  fun _ _ _ => Sys2Proof.Laws.noWord _
theorem Sys2Proof.Laws.NoWord.replayStart : ∀ x1 x2 x3, Sys2Proof.Laws.NoWord.Statement (Sys2Proof.Instr.replayStart x1 x2 x3) :=
  fun _ _ _ => Sys2Proof.Laws.noWord _
theorem Sys2Proof.Laws.NoWord.engPreemptReq : ∀ x1 x2 x3, Sys2Proof.Laws.NoWord.Statement (Sys2Proof.Instr.engPreemptReq x1 x2 x3) :=
  fun _ _ _ => Sys2Proof.Laws.noWord _
theorem Sys2Proof.Laws.NoWord.engPreemptWithdraw : ∀ x1 x2 x3, Sys2Proof.Laws.NoWord.Statement (Sys2Proof.Instr.engPreemptWithdraw x1 x2 x3) :=
  fun _ _ _ => Sys2Proof.Laws.noWord _
theorem Sys2Proof.Laws.NoWord.engineQuiet : ∀ x1 x2 x3, Sys2Proof.Laws.NoWord.Statement (Sys2Proof.Instr.engineQuiet x1 x2 x3) :=
  fun _ _ _ => Sys2Proof.Laws.noWord _
theorem Sys2Proof.Laws.NoWord.engCtrClear : ∀ x1 x2 x3, Sys2Proof.Laws.NoWord.Statement (Sys2Proof.Instr.engCtrClear x1 x2 x3) :=
  fun _ _ _ => Sys2Proof.Laws.noWord _
theorem Sys2Proof.Laws.NoWord.dividerChange : ∀ x1 x2, Sys2Proof.Laws.NoWord.Statement (Sys2Proof.Instr.dividerChange x1 x2) :=
  fun _ _ => Sys2Proof.Laws.noWord _
theorem Sys2Proof.Laws.NoWord.lbEccError : ∀ x1 x2 x3, Sys2Proof.Laws.NoWord.Statement (Sys2Proof.Instr.lbEccError x1 x2 x3) :=
  fun _ _ _ => Sys2Proof.Laws.noWord _
theorem Sys2Proof.Laws.NoWord.spillWriteDone : ∀ x1 x2 x3 x4, Sys2Proof.Laws.NoWord.Statement (Sys2Proof.Instr.spillWriteDone x1 x2 x3 x4) :=
  fun _ _ _ _ => Sys2Proof.Laws.noWord _
theorem Sys2Proof.Laws.NoWord.stashReadback : ∀ x1, Sys2Proof.Laws.NoWord.Statement (Sys2Proof.Instr.stashReadback x1) :=
  fun _ => Sys2Proof.Laws.noWord _
theorem Sys2Proof.Laws.NoWord.demandFetchBegin : ∀ x1 x2, Sys2Proof.Laws.NoWord.Statement (Sys2Proof.Instr.demandFetchBegin x1 x2) :=
  fun _ _ => Sys2Proof.Laws.noWord _
theorem Sys2Proof.Laws.NoWord.sluiceTick : ∀ x1, Sys2Proof.Laws.NoWord.Statement (Sys2Proof.Instr.sluiceTick x1) :=
  fun _ => Sys2Proof.Laws.noWord _
theorem Sys2Proof.Laws.NoWord.transferArrive : ∀ x1 x2 x3, Sys2Proof.Laws.NoWord.Statement (Sys2Proof.Instr.transferArrive x1 x2 x3) :=
  fun _ _ _ => Sys2Proof.Laws.noWord _
theorem Sys2Proof.Laws.NoWord.ringRepair : ∀ x1 x2, Sys2Proof.Laws.NoWord.Statement (Sys2Proof.Instr.ringRepair x1 x2) :=
  fun _ _ => Sys2Proof.Laws.noWord _
theorem Sys2Proof.Laws.NoWord.tailraceAck : ∀ x1 x2, Sys2Proof.Laws.NoWord.Statement (Sys2Proof.Instr.tailraceAck x1 x2) :=
  fun _ _ => Sys2Proof.Laws.noWord _
theorem Sys2Proof.Laws.NoWord.arbDecision : ∀ x1 x2 x3, Sys2Proof.Laws.NoWord.Statement (Sys2Proof.Instr.arbDecision x1 x2 x3) :=
  fun _ _ _ => Sys2Proof.Laws.noWord _
theorem Sys2Proof.Laws.NoWord.arbHold : ∀ x1 x2, Sys2Proof.Laws.NoWord.Statement (Sys2Proof.Instr.arbHold x1 x2) :=
  fun _ _ => Sys2Proof.Laws.noWord _
theorem Sys2Proof.Laws.NoWord.turnEstimate : ∀ x1 x2 x3, Sys2Proof.Laws.NoWord.Statement (Sys2Proof.Instr.turnEstimate x1 x2 x3) :=
  fun _ _ _ => Sys2Proof.Laws.noWord _
theorem Sys2Proof.Laws.NoWord.engineWake : ∀ x1 x2 x3, Sys2Proof.Laws.NoWord.Statement (Sys2Proof.Instr.engineWake x1 x2 x3) :=
  fun _ _ _ => Sys2Proof.Laws.noWord _
theorem Sys2Proof.Laws.NoWord.pageMoveStart : Sys2Proof.Laws.NoWord.Statement Sys2Proof.Instr.pageMoveStart := Sys2Proof.Laws.noWord _
theorem Sys2Proof.Laws.NoWord.heatDecay : Sys2Proof.Laws.NoWord.Statement Sys2Proof.Instr.heatDecay := Sys2Proof.Laws.noWord _
theorem Sys2Proof.Laws.NoWord.migrationPassEnd : ∀ x1, Sys2Proof.Laws.NoWord.Statement (Sys2Proof.Instr.migrationPassEnd x1) :=
  fun _ => Sys2Proof.Laws.noWord _
theorem Sys2Proof.Laws.NoWord.pageFlip : ∀ x1, Sys2Proof.Laws.NoWord.Statement (Sys2Proof.Instr.pageFlip x1) :=
  fun _ => Sys2Proof.Laws.noWord _
theorem Sys2Proof.Laws.NoWord.sourceFrameFree : ∀ x1, Sys2Proof.Laws.NoWord.Statement (Sys2Proof.Instr.sourceFrameFree x1) :=
  fun _ => Sys2Proof.Laws.noWord _
theorem Sys2Proof.Laws.NoWord.hbmEccError : ∀ x1 x2 x3, Sys2Proof.Laws.NoWord.Statement (Sys2Proof.Instr.hbmEccError x1 x2 x3) :=
  fun _ _ _ => Sys2Proof.Laws.noWord _
theorem Sys2Proof.Laws.NoWord.pageRefillDone : ∀ x1, Sys2Proof.Laws.NoWord.Statement (Sys2Proof.Instr.pageRefillDone x1) :=
  fun _ => Sys2Proof.Laws.noWord _
theorem Sys2Proof.Laws.NoWord.hbmPatrol : ∀ x1, Sys2Proof.Laws.NoWord.Statement (Sys2Proof.Instr.hbmPatrol x1) :=
  fun _ => Sys2Proof.Laws.noWord _
theorem Sys2Proof.Laws.NoWord.tierRefillDone : ∀ x1, Sys2Proof.Laws.NoWord.Statement (Sys2Proof.Instr.tierRefillDone x1) :=
  fun _ => Sys2Proof.Laws.noWord _
theorem Sys2Proof.Laws.NoWord.cxlPoison : ∀ x1, Sys2Proof.Laws.NoWord.Statement (Sys2Proof.Instr.cxlPoison x1) :=
  fun _ => Sys2Proof.Laws.noWord _
theorem Sys2Proof.Laws.NoWord.cxlCompletionTimeout : ∀ x1, Sys2Proof.Laws.NoWord.Statement (Sys2Proof.Instr.cxlCompletionTimeout x1) :=
  fun _ => Sys2Proof.Laws.noWord _
theorem Sys2Proof.Laws.NoWord.cxlLinkDown : ∀ x1 x2, Sys2Proof.Laws.NoWord.Statement (Sys2Proof.Instr.cxlLinkDown x1 x2) :=
  fun _ _ => Sys2Proof.Laws.noWord _
theorem Sys2Proof.Laws.NoWord.cxlLinkReturn : ∀ x1 x2, Sys2Proof.Laws.NoWord.Statement (Sys2Proof.Instr.cxlLinkReturn x1 x2) :=
  fun _ _ => Sys2Proof.Laws.noWord _
theorem Sys2Proof.Laws.NoWord.cxlDownLimit : ∀ x1 x2, Sys2Proof.Laws.NoWord.Statement (Sys2Proof.Instr.cxlDownLimit x1 x2) :=
  fun _ _ => Sys2Proof.Laws.noWord _
theorem Sys2Proof.Laws.NoWord.accessLate : ∀ x1 x2 x3, Sys2Proof.Laws.NoWord.Statement (Sys2Proof.Instr.accessLate x1 x2 x3) :=
  fun _ _ _ => Sys2Proof.Laws.noWord _
theorem Sys2Proof.Laws.NoWord.lkpReq : ∀ x1, Sys2Proof.Laws.NoWord.Statement (Sys2Proof.Instr.lkpReq x1) :=
  fun _ => Sys2Proof.Laws.noWord _
theorem Sys2Proof.Laws.NoWord.lkpRsp : ∀ x1, Sys2Proof.Laws.NoWord.Statement (Sys2Proof.Instr.lkpRsp x1) :=
  fun _ => Sys2Proof.Laws.noWord _
theorem Sys2Proof.Laws.NoWord.lookupHoldRelease : ∀ x1, Sys2Proof.Laws.NoWord.Statement (Sys2Proof.Instr.lookupHoldRelease x1) :=
  fun _ => Sys2Proof.Laws.noWord _
theorem Sys2Proof.Laws.NoWord.indexFaultReport : ∀ x1, Sys2Proof.Laws.NoWord.Statement (Sys2Proof.Instr.indexFaultReport x1) :=
  fun _ => Sys2Proof.Laws.noWord _
theorem Sys2Proof.Laws.NoWord.replSum : ∀ x1 x2, Sys2Proof.Laws.NoWord.Statement (Sys2Proof.Instr.replSum x1 x2) :=
  fun _ _ => Sys2Proof.Laws.noWord _
theorem Sys2Proof.Laws.NoWord.gristAdd : ∀ x1, Sys2Proof.Laws.NoWord.Statement (Sys2Proof.Instr.gristAdd x1) :=
  fun _ => Sys2Proof.Laws.noWord _
theorem Sys2Proof.Laws.NoWord.gristSlotFree : ∀ x1, Sys2Proof.Laws.NoWord.Statement (Sys2Proof.Instr.gristSlotFree x1) :=
  fun _ => Sys2Proof.Laws.noWord _
theorem Sys2Proof.Laws.NoWord.gatherEnd : ∀ x1 x2, Sys2Proof.Laws.NoWord.Statement (Sys2Proof.Instr.gatherEnd x1 x2) :=
  fun _ _ => Sys2Proof.Laws.noWord _
theorem Sys2Proof.Laws.NoWord.sliceArrive : ∀ x1, Sys2Proof.Laws.NoWord.Statement (Sys2Proof.Instr.sliceArrive x1) :=
  fun _ => Sys2Proof.Laws.noWord _
theorem Sys2Proof.Laws.NoWord.sliceResend : ∀ x1 x2 x3 x4 x5 x6 x7, Sys2Proof.Laws.NoWord.Statement (Sys2Proof.Instr.sliceResend x1 x2 x3 x4 x5 x6 x7) :=
  fun _ _ _ _ _ _ _ => Sys2Proof.Laws.noWord _
theorem Sys2Proof.Laws.NoWord.redNode : ∀ x1, Sys2Proof.Laws.NoWord.Statement (Sys2Proof.Instr.redNode x1) :=
  fun _ => Sys2Proof.Laws.noWord _
theorem Sys2Proof.Laws.NoWord.rootRetain : ∀ x1 x2 x3 x4, Sys2Proof.Laws.NoWord.Statement (Sys2Proof.Instr.rootRetain x1 x2 x3 x4) :=
  fun _ _ _ _ => Sys2Proof.Laws.noWord _
theorem Sys2Proof.Laws.NoWord.retRoot : ∀ x1, Sys2Proof.Laws.NoWord.Statement (Sys2Proof.Instr.retRoot x1) :=
  fun _ => Sys2Proof.Laws.noWord _
theorem Sys2Proof.Laws.NoWord.candidateForm : ∀ x1 x2 x3 x4, Sys2Proof.Laws.NoWord.Statement (Sys2Proof.Instr.candidateForm x1 x2 x3 x4) :=
  fun _ _ _ _ => Sys2Proof.Laws.noWord _
theorem Sys2Proof.Laws.NoWord.scaleSetDerive : ∀ x1, Sys2Proof.Laws.NoWord.Statement (Sys2Proof.Instr.scaleSetDerive x1) :=
  fun _ => Sys2Proof.Laws.noWord _
theorem Sys2Proof.Laws.NoWord.scaleSetArrive : ∀ x1 x2, Sys2Proof.Laws.NoWord.Statement (Sys2Proof.Instr.scaleSetArrive x1 x2) :=
  fun _ _ => Sys2Proof.Laws.noWord _
theorem Sys2Proof.Laws.NoWord.wcTile : ∀ x1, Sys2Proof.Laws.NoWord.Statement (Sys2Proof.Instr.wcTile x1) :=
  fun _ => Sys2Proof.Laws.noWord _
theorem Sys2Proof.Laws.NoWord.wcResend : ∀ x1 x2 x3 x4 x5, Sys2Proof.Laws.NoWord.Statement (Sys2Proof.Instr.wcResend x1 x2 x3 x4 x5) :=
  fun _ _ _ _ _ => Sys2Proof.Laws.noWord _
theorem Sys2Proof.Laws.NoWord.digest : ∀ x1 x2, Sys2Proof.Laws.NoWord.Statement (Sys2Proof.Instr.digest x1 x2) :=
  fun _ _ => Sys2Proof.Laws.noWord _
theorem Sys2Proof.Laws.NoWord.replicaRepairDone : ∀ x1 x2 x3 x4, Sys2Proof.Laws.NoWord.Statement (Sys2Proof.Instr.replicaRepairDone x1 x2 x3 x4) :=
  fun _ _ _ _ => Sys2Proof.Laws.noWord _
theorem Sys2Proof.Laws.NoWord.replayRequest : ∀ x1 x2, Sys2Proof.Laws.NoWord.Statement (Sys2Proof.Instr.replayRequest x1 x2) :=
  fun _ _ => Sys2Proof.Laws.noWord _
theorem Sys2Proof.Laws.NoWord.replay : ∀ x1, Sys2Proof.Laws.NoWord.Statement (Sys2Proof.Instr.replay x1) :=
  fun _ => Sys2Proof.Laws.noWord _
theorem Sys2Proof.Laws.NoWord.rebuildRedo : ∀ x1 x2 x3, Sys2Proof.Laws.NoWord.Statement (Sys2Proof.Instr.rebuildRedo x1 x2 x3) :=
  fun _ _ _ => Sys2Proof.Laws.noWord _
theorem Sys2Proof.Laws.NoWord.rebuildHostLimit : ∀ x1, Sys2Proof.Laws.NoWord.Statement (Sys2Proof.Instr.rebuildHostLimit x1) :=
  fun _ => Sys2Proof.Laws.noWord _
theorem Sys2Proof.Laws.NoWord.barrierSend : Sys2Proof.Laws.NoWord.Statement Sys2Proof.Instr.barrierSend := Sys2Proof.Laws.noWord _
theorem Sys2Proof.Laws.NoWord.barrier : ∀ x1, Sys2Proof.Laws.NoWord.Statement (Sys2Proof.Instr.barrier x1) :=
  fun _ => Sys2Proof.Laws.noWord _
theorem Sys2Proof.Laws.NoWord.move : ∀ x1, Sys2Proof.Laws.NoWord.Statement (Sys2Proof.Instr.move x1) :=
  fun _ => Sys2Proof.Laws.noWord _
theorem Sys2Proof.Laws.NoWord.shardXfer : ∀ x1, Sys2Proof.Laws.NoWord.Statement (Sys2Proof.Instr.shardXfer x1) :=
  fun _ => Sys2Proof.Laws.noWord _
theorem Sys2Proof.Laws.NoWord.done : ∀ x1, Sys2Proof.Laws.NoWord.Statement (Sys2Proof.Instr.done x1) :=
  fun _ => Sys2Proof.Laws.noWord _
theorem Sys2Proof.Laws.NoWord.flip : ∀ x1, Sys2Proof.Laws.NoWord.Statement (Sys2Proof.Instr.flip x1) :=
  fun _ => Sys2Proof.Laws.noWord _
theorem Sys2Proof.Laws.NoWord.layoutCancel : ∀ x1, Sys2Proof.Laws.NoWord.Statement (Sys2Proof.Instr.layoutCancel x1) :=
  fun _ => Sys2Proof.Laws.noWord _
theorem Sys2Proof.Laws.NoWord.linkTrain : ∀ x1 x2 x3, Sys2Proof.Laws.NoWord.Statement (Sys2Proof.Instr.linkTrain x1 x2 x3) :=
  fun _ _ _ => Sys2Proof.Laws.noWord _
theorem Sys2Proof.Laws.NoWord.linkInit : ∀ x1 x2, Sys2Proof.Laws.NoWord.Statement (Sys2Proof.Instr.linkInit x1 x2) :=
  fun _ _ => Sys2Proof.Laws.noWord _
theorem Sys2Proof.Laws.NoWord.flitReceive : ∀ x1 x2, Sys2Proof.Laws.NoWord.Statement (Sys2Proof.Instr.flitReceive x1 x2) :=
  fun _ _ => Sys2Proof.Laws.noWord _
theorem Sys2Proof.Laws.NoWord.nak : ∀ x1 x2 x3, Sys2Proof.Laws.NoWord.Statement (Sys2Proof.Instr.nak x1 x2 x3) :=
  fun _ _ _ => Sys2Proof.Laws.noWord _
theorem Sys2Proof.Laws.NoWord.popRetrainLimit : ∀ x1 x2, Sys2Proof.Laws.NoWord.Statement (Sys2Proof.Instr.popRetrainLimit x1 x2) :=
  fun _ _ => Sys2Proof.Laws.noWord _
theorem Sys2Proof.Laws.NoWord.linkDown : ∀ x1 x2, Sys2Proof.Laws.NoWord.Statement (Sys2Proof.Instr.linkDown x1 x2) :=
  fun _ _ => Sys2Proof.Laws.noWord _
theorem Sys2Proof.Laws.NoWord.creditSync : ∀ x1 x2, Sys2Proof.Laws.NoWord.Statement (Sys2Proof.Instr.creditSync x1 x2) :=
  fun _ _ => Sys2Proof.Laws.noWord _
theorem Sys2Proof.Laws.NoWord.frameForward : ∀ x1 x2, Sys2Proof.Laws.NoWord.Statement (Sys2Proof.Instr.frameForward x1 x2) :=
  fun _ _ => Sys2Proof.Laws.noWord _
theorem Sys2Proof.Laws.NoWord.rdReq : ∀ x1 x2 x3, Sys2Proof.Laws.NoWord.Statement (Sys2Proof.Instr.rdReq x1 x2 x3) :=
  fun _ _ _ => Sys2Proof.Laws.noWord _
theorem Sys2Proof.Laws.NoWord.rdRsp : ∀ x1 x2, Sys2Proof.Laws.NoWord.Statement (Sys2Proof.Instr.rdRsp x1 x2) :=
  fun _ _ => Sys2Proof.Laws.noWord _
theorem Sys2Proof.Laws.NoWord.wr : ∀ x1 x2, Sys2Proof.Laws.NoWord.Statement (Sys2Proof.Instr.wr x1 x2) :=
  fun _ _ => Sys2Proof.Laws.noWord _
theorem Sys2Proof.Laws.NoWord.wrAck : ∀ x1, Sys2Proof.Laws.NoWord.Statement (Sys2Proof.Instr.wrAck x1) :=
  fun _ => Sys2Proof.Laws.noWord _
theorem Sys2Proof.Laws.NoWord.ctlReq : ∀ x1 x2 x3 x4, Sys2Proof.Laws.NoWord.Statement (Sys2Proof.Instr.ctlReq x1 x2 x3 x4) :=
  fun _ _ _ _ => Sys2Proof.Laws.noWord _
theorem Sys2Proof.Laws.NoWord.ctlRsp : ∀ x1 x2, Sys2Proof.Laws.NoWord.Statement (Sys2Proof.Instr.ctlRsp x1 x2) :=
  fun _ _ => Sys2Proof.Laws.noWord _
theorem Sys2Proof.Laws.NoWord.ethPacket : ∀ x1 x2 x3, Sys2Proof.Laws.NoWord.Statement (Sys2Proof.Instr.ethPacket x1 x2 x3) :=
  fun _ _ _ => Sys2Proof.Laws.noWord _
theorem Sys2Proof.Laws.NoWord.ethRto : ∀ x1 x2 x3, Sys2Proof.Laws.NoWord.Statement (Sys2Proof.Instr.ethRto x1 x2 x3) :=
  fun _ _ _ => Sys2Proof.Laws.noWord _
theorem Sys2Proof.Laws.NoWord.ack : ∀ x1 x2, Sys2Proof.Laws.NoWord.Statement (Sys2Proof.Instr.ack x1 x2) :=
  fun _ _ => Sys2Proof.Laws.noWord _
theorem Sys2Proof.Laws.NoWord.popAckLimit : ∀ x1 x2, Sys2Proof.Laws.NoWord.Statement (Sys2Proof.Instr.popAckLimit x1 x2) :=
  fun _ _ => Sys2Proof.Laws.noWord _
theorem Sys2Proof.Laws.NoWord.heartbeatSend : ∀ x1, Sys2Proof.Laws.NoWord.Statement (Sys2Proof.Instr.heartbeatSend x1) :=
  fun _ => Sys2Proof.Laws.noWord _
theorem Sys2Proof.Laws.NoWord.heartbeat : ∀ x1 x2, Sys2Proof.Laws.NoWord.Statement (Sys2Proof.Instr.heartbeat x1 x2) :=
  fun _ _ => Sys2Proof.Laws.noWord _
theorem Sys2Proof.Laws.NoWord.heartbeatTimeout : ∀ x1 x2, Sys2Proof.Laws.NoWord.Statement (Sys2Proof.Instr.heartbeatTimeout x1 x2) :=
  fun _ _ => Sys2Proof.Laws.noWord _
theorem Sys2Proof.Laws.NoWord.discover : ∀ x1 x2 x3, Sys2Proof.Laws.NoWord.Statement (Sys2Proof.Instr.discover x1 x2 x3) :=
  fun _ _ _ => Sys2Proof.Laws.noWord _
theorem Sys2Proof.Laws.NoWord.discoveryQuiet : ∀ x1 x2, Sys2Proof.Laws.NoWord.Statement (Sys2Proof.Instr.discoveryQuiet x1 x2) :=
  fun _ _ => Sys2Proof.Laws.noWord _
theorem Sys2Proof.Laws.NoWord.member : ∀ x1, Sys2Proof.Laws.NoWord.Statement (Sys2Proof.Instr.member x1) :=
  fun _ => Sys2Proof.Laws.noWord _
theorem Sys2Proof.Laws.NoWord.failedReport : ∀ x1 x2, Sys2Proof.Laws.NoWord.Statement (Sys2Proof.Instr.failedReport x1 x2) :=
  fun _ _ => Sys2Proof.Laws.noWord _
theorem Sys2Proof.Laws.NoWord.podSilence : ∀ x1 x2, Sys2Proof.Laws.NoWord.Statement (Sys2Proof.Instr.podSilence x1 x2) :=
  fun _ _ => Sys2Proof.Laws.noWord _
theorem Sys2Proof.Laws.NoWord.fence : ∀ x1, Sys2Proof.Laws.NoWord.Statement (Sys2Proof.Instr.fence x1) :=
  fun _ => Sys2Proof.Laws.noWord _
theorem Sys2Proof.Laws.NoWord.memberBatch : ∀ x1, Sys2Proof.Laws.NoWord.Statement (Sys2Proof.Instr.memberBatch x1) :=
  fun _ => Sys2Proof.Laws.noWord _
theorem Sys2Proof.Laws.NoWord.memberAck : ∀ x1 x2 x3 x4, Sys2Proof.Laws.NoWord.Statement (Sys2Proof.Instr.memberAck x1 x2 x3 x4) :=
  fun _ _ _ _ => Sys2Proof.Laws.noWord _
theorem Sys2Proof.Laws.NoWord.leaseGrace : ∀ x1 x2, Sys2Proof.Laws.NoWord.Statement (Sys2Proof.Instr.leaseGrace x1 x2) :=
  fun _ _ => Sys2Proof.Laws.noWord _
theorem Sys2Proof.Laws.NoWord.fmBindLimit : ∀ x1 x2, Sys2Proof.Laws.NoWord.Statement (Sys2Proof.Instr.fmBindLimit x1 x2) :=
  fun _ _ => Sys2Proof.Laws.noWord _
theorem Sys2Proof.Laws.NoWord.partnerUnitRequest : ∀ x1 x2 x3, Sys2Proof.Laws.NoWord.Statement (Sys2Proof.Instr.partnerUnitRequest x1 x2 x3) :=
  fun _ _ _ => Sys2Proof.Laws.noWord _
theorem Sys2Proof.Laws.NoWord.pullComplete : Sys2Proof.Laws.NoWord.Statement Sys2Proof.Instr.pullComplete := Sys2Proof.Laws.noWord _
theorem Sys2Proof.Laws.NoWord.takeoverDone : ∀ x1 x2, Sys2Proof.Laws.NoWord.Statement (Sys2Proof.Instr.takeoverDone x1 x2) :=
  fun _ _ => Sys2Proof.Laws.noWord _
theorem Sys2Proof.Laws.NoWord.journalFold : ∀ x1, Sys2Proof.Laws.NoWord.Statement (Sys2Proof.Instr.journalFold x1) :=
  fun _ => Sys2Proof.Laws.noWord _
theorem Sys2Proof.Laws.NoWord.releaseFence : Sys2Proof.Laws.NoWord.Statement Sys2Proof.Instr.releaseFence := Sys2Proof.Laws.noWord _
theorem Sys2Proof.Laws.NoWord.jobStart : ∀ x1, Sys2Proof.Laws.NoWord.Statement (Sys2Proof.Instr.jobStart x1) :=
  fun _ => Sys2Proof.Laws.noWord _
theorem Sys2Proof.Laws.NoWord.jobStop : ∀ x1, Sys2Proof.Laws.NoWord.Statement (Sys2Proof.Instr.jobStop x1) :=
  fun _ => Sys2Proof.Laws.noWord _
theorem Sys2Proof.Laws.NoWord.jobSwitch : ∀ x1 x2 x3, Sys2Proof.Laws.NoWord.Statement (Sys2Proof.Instr.jobSwitch x1 x2 x3) :=
  fun _ _ _ => Sys2Proof.Laws.noWord _
theorem Sys2Proof.Laws.NoWord.switchInRestore : ∀ x1, Sys2Proof.Laws.NoWord.Statement (Sys2Proof.Instr.switchInRestore x1) :=
  fun _ => Sys2Proof.Laws.noWord _
theorem Sys2Proof.Laws.NoWord.jobResume : ∀ x1, Sys2Proof.Laws.NoWord.Statement (Sys2Proof.Instr.jobResume x1) :=
  fun _ => Sys2Proof.Laws.noWord _
theorem Sys2Proof.Laws.NoWord.snapshot : ∀ x1 x2, Sys2Proof.Laws.NoWord.Statement (Sys2Proof.Instr.snapshot x1 x2) :=
  fun _ _ => Sys2Proof.Laws.noWord _
theorem Sys2Proof.Laws.NoWord.snapshotWrite : Sys2Proof.Laws.NoWord.Statement Sys2Proof.Instr.snapshotWrite := Sys2Proof.Laws.noWord _
theorem Sys2Proof.Laws.NoWord.trayRelease : ∀ x1 x2 x3 x4 x5, Sys2Proof.Laws.NoWord.Statement (Sys2Proof.Instr.trayRelease x1 x2 x3 x4 x5) :=
  fun _ _ _ _ _ => Sys2Proof.Laws.noWord _
theorem Sys2Proof.Laws.NoWord.spareAdd : ∀ x1 x2, Sys2Proof.Laws.NoWord.Statement (Sys2Proof.Instr.spareAdd x1 x2) :=
  fun _ _ => Sys2Proof.Laws.noWord _
theorem Sys2Proof.Laws.NoWord.spareRemove : ∀ x1 x2, Sys2Proof.Laws.NoWord.Statement (Sys2Proof.Instr.spareRemove x1 x2) :=
  fun _ _ => Sys2Proof.Laws.noWord _
theorem Sys2Proof.Laws.NoWord.reportFailed : ∀ x1 x2, Sys2Proof.Laws.NoWord.Statement (Sys2Proof.Instr.reportFailed x1 x2) :=
  fun _ _ => Sys2Proof.Laws.noWord _
theorem Sys2Proof.Laws.NoWord.hostSupply : ∀ x1 x2 x3, Sys2Proof.Laws.NoWord.Statement (Sys2Proof.Instr.hostSupply x1 x2 x3) :=
  fun _ _ _ => Sys2Proof.Laws.noWord _
theorem Sys2Proof.Laws.NoWord.repairMapWrite : ∀ x1 x2 x3, Sys2Proof.Laws.NoWord.Statement (Sys2Proof.Instr.repairMapWrite x1 x2 x3) :=
  fun _ _ _ => Sys2Proof.Laws.noWord _
theorem Sys2Proof.Laws.NoWord.engineDiag : ∀ x1 x2, Sys2Proof.Laws.NoWord.Statement (Sys2Proof.Instr.engineDiag x1 x2) :=
  fun _ _ => Sys2Proof.Laws.noWord _
theorem Sys2Proof.Laws.NoWord.manifestWrite : ∀ x1, Sys2Proof.Laws.NoWord.Statement (Sys2Proof.Instr.manifestWrite x1) :=
  fun _ => Sys2Proof.Laws.noWord _
theorem Sys2Proof.Laws.NoWord.fmBound : ∀ x1 x2 x3, Sys2Proof.Laws.NoWord.Statement (Sys2Proof.Instr.fmBound x1 x2 x3) :=
  fun _ _ _ => Sys2Proof.Laws.noWord _
theorem Sys2Proof.Laws.NoWord.contextReady : ∀ x1, Sys2Proof.Laws.NoWord.Statement (Sys2Proof.Instr.contextReady x1) :=
  fun _ => Sys2Proof.Laws.noWord _
theorem Sys2Proof.Laws.NoWord.keyEnrol : ∀ x1 x2, Sys2Proof.Laws.NoWord.Statement (Sys2Proof.Instr.keyEnrol x1 x2) :=
  fun _ _ => Sys2Proof.Laws.noWord _
theorem Sys2Proof.Laws.NoWord.keyRevoke : ∀ x1 x2, Sys2Proof.Laws.NoWord.Statement (Sys2Proof.Instr.keyRevoke x1 x2) :=
  fun _ _ => Sys2Proof.Laws.noWord _
theorem Sys2Proof.Laws.NoWord.svnRaise : ∀ x1 x2, Sys2Proof.Laws.NoWord.Statement (Sys2Proof.Instr.svnRaise x1 x2) :=
  fun _ _ => Sys2Proof.Laws.noWord _
theorem Sys2Proof.Laws.NoWord.fwSvnCommit : ∀ x1, Sys2Proof.Laws.NoWord.Statement (Sys2Proof.Instr.fwSvnCommit x1) :=
  fun _ => Sys2Proof.Laws.noWord _
theorem Sys2Proof.Laws.NoWord.exportKey : ∀ x1 x2 x3, Sys2Proof.Laws.NoWord.Statement (Sys2Proof.Instr.exportKey x1 x2 x3) :=
  fun _ _ _ => Sys2Proof.Laws.noWord _
theorem Sys2Proof.Laws.NoWord.getAudit : ∀ x1 x2, Sys2Proof.Laws.NoWord.Statement (Sys2Proof.Instr.getAudit x1 x2) :=
  fun _ _ => Sys2Proof.Laws.noWord _
theorem Sys2Proof.Laws.NoWord.recordSign : ∀ x1, Sys2Proof.Laws.NoWord.Statement (Sys2Proof.Instr.recordSign x1) :=
  fun _ => Sys2Proof.Laws.noWord _
theorem Sys2Proof.Laws.NoWord.logSectorErase : ∀ x1, Sys2Proof.Laws.NoWord.Statement (Sys2Proof.Instr.logSectorErase x1) :=
  fun _ => Sys2Proof.Laws.noWord _
theorem Sys2Proof.Laws.NoWord.diffRingTail : ∀ x1 x2, Sys2Proof.Laws.NoWord.Statement (Sys2Proof.Instr.diffRingTail x1 x2) :=
  fun _ _ => Sys2Proof.Laws.noWord _
theorem Sys2Proof.Laws.NoWord.getVersion : Sys2Proof.Laws.NoWord.Statement Sys2Proof.Instr.getVersion := Sys2Proof.Laws.noWord _
theorem Sys2Proof.Laws.NoWord.getCapabilities : Sys2Proof.Laws.NoWord.Statement Sys2Proof.Instr.getCapabilities := Sys2Proof.Laws.noWord _
theorem Sys2Proof.Laws.NoWord.negotiateAlgorithms : Sys2Proof.Laws.NoWord.Statement Sys2Proof.Instr.negotiateAlgorithms := Sys2Proof.Laws.noWord _
theorem Sys2Proof.Laws.NoWord.getDigests : Sys2Proof.Laws.NoWord.Statement Sys2Proof.Instr.getDigests := Sys2Proof.Laws.noWord _
theorem Sys2Proof.Laws.NoWord.getCertificate : ∀ x1 x2 x3, Sys2Proof.Laws.NoWord.Statement (Sys2Proof.Instr.getCertificate x1 x2 x3) :=
  fun _ _ _ => Sys2Proof.Laws.noWord _
theorem Sys2Proof.Laws.NoWord.challenge : ∀ x1 x2, Sys2Proof.Laws.NoWord.Statement (Sys2Proof.Instr.challenge x1 x2) :=
  fun _ _ => Sys2Proof.Laws.noWord _
theorem Sys2Proof.Laws.NoWord.getMeasurements : ∀ x1 x2, Sys2Proof.Laws.NoWord.Statement (Sys2Proof.Instr.getMeasurements x1 x2) :=
  fun _ _ => Sys2Proof.Laws.noWord _
theorem Sys2Proof.Laws.NoWord.keyExchange : ∀ x1 x2, Sys2Proof.Laws.NoWord.Statement (Sys2Proof.Instr.keyExchange x1 x2) :=
  fun _ _ => Sys2Proof.Laws.noWord _
theorem Sys2Proof.Laws.NoWord.finish : ∀ x1 x2, Sys2Proof.Laws.NoWord.Statement (Sys2Proof.Instr.finish x1 x2) :=
  fun _ _ => Sys2Proof.Laws.noWord _
theorem Sys2Proof.Laws.NoWord.endSession : ∀ x1, Sys2Proof.Laws.NoWord.Statement (Sys2Proof.Instr.endSession x1) :=
  fun _ => Sys2Proof.Laws.noWord _
theorem Sys2Proof.Laws.NoWord.spdmHeartbeat : ∀ x1, Sys2Proof.Laws.NoWord.Statement (Sys2Proof.Instr.spdmHeartbeat x1) :=
  fun _ => Sys2Proof.Laws.noWord _
theorem Sys2Proof.Laws.NoWord.keyUpdate : ∀ x1, Sys2Proof.Laws.NoWord.Statement (Sys2Proof.Instr.keyUpdate x1) :=
  fun _ => Sys2Proof.Laws.noWord _
theorem Sys2Proof.Laws.NoWord.fwRecovery : ∀ x1, Sys2Proof.Laws.NoWord.Statement (Sys2Proof.Instr.fwRecovery x1) :=
  fun _ => Sys2Proof.Laws.noWord _
theorem Sys2Proof.Laws.NoWord.store : ∀ x1 x2, Sys2Proof.Laws.NoWord.Statement (Sys2Proof.Instr.store x1 x2) :=
  fun _ _ => Sys2Proof.Laws.noWord _
theorem Sys2Proof.Laws.NoWord.storeApply : ∀ x1 x2, Sys2Proof.Laws.NoWord.Statement (Sys2Proof.Instr.storeApply x1 x2) :=
  fun _ _ => Sys2Proof.Laws.noWord _
theorem Sys2Proof.Laws.NoWord.package : ∀ x1, Sys2Proof.Laws.NoWord.Statement (Sys2Proof.Instr.package x1) :=
  fun _ => Sys2Proof.Laws.noWord _
theorem Sys2Proof.Laws.NoWord.fieldRead : ∀ x1, Sys2Proof.Laws.NoWord.Statement (Sys2Proof.Instr.fieldRead x1) :=
  fun _ => Sys2Proof.Laws.noWord _
theorem Sys2Proof.Laws.NoWord.fieldWrite : ∀ x1 x2, Sys2Proof.Laws.NoWord.Statement (Sys2Proof.Instr.fieldWrite x1 x2) :=
  fun _ _ => Sys2Proof.Laws.noWord _
theorem Sys2Proof.Laws.NoWord.writeStep : ∀ x1 x2 x3, Sys2Proof.Laws.NoWord.Statement (Sys2Proof.Instr.writeStep x1 x2 x3) :=
  fun _ _ _ => Sys2Proof.Laws.noWord _
theorem Sys2Proof.Laws.NoWord.writeStepComplete : ∀ x1, Sys2Proof.Laws.NoWord.Statement (Sys2Proof.Instr.writeStepComplete x1) :=
  fun _ => Sys2Proof.Laws.noWord _
theorem Sys2Proof.Laws.NoWord.vauxOn : Sys2Proof.Laws.NoWord.Statement Sys2Proof.Instr.vauxOn := Sys2Proof.Laws.noWord _
theorem Sys2Proof.Laws.NoWord.vauxLoss : Sys2Proof.Laws.NoWord.Statement Sys2Proof.Instr.vauxLoss := Sys2Proof.Laws.noWord _
theorem Sys2Proof.Laws.NoWord.pwrGoodRise : ∀ x1 x2, Sys2Proof.Laws.NoWord.Statement (Sys2Proof.Instr.pwrGoodRise x1 x2) :=
  fun _ _ => Sys2Proof.Laws.noWord _
theorem Sys2Proof.Laws.NoWord.pwrGoodFall : ∀ x1, Sys2Proof.Laws.NoWord.Statement (Sys2Proof.Instr.pwrGoodFall x1) :=
  fun _ => Sys2Proof.Laws.noWord _
theorem Sys2Proof.Laws.NoWord.sysRstNAssert : ∀ x1, Sys2Proof.Laws.NoWord.Statement (Sys2Proof.Instr.sysRstNAssert x1) :=
  fun _ => Sys2Proof.Laws.noWord _
theorem Sys2Proof.Laws.NoWord.sysRstNRelease : ∀ x1, Sys2Proof.Laws.NoWord.Statement (Sys2Proof.Instr.sysRstNRelease x1) :=
  fun _ => Sys2Proof.Laws.noWord _
theorem Sys2Proof.Laws.NoWord.perstRelease : Sys2Proof.Laws.NoWord.Statement Sys2Proof.Instr.perstRelease := Sys2Proof.Laws.noWord _
theorem Sys2Proof.Laws.NoWord.perstAssert : Sys2Proof.Laws.NoWord.Statement Sys2Proof.Instr.perstAssert := Sys2Proof.Laws.noWord _
theorem Sys2Proof.Laws.NoWord.cxPerstRelease : ∀ x1, Sys2Proof.Laws.NoWord.Statement (Sys2Proof.Instr.cxPerstRelease x1) :=
  fun _ => Sys2Proof.Laws.noWord _
theorem Sys2Proof.Laws.NoWord.pllLock : Sys2Proof.Laws.NoWord.Statement Sys2Proof.Instr.pllLock := Sys2Proof.Laws.noWord _
theorem Sys2Proof.Laws.NoWord.pllUnlock : Sys2Proof.Laws.NoWord.Statement Sys2Proof.Instr.pllUnlock := Sys2Proof.Laws.noWord _
theorem Sys2Proof.Laws.NoWord.domainSwitchOn : ∀ x1, Sys2Proof.Laws.NoWord.Statement (Sys2Proof.Instr.domainSwitchOn x1) :=
  fun _ => Sys2Proof.Laws.noWord _
theorem Sys2Proof.Laws.NoWord.domainWake : ∀ x1, Sys2Proof.Laws.NoWord.Statement (Sys2Proof.Instr.domainWake x1) :=
  fun _ => Sys2Proof.Laws.noWord _
theorem Sys2Proof.Laws.NoWord.domainSwitchOff : ∀ x1, Sys2Proof.Laws.NoWord.Statement (Sys2Proof.Instr.domainSwitchOff x1) :=
  fun _ => Sys2Proof.Laws.noWord _
theorem Sys2Proof.Laws.NoWord.bringupPhaseEnd : ∀ x1, Sys2Proof.Laws.NoWord.Statement (Sys2Proof.Instr.bringupPhaseEnd x1) :=
  fun _ => Sys2Proof.Laws.noWord _
theorem Sys2Proof.Laws.NoWord.bringupSlow : ∀ x1, Sys2Proof.Laws.NoWord.Statement (Sys2Proof.Instr.bringupSlow x1) :=
  fun _ => Sys2Proof.Laws.noWord _
theorem Sys2Proof.Laws.NoWord.hbmTrain : ∀ x1 x2, Sys2Proof.Laws.NoWord.Statement (Sys2Proof.Instr.hbmTrain x1 x2) :=
  fun _ _ => Sys2Proof.Laws.noWord _
theorem Sys2Proof.Laws.NoWord.fantailSample : ∀ x1 x2, Sys2Proof.Laws.NoWord.Statement (Sys2Proof.Instr.fantailSample x1 x2) :=
  fun _ _ => Sys2Proof.Laws.noWord _
theorem Sys2Proof.Laws.NoWord.fantailEvaluate : ∀ x1, Sys2Proof.Laws.NoWord.Statement (Sys2Proof.Instr.fantailEvaluate x1) :=
  fun _ => Sys2Proof.Laws.noWord _
theorem Sys2Proof.Laws.NoWord.holdNLow : Sys2Proof.Laws.NoWord.Statement Sys2Proof.Instr.holdNLow := Sys2Proof.Laws.noWord _
theorem Sys2Proof.Laws.NoWord.holdNHigh : Sys2Proof.Laws.NoWord.Statement Sys2Proof.Instr.holdNHigh := Sys2Proof.Laws.noWord _
theorem Sys2Proof.Laws.NoWord.droopDetect : ∀ x1 x2, Sys2Proof.Laws.NoWord.Statement (Sys2Proof.Instr.droopDetect x1 x2) :=
  fun _ _ => Sys2Proof.Laws.noWord _
theorem Sys2Proof.Laws.NoWord.droopEnd : ∀ x1 x2, Sys2Proof.Laws.NoWord.Statement (Sys2Proof.Instr.droopEnd x1 x2) :=
  fun _ _ => Sys2Proof.Laws.noWord _
theorem Sys2Proof.Laws.NoWord.thermalTrip : Sys2Proof.Laws.NoWord.Statement Sys2Proof.Instr.thermalTrip := Sys2Proof.Laws.noWord _
theorem Sys2Proof.Laws.NoWord.tripPowerOff : ∀ x1, Sys2Proof.Laws.NoWord.Statement (Sys2Proof.Instr.tripPowerOff x1) :=
  fun _ => Sys2Proof.Laws.noWord _
theorem Sys2Proof.Laws.NoWord.stayReduced : ∀ x1, Sys2Proof.Laws.NoWord.Statement (Sys2Proof.Instr.stayReduced x1) :=
  fun _ => Sys2Proof.Laws.noWord _
theorem Sys2Proof.Laws.NoWord.bypass : Sys2Proof.Laws.NoWord.Statement Sys2Proof.Instr.bypass := Sys2Proof.Laws.noWord _
theorem Sys2Proof.Laws.NoWord.idcode : Sys2Proof.Laws.NoWord.Statement Sys2Proof.Instr.idcode := Sys2Proof.Laws.noWord _
theorem Sys2Proof.Laws.NoWord.samplePreload : Sys2Proof.Laws.NoWord.Statement Sys2Proof.Instr.samplePreload := Sys2Proof.Laws.noWord _
theorem Sys2Proof.Laws.NoWord.extest : Sys2Proof.Laws.NoWord.Statement Sys2Proof.Instr.extest := Sys2Proof.Laws.noWord _
theorem Sys2Proof.Laws.NoWord.extestPulse : Sys2Proof.Laws.NoWord.Statement Sys2Proof.Instr.extestPulse := Sys2Proof.Laws.noWord _
theorem Sys2Proof.Laws.NoWord.extestTrain : Sys2Proof.Laws.NoWord.Statement Sys2Proof.Instr.extestTrain := Sys2Proof.Laws.noWord _
theorem Sys2Proof.Laws.NoWord.highz : Sys2Proof.Laws.NoWord.Statement Sys2Proof.Instr.highz := Sys2Proof.Laws.noWord _
theorem Sys2Proof.Laws.NoWord.clamp : Sys2Proof.Laws.NoWord.Statement Sys2Proof.Instr.clamp := Sys2Proof.Laws.noWord _
theorem Sys2Proof.Laws.NoWord.accessErr : ∀ x1 x2 x3 x4, Sys2Proof.Laws.NoWord.Statement (Sys2Proof.Instr.accessErr x1 x2 x3 x4) :=
  fun _ _ _ _ => Sys2Proof.Laws.noWord _
theorem Sys2Proof.Laws.NoWord.offAccess : ∀ x1 x2 x3, Sys2Proof.Laws.NoWord.Statement (Sys2Proof.Instr.offAccess x1 x2 x3) :=
  fun _ _ _ => Sys2Proof.Laws.noWord _
theorem Sys2Proof.Laws.NoWord.registerWrite : ∀ x1 x2 x3, Sys2Proof.Laws.NoWord.Statement (Sys2Proof.Instr.registerWrite x1 x2 x3) :=
  fun _ _ _ => Sys2Proof.Laws.noWord _
theorem Sys2Proof.Laws.NoWord.faultRecord : ∀ x1, Sys2Proof.Laws.NoWord.Statement (Sys2Proof.Instr.faultRecord x1) :=
  fun _ => Sys2Proof.Laws.noWord _
theorem Sys2Proof.Laws.NoWord.coalesceExpiry : ∀ x1, Sys2Proof.Laws.NoWord.Statement (Sys2Proof.Instr.coalesceExpiry x1) :=
  fun _ => Sys2Proof.Laws.noWord _
theorem Sys2Proof.Laws.NoWord.vectorUnmask : ∀ x1, Sys2Proof.Laws.NoWord.Statement (Sys2Proof.Instr.vectorUnmask x1) :=
  fun _ => Sys2Proof.Laws.noWord _
theorem Sys2Proof.Laws.NoWord.evqCtl : ∀ x1 x2, Sys2Proof.Laws.NoWord.Statement (Sys2Proof.Instr.evqCtl x1 x2) :=
  fun _ _ => Sys2Proof.Laws.noWord _
theorem Sys2Proof.Laws.NoWord.evqTail : ∀ x1 x2, Sys2Proof.Laws.NoWord.Statement (Sys2Proof.Instr.evqTail x1 x2) :=
  fun _ _ => Sys2Proof.Laws.noWord _
theorem Sys2Proof.Laws.NoWord.stallLatch : ∀ x1, Sys2Proof.Laws.NoWord.Statement (Sys2Proof.Instr.stallLatch x1) :=
  fun _ => Sys2Proof.Laws.noWord _
theorem Sys2Proof.Laws.NoWord.ethPortDown : ∀ x1, Sys2Proof.Laws.NoWord.Statement (Sys2Proof.Instr.ethPortDown x1) :=
  fun _ => Sys2Proof.Laws.noWord _
theorem Sys2Proof.Laws.NoWord.firmwareUpdate : ∀ x1, Sys2Proof.Laws.NoWord.Statement (Sys2Proof.Instr.firmwareUpdate x1) :=
  fun _ => Sys2Proof.Laws.noWord _
theorem Sys2Proof.Laws.NoWord.alwaysOnPllUnlock : Sys2Proof.Laws.NoWord.Statement Sys2Proof.Instr.alwaysOnPllUnlock := Sys2Proof.Laws.noWord _
theorem Sys2Proof.Laws.NoWord.suspicionReport : ∀ x1 x2 x3 x4 x5, Sys2Proof.Laws.NoWord.Statement (Sys2Proof.Instr.suspicionReport x1 x2 x3 x4 x5) :=
  fun _ _ _ _ _ => Sys2Proof.Laws.noWord _
end

