-- ==== Sys2Proof/Laws/SoundOps.lean ====
section
/-! SUPPORT. Operations of Machine/Ops.lean are sound. -/

namespace Sys2Proof.Machine

set_option Elab.async false

theorem State.emitAcked_sound : ∀ s x1 x2, Sound [.fab, .out] s (State.emitAcked s x1 x2) := by
  intros
  unfold State.emitAcked
  dsimp only
  split
  with_reducible exact Sound.refl _
  with_reducible refine Sound.lit ?_
  with_reducible exact Sound.refl _

theorem State.emitEach_sound : ∀ s x1 x2, Sound [.fab, .out] s (State.emitEach s x1 x2) := by
  intros
  unfold State.emitEach
  with_reducible refine Sound.andFold ?_ (fun a x => ?_)
  with_reducible exact Sound.refl _
  with_reducible refine Sound.andThen ?_ (State.emitAcked_sound ..)
  with_reducible exact Sound.refl _

theorem State.raise1_sound : ∀ s x1, Sound [.evt, .ctl] s (State.raise1 s x1) := by
  intros
  unfold State.raise1
  dsimp only
  split
  with_reducible refine Sound.andThen ?_ (State.updStep_sound ..)
  with_reducible refine Sound.lit ?_
  with_reducible exact Sound.refl _
  with_reducible refine Sound.lit ?_
  with_reducible exact Sound.refl _

theorem State.raiseAll_sound : ∀ s x1, Sound [.evt, .ctl] s (State.raiseAll s x1) := by
  intros
  unfold State.raiseAll
  with_reducible refine Sound.andFold ?_ (fun a x => ?_)
  with_reducible exact Sound.refl _
  with_reducible refine Sound.andThen ?_ (State.raise1_sound ..)
  with_reducible exact Sound.refl _

theorem State.raise_sound : ∀ s x1 x2 x3 x4 x5 x6, Sound [.evt, .ctl] s (State.raise s x1 x2 x3 x4 x5 x6) := by
  intros
  unfold State.raise
  with_reducible refine Sound.andThen ?_ (State.raise1_sound ..)
  with_reducible exact Sound.refl _

theorem State.raiseDev_sound : ∀ s x1 x2 x3 x4, Sound [.evt, .ctl] s (State.raiseDev s x1 x2 x3 x4) := by
  intros
  unfold State.raiseDev
  with_reducible refine Sound.andThen ?_ (State.raise1_sound ..)
  with_reducible exact Sound.refl _

theorem State.weirStall_sound : ∀ s x1, Sound [.weir] s (State.weirStall s x1) := by
  intros
  unfold State.weirStall
  split
  with_reducible exact Sound.refl _
  with_reducible refine Sound.andThen ?_ (State.updWeir_sound ..)
  with_reducible exact Sound.refl _

end Sys2Proof.Machine
end

