-- ==== Sys2Proof/Laws/SoundFlags.lean ====
section
/-! SUPPORT. Operations of Machine/Flags.lean are sound. -/

namespace Sys2Proof.Machine

set_option Elab.async false

theorem State.markFlags_sound : ∀ s x1 x2, Sound [.ctl] s (State.markFlags s x1 x2) := by
  intros
  unfold State.markFlags
  split
  with_reducible refine Sound.andThen ?_ (State.updStep_sound ..)
  with_reducible exact Sound.refl _
  with_reducible exact Sound.refl _

theorem State.coreEv_sound : ∀ s x1 x2 x3, Sound [.ctl, .cores] s (State.coreEv s x1 x2 x3) := by
  intros
  unfold State.coreEv
  with_reducible refine Sound.andThen ?_ (State.markFlags_sound ..)
  with_reducible refine Sound.andThen ?_ (State.updCore_sound (fun k hk => ?_) _ _)
  with_reducible exact Sound.refl _
  exact hk

theorem State.quernEv_sound : ∀ s x1 x2 x3, Sound [.ctl, .querns] s (State.quernEv s x1 x2 x3) := by
  intros
  unfold State.quernEv
  with_reducible refine Sound.andThen ?_ (State.markFlags_sound ..)
  with_reducible refine Sound.andThen ?_ (State.updQuern_sound ..)
  with_reducible exact Sound.refl _

theorem State.weirEv_sound : ∀ s x1 x2, Sound [.ctl, .weir] s (State.weirEv s x1 x2) := by
  intros
  unfold State.weirEv
  with_reducible refine Sound.andThen ?_ (State.markFlags_sound ..)
  with_reducible refine Sound.andThen ?_ (State.updWeir_sound ..)
  with_reducible exact Sound.refl _

end Sys2Proof.Machine
end

