-- ==== Sys2Proof/Laws/SoundRecords.lean ====
section
/-! SUPPORT. Operations of Machine/Records.lean are sound. -/

namespace Sys2Proof.Machine

set_option Elab.async false

theorem State.emitRec_sound : ∀ s x1 x2 x3 x4 x5 x6 x7, Sound [.fab, .out] s (State.emitRec s x1 x2 x3 x4 x5 x6 x7) := by
  intros
  unfold State.emitRec
  dsimp only
  split
  with_reducible refine Sound.andThen ?_ (State.emit_sound ..)
  with_reducible exact Sound.refl _
  with_reducible refine Sound.lit ?_
  with_reducible refine Sound.andThen ?_ (State.emit_sound ..)
  with_reducible exact Sound.refl _

theorem State.sendLkpReq_sound : ∀ s x1 x2, Sound [.fab, .out] s (State.sendLkpReq s x1 x2) := by
  intros
  unfold State.sendLkpReq
  with_reducible refine Sound.andThen ?_ (State.emitRec_sound ..)
  with_reducible exact Sound.refl _

theorem State.sendLkpRsp_sound : ∀ s x1 x2 x3 x4, Sound [.fab, .out] s (State.sendLkpRsp s x1 x2 x3 x4) := by
  intros
  unfold State.sendLkpRsp
  with_reducible refine Sound.andThen ?_ (State.emitRec_sound ..)
  with_reducible exact Sound.refl _

theorem State.sendGrist_sound : ∀ s x1 x2, Sound [.fab, .out] s (State.sendGrist s x1 x2) := by
  intros
  unfold State.sendGrist
  with_reducible refine Sound.andThen ?_ (State.emitRec_sound ..)
  with_reducible exact Sound.refl _

theorem State.dropRecords_sound : ∀ s x1, Sound [.fab] s (State.dropRecords s x1) := by
  intros
  unfold State.dropRecords
  dsimp only
  with_reducible refine Sound.lit ?_
  with_reducible exact Sound.refl _

theorem State.joinRecords_sound : ∀ s x1, Sound [.fab] s (State.joinRecords s x1) := by
  intros
  unfold State.joinRecords
  dsimp only
  split
  split
  with_reducible refine Sound.lit ?_
  with_reducible exact Sound.refl _
  with_reducible refine Sound.lit ?_
  with_reducible exact Sound.refl _
  with_reducible exact Sound.refl _

end Sys2Proof.Machine
end

