-- ==== Sys2Proof/Laws/SoundTiers.lean ====
section
/-! SUPPORT. Operations of Machine/Tiers.lean are sound. -/

namespace Sys2Proof.Machine

set_option Elab.async false

@[simp] theorem State.updPage_mem (s : State) (p : Nat) (f : Page → Page) : (s.updPage p f).tier.mem = s.tier.mem := by
  unfold State.updPage; split <;> rfl

theorem State.updPage_sound : ∀ s x1 x2, Sound [.tier] s (State.updPage s x1 x2) := by
  intros
  unfold State.updPage
  split
  with_reducible refine Sound.andThen ?_ (State.updTier_sound fun hk => ?_)
  with_reducible exact Sound.refl _
  exact hk
  with_reducible exact Sound.refl _

theorem State.countMoving_sound : ∀ s, Sound [.tier] s (State.countMoving s) := by
  intros
  unfold State.countMoving
  with_reducible refine Sound.andThen ?_ (State.updTier_sound fun hk => ?_)
  with_reducible exact Sound.refl _
  exact hk

theorem State.rangeWrite_sound : ∀ s x1 x2 x3, Sound [.fresh, .tier] s (State.rangeWrite s x1 x2 x3) := by
  intros
  unfold State.rangeWrite
  dsimp only
  split
  with_reducible refine Sound.andThen ?_ (State.updTier_sound fun hk => ?_)
  with_reducible exact Sound.refl _
  exact memWrite_wf _ _ hk
  split
  with_reducible refine Sound.andThen ?_ (State.updTier_sound fun hk => ?_)
  with_reducible exact Sound.refl _
  exact memWrite_wf _ _ hk
  with_reducible refine Sound.andThen ?_ (State.updTier_sound fun hk => ?_)
  with_reducible refine Sound.andThen ?_ (State.tick_sound ..)
  with_reducible refine Sound.andThen ?_ (State.updTier_sound fun hk => ?_)
  with_reducible exact Sound.refl _
  exact memWrite_wf _ _ hk
  exact hk

theorem State.translate_sound : ∀ s x1 x2, Sound [.tier] s (State.translate s x1 x2) := by
  intros
  unfold State.translate
  dsimp only
  split
  · exact ((State.updTier_sound (fun hk => hk)).trans (State.updPage_sound ..)).up
  · exact State.updTier_sound fun hk => hk

theorem State.serveAsk_sound : ∀ {s x1 t}, State.serveAsk s x1 = some t → Sound [.fresh, .tier, .out] s t := by
  intro s a t h
  unfold State.serveAsk at h
  dsimp only at h
  split at h
  · cases h
  · split at h
    · cases h
    · split at h
      · cases h
        exact ((State.translate_sound ..).trans (State.emit_sound ..)).up
      · split at h
        · cases h
        · cases h
          exact (((State.translate_sound ..).trans (State.rangeWrite_sound ..)).trans (State.emit_sound ..)).up

theorem State.serveList_sound (s : State) (done l : List RemoteAsk) : Sound [.fresh, .tier, .out] s (State.serveList s done l) := by
  induction l generalizing s done with
  | nil => exact (State.updTier_sound fun hk => hk).up
  | cons a l ih =>
    unfold State.serveList
    split
    · exact ih ..
    · split
      · rename_i t h
        exact (State.serveAsk_sound h).both (ih ..)
      · exact ih ..

theorem State.serveAsks_sound (s : State) : Sound [.fresh, .tier, .out] s (State.serveAsks s) := State.serveList_sound ..

theorem State.beginMove_sound : ∀ s x1 x2 x3 x4, Sound [.tier] s (State.beginMove s x1 x2 x3 x4) := by
  intros
  unfold State.beginMove
  with_reducible refine Sound.andThen ?_ (State.updTier_sound fun hk => ?_)
  with_reducible refine Sound.andThen ?_ (State.updPage_sound ..)
  with_reducible exact Sound.refl _
  exact hk

theorem State.startMove_sound {s t : State} (h : s.startMove = some t) : Sound [.tier] s t := by
  unfold State.startMove at h
  repeat' split at h
  all_goals simp only [Option.some.injEq, Option.map_eq_some_iff, reduceCtorEq] at h
  · subst h; exact (State.beginMove_sound ..).up
  · obtain ⟨l, -, rfl⟩ := h; exact (State.beginMove_sound ..).up

theorem State.startMoves_sound (n : Nat) (s : State) : Sound [.tier] s (State.startMoves n s) := by
  induction n generalizing s with
  | zero => exact Sound.refl s
  | succ n ih =>
    unfold State.startMoves
    split
    · rename_i t h; exact ((State.startMove_sound h).trans (ih t)).up
    · exact Sound.refl s

theorem execPageMoveStart_sound : ∀ s, SoundOut [.tier] s (execPageMoveStart s) := by
  intros
  unfold execPageMoveStart
  with_reducible refine SoundOut.next ?_
  split
  with_reducible exact Sound.refl _
  with_reducible refine Sound.andThen ?_ (State.startMoves_sound ..)
  with_reducible exact Sound.refl _

theorem execHeatDecay_sound : ∀ s, SoundOut [.tier] s (execHeatDecay s) := by
  intros
  unfold execHeatDecay
  with_reducible refine SoundOut.next ?_
  with_reducible refine Sound.andThen ?_ (State.updTier_sound fun hk => ?_)
  with_reducible exact Sound.refl _
  exact hk

theorem execMigrationPassEnd_sound : ∀ x0 s, SoundOut [.tier] s (execMigrationPassEnd x0 s) := by
  intros
  unfold execMigrationPassEnd
  with_reducible refine SoundOut.next ?_
  dsimp only
  split
  with_reducible exact Sound.refl _
  split
  with_reducible exact Sound.refl _
  with_reducible refine Sound.andThen ?_ (State.updTier_sound fun hk => ?_)
  with_reducible exact Sound.refl _
  exact hk

theorem State.redirect_sound : ∀ s x1 x2, Sound [.cores] s (State.redirect s x1 x2) := by
  intros
  unfold State.redirect
  dsimp only
  with_reducible refine Sound.litCores ?_ (fun k hk => ?_)
  with_reducible exact Sound.refl _
  exact hk

theorem execPageFlip_sound : ∀ x0 s, SoundOut [.fresh, .cores, .tier, .out] s (execPageFlip x0 s) := by
  intros
  unfold execPageFlip
  refine .next ?_
  split
  · exact Sound.refl _
  · split
    · exact Sound.refl _
    · dsimp only
      refine Sound.andThen (Sound.andThen (Sound.andThen ?_ (State.updTier_sound fun hk => ?_)) (State.redirect_sound ..)) (State.serveAsks_sound ..)
      · exact ((State.tick_sound ..).trans (State.updPage_sound ..)).up
      · exact copyFrame_wf _ _ hk

theorem execSourceFrameFree_sound : ∀ x0 s, SoundOut [.tier] s (execSourceFrameFree x0 s) := by
  intros
  unfold execSourceFrameFree
  with_reducible refine SoundOut.next ?_
  split
  with_reducible exact Sound.refl _
  split
  with_reducible refine Sound.andThen ?_ (State.updTier_sound fun hk => ?_)
  with_reducible exact Sound.refl _
  exact cellsOut_wf _ _ hk
  with_reducible exact Sound.refl _

theorem State.abandonMove_sound : ∀ s x1 x2, Sound [.tier] s (State.abandonMove s x1 x2) := by
  intros
  unfold State.abandonMove
  with_reducible refine Sound.andThen ?_ (State.updTier_sound fun hk => ?_)
  with_reducible refine Sound.andThen ?_ (State.updPage_sound ..)
  with_reducible exact Sound.refl _
  exact hk

theorem State.abandonMoves_sound : ∀ s x1, Sound [.tier] s (State.abandonMoves s x1) := by
  intros
  unfold State.abandonMoves
  with_reducible refine Sound.andFold ?_ (fun a x => ?_)
  with_reducible exact Sound.refl _
  with_reducible refine Sound.andThen ?_ (State.abandonMove_sound ..)
  with_reducible exact Sound.refl _

theorem execAccessLate_sound : ∀ x0 x1 x2 s, SoundOut [.tier] s (execAccessLate x0 x1 x2 s) := by
  intros
  unfold execAccessLate
  with_reducible refine SoundOut.next ?_
  with_reducible refine Sound.andThen ?_ (State.updTier_sound fun hk => ?_)
  with_reducible exact Sound.refl _
  split
  exact hk
  exact hk
  exact hk
  exact hk

end Sys2Proof.Machine
end

