-- ==== Sys2Proof/Laws/SoundCoreOps.lean ====
section
/-! SUPPORT. Operations of Machine/CoreOps.lean are sound. -/

namespace Sys2Proof.Machine

set_option Elab.async false

theorem State.takeBlocks_sound : ∀ {s x1 x2 x3 x4 t}, State.takeBlocks s x1 x2 x3 x4 = some t → Sound [.cores] s t := by
  intro s c st n x t h
  unfold State.takeBlocks at h
  split at h
  · cases h
  · cases h; refine State.updCore_sound (fun k hk => ?_) _ _; exact hk

theorem State.lbWrite_sound : ∀ s x1 x2 x3 x4, Sound [.cores] s (State.lbWrite s x1 x2 x3 x4) := by
  intros
  unfold State.lbWrite
  with_reducible refine Sound.andThen ?_ (State.updCore_sound (fun k hk => ?_) _ _)
  with_reducible exact Sound.refl _
  exact memWrite_wf _ _ hk

theorem State.pushXfer_sound : ∀ s x1 x2, Sound [.cores] s (State.pushXfer s x1 x2) := by
  intros
  unfold State.pushXfer
  with_reducible refine Sound.andThen ?_ (State.updCore_sound (fun k hk => ?_) _ _)
  with_reducible exact Sound.refl _
  exact hk

theorem State.queueXfer_sound : ∀ s x1 x2, Sound [.cores] s (State.queueXfer s x1 x2) := by
  intros
  unfold State.queueXfer
  dsimp only
  split
  with_reducible refine Sound.andThen ?_ (State.pushXfer_sound ..)
  with_reducible exact Sound.refl _
  with_reducible refine Sound.andThen ?_ (State.updCore_sound (fun k hk => ?_) _ _)
  with_reducible exact Sound.refl _
  exact hk

theorem State.stopAt_sound : ∀ s x1 x2 x3 x4 x5, Sound [.evt, .ctl, .cores] s (State.stopAt s x1 x2 x3 x4 x5) := by
  intros
  unfold State.stopAt
  with_reducible refine Sound.andThen ?_ (State.updCore_sound (fun k hk => ?_) _ _)
  with_reducible refine Sound.andThen ?_ (State.raise_sound ..)
  with_reducible exact Sound.refl _
  simpa using hk

theorem State.addHeld_sound : ∀ s x1 x2 x3 x4, Sound [.cores] s (State.addHeld s x1 x2 x3 x4) := by
  intros
  unfold State.addHeld
  with_reducible refine Sound.andThen ?_ (State.updCore_sound (fun k hk => ?_) _ _)
  with_reducible exact Sound.refl _
  exact hk

theorem State.usePool_sound : ∀ x0 s x2, Sound [.cores] s (State.usePool x0 s x2) := by
  intros
  unfold State.usePool
  with_reducible refine Sound.andThen ?_ (State.addHeld_sound ..)
  with_reducible refine Sound.andThen ?_ (State.updCore_sound (fun k hk => ?_) _ _)
  with_reducible exact Sound.refl _
  exact hk

theorem State.sendPiece_sound : ∀ s x1 x2 x3, Sound [.cores] s (State.sendPiece s x1 x2 x3) := by
  intros
  exact State.queueXfer_sound ..

theorem State.drainQueue_sound : ∀ x0 x1 x2 s, Sound [.cores] s (State.drainQueue x0 x1 x2 s) := by
  intro c st n
  induction n with
  | zero => intro s; exact Sound.refl _
  | succ n ih =>
    intro s
    unfold State.drainQueue
    split
    · exact Sound.refl _
    · split
      · exact Sound.refl _
      · refine Sound.both ?_ (ih _)
        refine Sound.andThen ?_ (State.sendPiece_sound ..)
        refine State.updCore_sound (fun k hk => ?_) _ _; exact hk

theorem State.fetchSpan_sound : ∀ s x1 x2 x3 x4 x5, Sound [.evt, .ctl, .cores] s (State.fetchSpan s x1 x2 x3 x4 x5) := by
  intros
  unfold State.fetchSpan
  dsimp only
  split
  · exact (State.stopAt_sound ..).up
  · refine Sound.andThen ?_ (State.drainQueue_sound ..)
    refine Sound.andThen ?_ (State.updCore_sound (fun k hk => ?_) _ _)
    rotate_left; exact hk
    split
    · exact Sound.andFold (Sound.refl _) (fun a x => (State.usePool_sound ..).up)
    · refine Sound.andThen ?_ (State.addHeld_sound ..)
      exact Sound.andFold (Sound.refl _) (fun a x => (State.usePool_sound ..).up)

theorem State.writeBack_sound : ∀ s x1 x2 x3 x4 x5 x6, Sound [.evt, .ctl, .cores] s (State.writeBack s x1 x2 x3 x4 x5 x6) := by
  intros
  unfold State.writeBack
  dsimp only
  with_reducible refine Sound.andThen ?_ (State.updCore_sound (fun k hk => ?_) _ _)
  rotate_left; exact hk
  refine Sound.andFold1 (Sound.refl _) (fun a x => ?_)
  split
  · exact Sound.refl _
  · split
    · exact (State.stopAt_sound ..).up
    · refine Sound.andThen ?_ (State.queueXfer_sound ..)
      refine Sound.up (State.updCore_sound (fun k hk => ?_) _ _); exact hk

theorem State.handOver_sound : ∀ s x1 x2 x3 x4 x5 x6, Sound [.cores] s (State.handOver s x1 x2 x3 x4 x5 x6) := by
  intros
  unfold State.handOver
  with_reducible refine Sound.andThen ?_ (State.updCore_sound (fun k hk => ?_) _ _)
  with_reducible exact Sound.refl _
  exact hk

theorem State.millReserve_sound : ∀ s x1 x2 x3, Sound [.evt, .ctl, .cores] s (State.millReserve s x1 x2 x3) := by
  intros
  unfold State.millReserve
  dsimp only
  split
  with_reducible refine Sound.andThen ?_ (State.raise_sound ..)
  with_reducible refine Sound.andThen ?_ (State.updCore_sound (fun k hk => ?_) _ _)
  with_reducible exact Sound.refl _
  exact hk
  with_reducible refine Sound.andThen ?_ (State.updCore_sound (fun k hk => ?_) _ _)
  with_reducible exact Sound.refl _
  exact hk

theorem State.placeSpill_sound : ∀ s x1 x2 x3 x4, Sound [.cores] s (State.placeSpill s x1 x2 x3 x4) := by
  intros
  unfold State.placeSpill
  dsimp only
  split
  with_reducible exact Sound.refl _
  with_reducible refine Sound.andThen ?_ (State.updCore_sound (fun k hk => ?_) _ _)
  with_reducible exact Sound.refl _
  exact hk

theorem State.pushSpill_sound : ∀ s x1 x2 x3 x4 x5, Sound [.cores] s (State.pushSpill s x1 x2 x3 x4 x5) := by
  intros
  unfold State.pushSpill
  exact Sound.andThen (State.placeSpill_sound ..) (State.pushXfer_sound ..)

theorem State.placeBlock_sound : ∀ s x1 x2 x3 x4 x5, Sound [.cores] s (State.placeBlock s x1 x2 x3 x4 x5).1 := by
  intros
  unfold State.placeBlock
  dsimp only
  split
  · dsimp only; refine Sound.up (State.updCore_sound (fun k hk => ?_) _ _); exact hk
  · split
    · exact Sound.refl _
    · split
      · dsimp only
        with_reducible refine Sound.andThen ?_ (State.pushSpill_sound ..)
        refine State.updCore_sound (fun k hk => ?_) _ _; exact hk
      · split
        · exact Sound.refl _
        · dsimp only
          with_reducible refine Sound.andThen ?_ (State.pushSpill_sound ..)
          refine State.updCore_sound (fun k hk => ?_) _ _; exact hk

theorem State.placeBlocks_sound (c : CoreId) (cmd : Cmd) (slot i fuel b : Nat) (s : State) :
    Sound [.cores] s (s.placeBlocks c cmd slot i fuel b).1 := by
  induction fuel generalizing s b with
  | zero => exact Sound.refl s
  | succ n ih =>
    unfold State.placeBlocks
    dsimp only
    split
    · exact ((State.placeBlock_sound ..).trans (ih _ _)).up
    · exact (State.placeBlock_sound ..).up

theorem State.stashWrite_sound : ∀ s x1 x2 x3, Sound [.evt, .ctl, .cores] s (State.stashWrite s x1 x2 x3).1 := by
  intro s c cmd b
  unfold State.stashWrite
  extract_lets n id e r total fit p last t t1
  have hp : Sound [.evt, .ctl, .cores] s p.1 := (State.placeBlocks_sound ..).up
  split
  · exact hp
  · have ht : Sound [.evt, .ctl, .cores] s t := by
      refine hp.andThen (State.updCore_sound (fun k hk => ?_) _ _); exact hk
    have h1 : Sound [.evt, .ctl, .cores] s t1 := by
      dsimp only [t1]; split
      · exact ht.andThen (State.pushSpill_sound ..)
      · exact ht
    dsimp only
    split
    · exact h1.andThen (State.raise_sound ..)
    · exact h1

theorem State.payStash_sound : ∀ x0 x1 s, Sound [.evt, .ctl, .cores] s (State.payStash x0 x1 s) := by
  intro c n
  induction n with
  | zero => intro s; exact Sound.refl _
  | succ n ih =>
    intro s
    unfold State.payStash
    split
    · exact Sound.refl _
    · dsimp only
      split
      · exact State.stashWrite_sound ..
      · refine Sound.both ?_ (ih _)
        with_reducible refine Sound.andThen ?_ (State.updCore_sound (fun k hk => ?_) _ _)
        · exact State.stashWrite_sound ..
        · exact hk

theorem State.oweStash_sound : ∀ s x1 x2 x3 x4, Sound [.evt, .ctl, .cores] s (State.oweStash s x1 x2 x3 x4) := by
  intros
  unfold State.oweStash
  dsimp only
  with_reducible refine Sound.andThen ?_ (State.payStash_sound ..)
  refine Sound.up (State.updCore_sound (fun k hk => ?_) _ _); exact hk

theorem State.putRows_sound : ∀ s x1 x2 x3 x4 x5 x6, Sound [.evt, .ctl, .cores] s (State.putRows s x1 x2 x3 x4 x5 x6) := by
  intros
  unfold State.putRows
  dsimp only
  have ht : ∀ (s : State) a b d, Sound [.evt, .ctl, .cores] s (s.coreEv a b d) := fun s a b d => (State.coreEv_sound ..).up
  split
  · with_reducible refine Sound.andThen ?_ (State.lbWrite_sound ..)
    with_reducible refine Sound.andThen (ht ..) (State.updCore_sound (fun k hk => ?_) _ _)
    exact hk
  · exact Sound.andThen (ht ..) (State.writeBack_sound ..)
  · exact Sound.andThen (ht ..) (State.oweStash_sound ..)
  · with_reducible refine Sound.andThen (ht ..) (State.updCore_sound (fun k hk => ?_) _ _)
    exact hk

theorem State.stageRows_sound : ∀ s x1 x2 x3 x4 x5 x6 x7, Sound [.evt, .ctl, .cores] s (State.stageRows s x1 x2 x3 x4 x5 x6 x7) := by
  intros
  unfold State.stageRows
  with_reducible refine Sound.andThen ?_ (State.updCore_sound (fun k hk => ?_) _ _)
  split
  with_reducible refine Sound.andThen ?_ (State.handOver_sound ..)
  with_reducible exact Sound.refl _
  with_reducible refine Sound.andThen ?_ (State.putRows_sound ..)
  with_reducible exact Sound.refl _
  simpa using hk

theorem State.stageResult_sound : ∀ s x1 x2 x3 x4 x5, Sound [.evt, .ctl, .cores] s (State.stageResult s x1 x2 x3 x4 x5) := by
  intros
  unfold State.stageResult
  with_reducible refine Sound.andThen ?_ (State.stageRows_sound ..)
  with_reducible exact Sound.refl _

theorem State.unitDone_sound : ∀ s x1 x2 x3, Sound [.cores] s (State.unitDone s x1 x2 x3) := by
  intros
  refine State.updCore_sound (fun k hk => ?_) _ _
  exact hk

theorem State.cancelAll_sound : ∀ s x1, Sound [.cores] s (State.cancelAll s x1) := by
  intros
  unfold State.cancelAll
  with_reducible refine Sound.litCores ?_ (fun k hk => ?_)
  with_reducible exact Sound.refl _
  exact hk

end Sys2Proof.Machine
end

