-- ==== Sys2Proof/Laws/SoundWeir.lean ====
section
/-! SUPPORT. Operations of Machine/Weir.lean are sound. -/

namespace Sys2Proof.Machine

set_option Elab.async false

theorem State.updTile_sound : ∀ s x1 x2 x3, Sound [.weir] s (State.updTile s x1 x2 x3) := by
  intros
  unfold State.updTile
  with_reducible refine Sound.andThen ?_ (State.updWeir_sound ..)
  with_reducible exact Sound.refl _

theorem State.weirFault_sound : ∀ s x1 x2 x3 x4 x5 x6 x7, Sound [.evt, .ctl, .weir] s (State.weirFault s x1 x2 x3 x4 x5 x6 x7) := by
  intros
  unfold State.weirFault
  with_reducible refine Sound.andThen ?_ (State.raise_sound ..)
  with_reducible refine Sound.andThen ?_ (State.updWeir_sound ..)
  with_reducible exact Sound.refl _

theorem State.weirReject_sound : ∀ s x1 x2 x3 x4 x5 x6, Sound [.evt, .ctl, .weir] s (State.weirReject s x1 x2 x3 x4 x5 x6) := by
  intros
  unfold State.weirReject
  with_reducible refine Sound.andThen ?_ (State.weirFault_sound ..)
  with_reducible refine Sound.andThen ?_ (State.updWeir_sound ..)
  with_reducible exact Sound.refl _

theorem State.sendNode_sound : ∀ s x1 x2 x3, Sound [.out] s (State.sendNode s x1 x2 x3) := by
  intros
  unfold State.sendNode
  with_reducible refine Sound.andThen ?_ (State.emit_sound ..)
  with_reducible exact Sound.refl _

theorem State.placeNode_sound (fuel : Nat) (s : State) (k : NodeKey) (v : List F32) : Sound [.ctl, .weir, .out] s (State.placeNode fuel s k v) := by
  induction fuel generalizing s k v with
  | zero => exact Sound.refl s
  | succ n ih =>
    unfold State.placeNode
    dsimp only
    repeat' split
    all_goals first
      | exact (State.sendNode_sound ..).up
      | exact (State.updWeir_sound ..).up
      | exact (((State.updWeir_sound ..).trans (State.weirEv_sound ..)).trans (ih _ _ _)).up
      | exact ih _ _ _

theorem State.refreshRed_sound : ∀ s, Sound [.weir] s (State.refreshRed s) := by
  intros
  unfold State.refreshRed
  with_reducible refine Sound.andThen ?_ (State.updWeir_sound ..)
  with_reducible exact Sound.refl _

theorem State.acceptNode_sound : ∀ s x1 x2 x3 x4 x5 x6, Sound [.evt, .ctl, .weir, .out] s (State.acceptNode s x1 x2 x3 x4 x5 x6) := by
  intros
  unfold State.acceptNode
  dsimp only
  split
  with_reducible exact Sound.refl _
  split
  with_reducible refine Sound.andThen ?_ (State.weirReject_sound ..)
  with_reducible exact Sound.refl _
  with_reducible refine Sound.andThen ?_ (State.refreshRed_sound ..)
  with_reducible refine Sound.andThen ?_ (State.placeNode_sound ..)
  with_reducible refine Sound.andThen ?_ (State.updWeir_sound ..)
  with_reducible exact Sound.refl _

theorem State.unstage_sound : ∀ s x1, Sound [.cores] s (State.unstage s x1) := by
  intros
  unfold State.unstage
  dsimp only
  with_reducible refine Sound.litCores ?_ (fun k hk => ?_)
  with_reducible exact Sound.refl _
  exact hk

theorem execSliceArrive_sound : ∀ x0 s, SoundOut [.evt, .ctl, .weir, .cores, .out] s (execSliceArrive x0 s) := by
  intros
  unfold execSliceArrive
  dsimp only
  split
  with_reducible refine SoundOut.next ?_
  with_reducible exact Sound.refl _
  split
  with_reducible refine SoundOut.next ?_
  split
  with_reducible refine Sound.andThen ?_ (State.weirReject_sound ..)
  with_reducible refine Sound.andThen ?_ (State.emit_sound ..)
  with_reducible refine Sound.andThen ?_ (State.updWeir_sound ..)
  with_reducible exact Sound.refl _
  with_reducible refine Sound.andThen ?_ (State.emit_sound ..)
  with_reducible refine Sound.andThen ?_ (State.updWeir_sound ..)
  with_reducible exact Sound.refl _
  with_reducible refine SoundOut.next ?_
  with_reducible refine Sound.andThen ?_ (State.acceptNode_sound ..)
  with_reducible refine Sound.andThen ?_ (State.updWeir_sound ..)
  with_reducible refine Sound.andThen ?_ (State.unstage_sound ..)
  with_reducible exact Sound.refl _

theorem execSliceResend_sound : ∀ x0 x1 x2 x3 x4 x5 x6 s, SoundOut [.out] s (execSliceResend x0 x1 x2 x3 x4 x5 x6 s) := by
  intros
  unfold execSliceResend
  split
  with_reducible refine SoundOut.next ?_
  with_reducible refine Sound.andThen ?_ (State.emit_sound ..)
  with_reducible exact Sound.refl _
  with_reducible refine SoundOut.next ?_
  with_reducible exact Sound.refl _

theorem execRedNode_sound : ∀ x0 s, SoundOut [.evt, .ctl, .weir, .out] s (execRedNode x0 s) := by
  intros
  unfold execRedNode
  dsimp only
  split
  with_reducible refine SoundOut.next ?_
  with_reducible exact Sound.refl _
  split
  with_reducible refine SoundOut.next ?_
  with_reducible exact Sound.refl _
  with_reducible refine SoundOut.next ?_
  with_reducible refine Sound.andThen ?_ (State.acceptNode_sound ..)
  with_reducible exact Sound.refl _

theorem State.retain_sound : ∀ s x1 x2 x3 x4, Sound [.weir] s (State.retain s x1 x2 x3 x4) := by
  intros
  unfold State.retain
  with_reducible refine Sound.andThen ?_ (State.updWeir_sound ..)
  with_reducible exact Sound.refl _

theorem execRootRetain_sound : ∀ x0 x1 x2 x3 s, SoundOut [.weir, .fab, .out] s (execRootRetain x0 x1 x2 x3 s) := by
  intros
  unfold execRootRetain
  dsimp only
  split
  with_reducible refine SoundOut.next ?_
  with_reducible exact Sound.refl _
  split
  with_reducible refine SoundOut.next ?_
  with_reducible refine Sound.andThen ?_ (State.emitAcked_sound ..)
  with_reducible refine Sound.andThen ?_ (State.retain_sound ..)
  with_reducible exact Sound.refl _
  with_reducible refine SoundOut.next ?_
  with_reducible refine Sound.andThen ?_ (State.weirStall_sound ..)
  with_reducible exact Sound.refl _

theorem execRetRoot_sound : ∀ x0 s, SoundOut [.evt, .ctl, .weir, .out] s (execRetRoot x0 s) := by
  intros
  unfold execRetRoot
  dsimp only
  split
  with_reducible refine SoundOut.next ?_
  with_reducible exact Sound.refl _
  split
  with_reducible refine SoundOut.next ?_
  with_reducible refine Sound.andThen ?_ (State.weirReject_sound ..)
  with_reducible exact Sound.refl _
  split
  with_reducible refine SoundOut.next ?_
  with_reducible refine Sound.andThen ?_ (State.emit_sound ..)
  with_reducible refine Sound.andThen ?_ (State.retain_sound ..)
  with_reducible exact Sound.refl _
  with_reducible refine SoundOut.next ?_
  with_reducible refine Sound.andThen ?_ (State.weirStall_sound ..)
  with_reducible exact Sound.refl _

theorem State.noteMax_sound : ∀ s x1 x2 x3 x4, Sound [.weir] s (State.noteMax s x1 x2 x3 x4) := by
  intros
  unfold State.noteMax
  split
  with_reducible exact Sound.refl _
  split
  with_reducible exact Sound.refl _
  with_reducible refine Sound.andThen ?_ (State.updWeir_sound ..)
  with_reducible exact Sound.refl _

theorem execCandidateForm_sound (a b c d : Nat) (s : State) : SoundOut [.ctl, .weir] s (execCandidateForm a b c d s) := by
  unfold execCandidateForm
  extract_lets tau
  split
  · exact SoundOut.next (Sound.refl s)
  · split
    · exact SoundOut.next (Sound.refl s)
    · extract_lets
      refine SoundOut.next ?_
      with_reducible refine Sound.andThen ?_ (State.markFlags_sound ..)
      with_reducible refine Sound.andThen ?_ (State.noteMax_sound ..)
      with_reducible refine Sound.andThen ?_ (State.weirEv_sound ..)
      with_reducible refine Sound.andThen ?_ (State.updTile_sound ..)
      exact (State.updWeir_sound ..).up

theorem State.promote_sound : ∀ s x1, Sound [.weir] s (State.promote s x1) := by
  intros
  unfold State.promote
  with_reducible refine Sound.andThen ?_ (State.updWeir_sound ..)
  with_reducible exact Sound.refl _

theorem State.dropCands_sound : ∀ s x1, Sound [.weir] s (State.dropCands s x1) := by
  intros
  unfold State.dropCands
  with_reducible refine Sound.andThen ?_ (State.updWeir_sound ..)
  with_reducible exact Sound.refl _

theorem State.gatherWeights_sound : ∀ s x1 x2 x3 x4, Sound [.weir, .out] s (State.gatherWeights s x1 x2 x3 x4) := by
  intros
  unfold State.gatherWeights
  dsimp only
  split
  with_reducible exact Sound.refl _
  split
  with_reducible refine Sound.andThen ?_ (State.emit_sound ..)
  with_reducible refine Sound.andThen ?_ (State.updWeir_sound ..)
  with_reducible exact Sound.refl _
  with_reducible refine Sound.andThen ?_ (State.updWeir_sound ..)
  with_reducible exact Sound.refl _

end Sys2Proof.Machine
end

