-- ==== Sys2Proof/Laws/SoundRing.lean ====
section
/-! SUPPORT. Operations of Machine/Ring.lean are sound. -/

namespace Sys2Proof.Machine

set_option Elab.async false

theorem State.beginArrival_sound : ∀ s x1 x2, Sound [.weir] s (State.beginArrival s x1 x2) := by
  intros
  unfold State.beginArrival
  dsimp only
  split
  with_reducible exact Sound.refl _
  split
  with_reducible refine Sound.andThen ?_ (State.updWeir_sound ..)
  with_reducible exact Sound.refl _
  with_reducible refine Sound.andThen ?_ (State.updWeir_sound ..)
  with_reducible exact Sound.refl _

theorem State.freeRing_sound : ∀ s, Sound [.weir] s (State.freeRing s) := by
  intros
  unfold State.freeRing
  with_reducible refine Sound.andThen ?_ (State.updWeir_sound ..)
  with_reducible exact Sound.refl _

theorem State.tryInstall_sound : ∀ s, Sound [.weir] s (State.tryInstall s) := by
  intros
  unfold State.tryInstall
  dsimp only
  split
  split
  with_reducible refine Sound.andThen ?_ (State.freeRing_sound ..)
  with_reducible refine Sound.andThen ?_ (State.updWeir_sound ..)
  with_reducible refine Sound.andThen ?_ (State.updWeir_sound ..)
  with_reducible exact Sound.refl _
  with_reducible refine Sound.andThen ?_ (State.updWeir_sound ..)
  with_reducible exact Sound.refl _
  with_reducible refine Sound.andThen ?_ (State.updWeir_sound ..)
  with_reducible exact Sound.refl _

theorem State.takeTag_sound : ∀ s, Sound [.fab] s (State.takeTag s).2 := by
  intros
  unfold State.takeTag
  with_reducible refine Sound.andThen ?_ (State.updFab_sound ..)
  with_reducible exact Sound.refl _

theorem State.storeTile_sound : ∀ s x1, Sound [.weir] s (State.storeTile s x1) := by
  intros
  unfold State.storeTile
  dsimp only
  split
  with_reducible exact Sound.refl _
  with_reducible refine Sound.andThen ?_ (State.updWeir_sound ..)
  with_reducible exact Sound.refl _

theorem State.sendTile_sound : ∀ s x1 x2 x3 x4, Sound [.ctl, .weir, .fab, .out] s (State.sendTile s x1 x2 x3 x4) := by
  intro s n t tau master
  unfold State.sendTile
  extract_lets g x grp owe keep u v
  have hv : Sound [.ctl, .weir, .fab, .out] s v := by
    dsimp only [v, u]
    with_reducible refine Sound.andThen ?_ (State.emit_sound ..)
    with_reducible refine Sound.andThen ?_ (State.updFab_sound ..)
    with_reducible refine Sound.andThen ?_ (State.updWeir_sound ..)
    with_reducible refine Sound.andThen ?_ (State.weirEv_sound ..)
    exact (State.takeTag_sound ..).up
  split
  · exact hv.andThen (State.storeTile_sound ..)
  · exact hv

theorem State.convertVersion_sound : ∀ s x1, Sound [.ctl, .weir, .fab, .out] s (State.convertVersion s x1) := by
  intros
  exact Sound.andFold (Sound.refl _) (fun a x => State.sendTile_sound ..)

theorem State.repair_sound : ∀ s x1 x2 x3 x4, Sound [.ctl] s (State.repair s x1 x2 x3 x4) := by
  intros
  unfold State.repair
  with_reducible refine Sound.andThen ?_ (State.updStep_sound ..)
  with_reducible exact Sound.refl _

theorem State.updDigest_sound : ∀ s x1 x2, Sound [.weir] s (State.updDigest s x1 x2) := by
  intros
  unfold State.updDigest
  with_reducible refine Sound.andThen ?_ (State.updWeir_sound ..)
  with_reducible exact Sound.refl _

theorem State.noteUse_sound : ∀ s x1 x2 x3 x4, Sound [.weir] s (State.noteUse s x1 x2 x3 x4) := by
  intros
  unfold State.noteUse
  with_reducible refine Sound.andThen ?_ (State.updWeir_sound ..)
  with_reducible exact Sound.refl _

theorem State.beginRepair_sound : ∀ s x1 x2 x3 x4, Sound [.weir] s (State.beginRepair s x1 x2 x3 x4) := by
  intros
  unfold State.beginRepair
  with_reducible refine Sound.andThen ?_ (State.updWeir_sound ..)
  with_reducible refine Sound.andThen ?_ (State.updWeir_sound ..)
  with_reducible exact Sound.refl _

theorem State.wcDiverged_sound : ∀ s x1 x2, Sound [.evt, .ctl, .weir, .fab, .out] s (State.wcDiverged s x1 x2) := by
  intros
  unfold State.wcDiverged
  with_reducible refine Sound.andThen ?_ (State.emitEach_sound ..)
  with_reducible refine Sound.andThen ?_ (State.updWeir_sound ..)
  with_reducible refine Sound.andThen ?_ (State.beginRepair_sound ..)
  with_reducible refine Sound.andThen ?_ (State.raise_sound ..)
  with_reducible exact Sound.refl _

theorem State.badTile_sound : ∀ s x1, Sound [.evt, .ctl, .weir, .fab, .out] s (State.badTile s x1) := by
  intros
  unfold State.badTile
  dsimp only
  split
  with_reducible refine Sound.andThen ?_ (State.emit_sound ..)
  with_reducible refine Sound.andThen ?_ (State.repair_sound ..)
  with_reducible refine Sound.andThen ?_ (State.updWeir_sound ..)
  with_reducible refine Sound.andThen ?_ (State.weirFault_sound ..)
  with_reducible exact Sound.refl _
  with_reducible refine Sound.andThen ?_ (State.wcDiverged_sound ..)
  with_reducible refine Sound.andThen ?_ (State.updWeir_sound ..)
  with_reducible refine Sound.andThen ?_ (State.weirFault_sound ..)
  with_reducible exact Sound.refl _

theorem execWcTile_sound : ∀ x0 s, SoundOut [.evt, .ctl, .weir, .fab, .out] s (execWcTile x0 s) := by
  intros
  unfold execWcTile
  dsimp only
  split
  with_reducible refine SoundOut.next ?_
  with_reducible refine Sound.andThen ?_ (State.emit_sound ..)
  with_reducible refine Sound.andThen ?_ (State.updWeir_sound ..)
  with_reducible exact Sound.refl _
  split
  with_reducible refine SoundOut.next ?_
  with_reducible refine Sound.andThen ?_ (State.tryInstall_sound ..)
  with_reducible refine Sound.andThen ?_ (State.emit_sound ..)
  with_reducible refine Sound.andThen ?_ (State.storeTile_sound ..)
  with_reducible refine Sound.andThen ?_ (State.emit_sound ..)
  with_reducible refine Sound.andThen ?_ (State.updWeir_sound ..)
  with_reducible exact Sound.refl _
  with_reducible refine SoundOut.next ?_
  with_reducible refine Sound.andThen ?_ (State.badTile_sound ..)
  with_reducible refine Sound.andThen ?_ (State.emit_sound ..)
  with_reducible refine Sound.andThen ?_ (State.updWeir_sound ..)
  with_reducible exact Sound.refl _

theorem execWcResend_sound : ∀ x0 x1 x2 x3 x4 s, SoundOut [.out] s (execWcResend x0 x1 x2 x3 x4 s) := by
  intros
  unfold execWcResend
  split
  with_reducible refine SoundOut.next ?_
  with_reducible refine Sound.andThen ?_ (State.emit_sound ..)
  with_reducible exact Sound.refl _
  with_reducible refine SoundOut.next ?_
  with_reducible exact Sound.refl _

theorem State.acceptSet_sound : ∀ s x1, Sound [.ctl, .weir, .fab, .out] s (State.acceptSet s x1) := by
  intros
  unfold State.acceptSet
  dsimp only
  split
  with_reducible exact Sound.refl _
  with_reducible refine Sound.andThen ?_ (State.tryInstall_sound ..)
  split
  with_reducible refine Sound.andThen ?_ (State.emitEach_sound ..)
  with_reducible refine Sound.andThen ?_ (State.updWeir_sound ..)
  with_reducible exact Sound.refl _
  with_reducible refine Sound.andThen ?_ (State.convertVersion_sound ..)
  with_reducible refine Sound.andThen ?_ (State.emitEach_sound ..)
  with_reducible refine Sound.andThen ?_ (State.updWeir_sound ..)
  with_reducible exact Sound.refl _

theorem execScaleSetDerive_sound : ∀ x0 s, SoundOut [.ctl, .weir, .fab, .out] s (execScaleSetDerive x0 s) := by
  intros
  unfold execScaleSetDerive
  dsimp only
  split
  with_reducible refine SoundOut.next ?_
  with_reducible refine Sound.andThen ?_ (State.acceptSet_sound ..)
  with_reducible refine Sound.andThen ?_ (State.updWeir_sound ..)
  with_reducible exact Sound.refl _
  with_reducible refine SoundOut.next ?_
  with_reducible exact Sound.refl _

theorem State.badSet_sound : ∀ s x1, Sound [.evt, .ctl, .weir, .out] s (State.badSet s x1) := by
  intros
  unfold State.badSet
  split
  with_reducible refine Sound.andThen ?_ (State.emit_sound ..)
  with_reducible refine Sound.andThen ?_ (State.updWeir_sound ..)
  with_reducible exact Sound.refl _
  with_reducible refine Sound.andThen ?_ (State.raise_sound ..)
  with_reducible exact Sound.refl _

theorem execScaleSetArrive_sound : ∀ x0 x1 s, SoundOut [.evt, .ctl, .weir, .fab, .out] s (execScaleSetArrive x0 x1 s) := by
  intros
  unfold execScaleSetArrive
  split
  with_reducible refine SoundOut.next ?_
  with_reducible exact Sound.refl _
  split
  with_reducible refine SoundOut.next ?_
  with_reducible refine Sound.andThen ?_ (State.emit_sound ..)
  with_reducible refine Sound.andThen ?_ (State.acceptSet_sound ..)
  with_reducible exact Sound.refl _
  with_reducible refine SoundOut.next ?_
  with_reducible refine Sound.andThen ?_ (State.badSet_sound ..)
  with_reducible exact Sound.refl _

theorem State.weirLoad_sound : ∀ s, Sound [.ctl, .weir, .fab, .out] s (State.weirLoad s) := by
  intros
  unfold State.weirLoad
  with_reducible refine Sound.andThen ?_ (State.tryInstall_sound ..)
  with_reducible refine Sound.andThen ?_ (State.convertVersion_sound ..)
  with_reducible refine Sound.andThen ?_ (State.updWeir_sound ..)
  with_reducible refine Sound.andThen ?_ (State.beginArrival_sound ..)
  with_reducible refine Sound.andThen ?_ (State.updWeir_sound ..)
  with_reducible exact Sound.refl _

end Sys2Proof.Machine
end

