-- ==== Sys2Proof/Laws/SoundPageFaults.lean ====
section
/-! SUPPORT. Operations of Machine/PageFaults.lean are sound. -/

namespace Sys2Proof.Machine

set_option Elab.async false

theorem State.raiseLost_sound : ∀ s x1 x2 x3 x4, Sound [.evt, .ctl] s (State.raiseLost s x1 x2 x3 x4) := by
  intros
  unfold State.raiseLost
  with_reducible refine Sound.andThen ?_ (State.raise1_sound ..)
  with_reducible exact Sound.refl _

theorem State.faultPage_sound : ∀ s x1, Sound [.evt, .ctl, .tier] s (State.faultPage s x1) := by
  intros
  unfold State.faultPage
  split
  with_reducible exact Sound.refl _
  split
  with_reducible exact Sound.refl _
  with_reducible refine Sound.andThen ?_ (State.raiseLost_sound ..)
  with_reducible refine Sound.andThen ?_ (State.updPage_sound ..)
  with_reducible refine Sound.andThen ?_ (State.abandonMoves_sound ..)
  with_reducible exact Sound.refl _

theorem State.faultKept_sound : ∀ s x1 x2 x3, Sound [.atl, .evt, .ctl] s (State.faultKept s x1 x2 x3) := by
  intros
  unfold State.faultKept
  split
  with_reducible exact Sound.refl _
  with_reducible refine Sound.andThen ?_ (State.raiseLost_sound ..)
  with_reducible refine Sound.andThen ?_ (State.updCtx_sound ..)
  with_reducible exact Sound.refl _

theorem State.faultWhere_sound : ∀ s x1, Sound [.atl, .evt, .ctl, .tier] s (State.faultWhere s x1) := by
  intros
  unfold State.faultWhere
  with_reducible refine Sound.andFold ?_ (fun a x => ?_)
  with_reducible refine Sound.andFold ?_ (fun a x => ?_)
  with_reducible exact Sound.refl _
  with_reducible refine Sound.andThen ?_ (State.faultPage_sound ..)
  with_reducible exact Sound.refl _
  with_reducible refine Sound.andFold ?_ (fun a x => ?_)
  with_reducible exact Sound.refl _
  with_reducible refine Sound.andThen ?_ (State.faultKept_sound ..)
  with_reducible exact Sound.refl _

theorem State.retireFrame_sound : ∀ s x1, Sound [.atl, .evt, .ctl, .tier] s (State.retireFrame s x1) := by
  intros
  unfold State.retireFrame
  with_reducible refine Sound.andThen ?_ (State.faultWhere_sound ..)
  with_reducible refine Sound.andThen ?_ (State.abandonMoves_sound ..)
  refine Sound.andThen ?_ (State.updAtl_sound rfl rfl rfl rfl id)
  with_reducible refine Sound.andThen ?_ (State.updTier_sound fun hk => ?_)
  with_reducible exact Sound.refl _
  exact hk

theorem State.askTiles_sound : ∀ s x1, Sound [.weir, .out] s (State.askTiles s x1) := by
  intros
  unfold State.askTiles
  with_reducible refine Sound.andFold ?_ (fun a x => ?_)
  with_reducible refine Sound.andThen ?_ (State.updWeir_sound ..)
  with_reducible exact Sound.refl _
  dsimp only
  split
  split
  with_reducible refine Sound.andThen ?_ (State.storeTile_sound ..)
  with_reducible exact Sound.refl _
  with_reducible exact Sound.refl _
  with_reducible refine Sound.andThen ?_ (State.emit_sound ..)
  with_reducible exact Sound.refl _

theorem State.askLost_sound : ∀ s x1, Sound [.weir, .out] s (State.askLost s x1) := by
  intros
  unfold State.askLost
  with_reducible refine Sound.andFold ?_ (fun a x => ?_)
  with_reducible exact Sound.refl _
  with_reducible refine Sound.andThen ?_ (State.askTiles_sound ..)
  with_reducible exact Sound.refl _

theorem execHbmEccError_sound : ∀ x0 x1 x2 s, SoundOut [.atl, .evt, .ctl, .weir, .tier, .out] s (execHbmEccError x0 x1 x2 s) := by
  intros
  unfold execHbmEccError
  with_reducible refine SoundOut.next ?_
  split
  with_reducible refine Sound.andThen ?_ (State.askLost_sound ..)
  with_reducible refine Sound.andThen ?_ (State.retireFrame_sound ..)
  with_reducible exact Sound.refl _
  with_reducible exact Sound.refl _

theorem execHbmPatrol_sound : ∀ x0 s, SoundOut [.atl, .evt, .ctl, .weir, .tier, .out] s (execHbmPatrol x0 s) := by
  intros
  unfold execHbmPatrol
  with_reducible refine SoundOut.next ?_
  with_reducible refine Sound.andThen ?_ (State.askLost_sound ..)
  with_reducible refine Sound.andFold ?_ (fun a x => ?_)
  with_reducible exact Sound.refl _
  split
  with_reducible refine Sound.andThen ?_ (State.retireFrame_sound ..)
  with_reducible exact Sound.refl _
  with_reducible exact Sound.refl _

theorem State.refillPage_sound : ∀ s x1, Sound [.fresh, .tier, .out] s (State.refillPage s x1) := by
  intro s p
  unfold State.refillPage
  split
  · dsimp only
    split
    · exact Sound.refl _
    · with_reducible refine Sound.andThen ?_ (State.serveAsks_sound ..)
      refine Sound.up (State.updTier_sound fun hk => ?_)
      exact cellsOut_wf _ _ (copyFrame_wf _ _ hk)
  · exact Sound.refl _

theorem execPageRefillDone_sound : ∀ x0 s, SoundOut [.fresh, .tier, .out] s (execPageRefillDone x0 s) := by
  intros
  unfold execPageRefillDone
  refine SoundOut.next ?_
  split
  · exact State.refillPage_sound ..
  · exact Sound.refl _

theorem execTierRefillDone_sound : ∀ x0 s, SoundOut [.fresh, .tier, .out] s (execTierRefillDone x0 s) := by
  intros
  unfold execTierRefillDone
  refine SoundOut.next ?_
  extract_lets p
  split
  · exact State.refillPage_sound ..
  · exact Sound.refl _

theorem execCxlPoison_sound : ∀ x0 s, SoundOut [.evt, .ctl, .weir, .tier, .out] s (execCxlPoison x0 s) := by
  intros
  unfold execCxlPoison
  with_reducible refine SoundOut.next ?_
  dsimp only
  split
  with_reducible exact Sound.refl _
  with_reducible refine Sound.andThen ?_ (State.askLost_sound ..)
  with_reducible refine Sound.andThen ?_ (State.faultPage_sound ..)
  with_reducible refine Sound.andThen ?_ (State.updTier_sound fun hk => ?_)
  with_reducible exact Sound.refl _
  exact hk

theorem execCxlCompletionTimeout_sound : ∀ x0 s, SoundOut [.evt, .ctl, .weir, .tier, .out] s (execCxlCompletionTimeout x0 s) := by
  intros
  unfold execCxlCompletionTimeout
  with_reducible refine SoundOut.next ?_
  split
  with_reducible exact Sound.refl _
  with_reducible refine Sound.andThen ?_ (State.askLost_sound ..)
  with_reducible refine Sound.andThen ?_ (State.faultPage_sound ..)
  with_reducible exact Sound.refl _

theorem execCxlLinkDown_sound : ∀ x0 x1 s, SoundOut [.now, .tier] s (execCxlLinkDown x0 x1 s) := by
  intros
  unfold execCxlLinkDown
  with_reducible refine SoundOut.next ?_
  split
  with_reducible refine Sound.andThen ?_ (State.at'_sound ..)
  with_reducible refine Sound.andThen ?_ (State.abandonMoves_sound ..)
  with_reducible refine Sound.andThen ?_ (State.updCxl_sound ..)
  with_reducible exact Sound.refl _
  with_reducible exact Sound.refl _

theorem State.trainCxl_sound : ∀ s x1, Sound [.fresh, .tier] s (State.trainCxl s x1) := by
  intros
  unfold State.trainCxl
  with_reducible refine Sound.andThen ?_ (State.updCxl_sound ..)
  with_reducible refine Sound.lit ?_
  with_reducible exact Sound.refl _

theorem execCxlLinkReturn_sound : ∀ x0 x1 s, SoundOut [.now, .fresh, .tier, .out] s (execCxlLinkReturn x0 x1 s) := by
  intros
  unfold execCxlLinkReturn
  with_reducible refine SoundOut.next ?_
  split
  with_reducible exact Sound.refl _
  split
  split
  with_reducible refine Sound.andThen ?_ (State.at'_sound ..)
  with_reducible refine Sound.andThen ?_ (State.trainCxl_sound ..)
  with_reducible exact Sound.refl _
  with_reducible exact Sound.refl _
  with_reducible refine Sound.andThen ?_ (State.at'_sound ..)
  with_reducible refine Sound.andThen ?_ (State.serveAsks_sound ..)
  with_reducible refine Sound.andThen ?_ (State.updCxl_sound ..)
  with_reducible exact Sound.refl _

theorem execCxlDownLimit_sound : ∀ x0 x1 s, SoundOut [.now, .atl, .evt, .ctl, .weir, .tier, .out] s (execCxlDownLimit x0 x1 s) := by
  intros
  unfold execCxlDownLimit
  with_reducible refine SoundOut.next ?_
  split
  with_reducible refine Sound.andThen ?_ (State.at'_sound ..)
  with_reducible refine Sound.andThen ?_ (State.askLost_sound ..)
  with_reducible refine Sound.andThen ?_ (State.faultWhere_sound ..)
  with_reducible refine Sound.andThen ?_ (State.updCxl_sound ..)
  with_reducible exact Sound.refl _
  with_reducible exact Sound.refl _

end Sys2Proof.Machine
end

