-- ==== Sys2Proof/Laws/SoundSparse.lean ====
section
/-! SUPPORT. Operations of Machine/Sparse.lean are sound. -/

namespace Sys2Proof.Machine

set_option Elab.async false

theorem State.qrnFault_sound : ∀ s x1 x2 x3 x4 x5, Sound [.evt, .ctl, .querns] s (State.qrnFault s x1 x2 x3 x4 x5) := by
  intros
  unfold State.qrnFault
  with_reducible refine Sound.andThen ?_ (State.raise_sound ..)
  with_reducible refine Sound.andThen ?_ (State.updQuern_sound ..)
  with_reducible exact Sound.refl _

theorem State.updSet_sound : ∀ s x1 x2 x3, Sound [.querns] s (State.updSet s x1 x2 x3) := by
  intros
  unfold State.updSet
  with_reducible refine Sound.andThen ?_ (State.updQuern_sound ..)
  with_reducible exact Sound.refl _

theorem State.gristNote_sound : ∀ s x1 x2 x3 x4, Sound [.querns] s (State.gristNote s x1 x2 x3 x4) := by
  intros
  unfold State.gristNote
  with_reducible refine Sound.andThen ?_ (State.updQuern_sound ..)
  with_reducible exact Sound.refl _

theorem State.gristFault_sound : ∀ s x1 x2 x3 x4 x5 x6, Sound [.evt, .ctl, .querns] s (State.gristFault s x1 x2 x3 x4 x5 x6) := by
  intros
  unfold State.gristFault
  with_reducible refine Sound.andThen ?_ (State.raise_sound ..)
  with_reducible refine Sound.andThen ?_ (State.gristNote_sound ..)
  with_reducible exact Sound.refl _

theorem State.gristPut_sound : ∀ s x1 x2, Sound [.ctl, .querns] s (State.gristPut s x1 x2) := by
  intros
  unfold State.gristPut
  dsimp only
  split
  split
  with_reducible refine Sound.andThen ?_ (State.updQuern_sound ..)
  with_reducible refine Sound.andThen ?_ (State.updQuern_sound ..)
  with_reducible refine Sound.andThen ?_ (State.quernEv_sound ..)
  with_reducible refine Sound.andThen ?_ (State.updSet_sound ..)
  with_reducible exact Sound.refl _
  split
  with_reducible refine Sound.andThen ?_ (State.updQuern_sound ..)
  with_reducible refine Sound.andThen ?_ (State.updQuern_sound ..)
  with_reducible refine Sound.andThen ?_ (State.quernEv_sound ..)
  with_reducible refine Sound.andThen ?_ (State.updSet_sound ..)
  with_reducible exact Sound.refl _
  with_reducible refine Sound.andThen ?_ (State.updQuern_sound ..)
  with_reducible refine Sound.andThen ?_ (State.quernEv_sound ..)
  with_reducible refine Sound.andThen ?_ (State.updSet_sound ..)
  with_reducible exact Sound.refl _
  split
  with_reducible refine Sound.andThen ?_ (State.updQuern_sound ..)
  with_reducible refine Sound.andThen ?_ (State.updQuern_sound ..)
  with_reducible refine Sound.andThen ?_ (State.quernEv_sound ..)
  with_reducible refine Sound.andThen ?_ (State.updSet_sound ..)
  with_reducible exact Sound.refl _
  split
  with_reducible refine Sound.andThen ?_ (State.updQuern_sound ..)
  with_reducible refine Sound.andThen ?_ (State.updQuern_sound ..)
  with_reducible refine Sound.andThen ?_ (State.quernEv_sound ..)
  with_reducible refine Sound.andThen ?_ (State.updSet_sound ..)
  with_reducible exact Sound.refl _
  with_reducible refine Sound.andThen ?_ (State.updQuern_sound ..)
  with_reducible refine Sound.andThen ?_ (State.quernEv_sound ..)
  with_reducible refine Sound.andThen ?_ (State.updSet_sound ..)
  with_reducible exact Sound.refl _

theorem State.gristTake_sound : ∀ s x1 x2, Sound [.evt, .ctl, .querns] s (State.gristTake s x1 x2) := by
  intro s q g
  unfold State.gristTake
  extract_lets t set more
  have ht : Sound [.evt, .ctl, .querns] s t := by
    dsimp only [t]
    with_reducible refine Sound.andThen ?_ (State.updQuern_sound ..)
    exact (State.updSet_sound ..).up
  split
  · exact ht.andThen (State.qrnFault_sound ..)
  · split
    · exact ht.andThen (State.gristFault_sound ..)
    · exact ht.andThen (State.gristPut_sound ..)

theorem State.gristAccept_sound : ∀ s x1, Sound [.evt, .ctl, .querns] s (State.gristAccept s x1) := by
  intros
  unfold State.gristAccept
  dsimp only
  split
  with_reducible exact Sound.refl _
  split
  with_reducible refine Sound.andThen ?_ (State.gristFault_sound ..)
  with_reducible refine Sound.andThen ?_ (State.updQuern_sound ..)
  with_reducible exact Sound.refl _
  split
  with_reducible refine Sound.andThen ?_ (State.gristTake_sound ..)
  with_reducible exact Sound.refl _
  with_reducible refine Sound.andThen ?_ (State.updQuern_sound ..)
  with_reducible exact Sound.refl _

theorem execGristAdd_sound : ∀ x0 s, SoundOut [.evt, .ctl, .querns] s (execGristAdd x0 s) := by
  intros
  unfold execGristAdd
  with_reducible refine SoundOut.next ?_
  with_reducible refine Sound.andThen ?_ (State.gristAccept_sound ..)
  with_reducible exact Sound.refl _

theorem execGristSlotFree_sound : ∀ x0 s, SoundOut [.evt, .ctl, .querns] s (execGristSlotFree x0 s) := by
  intros
  unfold execGristSlotFree
  with_reducible refine SoundOut.next ?_
  with_reducible refine Sound.andFold ?_ (fun a x => ?_)
  with_reducible refine Sound.andThen ?_ (State.updQuern_sound ..)
  with_reducible exact Sound.refl _
  split
  with_reducible refine Sound.andThen ?_ (State.gristTake_sound ..)
  with_reducible exact Sound.refl _
  with_reducible refine Sound.andThen ?_ (State.updQuern_sound ..)
  with_reducible exact Sound.refl _

theorem execGatherEnd_sound : ∀ x0 x1 s, SoundOut [.querns] s (execGatherEnd x0 x1 s) := by
  intros
  unfold execGatherEnd
  split
  with_reducible refine SoundOut.next ?_
  with_reducible exact Sound.refl _
  with_reducible refine SoundOut.next ?_
  with_reducible refine Sound.andThen ?_ (State.updSet_sound ..)
  with_reducible exact Sound.refl _

theorem execFinitenessScreen_sound : ∀ x0 x1 s, SoundOut [.ctl, .querns] s (execFinitenessScreen x0 x1 s) := by
  intros
  unfold execFinitenessScreen
  dsimp only
  split
  with_reducible refine SoundOut.next ?_
  with_reducible refine Sound.andThen ?_ (State.markFlags_sound ..)
  with_reducible refine Sound.andThen ?_ (State.markFlags_sound ..)
  with_reducible refine Sound.andThen ?_ (State.updQuern_sound ..)
  with_reducible refine Sound.andThen ?_ (State.updQuern_sound ..)
  with_reducible exact Sound.refl _
  with_reducible refine SoundOut.next ?_
  with_reducible exact Sound.refl _

theorem State.logTake_sound : ∀ s x1 x2 x3, Sound [.querns] s (State.logTake s x1 x2 x3) := by
  intros
  unfold State.logTake
  with_reducible refine Sound.andThen ?_ (State.updQuern_sound ..)
  with_reducible exact Sound.refl _

theorem execQrnLogReserve_sound : ∀ x0 x1 s, SoundOut [.evt, .ctl, .querns] s (execQrnLogReserve x0 x1 s) := by
  intros
  unfold execQrnLogReserve
  dsimp only
  split
  with_reducible refine SoundOut.next ?_
  with_reducible exact Sound.refl _
  split
  with_reducible refine SoundOut.next ?_
  with_reducible refine Sound.andThen ?_ (State.logTake_sound ..)
  with_reducible exact Sound.refl _
  split
  with_reducible refine SoundOut.next ?_
  with_reducible refine Sound.andThen ?_ (State.logTake_sound ..)
  with_reducible exact Sound.refl _
  split
  with_reducible refine SoundOut.next ?_
  with_reducible refine Sound.andThen ?_ (State.raise_sound ..)
  with_reducible refine Sound.andThen ?_ (State.logTake_sound ..)
  with_reducible exact Sound.refl _
  with_reducible refine SoundOut.next ?_
  with_reducible refine Sound.andThen ?_ (State.updQuern_sound ..)
  with_reducible exact Sound.refl _

theorem State.logRow_sound : ∀ s x1 x2 x3 x4 x5, Sound [.querns] s (State.logRow s x1 x2 x3 x4 x5) := by
  intros
  unfold State.logRow
  split
  with_reducible exact Sound.refl _
  with_reducible refine Sound.andThen ?_ (State.updQuern_sound ..)
  with_reducible exact Sound.refl _

theorem State.writeRow_sound : ∀ s x1 x2 x3 x4 x5 x6 x7, Sound [.ctl, .querns, .rows] s (State.writeRow s x1 x2 x3 x4 x5 x6 x7) := by
  intros
  unfold State.writeRow
  dsimp only
  split
  with_reducible refine Sound.andThen ?_ (State.updStep_sound ..)
  with_reducible refine Sound.andThen ?_ (State.updQuern_sound ..)
  split
  with_reducible refine Sound.lit ?_
  with_reducible exact Sound.refl _
  with_reducible refine Sound.lit ?_
  with_reducible refine Sound.andThen ?_ (State.logRow_sound ..)
  with_reducible exact Sound.refl _
  with_reducible refine Sound.andThen ?_ (State.updQuern_sound ..)
  split
  with_reducible refine Sound.lit ?_
  with_reducible exact Sound.refl _
  with_reducible refine Sound.lit ?_
  with_reducible refine Sound.andThen ?_ (State.logRow_sound ..)
  with_reducible exact Sound.refl _

theorem State.sendRow_sound : ∀ s x1 x2, Sound [.fab, .out] s (State.sendRow s x1 x2) := by
  intros
  unfold State.sendRow
  split
  with_reducible refine Sound.andThen ?_ (State.emitAcked_sound ..)
  with_reducible exact Sound.refl _
  with_reducible exact Sound.refl _

theorem State.sendRepl_sound : ∀ s x1 x2, Sound [.ctl, .fab, .out] s (State.sendRepl s x1 x2) := by
  intros
  unfold State.sendRepl
  with_reducible refine Sound.andFold ?_ (fun a x => ?_)
  with_reducible exact Sound.refl _
  dsimp only
  split
  with_reducible refine Sound.andThen ?_ (State.sendRow_sound ..)
  with_reducible exact Sound.refl _
  split
  with_reducible refine Sound.andThen ?_ (State.updStep_sound ..)
  with_reducible refine Sound.andThen ?_ (State.emitAcked_sound ..)
  with_reducible exact Sound.refl _
  with_reducible refine Sound.andThen ?_ (State.emitAcked_sound ..)
  with_reducible exact Sound.refl _

theorem State.applyEntry_sound : ∀ s x1 x2 x3, Sound [.fresh, .ctl, .querns, .rows, .fab, .out] s (State.applyEntry s x1 x2 x3) := by
  intros
  unfold State.applyEntry
  dsimp only
  split
  with_reducible exact Sound.refl _
  with_reducible refine Sound.andThen ?_ (State.sendRepl_sound ..)
  with_reducible refine Sound.andThen ?_ (State.writeRow_sound ..)
  with_reducible refine Sound.andThen ?_ (State.tick_sound ..)
  with_reducible exact Sound.refl _

theorem State.applyMove_sound : ∀ s x1 x2 x3, Sound [.fresh, .ctl, .querns, .rows, .fab, .out] s (State.applyMove s x1 x2 x3) := by
  intros
  unfold State.applyMove
  dsimp only
  with_reducible refine Sound.andThen ?_ (State.sendRepl_sound ..)
  with_reducible refine Sound.andThen ?_ (State.writeRow_sound ..)
  with_reducible refine Sound.andThen ?_ (State.quernEv_sound ..)
  exact (State.tick_sound ..).up

theorem State.applyRepl_sound : ∀ s x1 x2, Sound [.ctl, .fab, .out] s (State.applyRepl s x1 x2) := by
  intros
  unfold State.applyRepl
  with_reducible refine Sound.andThen ?_ (State.sendRepl_sound ..)
  with_reducible exact Sound.refl _

theorem State.applyQuern_sound : ∀ s x1 x2, Sound [.fresh, .ctl, .querns, .rows, .fab, .out] s (State.applyQuern s x1 x2) := by
  intros
  unfold State.applyQuern
  with_reducible refine Sound.andThen ?_ (State.updQuern_sound ..)
  with_reducible refine Sound.andFold ?_ (fun a x => ?_)
  with_reducible refine Sound.andFold ?_ (fun a x => ?_)
  with_reducible refine Sound.andFold ?_ (fun a x => ?_)
  with_reducible exact Sound.refl _
  with_reducible refine Sound.andThen ?_ (State.applyEntry_sound ..)
  with_reducible exact Sound.refl _
  with_reducible refine Sound.andThen ?_ (State.applyMove_sound ..)
  with_reducible exact Sound.refl _
  with_reducible refine Sound.andThen ?_ (State.applyRepl_sound ..)
  with_reducible exact Sound.refl _

theorem State.sendMarks_sound : ∀ s x1, Sound [.fab, .out] s (State.sendMarks s x1) := by
  intros
  unfold State.sendMarks
  with_reducible refine Sound.andThen ?_ (State.emitEach_sound ..)
  with_reducible exact Sound.refl _

theorem State.tryDone_sound : ∀ s x1, Sound [.querns] s (State.tryDone s x1) := by
  intros
  unfold State.tryDone
  split
  with_reducible refine Sound.andFold ?_ (fun a x => ?_)
  with_reducible exact Sound.refl _
  with_reducible refine Sound.andThen ?_ (State.updQuern_sound ..)
  with_reducible exact Sound.refl _
  with_reducible refine Sound.andFold ?_ (fun a x => ?_)
  with_reducible exact Sound.refl _
  with_reducible refine Sound.andThen ?_ (State.updQuern_sound ..)
  with_reducible exact Sound.refl _

theorem State.replSumIn_sound : ∀ s x1 x2 x3 x4 x5 x6, Sound [.fresh, .evt, .ctl, .weir, .querns, .rows, .repl, .out] s (State.replSumIn s x1 x2 x3 x4 x5 x6) := by
  intros
  unfold State.replSumIn
  extract_lets
  split
  split
  with_reducible refine Sound.andThen ?_ (State.emit_sound ..)
  extract_lets
  dsimp +zetaDelta only
  with_reducible refine Sound.lit ?_
  extract_lets
  with_reducible exact Sound.refl _
  with_reducible refine Sound.andThen ?_ (State.beginRepair_sound ..)
  extract_lets
  with_reducible refine Sound.andThen ?_ (State.raise_sound ..)
  extract_lets
  with_reducible exact Sound.refl _
  split
  extract_lets
  split
  with_reducible exact Sound.refl _
  dsimp +zetaDelta only
  with_reducible refine Sound.lit ?_
  extract_lets
  with_reducible refine Sound.andThen ?_ (State.writeRow_sound ..)
  extract_lets
  with_reducible refine Sound.andThen ?_ (State.tick_sound ..)
  extract_lets
  with_reducible exact Sound.refl _
  with_reducible exact Sound.refl _

theorem State.replRowIn_sound : ∀ s x1 x2 x3 x4 x5 x6, Sound [.fresh, .rows, .repl] s (State.replRowIn s x1 x2 x3 x4 x5 x6) := by
  intros
  unfold State.replRowIn
  dsimp only
  split
  split
  with_reducible refine Sound.lit ?_
  with_reducible refine Sound.andThen ?_ (State.tick_sound ..)
  with_reducible exact Sound.refl _
  with_reducible refine Sound.lit ?_
  with_reducible refine Sound.andThen ?_ (State.tick_sound ..)
  with_reducible exact Sound.refl _
  split
  with_reducible refine Sound.lit ?_
  with_reducible refine Sound.andThen ?_ (State.tick_sound ..)
  with_reducible exact Sound.refl _
  with_reducible refine Sound.lit ?_
  with_reducible refine Sound.andThen ?_ (State.tick_sound ..)
  with_reducible exact Sound.refl _

theorem State.replTake_sound : ∀ s x1, Sound [.fresh, .evt, .ctl, .weir, .querns, .rows, .repl, .out] s (State.replTake s x1) := by
  intros
  unfold State.replTake
  dsimp only
  split
  with_reducible refine Sound.andThen ?_ (State.replSumIn_sound ..)
  with_reducible exact Sound.refl _
  with_reducible refine Sound.lit ?_
  with_reducible exact Sound.refl _
  with_reducible refine Sound.lit ?_
  with_reducible exact Sound.refl _

theorem execReplSum_sound : ∀ x0 x1 s, SoundOut [.fresh, .evt, .ctl, .weir, .querns, .rows, .repl, .out] s (execReplSum x0 x1 s) := by
  intros
  unfold execReplSum
  dsimp only
  split
  with_reducible refine SoundOut.next ?_
  with_reducible refine Sound.andThen ?_ (State.tryDone_sound ..)
  with_reducible refine Sound.andThen ?_ (State.replTake_sound ..)
  split
  with_reducible refine Sound.andThen ?_ (State.emit_sound ..)
  with_reducible exact Sound.refl _
  with_reducible exact Sound.refl _
  with_reducible refine SoundOut.next ?_
  split
  with_reducible refine Sound.andThen ?_ (State.emit_sound ..)
  with_reducible exact Sound.refl _
  with_reducible exact Sound.refl _
  split
  with_reducible refine SoundOut.next ?_
  split
  with_reducible refine Sound.andThen ?_ (State.emit_sound ..)
  with_reducible exact Sound.refl _
  with_reducible exact Sound.refl _
  with_reducible refine SoundOut.next ?_
  split
  with_reducible refine Sound.lit ?_
  with_reducible refine Sound.andThen ?_ (State.emit_sound ..)
  with_reducible exact Sound.refl _
  with_reducible refine Sound.lit ?_
  with_reducible exact Sound.refl _

theorem State.applyRows_sound (s : State) (n : Nat) : Sound [.fresh, .evt, .ctl, .weir, .querns, .rows, .repl, .fab, .out] s (s.applyRows n) := by
  unfold State.applyRows
  extract_lets t mine u
  have h : Sound [.fresh, .evt, .ctl, .weir, .querns, .rows, .repl, .fab, .out] s t :=
    ((Sound.foldl (fun a q => State.applyQuern_sound a n q) _ s).trans (State.sendMarks_sound ..)).up
  clear_value t
  refine Sound.andThen ?_ (State.tryDone_sound ..)
  refine Sound.andFold ?_ (fun a x => (State.replTake_sound a x).up)
  exact Sound.lit h

theorem State.skipRows_sound (s : State) (n : Nat) : Sound [.querns, .repl] s (s.skipRows n) := by
  unfold State.skipRows
  refine Sound.andThen ?_ (State.tryDone_sound ..)
  with_reducible refine Sound.lit ?_
  exact Sound.foldl (fun a q => (State.updQuern_sound a q _).up) _ s

theorem State.releaseRetained_sound : ∀ s x1, Sound [.weir, .querns] s (State.releaseRetained s x1) := by
  intros
  unfold State.releaseRetained
  with_reducible refine Sound.andThen ?_ (State.updWeir_sound ..)
  with_reducible refine Sound.andFold ?_ (fun a x => ?_)
  with_reducible exact Sound.refl _
  with_reducible refine Sound.andThen ?_ (State.updQuern_sound ..)
  with_reducible exact Sound.refl _

theorem State.flipRow_sound : ∀ s x1 x2 x3 x4, Sound [.querns, .rows] s (State.flipRow s x1 x2 x3 x4) := by
  intros
  unfold State.flipRow
  dsimp only
  split
  with_reducible exact Sound.refl _
  with_reducible refine Sound.andThen ?_ (State.updQuern_sound ..)
  with_reducible refine Sound.lit ?_
  with_reducible refine Sound.andThen ?_ (State.logRow_sound ..)
  with_reducible exact Sound.refl _

theorem State.flipRepl_sound : ∀ s x1 x2 x3, Sound [.querns, .rows] s (State.flipRepl s x1 x2 x3) := by
  intros
  unfold State.flipRepl
  dsimp only
  split
  with_reducible exact Sound.refl _
  split
  with_reducible refine Sound.andThen ?_ (State.updQuern_sound ..)
  split
  with_reducible refine Sound.lit ?_
  with_reducible exact Sound.refl _
  with_reducible refine Sound.lit ?_
  with_reducible exact Sound.refl _
  split
  with_reducible refine Sound.lit ?_
  with_reducible exact Sound.refl _
  with_reducible refine Sound.lit ?_
  with_reducible exact Sound.refl _

theorem State.flipRows_sound : ∀ s x1, Sound [.querns, .rows] s (State.flipRows s x1) := by
  intros
  unfold State.flipRows
  with_reducible refine Sound.andFold ?_ (fun a x => ?_)
  with_reducible refine Sound.andFold ?_ (fun a x => ?_)
  with_reducible exact Sound.refl _
  with_reducible refine Sound.andThen ?_ (State.flipRow_sound ..)
  with_reducible exact Sound.refl _
  with_reducible refine Sound.andThen ?_ (State.flipRepl_sound ..)
  with_reducible exact Sound.refl _

theorem State.sealQuern_sound : ∀ s x1 x2, Sound [.querns, .rows] s (State.sealQuern s x1 x2) := by
  intros
  unfold State.sealQuern
  with_reducible refine Sound.andThen ?_ (State.updQuern_sound ..)
  with_reducible refine Sound.lit ?_
  with_reducible exact Sound.refl _

theorem State.sealRows_sound : ∀ s x1 x2, Sound [.querns, .rows] s (State.sealRows s x1 x2) := by
  intros
  unfold State.sealRows
  with_reducible refine Sound.andThen ?_ (State.sealQuern_sound ..)
  with_reducible refine Sound.andThen ?_ (State.sealQuern_sound ..)
  with_reducible refine Sound.andThen ?_ (State.sealQuern_sound ..)
  with_reducible refine Sound.andThen ?_ (State.sealQuern_sound ..)
  with_reducible refine Sound.andThen ?_ (State.sealQuern_sound ..)
  with_reducible refine Sound.andThen ?_ (State.sealQuern_sound ..)
  with_reducible refine Sound.andThen ?_ (State.sealQuern_sound ..)
  with_reducible refine Sound.andThen ?_ (State.sealQuern_sound ..)
  with_reducible refine Sound.andThen ?_ (State.sealQuern_sound ..)
  with_reducible refine Sound.andThen ?_ (State.sealQuern_sound ..)
  with_reducible refine Sound.andThen ?_ (State.sealQuern_sound ..)
  with_reducible refine Sound.andThen ?_ (State.sealQuern_sound ..)
  split
  with_reducible exact Sound.refl _
  with_reducible refine Sound.andThen ?_ (State.flipRows_sound ..)
  with_reducible exact Sound.refl _

theorem State.dropSets_sound : ∀ s x1, Sound [.querns, .repl, .units, .fab] s (State.dropSets s x1) := by
  intro s p
  unfold State.dropSets
  dsimp only
  with_reducible refine Sound.andThen ?_ (State.dropRecords_sound ..)
  with_reducible refine Sound.lit ?_
  exact Sound.foldl (fun a q => (State.updQuern_sound a q _).up) _ s

theorem State.rowsLoad_sound : ∀ s, Sound [.fresh, .querns, .rows, .repl, .units] s (State.rowsLoad s) := by
  intros
  unfold State.rowsLoad
  with_reducible refine Sound.andFold ?_ (fun a x => ?_)
  with_reducible refine Sound.lit ?_
  with_reducible exact Sound.refl _
  with_reducible refine Sound.andThen ?_ (State.updQuern_sound ..)
  with_reducible exact Sound.refl _

end Sys2Proof.Machine
end

