-- ==== Sys2Proof/Laws/SoundLookups.lean ====
section
/-! SUPPORT. Operations of Machine/Lookups.lean are sound. -/

namespace Sys2Proof.Machine

set_option Elab.async false

theorem State.setOutcome_sound : ∀ s x1 x2 x3, Sound [.units] s (State.setOutcome s x1 x2 x3) := by
  intros
  unfold State.setOutcome
  with_reducible refine Sound.lit ?_
  with_reducible exact Sound.refl _

theorem State.takeRecord_sound : ∀ s x1 x2 x3 x4 x5 x6, Sound [.ctl, .querns, .units] s (State.takeRecord s x1 x2 x3 x4 x5 x6) := by
  intros
  unfold State.takeRecord
  with_reducible refine Sound.andThen ?_ (State.setOutcome_sound ..)
  with_reducible refine Sound.andThen ?_ (State.quernEv_sound ..)
  with_reducible exact Sound.refl _

theorem State.countRead_sound : ∀ s x1, Sound [.querns] s (State.countRead s x1) := by
  intros
  unfold State.countRead
  with_reducible refine Sound.andThen ?_ (State.updQuern_sound ..)
  with_reducible exact Sound.refl _

theorem State.serveOwn_sound : ∀ s x1, Sound [.ctl, .weir, .querns, .units, .fab, .out] s (State.serveOwn s x1) := by
  intro s r
  unfold State.serveOwn
  dsimp only
  split
  · exact Sound.refl _
  · split
    · with_reducible refine Sound.andThen ?_ (State.takeRecord_sound ..)
      with_reducible refine Sound.andThen ?_ (State.countRead_sound ..)
      exact (State.noteUse_sound ..).up
    · split
      · exact (State.setOutcome_sound ..).up
      · with_reducible refine Sound.andThen ?_ (State.sendLkpReq_sound ..)
        exact (State.updQuern_sound ..).up

theorem State.serveRemote_sound : ∀ s x1, Sound [.querns, .fab, .out] s (State.serveRemote s x1) := by
  intros
  unfold State.serveRemote
  with_reducible refine Sound.andThen ?_ (State.sendLkpRsp_sound ..)
  with_reducible refine Sound.andThen ?_ (State.updQuern_sound ..)
  split
  with_reducible refine Sound.andThen ?_ (State.updQuern_sound ..)
  with_reducible exact Sound.refl _
  with_reducible exact Sound.refl _

theorem State.serve_sound : ∀ s x1, Sound [.ctl, .weir, .querns, .units, .fab, .out] s (State.serve s x1) := by
  intros
  unfold State.serve
  split
  with_reducible refine Sound.andThen ?_ (State.serveOwn_sound ..)
  with_reducible exact Sound.refl _
  with_reducible refine Sound.andThen ?_ (State.serveRemote_sound ..)
  with_reducible exact Sound.refl _

theorem State.holdOrServe_sound : ∀ s x1, Sound [.ctl, .weir, .querns, .units, .fab, .out] s (State.holdOrServe s x1) := by
  intros
  unfold State.holdOrServe
  dsimp only
  split
  with_reducible refine Sound.andThen ?_ (State.updQuern_sound ..)
  with_reducible exact Sound.refl _
  with_reducible refine Sound.andThen ?_ (State.serve_sound ..)
  with_reducible exact Sound.refl _

theorem State.askIndex_sound : ∀ s x1 x2 x3, Sound [.ctl, .weir, .querns, .units, .fab, .out] s (State.askIndex s x1 x2 x3) := by
  intros
  unfold State.askIndex
  dsimp only
  split
  with_reducible refine Sound.andThen ?_ (State.setOutcome_sound ..)
  with_reducible exact Sound.refl _
  split
  with_reducible refine Sound.andThen ?_ (State.holdOrServe_sound ..)
  with_reducible exact Sound.refl _
  with_reducible refine Sound.andThen ?_ (State.serveOwn_sound ..)
  with_reducible exact Sound.refl _

theorem State.askAll_sound (s : State) (u : LkpUnit) (i : Nat) (l : List LkpItem) : Sound [.ctl, .weir, .querns, .units, .fab, .out] s (s.askAll u i l) := by
  induction l generalizing s i with
  | nil => exact Sound.refl s
  | cons x l ih => exact ((State.askIndex_sound s u i x).trans (ih _ _)).up

theorem State.sendContribution_sound : ∀ s x1 x2, Sound [.evt, .ctl, .querns, .fab, .out] s (State.sendContribution s x1 x2) := by
  intros
  unfold State.sendContribution
  dsimp only
  split
  with_reducible refine Sound.andThen ?_ (State.gristAccept_sound ..)
  with_reducible refine Sound.andThen ?_ (State.updStep_sound ..)
  with_reducible exact Sound.refl _
  with_reducible refine Sound.andThen ?_ (State.sendGrist_sound ..)
  with_reducible refine Sound.andThen ?_ (State.updStep_sound ..)
  with_reducible exact Sound.refl _

theorem State.sendBoth_sound : ∀ s x1, Sound [.evt, .ctl, .querns, .fab, .out] s (State.sendBoth s x1) := by
  intros
  unfold State.sendBoth
  with_reducible refine Sound.andThen ?_ (State.sendContribution_sound ..)
  with_reducible refine Sound.andThen ?_ (State.sendContribution_sound ..)
  with_reducible exact Sound.refl _

theorem State.completeUnit_sound : ∀ s x1, Sound [.evt, .ctl, .querns, .units, .cores, .fab, .out] s (State.completeUnit s x1) := by
  intro s u
  unfold State.completeUnit
  extract_lets t
  have h : Sound [.evt, .ctl, .querns, .units, .cores, .fab, .out] s t := by
    dsimp only [t]
    with_reducible refine Sound.lit ?_
    exact Sound.refl _
  split
  · exact h
  · split
    · with_reducible refine Sound.andThen ?_ (State.updCore_sound (fun k hk => ?_) _ _)
      · exact Sound.andFold h (fun a x => (State.sendBoth_sound ..).up)
      · simpa using hk
    · dsimp only
      split
      · exact (h.andThen (State.stageRows_sound ..)).andThen (State.unitDone_sound ..)
      · exact h.andThen (State.stageRows_sound ..)

theorem State.completeRef_sound : ∀ s x1, Sound [.evt, .ctl, .querns, .units, .cores, .fab, .out] s (State.completeRef s x1) := by
  intros
  unfold State.completeRef
  split
  · exact State.completeUnit_sound ..
  · exact Sound.refl _

theorem State.deliverUnit_sound : ∀ s x1, Sound [.evt, .ctl, .querns, .units, .cores, .fab, .out] s (State.deliverUnit s x1) := by
  intro s u
  unfold State.deliverUnit
  split
  · exact Sound.refl _
  · split
    · with_reducible refine Sound.lit ?_
      exact Sound.refl _
    · split
      · exact State.completeUnit_sound ..
      · dsimp only
        with_reducible refine Sound.andThen ?_ (State.pushXfer_sound ..)
        with_reducible refine Sound.lit ?_
        exact Sound.refl _

theorem State.deliverAll_sound : ∀ s, Sound [.evt, .ctl, .querns, .units, .cores, .fab, .out] s (State.deliverAll s) := by
  intros
  unfold State.deliverAll
  with_reducible refine Sound.andFold ?_ (fun a x => ?_)
  with_reducible exact Sound.refl _
  with_reducible refine Sound.andThen ?_ (State.deliverUnit_sound ..)
  with_reducible exact Sound.refl _

theorem State.unitFault_sound : ∀ {s x1 x2 x3 t}, State.unitFault s x1 x2 x3 = some t → Sound [.evt, .ctl, .querns, .cores] s t := by
  intro s c cmd u t h
  unfold State.unitFault at h
  dsimp only at h
  split at h
  · cases h
    with_reducible refine Sound.andThen ?_ (State.updCore_sound (fun k hk => ?_) _ _)
    · exact (State.raise_sound ..).up
    · simpa using hk
  · split at h
    · cases h
      with_reducible refine Sound.andThen ?_ (State.updCore_sound (fun k hk => ?_) _ _)
      · exact (State.qrnFault_sound ..).up
      · simpa using hk
    · cases h

theorem State.addUnit_sound : ∀ s x1, Sound [.units, .nextRef] s (State.addUnit s x1) := by
  intros
  unfold State.addUnit
  with_reducible refine Sound.lit ?_
  with_reducible exact Sound.refl _

theorem State.lookupUnit_sound : ∀ s x1 x2 x3, Sound [.evt, .ctl, .weir, .querns, .units, .nextRef, .cores, .fab, .out] s (State.lookupUnit s x1 x2 x3) := by
  intros
  unfold State.lookupUnit
  dsimp only
  split
  with_reducible exact (State.unitFault_sound (by assumption)).up
  with_reducible refine Sound.andThen ?_ (State.deliverAll_sound ..)
  with_reducible refine Sound.andThen ?_ (State.askAll_sound ..)
  with_reducible refine Sound.andThen ?_ (State.addUnit_sound ..)
  with_reducible exact Sound.refl _

theorem execLkpReq_sound : ∀ x0 s, SoundOut [.ctl, .weir, .querns, .units, .fab, .out] s (execLkpReq x0 s) := by
  intros
  unfold execLkpReq
  split
  with_reducible refine SoundOut.next ?_
  with_reducible exact Sound.refl _
  with_reducible refine SoundOut.next ?_
  with_reducible refine Sound.andThen ?_ (State.holdOrServe_sound ..)
  with_reducible exact Sound.refl _

theorem execLkpRsp_sound (r : LkpRsp) (s : State) : SoundOut [.evt, .ctl, .querns, .units, .cores, .fab, .out] s (execLkpRsp r s) := by
  unfold execLkpRsp
  repeat' split
  · exact .next (Sound.refl s)
  · exact .next ((State.setOutcome_sound ..).up)
  · exact .next (((State.takeRecord_sound ..).trans (State.deliverAll_sound _)).up)

theorem execLookupHoldRelease_sound : ∀ x0 s, SoundOut [.evt, .ctl, .weir, .querns, .units, .cores, .fab, .out] s (execLookupHoldRelease x0 s) := by
  intros
  unfold execLookupHoldRelease
  with_reducible refine SoundOut.next ?_
  with_reducible refine Sound.andThen ?_ (State.deliverAll_sound ..)
  with_reducible refine Sound.andFold ?_ (fun a x => ?_)
  with_reducible refine Sound.andThen ?_ (State.updQuern_sound ..)
  with_reducible exact Sound.refl _
  with_reducible refine Sound.andThen ?_ (State.serve_sound ..)
  with_reducible exact Sound.refl _

theorem execIndexFaultReport_sound : ∀ x0 s, SoundOut [.evt, .ctl, .querns, .units, .cores] s (execIndexFaultReport x0 s) := by
  intros
  unfold execIndexFaultReport
  dsimp only
  split
  with_reducible refine SoundOut.next ?_
  with_reducible exact Sound.refl _
  split
  with_reducible refine SoundOut.next ?_
  with_reducible exact Sound.refl _
  split
  with_reducible refine SoundOut.next ?_
  with_reducible exact Sound.refl _
  with_reducible refine SoundOut.next ?_
  with_reducible refine Sound.andThen ?_ (State.qrnFault_sound ..)
  with_reducible refine Sound.andThen ?_ (State.updCore_sound (fun k hk => ?_) _ _)
  with_reducible refine Sound.lit ?_
  with_reducible exact Sound.refl _
  simpa using hk

end Sys2Proof.Machine
end

