-- ==== Sys2Proof/Laws/SoundStepOps.lean ====
section
/-! SUPPORT. Operations of Machine/StepOps.lean are sound. -/

namespace Sys2Proof.Machine

set_option Elab.async false

theorem State.discardWeir_sound : ∀ s x1, Sound [.weir] s (State.discardWeir s x1) := by
  intros
  unfold State.discardWeir
  with_reducible refine Sound.andThen ?_ (State.refreshRed_sound ..)
  with_reducible refine Sound.andThen ?_ (State.dropCands_sound ..)
  with_reducible refine Sound.andThen ?_ (State.updWeir_sound ..)
  with_reducible exact Sound.refl _

theorem State.discardWork_sound (s : State) (lo : Nat) (p : Nat → Bool) : Sound [.ctl, .weir, .querns, .repl, .units, .cores, .fab] s (s.discardWork lo p) := by
  unfold State.discardWork
  extract_lets slots t u
  have h : Sound [.ctl, .weir, .querns, .repl, .units, .cores] s t := Sound.litCores (Sound.refl s) fun k hk => by simpa using hk
  exact (((h.trans (State.dropSets_sound t p)).trans (State.discardWeir_sound _ p)).trans (State.updCtl_sound ..)).up

theorem State.event_sound : ∀ s x1 x2 x3, Sound [.evt, .ctl] s (State.event s x1 x2 x3) := by
  intros
  unfold State.event
  with_reducible refine Sound.andThen ?_ (State.raise1_sound ..)
  with_reducible exact Sound.refl _

theorem State.abortList_sound (s : State) (l : List Nat) : Sound [.evt, .ctl, .weir, .querns, .repl, .units, .cores, .fab] s (s.abortList l) := by
  unfold State.abortList
  split
  · exact Sound.refl s
  · exact ((State.discardWork_sound ..).trans
      (Sound.foldl (fun a m => (State.updStep_sound a m _).trans (State.event_sound ..)) _ _)).up

theorem State.abortFrom_sound : ∀ s x1, Sound [.evt, .ctl, .weir, .querns, .repl, .units, .cores, .fab] s (State.abortFrom s x1) := by
  intros
  unfold State.abortFrom
  with_reducible refine Sound.andThen ?_ (State.updCtl_sound ..)
  exact (State.abortList_sound ..).up

theorem State.rerun_sound : ∀ s, Sound [.ctl] s (State.rerun s) := by
  intros
  unfold State.rerun
  with_reducible refine Sound.andThen ?_ (State.updCtl_sound ..)
  with_reducible exact Sound.refl _

theorem State.haltAt_sound : ∀ s x1, Sound [.evt, .ctl, .weir, .querns, .repl, .units, .cores, .fab] s (State.haltAt s x1) := by
  intros
  unfold State.haltAt
  with_reducible refine Sound.andThen ?_ (State.event_sound ..)
  with_reducible refine Sound.andThen ?_ (State.updCtl_sound ..)
  with_reducible refine Sound.andThen ?_ (State.updStep_sound ..)
  with_reducible refine Sound.andThen ?_ (State.abortFrom_sound ..)
  with_reducible exact Sound.refl _

theorem State.unhalt_sound : ∀ s, Sound [.ctl, .weir, .querns, .repl, .units, .cores, .fab] s (State.unhalt s) := by
  intro s
  unfold State.unhalt
  extract_lets l t
  clear_value l
  have h : Sound [.ctl, .weir, .querns, .repl, .units, .cores, .fab] s t := by
    cases l
    · exact Sound.refl s
    · exact (State.discardWork_sound ..).up
  exact h.andThen (State.updCtl_sound ..)

end Sys2Proof.Machine
end

