-- ==== Sys2Proof/Laws/SoundDigests.lean ====
section
/-! SUPPORT. Operations of Machine/Digests.lean are sound. -/

namespace Sys2Proof.Machine

set_option Elab.async false

theorem State.rootParam_sound : ∀ s x1 x2 x3, Sound [.weir, .fab, .out] s (State.rootParam s x1 x2 x3) := by
  intros
  unfold State.rootParam
  with_reducible refine Sound.andThen ?_ (State.emitEach_sound ..)
  with_reducible refine Sound.andThen ?_ (State.updDigest_sound ..)
  with_reducible exact Sound.refl _

theorem State.tryRoot_sound : ∀ s x1, Sound [.weir, .fab, .out] s (State.tryRoot s x1) := by
  intros
  unfold State.tryRoot
  dsimp only
  split
  with_reducible refine Sound.andThen ?_ (State.rootParam_sound ..)
  with_reducible exact Sound.refl _
  with_reducible exact Sound.refl _

theorem State.takeBucket_sound : ∀ s x1 x2 x3 x4, Sound [.weir, .fab, .out] s (State.takeBucket s x1 x2 x3 x4) := by
  intros
  unfold State.takeBucket
  with_reducible refine Sound.andThen ?_ (State.tryRoot_sound ..)
  with_reducible refine Sound.andThen ?_ (State.updDigest_sound ..)
  with_reducible exact Sound.refl _

theorem State.takeBucketEnd_sound : ∀ s x1 x2 x3, Sound [.weir, .fab, .out] s (State.takeBucketEnd s x1 x2 x3) := by
  intros
  unfold State.takeBucketEnd
  with_reducible refine Sound.andThen ?_ (State.tryRoot_sound ..)
  with_reducible refine Sound.andThen ?_ (State.updDigest_sound ..)
  with_reducible exact Sound.refl _

theorem State.sendDigest_sound : ∀ s x1 x2, Sound [.fab, .out] s (State.sendDigest s x1 x2) := by
  intros
  unfold State.sendDigest
  split
  with_reducible exact Sound.refl _
  with_reducible refine Sound.andThen ?_ (State.emitAcked_sound ..)
  with_reducible exact Sound.refl _

theorem State.tryBuckets_sound (s : State) (n : Nat) : Sound [.weir, .fab, .out] s (s.tryBuckets n) := by
  unfold State.tryBuckets
  extract_lets d bs t
  split
  · have h : Sound [.weir, .fab, .out] s t := (State.updDigest_sound ..).up
    split
    · exact ((h.trans (Sound.foldl (fun a b => State.takeBucket_sound a ..) bs t)).trans (State.takeBucketEnd_sound ..)).up
    · exact ((h.trans (Sound.foldl (fun a b => State.sendDigest_sound a ..) bs t)).trans (State.sendDigest_sound ..)).up
  · exact Sound.refl s

theorem State.takeLeaf_sound : ∀ s x1 x2 x3 x4, Sound [.weir, .fab, .out] s (State.takeLeaf s x1 x2 x3 x4) := by
  intros
  unfold State.takeLeaf
  with_reducible refine Sound.andThen ?_ (State.tryBuckets_sound ..)
  with_reducible refine Sound.andThen ?_ (State.updDigest_sound ..)
  with_reducible exact Sound.refl _

theorem State.takeLeafEnd_sound : ∀ s x1 x2 x3, Sound [.weir, .fab, .out] s (State.takeLeafEnd s x1 x2 x3) := by
  intros
  unfold State.takeLeafEnd
  with_reducible refine Sound.andThen ?_ (State.tryBuckets_sound ..)
  with_reducible refine Sound.andThen ?_ (State.updDigest_sound ..)
  with_reducible exact Sound.refl _

theorem State.sendLeaves_sound : ∀ s x1 x2, Sound [.weir, .fab, .out] s (State.sendLeaves s x1 x2) := by
  intros
  unfold State.sendLeaves
  with_reducible refine Sound.andFold ?_ (fun a x => ?_)
  with_reducible refine Sound.andFold ?_ (fun a x => ?_)
  with_reducible exact Sound.refl _
  dsimp only
  split
  with_reducible refine Sound.andThen ?_ (State.takeLeaf_sound ..)
  with_reducible exact Sound.refl _
  with_reducible refine Sound.andThen ?_ (State.sendDigest_sound ..)
  with_reducible exact Sound.refl _
  dsimp only
  split
  with_reducible refine Sound.andThen ?_ (State.takeLeafEnd_sound ..)
  with_reducible exact Sound.refl _
  with_reducible refine Sound.andThen ?_ (State.sendDigest_sound ..)
  with_reducible exact Sound.refl _

theorem State.resendTiles_sound : ∀ s x1 x2 x3, Sound [.out] s (State.resendTiles s x1 x2 x3) := by
  intros
  unfold State.resendTiles
  with_reducible refine Sound.andFold ?_ (fun a x => ?_)
  with_reducible exact Sound.refl _
  split
  with_reducible refine Sound.andThen ?_ (State.emit_sound ..)
  with_reducible exact Sound.refl _
  with_reducible exact Sound.refl _

theorem State.resendRows_sound : ∀ s x1 x2 x3 x4, Sound [.fab, .out] s (State.resendRows s x1 x2 x3 x4) := by
  intros
  unfold State.resendRows
  with_reducible refine Sound.andFold ?_ (fun a x => ?_)
  with_reducible exact Sound.refl _
  split
  with_reducible refine Sound.andThen ?_ (State.sendRow_sound ..)
  with_reducible exact Sound.refl _
  with_reducible exact Sound.refl _

theorem State.takeDiffer_sound : ∀ s x1 x2 x3 x4 x5 x6, Sound [.ctl, .weir, .out] s (State.takeDiffer s x1 x2 x3 x4 x5 x6) := by
  intros
  unfold State.takeDiffer
  dsimp only
  split
  with_reducible refine Sound.andThen ?_ (State.updWeir_sound ..)
  split
  with_reducible refine Sound.andThen ?_ (State.repair_sound ..)
  with_reducible refine Sound.andThen ?_ (State.updDigest_sound ..)
  with_reducible refine Sound.andThen ?_ (State.beginRepair_sound ..)
  with_reducible exact Sound.refl _
  with_reducible refine Sound.andThen ?_ (State.repair_sound ..)
  with_reducible refine Sound.andThen ?_ (State.updDigest_sound ..)
  with_reducible refine Sound.andThen ?_ (State.beginRepair_sound ..)
  with_reducible exact Sound.refl _
  split
  with_reducible exact Sound.refl _
  with_reducible refine Sound.andThen ?_ (State.resendTiles_sound ..)
  with_reducible exact Sound.refl _

theorem State.startRebuild_sound : ∀ s x1 x2 x3 x4 x5, Sound [.evt, .ctl, .fab, .out] s (State.startRebuild s x1 x2 x3 x4 x5) := by
  intros
  unfold State.startRebuild
  with_reducible refine Sound.andThen ?_ (State.sendDigest_sound ..)
  with_reducible refine Sound.andThen ?_ (State.raise_sound ..)
  with_reducible exact Sound.refl _

theorem State.diverged_sound (s : State) (n : Nat) (k : CmpKey) (ref : List Byte) : Sound [.evt, .ctl, .weir, .fab, .out] s (s.diverged n k ref) := by
  unfold State.diverged
  extract_lets t f dests t'
  split
  · exact (State.startRebuild_sound ..).up
  · exact (State.startRebuild_sound ..).up
  · exact (((State.raise_sound ..).trans (Sound.foldl (fun a d => State.sendDigest_sound a d f) dests t)).trans (State.takeDiffer_sound ..)).up
  · exact (((State.raise_sound ..).trans (State.sendDigest_sound ..)).trans (State.resendRows_sound ..)).up

theorem State.compareOne_sound : ∀ s x1 x2, Sound [.evt, .ctl, .weir, .fab, .out] s (State.compareOne s x1 x2) := by
  intros
  unfold State.compareOne
  dsimp only
  split
  split
  with_reducible exact Sound.refl _
  split
  with_reducible refine Sound.andThen ?_ (State.updDigest_sound ..)
  with_reducible refine Sound.andThen ?_ (State.updDigest_sound ..)
  with_reducible exact Sound.refl _
  with_reducible refine Sound.andThen ?_ (State.diverged_sound ..)
  with_reducible refine Sound.andThen ?_ (State.updDigest_sound ..)
  with_reducible exact Sound.refl _
  with_reducible exact Sound.refl _

theorem State.compareAll_sound : ∀ s x1, Sound [.evt, .ctl, .weir, .fab, .out] s (State.compareAll s x1) := by
  intros
  unfold State.compareAll
  with_reducible refine Sound.andFold ?_ (fun a x => ?_)
  with_reducible exact Sound.refl _
  with_reducible refine Sound.andThen ?_ (State.compareOne_sound ..)
  with_reducible exact Sound.refl _

theorem State.takeCmp_sound : ∀ s x1 x2 x3, Sound [.evt, .ctl, .weir, .fab, .out] s (State.takeCmp s x1 x2 x3) := by
  intros
  unfold State.takeCmp
  with_reducible refine Sound.andThen ?_ (State.compareAll_sound ..)
  with_reducible refine Sound.andThen ?_ (State.updDigest_sound ..)
  with_reducible exact Sound.refl _

theorem State.takeSource_sound : ∀ s x1 x2 x3 x4, Sound [.evt, .ctl, .weir, .fab, .out] s (State.takeSource s x1 x2 x3 x4) := by
  intros
  unfold State.takeSource
  with_reducible refine Sound.andThen ?_ (State.compareAll_sound ..)
  with_reducible refine Sound.andThen ?_ (State.updDigest_sound ..)
  with_reducible exact Sound.refl _

theorem State.digestTo_sound : ∀ s x1 x2 x3, Sound [.fab, .out] s (State.digestTo s x1 x2 x3) := by
  intros
  unfold State.digestTo
  split
  · exact (State.sendDigest_sound ..).up
  · exact Sound.refl _

theorem State.sendWcCmp_sound : ∀ s x1 x2 x3, Sound [.evt, .ctl, .weir, .fab, .out] s (State.sendWcCmp s x1 x2 x3) := by
  intro s n dst t
  unfold State.sendWcCmp
  extract_lets d src x a
  have h : Sound [.evt, .ctl, .weir, .fab, .out] s a := by
    dsimp only [a]
    split
    · exact Sound.refl _
    · split
      · exact (State.takeSource_sound ..).up
      · exact (State.sendDigest_sound ..).up
  split
  · exact h
  · split
    · exact h.andThen (State.takeCmp_sound ..)
    · exact h.andThen (State.sendDigest_sound ..)

theorem State.sendCmps_sound : ∀ s x1 x2, Sound [.evt, .ctl, .weir, .fab, .out] s (State.sendCmps s x1 x2) := by
  intro s n dst
  unfold State.sendCmps
  extract_lets dense rows a b c
  with_reducible refine Sound.andFold ?_ (fun a x => (State.digestTo_sound ..).up)
  dsimp only [c]
  with_reducible refine Sound.andFold ?_ (fun a x => (State.sendWcCmp_sound ..).up)
  dsimp only [b]
  with_reducible refine Sound.andFold ?_ (fun a x => (State.digestTo_sound ..).up)
  dsimp only [a]
  with_reducible refine Sound.andFold ?_ (fun a x => (State.digestTo_sound ..).up)
  exact Sound.refl _

theorem State.sealDigests_sound : ∀ s x1, Sound [.evt, .ctl, .weir, .fab, .out] s (State.sealDigests s x1) := by
  intros
  unfold State.sealDigests
  with_reducible refine Sound.andThen ?_ (State.compareAll_sound ..)
  with_reducible refine Sound.andThen ?_ (State.sendCmps_sound ..)
  with_reducible refine Sound.andThen ?_ (State.sendLeaves_sound ..)
  with_reducible refine Sound.andThen ?_ (State.updDigest_sound ..)
  with_reducible exact Sound.refl _

theorem State.resendSeal_sound : ∀ s x1 x2, Sound [.evt, .ctl, .weir, .fab, .out] s (State.resendSeal s x1 x2) := by
  intro s failed n
  unfold State.resendSeal
  extract_lets to' d root a b bs c e
  split
  · exact Sound.refl _
  · have h : Sound [.evt, .ctl, .weir, .fab, .out] s e := by
      have hc : Sound [.evt, .ctl, .weir, .fab, .out] s c := by
        dsimp only [c]
        with_reducible refine Sound.andFold ?_ (fun a x => (State.sendDigest_sound ..).up)
        dsimp only [b]
        with_reducible refine Sound.andThen ?_ (State.sendCmps_sound ..)
        with_reducible refine Sound.andThen ?_ (State.sendLeaves_sound ..)
        exact (State.updWeir_sound ..).up
      dsimp only [e]
      split
      · exact hc.andThen (State.sendDigest_sound ..)
      · exact hc
    split
    · split
      · exact h.andFold (fun a x => (State.sendDigest_sound ..).up)
      · exact h
    · exact h

theorem State.askReplay_sound : ∀ s x1 x2 x3 x4, Sound [.ctl, .weir, .out] s (State.askReplay s x1 x2 x3 x4) := by
  intros
  unfold State.askReplay
  split
  with_reducible refine Sound.andThen ?_ (State.emit_sound ..)
  with_reducible refine Sound.andThen ?_ (State.repair_sound ..)
  with_reducible refine Sound.andThen ?_ (State.updWeir_sound ..)
  with_reducible exact Sound.refl _
  with_reducible exact Sound.refl _

theorem State.takeReplay_sound : ∀ s x1, Sound [.evt, .ctl, .weir, .querns, .repl, .units, .cores, .fab] s (State.takeReplay s x1) := by
  intros
  unfold State.takeReplay
  dsimp only
  split
  with_reducible exact Sound.refl _
  split
  with_reducible refine Sound.andThen ?_ (State.abortFrom_sound ..)
  with_reducible exact Sound.refl _
  with_reducible refine Sound.andThen ?_ (State.rerun_sound ..)
  with_reducible refine Sound.andThen ?_ (State.abortFrom_sound ..)
  with_reducible exact Sound.refl _

theorem State.issueOrder_sound : ∀ s x1 x2, Sound [.ctl, .fab, .out] s (State.issueOrder s x1 x2) := by
  intro s name o
  unfold State.issueOrder
  extract_lets p t
  have h : Sound [.ctl, .fab, .out] s t := by
    dsimp only [t]
    exact (State.updCtl_sound ..).up
  split
  · exact h
  · exact h.andThen (State.emitAcked_sound ..)

theorem State.updStandby_sound : ∀ s x1, Sound [.atl] s (State.updStandby s x1) := by
  intros
  unfold State.updStandby
  split
  with_reducible refine Sound.andThen ?_ (State.updCtx_sound ..)
  with_reducible exact Sound.refl _
  with_reducible exact Sound.refl _

theorem State.putRebuilt_sound : ∀ s x1 x2 x3, Sound [.atl, .ctl, .weir, .rows, .fab, .out] s (State.putRebuilt s x1 x2 x3) := by
  intro s n key pre
  unfold State.putRebuilt
  extract_lets t j r tau
  split
  · split
    · rename_i new old _ _
      extract_lets differs u v
      have hu : Sound [.atl, .ctl, .weir, .rows, .fab, .out] s u := by
        dsimp only [u]
        with_reducible refine Sound.andThen ?_ (State.updStandby_sound ..)
        with_reducible refine Sound.lit ?_
        exact Sound.refl _
      have hv : Sound [.atl, .ctl, .weir, .rows, .fab, .out] s v := by
        dsimp only [v]
        split
        · exact hu.andFold (fun a x => (State.sendRow_sound ..).up)
        · exact hu
      split
      · exact hv.andThen (State.askReplay_sound ..)
      · exact hv
    · exact Sound.refl _
  · split
    · extract_lets u
      have hu : Sound [.atl, .ctl, .weir, .rows, .fab, .out] s u := by
        dsimp only [u]
        with_reducible refine Sound.andThen ?_ (State.updStandby_sound ..)
        exact (State.updTile_sound ..).up
      split
      · with_reducible refine Sound.andThen ?_ (State.askReplay_sound ..)
        exact hu.andThen (State.sendTile_sound ..)
      · exact hu
    · exact Sound.refl _

theorem State.updRebuild_sound : ∀ s x1 x2, Sound [.weir] s (State.updRebuild s x1 x2) := by
  intros
  unfold State.updRebuild
  with_reducible refine Sound.andThen ?_ (State.updWeir_sound ..)
  with_reducible exact Sound.refl _

theorem State.sendRedo_sound : ∀ s x1, Sound [.fab, .out] s (State.sendRedo s x1) := by
  intros
  unfold State.sendRedo
  with_reducible refine Sound.andThen ?_ (State.sendDigest_sound ..)
  with_reducible exact Sound.refl _

theorem State.takeLeaves_sound : ∀ s x1 x2 x3 x4 x5 x6, Sound [.evt, .ctl, .weir, .fab, .out] s (State.takeLeaves s x1 x2 x3 x4 x5 x6) := by
  intros
  unfold State.takeLeaves
  with_reducible refine Sound.andFold ?_ (fun a x => ?_)
  with_reducible refine Sound.andThen ?_ (State.updWeir_sound ..)
  split
  split
  with_reducible exact Sound.refl _
  with_reducible refine Sound.andThen ?_ (State.startRebuild_sound ..)
  with_reducible exact Sound.refl _
  split
  with_reducible exact Sound.refl _
  with_reducible refine Sound.andThen ?_ (State.startRebuild_sound ..)
  with_reducible exact Sound.refl _
  with_reducible refine Sound.andThen ?_ (State.sendRedo_sound ..)
  with_reducible exact Sound.refl _

theorem State.endRebuild_sound (s : State) (r : Rebuild) : Sound [.atl, .ctl, .weir, .rows, .fab, .out] s (s.endRebuild r) := by
  unfold State.endRebuild
  extract_lets t u v
  have h : Sound [.atl, .ctl, .weir, .rows, .fab, .out] s u := (((State.putRebuilt_sound ..).trans (State.updWeir_sound ..)).trans (State.repair_sound ..)).up
  have hv : Sound [.atl, .ctl, .weir, .rows, .fab, .out] s v := by
    show Sound [.atl, .ctl, .weir, .rows, .fab, .out] s (if _ then _ else _)
    split
    · exact (h.trans (State.repair_sound ..)).up
    · exact h
  split
  · exact hv
  · exact (hv.trans (State.updDigest_sound ..)).up

theorem execRebuildRedo_sound : ∀ x0 x1 x2 s, SoundOut [.atl, .evt, .ctl, .weir, .rows, .fab, .out] s (execRebuildRedo x0 x1 x2 s) := by
  intros
  unfold execRebuildRedo
  split
  · exact SoundOut.next (Sound.refl _)
  · split
    · split
      · exact SoundOut.next (Sound.refl _)
      · exact SoundOut.next (State.updRebuild_sound ..).up
    · split
      · exact SoundOut.next (State.endRebuild_sound ..).up
      · dsimp only
        split
        · refine SoundOut.next ?_
          with_reducible refine Sound.andThen ?_ (State.raise_sound ..)
          exact (State.updWeir_sound ..).up
        · exact SoundOut.next (State.updWeir_sound ..).up

theorem execRebuildHostLimit_sound : ∀ x0 s, SoundOut [.now, .evt, .ctl, .weir] s (execRebuildHostLimit x0 s) := by
  intro at' s
  unfold execRebuildHostLimit
  extract_lets late t
  refine SoundOut.next ?_
  refine Sound.andFold ?_ (fun a x => ?_)
  · dsimp only [t]
    with_reducible refine Sound.andThen ?_ (State.updWeir_sound ..)
    exact (State.at'_sound ..).up
  · split
    · exact (State.raise_sound ..).up
    · exact Sound.refl _

theorem State.takeDigest_sound (s : State) (f : DigestFrame) : Sound [.evt, .ctl, .weir, .fab, .out] s (s.takeDigest f) := by
  cases f with
  | leaf => exact (State.takeLeaf_sound ..).up
  | leafEnd => exact (State.takeLeafEnd_sound ..).up
  | bucket => exact (State.takeBucket_sound ..).up
  | bucketEnd => exact (State.takeBucketEnd_sound ..).up
  | shard => exact (State.takeCmp_sound ..).up
  | wc => exact (State.takeCmp_sound ..).up
  | wcSource => exact (State.takeSource_sound ..).up
  | shardLeaves => exact (State.takeLeaves_sound ..).up
  | redo => exact Sound.refl s
  | differ => exact (State.takeDiffer_sound ..).up
  | replica => exact (State.takeCmp_sound ..).up
  | param => exact (State.updDigest_sound ..).up

theorem execDigest_sound : ∀ x0 x1 s, SoundOut [.evt, .ctl, .weir, .fab, .out] s (execDigest x0 x1 s) := by
  intros
  unfold execDigest
  with_reducible refine SoundOut.next ?_
  with_reducible refine Sound.andThen ?_ (State.takeDigest_sound ..)
  with_reducible refine Sound.andThen ?_ (State.emit_sound ..)
  with_reducible exact Sound.refl _

theorem State.repairOk_sound : ∀ s x1 x2 x3 x4, Sound [.evt, .ctl, .weir, .fab, .out] s (State.repairOk s x1 x2 x3 x4) := by
  intros
  unfold State.repairOk
  extract_lets
  split
  with_reducible refine Sound.andThen ?_ (State.askReplay_sound ..)
  extract_lets
  dsimp +zetaDelta only
  split
  with_reducible refine Sound.andThen ?_ (State.sendDigest_sound ..)
  extract_lets
  with_reducible refine Sound.andThen ?_ (State.tryInstall_sound ..)
  extract_lets
  with_reducible refine Sound.andThen ?_ (State.updDigest_sound ..)
  extract_lets
  with_reducible exact Sound.refl _
  split
  with_reducible refine Sound.andThen ?_ (State.takeCmp_sound ..)
  extract_lets
  with_reducible refine Sound.andThen ?_ (State.tryInstall_sound ..)
  extract_lets
  with_reducible refine Sound.andThen ?_ (State.updDigest_sound ..)
  extract_lets
  with_reducible exact Sound.refl _
  with_reducible refine Sound.andThen ?_ (State.sendDigest_sound ..)
  extract_lets
  with_reducible refine Sound.andThen ?_ (State.tryInstall_sound ..)
  extract_lets
  with_reducible refine Sound.andThen ?_ (State.updDigest_sound ..)
  extract_lets
  with_reducible exact Sound.refl _
  with_reducible refine Sound.andThen ?_ (State.rerun_sound ..)
  extract_lets
  with_reducible refine Sound.andThen ?_ (State.askReplay_sound ..)
  extract_lets
  dsimp +zetaDelta only
  split
  with_reducible refine Sound.andThen ?_ (State.sendDigest_sound ..)
  extract_lets
  with_reducible refine Sound.andThen ?_ (State.tryInstall_sound ..)
  extract_lets
  with_reducible refine Sound.andThen ?_ (State.updDigest_sound ..)
  extract_lets
  with_reducible exact Sound.refl _
  split
  with_reducible refine Sound.andThen ?_ (State.takeCmp_sound ..)
  extract_lets
  with_reducible refine Sound.andThen ?_ (State.tryInstall_sound ..)
  extract_lets
  with_reducible refine Sound.andThen ?_ (State.updDigest_sound ..)
  extract_lets
  with_reducible exact Sound.refl _
  with_reducible refine Sound.andThen ?_ (State.sendDigest_sound ..)
  extract_lets
  with_reducible refine Sound.andThen ?_ (State.tryInstall_sound ..)
  extract_lets
  with_reducible refine Sound.andThen ?_ (State.updDigest_sound ..)
  extract_lets
  with_reducible exact Sound.refl _

theorem execReplicaRepairDone_sound : ∀ x0 x1 x2 x3 s, SoundOut [.evt, .ctl, .weir, .fab, .out] s (execReplicaRepairDone x0 x1 x2 x3 s) := by
  intros
  unfold execReplicaRepairDone
  dsimp only
  split
  with_reducible refine SoundOut.next ?_
  with_reducible exact Sound.refl _
  split
  with_reducible refine SoundOut.next ?_
  with_reducible refine Sound.andThen ?_ (State.repairOk_sound ..)
  with_reducible exact Sound.refl _
  split
  with_reducible refine SoundOut.next ?_
  with_reducible refine Sound.andThen ?_ (State.repairOk_sound ..)
  with_reducible exact Sound.refl _
  with_reducible refine SoundOut.next ?_
  with_reducible refine Sound.andThen ?_ (State.raise_sound ..)
  with_reducible exact Sound.refl _

end Sys2Proof.Machine
end

