-- ==== Sys2Proof/Laws/SoundSteps.lean ====
section
/-! SUPPORT. Operations of Machine/Steps.lean are sound. -/

namespace Sys2Proof.Machine

set_option Elab.async false

theorem State.boundary_sound : ∀ s x1, Sound [.ldr, .ctl] s (State.boundary s x1) := by
  intros
  unfold State.boundary
  with_reducible refine Sound.andThen ?_ (State.updStep_sound ..)
  with_reducible refine Sound.andThen ?_ (State.updLdr_sound fun hk => ?_)
  with_reducible exact Sound.refl _
  exact hk

theorem State.settleWrites_sound : ∀ s x1, Sound [.ldr] s (State.settleWrites s x1) := by
  intros
  unfold State.settleWrites
  with_reducible refine Sound.andThen ?_ (State.updLdr_sound fun hk => ?_)
  with_reducible exact Sound.refl _
  exact hk

theorem State.admitMb_sound : ∀ s x1 x2 x3 x4, Sound [.ldr, .evt, .ctl, .cores] s (State.admitMb s x1 x2 x3 x4) := by
  intros
  unfold State.admitMb
  dsimp only
  split
  with_reducible refine Sound.andFold ?_ (fun a x => ?_)
  with_reducible refine Sound.andThen ?_ (State.updCtl_sound ..)
  with_reducible refine Sound.andThen ?_ (State.updStep_sound ..)
  split
  with_reducible refine Sound.andThen ?_ (State.boundary_sound ..)
  with_reducible exact Sound.refl _
  with_reducible exact Sound.refl _
  with_reducible refine Sound.andThen ?_ (State.millReserve_sound ..)
  with_reducible exact Sound.refl _
  with_reducible refine Sound.andThen ?_ (State.raise_sound ..)
  with_reducible refine Sound.andFold ?_ (fun a x => ?_)
  with_reducible refine Sound.andThen ?_ (State.updCtl_sound ..)
  with_reducible refine Sound.andThen ?_ (State.updStep_sound ..)
  split
  with_reducible refine Sound.andThen ?_ (State.boundary_sound ..)
  with_reducible exact Sound.refl _
  with_reducible exact Sound.refl _
  with_reducible refine Sound.andThen ?_ (State.millReserve_sound ..)
  with_reducible exact Sound.refl _

theorem execMbAdmit_sound : ∀ x0 s, SoundOut [.now, .ldr, .evt, .ctl, .weir, .cores] s (execMbAdmit x0 s) := by
  intro ⟨feed, at', cyc⟩ s
  unfold execMbAdmit
  extract_lets x t
  have ht : Sound [.now, .ldr, .evt, .ctl, .weir, .cores] s t := by
    dsimp only [t]
    exact (State.at'_sound ..).up
  split
  · exact SoundOut.next (Sound.refl _)
  · split
    · exact SoundOut.next (ht.andThen (State.admitMb_sound ..))
    · exact SoundOut.next (ht.andThen (State.weirStall_sound ..))

theorem State.sendMarkers_sound : ∀ s x1, Sound [.querns, .out] s (State.sendMarkers s x1) := by
  intros
  unfold State.sendMarkers
  with_reducible refine Sound.andFold ?_ (fun a x => ?_)
  with_reducible exact Sound.refl _
  with_reducible refine Sound.andFold ?_ (fun a x => ?_)
  with_reducible exact Sound.refl _
  dsimp only
  split
  with_reducible refine Sound.andThen ?_ (State.updSet_sound ..)
  with_reducible exact Sound.refl _
  with_reducible refine Sound.andThen ?_ (State.emit_sound ..)
  with_reducible exact Sound.refl _

theorem State.release_sound : ∀ s x1 x2 x3, Sound [.evt, .ctl, .querns, .cores, .out] s (State.release s x1 x2 x3) := by
  intro s k cyc x
  unfold State.release
  extract_lets a b p c
  have ha : Sound [.evt, .ctl, .querns, .cores, .out] s a := by
    dsimp only [a]
    with_reducible refine Sound.litCores ?_ (fun k hk => ?_)
    · exact Sound.refl _
    · exact hk
  have hb : Sound [.evt, .ctl, .querns, .cores, .out] s b := by
    dsimp only [b]
    with_reducible refine Sound.andThen ?_ (State.updCtl_sound ..)
    exact ha.andThen (State.cancelAll_sound ..)
  have hp : Sound [.evt, .ctl, .querns, .cores, .out] s p := by
    dsimp only [p]
    with_reducible refine Sound.andFold hb (fun a x => ?_)
    exact (State.payStash_sound ..).up
  have hc : Sound [.evt, .ctl, .querns, .cores, .out] s c := by
    dsimp only [c]
    exact hp.andThen (State.updStep_sound ..)
  split
  · with_reducible refine Sound.andThen ?_ (State.sendMarkers_sound ..)
    exact hc.andThen (State.updStep_sound ..)
  · exact hc

theorem execSlotRelease_sound : ∀ x0 s, SoundOut [.evt, .ctl, .querns, .cores, .out] s (execSlotRelease x0 s) := by
  intros
  unfold execSlotRelease
  split
  split
  with_reducible refine SoundOut.next ?_
  with_reducible refine Sound.andThen ?_ (State.release_sound ..)
  with_reducible exact Sound.refl _
  with_reducible refine SoundOut.next ?_
  with_reducible exact Sound.refl _
  with_reducible refine SoundOut.next ?_
  with_reducible exact Sound.refl _

theorem execGatherClose_sound : ∀ x0 s, SoundOut [.ctl] s (execGatherClose x0 s) := by
  intros
  unfold execGatherClose
  split
  with_reducible refine SoundOut.next ?_
  with_reducible refine Sound.andThen ?_ (State.updStep_sound ..)
  with_reducible exact Sound.refl _
  with_reducible refine SoundOut.next ?_
  with_reducible exact Sound.refl _

theorem State.formDecision_sound : ∀ s x1 x2 x3, Sound [.evt, .ctl, .weir, .fab, .out] s (State.formDecision s x1 x2 x3) := by
  intros
  unfold State.formDecision
  with_reducible refine Sound.andThen ?_ (State.emitAcked_sound ..)
  dsimp only
  split
  split
  with_reducible refine Sound.andThen ?_ (State.raise_sound ..)
  with_reducible refine Sound.andThen ?_ (State.updWeir_sound ..)
  with_reducible refine Sound.andThen ?_ (State.updCtl_sound ..)
  with_reducible exact Sound.refl _
  with_reducible refine Sound.andThen ?_ (State.updWeir_sound ..)
  with_reducible refine Sound.andThen ?_ (State.updCtl_sound ..)
  with_reducible exact Sound.refl _
  with_reducible refine Sound.andThen ?_ (State.updCtl_sound ..)
  with_reducible exact Sound.refl _

theorem State.tryReduce_sound : ∀ s x1, Sound [.evt, .ctl, .weir, .fab, .out] s (State.tryReduce s x1) := by
  intros
  unfold State.tryReduce
  dsimp only
  split
  split
  split
  with_reducible refine Sound.andThen ?_ (State.formDecision_sound ..)
  with_reducible refine Sound.andThen ?_ (State.updCtl_sound ..)
  with_reducible exact Sound.refl _
  with_reducible refine Sound.andThen ?_ (State.emit_sound ..)
  with_reducible refine Sound.andThen ?_ (State.updCtl_sound ..)
  with_reducible exact Sound.refl _
  with_reducible exact Sound.refl _
  with_reducible exact Sound.refl _

theorem State.takeWord_sound : ∀ s x1 x2 x3, Sound [.evt, .ctl, .weir, .fab, .out] s (State.takeWord s x1 x2 x3) := by
  intros
  unfold State.takeWord
  split
  with_reducible exact Sound.refl _
  with_reducible refine Sound.andThen ?_ (State.tryReduce_sound ..)
  with_reducible refine Sound.andThen ?_ (State.updCtl_sound ..)
  with_reducible exact Sound.refl _

theorem execVoteSend_sound : ∀ x0 s, SoundOut [.evt, .ctl, .weir, .fab, .out] s (execVoteSend x0 s) := by
  intros
  unfold execVoteSend
  dsimp only
  split
  with_reducible refine SoundOut.next ?_
  with_reducible refine Sound.andThen ?_ (State.takeWord_sound ..)
  with_reducible refine Sound.andThen ?_ (State.updStep_sound ..)
  split
  with_reducible refine Sound.andThen ?_ (State.updStep_sound ..)
  with_reducible exact Sound.refl _
  with_reducible exact Sound.refl _
  with_reducible refine SoundOut.next ?_
  with_reducible exact Sound.refl _

theorem execVote_sound : ∀ x0 s, SoundOut [.evt, .ctl, .weir, .fab, .out] s (execVote x0 s) := by
  intros
  unfold execVote
  split
  with_reducible refine SoundOut.next ?_
  with_reducible exact Sound.refl _
  split
  with_reducible refine SoundOut.next ?_
  with_reducible refine Sound.andThen ?_ (State.gatherWeights_sound ..)
  with_reducible exact Sound.refl _
  with_reducible refine SoundOut.next ?_
  with_reducible refine Sound.andThen ?_ (State.takeWord_sound ..)
  with_reducible exact Sound.refl _

theorem execVoteMirrorStore_sound : ∀ x0 s, SoundOut [.ctl, .out] s (execVoteMirrorStore x0 s) := by
  intros
  unfold execVoteMirrorStore
  split
  with_reducible refine SoundOut.next ?_
  with_reducible refine Sound.andThen ?_ (State.emit_sound ..)
  with_reducible refine Sound.andThen ?_ (State.updCtl_sound ..)
  with_reducible exact Sound.refl _
  with_reducible refine SoundOut.next ?_
  with_reducible exact Sound.refl _

theorem State.takeTarget_sound : ∀ s x1, Sound [.evt, .ctl] s (State.takeTarget s x1) := by
  intros
  unfold State.takeTarget
  dsimp only
  split
  with_reducible refine Sound.andThen ?_ (State.raise_sound ..)
  with_reducible refine Sound.andThen ?_ (State.updCtl_sound ..)
  with_reducible exact Sound.refl _
  with_reducible refine Sound.andThen ?_ (State.updCtl_sound ..)
  with_reducible exact Sound.refl _

theorem State.takeTargetWrite_sound : ∀ s x1, Sound [.evt, .ctl, .rcv] s (State.takeTargetWrite s x1) := by
  intros
  unfold State.takeTargetWrite
  dsimp only
  split
  with_reducible refine Sound.andThen ?_ (State.updCtl_sound ..)
  with_reducible exact Sound.refl _
  split
  with_reducible refine Sound.andThen ?_ (State.updCtl_sound ..)
  with_reducible exact Sound.refl _
  split
  with_reducible refine Sound.andThen ?_ (State.updRcv_sound ..)
  with_reducible refine Sound.andThen ?_ (State.updCtl_sound ..)
  with_reducible exact Sound.refl _
  split
  split
  with_reducible refine Sound.andThen ?_ (State.takeTarget_sound ..)
  with_reducible exact Sound.refl _
  with_reducible exact Sound.refl _
  with_reducible exact Sound.refl _

theorem State.holdWrites_sound : ∀ s x1, Sound [.ldr, .evt, .ctl, .rcv] s (State.holdWrites s x1) := by
  intros
  unfold State.holdWrites
  with_reducible refine Sound.andFold ?_ (fun a x => ?_)
  with_reducible refine Sound.andThen ?_ (State.updLdr_sound fun hk => ?_)
  with_reducible exact Sound.refl _
  exact hk
  with_reducible refine Sound.andThen ?_ (State.takeTargetWrite_sound ..)
  with_reducible exact Sound.refl _

theorem State.doApply_sound (s : State) (n : Nat) : Sound [.fresh, .evt, .ctl, .weir, .querns, .rows, .repl, .fab, .out] s (s.doApply n) :=
  (((((State.promote_sound ..).trans (State.beginArrival_sound ..)).trans (State.gatherWeights_sound ..)).trans
    (State.applyRows_sound ..)).trans (State.releaseRetained_sound ..)).up

theorem State.skipArrive_sound : ∀ s x1 x2, Sound [.evt, .ctl, .weir, .fab, .out] s (State.skipArrive s x1 x2) := by
  intros
  unfold State.skipArrive
  split
  split
  with_reducible refine Sound.andThen ?_ (State.acceptSet_sound ..)
  with_reducible exact Sound.refl _
  with_reducible refine Sound.andThen ?_ (State.badSet_sound ..)
  with_reducible exact Sound.refl _
  with_reducible refine Sound.andThen ?_ (State.badSet_sound ..)
  with_reducible exact Sound.refl _

theorem State.doSkip_sound (s : State) (n : Nat) (z : Option ScaleSet) : Sound [.evt, .ctl, .weir, .querns, .repl, .fab, .out] s (s.doSkip n z) :=
  ((((((State.beginArrival_sound ..).trans (State.skipArrive_sound ..)).trans (State.dropCands_sound ..)).trans
    (State.skipRows_sound ..)).trans (State.releaseRetained_sound ..)).trans (State.event_sound ..)).up

theorem State.act_sound (s : State) (d : DecisionMsg) : Sound [.fresh, .evt, .ctl, .weir, .querns, .rows, .repl, .units, .cores, .fab, .out] s (s.act d) := by
  unfold State.act
  split
  · exact ((State.updStep_sound ..).trans (State.doApply_sound ..)).up
  · exact ((State.updStep_sound ..).trans (State.doSkip_sound ..)).up
  · dsimp only
    split
    · exact ((State.abortFrom_sound ..).trans (State.rerun_sound ..)).up
    · exact (State.abortFrom_sound ..).up
  · exact (State.haltAt_sound ..).up

theorem State.takeDecision_sound : ∀ s x1, Sound [.fresh, .ldr, .evt, .ctl, .weir, .querns, .rows, .repl, .units, .cores, .fab, .rcv, .out] s (State.takeDecision s x1) := by
  intros
  unfold State.takeDecision
  with_reducible refine Sound.andThen ?_ (State.act_sound ..)
  with_reducible refine Sound.andThen ?_ (State.holdWrites_sound ..)
  with_reducible refine Sound.andThen ?_ (State.emitEach_sound ..)
  with_reducible refine Sound.andThen ?_ (State.updStep_sound ..)
  with_reducible refine Sound.andThen ?_ (State.updCtl_sound ..)
  with_reducible exact Sound.refl _

theorem State.markAttached_sound : ∀ s x1, Sound [.ldr] s (State.markAttached s x1) := by
  intros
  unfold State.markAttached
  split
  with_reducible refine Sound.andThen ?_ (State.updLdr_sound fun hk => ?_)
  with_reducible exact Sound.refl _
  exact hk
  with_reducible exact Sound.refl _

theorem execDecisionBroadcast_sound : ∀ x0 s, SoundOut [.fresh, .ldr, .evt, .ctl, .weir, .querns, .rows, .repl, .units, .cores, .fab, .rcv, .out] s (execDecisionBroadcast x0 s) := by
  intros
  unfold execDecisionBroadcast
  dsimp only
  split
  split
  with_reducible refine SoundOut.next ?_
  with_reducible exact Sound.refl _
  split
  with_reducible refine SoundOut.next ?_
  with_reducible refine Sound.andThen ?_ (State.takeDecision_sound ..)
  with_reducible refine Sound.andThen ?_ (State.updCtl_sound ..)
  with_reducible refine Sound.andThen ?_ (State.markAttached_sound ..)
  with_reducible exact Sound.refl _
  with_reducible refine SoundOut.next ?_
  with_reducible refine Sound.andThen ?_ (State.updCtl_sound ..)
  with_reducible refine Sound.andThen ?_ (State.markAttached_sound ..)
  with_reducible exact Sound.refl _
  with_reducible refine SoundOut.next ?_
  with_reducible exact Sound.refl _

theorem execDecision_sound : ∀ x0 s, SoundOut [.fresh, .ldr, .evt, .ctl, .weir, .querns, .rows, .repl, .units, .cores, .fab, .rcv, .out] s (execDecision x0 s) := by
  intros
  unfold execDecision
  dsimp only
  split
  with_reducible refine SoundOut.next ?_
  with_reducible exact Sound.refl _
  split
  with_reducible refine SoundOut.next ?_
  with_reducible refine Sound.andThen ?_ (State.takeDecision_sound ..)
  with_reducible refine Sound.andThen ?_ (State.emit_sound ..)
  with_reducible exact Sound.refl _
  with_reducible refine SoundOut.next ?_
  with_reducible refine Sound.andThen ?_ (State.emit_sound ..)
  with_reducible exact Sound.refl _

theorem execApplyEnd_sound : ∀ x0 s, SoundOut [.evt, .ctl, .weir, .fab, .out] s (execApplyEnd x0 s) := by
  intros
  unfold execApplyEnd
  dsimp only
  split
  split
  with_reducible refine SoundOut.next ?_
  split
  with_reducible refine Sound.andThen ?_ (State.rootParam_sound ..)
  with_reducible refine Sound.andThen ?_ (State.updStep_sound ..)
  with_reducible exact Sound.refl _
  with_reducible refine Sound.andThen ?_ (State.updStep_sound ..)
  with_reducible exact Sound.refl _
  with_reducible refine SoundOut.next ?_
  with_reducible refine Sound.andThen ?_ (State.sealDigests_sound ..)
  with_reducible refine Sound.andThen ?_ (State.updStep_sound ..)
  with_reducible exact Sound.refl _
  with_reducible refine SoundOut.next ?_
  with_reducible exact Sound.refl _

theorem execStbyHeaderWrite_sound : ∀ x0 s, SoundOut [.atl, .ctl, .weir, .querns, .rows] s (execStbyHeaderWrite x0 s) := by
  intros
  unfold execStbyHeaderWrite
  dsimp only
  split
  with_reducible refine SoundOut.next ?_
  with_reducible exact Sound.refl _
  split
  with_reducible refine SoundOut.next ?_
  with_reducible refine Sound.andThen ?_ (State.updStep_sound ..)
  with_reducible exact Sound.refl _
  split
  with_reducible refine SoundOut.next ?_
  with_reducible refine Sound.andThen ?_ (State.weirStall_sound ..)
  with_reducible refine Sound.andThen ?_ (State.updStandby_sound ..)
  with_reducible exact Sound.refl _
  with_reducible refine SoundOut.next ?_
  with_reducible refine Sound.andThen ?_ (State.updStep_sound ..)
  with_reducible refine Sound.andThen ?_ (State.updStandby_sound ..)
  with_reducible exact Sound.refl _

theorem State.endTakeover_sound : ∀ s x1, Sound [.evt, .ctl, .rcv, .out] s (State.endTakeover s x1) := by
  intros
  unfold State.endTakeover
  with_reducible refine Sound.andThen ?_ (State.emit_sound ..)
  with_reducible refine Sound.andThen ?_ (State.event_sound ..)
  with_reducible refine Sound.andThen ?_ (State.updRcv_sound ..)
  with_reducible exact Sound.refl _

theorem State.endRoll_sound : ∀ s x1, Sound [.evt, .ctl, .rcv, .out] s (State.endRoll s x1) := by
  intros
  unfold State.endRoll
  split
  split
  with_reducible refine Sound.andThen ?_ (State.endTakeover_sound ..)
  with_reducible exact Sound.refl _
  with_reducible exact Sound.refl _
  with_reducible exact Sound.refl _

theorem execSealComplete_sound (step : Nat) (s : State) : SoundOut [.ldr, .evt, .ctl, .weir, .querns, .rows, .rcv, .out] s (execSealComplete step s) := by
  unfold execSealComplete
  split
  · exact .next (((((((State.sealRows_sound ..).trans (State.settleWrites_sound ..)).trans (State.updStep_sound ..)).trans
      (State.updWeir_sound ..)).trans (State.updCtl_sound ..)).trans (State.endRoll_sound ..)).up)
  · exact .next (Sound.refl s)

end Sys2Proof.Machine
end

