-- ==== Sys2Proof/Laws/SoundLayout.lean ====
section
/-! SUPPORT. Operations of Machine/Layout.lean are sound. -/

namespace Sys2Proof.Machine

set_option Elab.async false

theorem State.updLayout_sound : ∀ s x1, Sound [.ctl] s (State.updLayout s x1) := by
  intros
  unfold State.updLayout
  with_reducible refine Sound.andThen ?_ (State.updCtl_sound ..)
  with_reducible exact Sound.refl _

theorem State.withLayout_sound : ∀ s, Sound [.ldr] s (State.withLayout s) := by
  intros
  unfold State.withLayout
  with_reducible refine Sound.andThen ?_ (State.updLdr_sound fun hk => ?_)
  with_reducible exact Sound.refl _
  exact hk

theorem State.sendUp_sound : ∀ s x1 x2, Sound [.out] s (State.sendUp s x1 x2) := by
  intros
  unfold State.sendUp
  with_reducible refine Sound.andThen ?_ (State.emit_sound ..)
  with_reducible exact Sound.refl _

theorem State.endMoves_sound : ∀ s, Sound [.tier] s (State.endMoves s) := by
  intros
  unfold State.endMoves
  with_reducible refine Sound.andThen ?_ (State.updTier_sound fun hk => ?_)
  with_reducible refine Sound.andThen ?_ (State.abandonMoves_sound ..)
  with_reducible exact Sound.refl _
  exact hk

theorem State.scrub_sound : ∀ s x1, Sound [.atl, .ctl, .weir, .querns, .rows, .repl, .units, .cores, .tier] s (State.scrub s x1) := by
  intros
  unfold State.scrub
  refine Sound.andThen ?_ (State.updAtl_sound rfl rfl rfl rfl id)
  with_reducible refine Sound.andThen ?_ (State.updTier_sound fun hk => ?_)
  with_reducible refine Sound.litCores ?_ (fun k hk => ?_)
  with_reducible refine Sound.andThen ?_ (State.endMoves_sound ..)
  with_reducible refine Sound.andThen ?_ (State.cancelAll_sound ..)
  with_reducible exact Sound.refl _
  simpa using hk
  dsimp only
  exact zeroPages_wf _ _ hk

theorem State.switchOut_sound : ∀ s, Sound [.atl, .ctl, .weir, .querns, .rows, .repl, .units, .cores, .tier] s (State.switchOut s) := by
  intro s
  unfold State.switchOut
  split
  · exact Sound.refl _
  · extract_lets ended keep t
    have h : Sound [.atl, .ctl, .weir, .querns, .rows, .repl, .units, .cores, .tier] s t := by
      dsimp only [t]
      with_reducible refine Sound.andThen ?_ (State.updCtx_sound ..)
      exact (State.endMoves_sound ..).up
    refine Sound.andThen ?_ (State.updAtl_sound rfl rfl rfl rfl id)
    exact h.andThen (State.scrub_sound ..)

theorem State.sendXfer_sound : ∀ s x1 x2 x3 x4 x5, Sound [.ctl, .fab, .out] s (State.sendXfer s x1 x2 x3 x4 x5) := by
  intros
  unfold State.sendXfer
  with_reducible refine Sound.andThen ?_ (State.updLayout_sound ..)
  with_reducible refine Sound.andThen ?_ (State.emitEach_sound ..)
  with_reducible exact Sound.refl _

theorem State.sendCopies_sound : ∀ s x1 x2 x3 x4 x5, Sound [.ctl, .fab, .out] s (State.sendCopies s x1 x2 x3 x4 x5) := by
  intros
  unfold State.sendCopies
  dsimp only
  split
  with_reducible exact Sound.refl _
  with_reducible refine Sound.andThen ?_ (State.sendXfer_sound ..)
  with_reducible exact Sound.refl _

theorem State.installUnit_sound : ∀ s x1 x2, Sound [.fresh, .weir, .querns, .rows] s (State.installUnit s x1 x2) := by
  intros
  unfold State.installUnit
  dsimp only
  split
  split
  with_reducible refine Sound.lit ?_
  with_reducible refine Sound.andThen ?_ (State.tick_sound ..)
  with_reducible exact Sound.refl _
  with_reducible refine Sound.lit ?_
  with_reducible refine Sound.andThen ?_ (State.tick_sound ..)
  with_reducible exact Sound.refl _
  with_reducible refine Sound.andThen ?_ (State.updQuern_sound ..)
  with_reducible exact Sound.refl _
  with_reducible refine Sound.andThen ?_ (State.updWeir_sound ..)
  with_reducible exact Sound.refl _
  with_reducible refine Sound.andThen ?_ (State.updWeir_sound ..)
  with_reducible exact Sound.refl _
  split
  with_reducible refine Sound.andFold ?_ (fun a x => ?_)
  split
  with_reducible refine Sound.andThen ?_ (State.updWeir_sound ..)
  with_reducible exact Sound.refl _
  with_reducible exact Sound.refl _
  split
  with_reducible refine Sound.andThen ?_ (State.updWeir_sound ..)
  with_reducible exact Sound.refl _
  with_reducible exact Sound.refl _
  split
  with_reducible refine Sound.andThen ?_ (State.updWeir_sound ..)
  with_reducible exact Sound.refl _
  with_reducible exact Sound.refl _
  with_reducible exact Sound.refl _

theorem State.freeUnits_sound : ∀ s, Sound [.weir] s (State.freeUnits s) := by
  intros
  unfold State.freeUnits
  with_reducible refine Sound.andThen ?_ (State.updWeir_sound ..)
  with_reducible exact Sound.refl _

theorem State.takeFlip_sound (s : State) (o : OrderMsg) : Sound [.fresh, .ldr, .ctl, .weir, .querns, .rows] s (s.takeFlip o) := by
  unfold State.takeFlip
  extract_lets l a z kept b
  split
  · exact Sound.refl s
  · have hz : Sound [.fresh, .ldr, .ctl, .weir, .querns, .rows] s z :=
      ((State.releaseRetained_sound ..).trans (State.withLayout_sound ..)).up
    clear_value a z
    have h : Sound [.fresh, .ldr, .ctl, .weir, .querns, .rows] s kept := Sound.lit hz
    exact (((h.trans (Sound.foldl (fun u x => State.installUnit_sound u ..) _ _)).trans (State.freeUnits_sound ..)).trans
      (State.updCtl_sound ..)).up

theorem State.settleDone_sound : ∀ s x1, Sound [.ctl, .fab, .out] s (State.settleDone s x1) := by
  intro s acc
  unfold State.settleDone
  split
  · exact Sound.refl _
  · split
    · exact Sound.refl _
    · split
      · exact (State.sendUp_sound ..).up
      · split
        · dsimp only
          split
          · exact Sound.refl _
          · exact (State.issueOrder_sound ..).up
        · exact Sound.refl _

theorem State.takeDone_sound : ∀ s x1 x2, Sound [.ctl, .fab, .out] s (State.takeDone s x1 x2) := by
  intros
  unfold State.takeDone
  with_reducible refine Sound.andThen ?_ (State.settleDone_sound ..)
  with_reducible refine Sound.andThen ?_ (State.updLayout_sound ..)
  with_reducible exact Sound.refl _

theorem State.tryDoneSent_sound : ∀ s, Sound [.ctl, .fab, .out] s (State.tryDoneSent s) := by
  intros
  unfold State.tryDoneSent
  dsimp only
  split
  with_reducible refine Sound.andThen ?_ (State.takeDone_sound ..)
  with_reducible refine Sound.andThen ?_ (State.updLayout_sound ..)
  with_reducible exact Sound.refl _
  with_reducible exact Sound.refl _

theorem State.beginXfers_sound : ∀ s, Sound [.ldr, .ctl, .rows, .fab, .out] s (State.beginXfers s) := by
  intros
  unfold State.beginXfers
  with_reducible refine Sound.andThen ?_ (State.tryDoneSent_sound ..)
  with_reducible refine Sound.andFold ?_ (fun a x => ?_)
  with_reducible refine Sound.andFold ?_ (fun a x => ?_)
  with_reducible refine Sound.andThen ?_ (State.updLayout_sound ..)
  with_reducible refine Sound.lit ?_
  with_reducible exact Sound.refl _
  dsimp only
  split
  with_reducible refine Sound.andThen ?_ (State.sendXfer_sound ..)
  with_reducible exact Sound.refl _
  with_reducible exact Sound.refl _
  with_reducible refine Sound.andFold ?_ (fun a x => ?_)
  with_reducible exact Sound.refl _
  dsimp only
  split
  with_reducible refine Sound.andThen ?_ (State.sendCopies_sound ..)
  with_reducible exact Sound.refl _
  with_reducible exact Sound.refl _

theorem State.takeMove_sound (s : State) (o : OrderMsg) : Sound [.atl, .ldr, .ctl, .weir, .querns, .rows, .repl, .units, .cores, .tier, .fab, .out] s (s.takeMove o) := by
  unfold State.takeMove
  repeat' split
  · exact Sound.refl s
  · exact ((State.releaseRetained_sound ..).trans (State.switchOut_sound ..)).up
  · exact Sound.refl s
  · exact (State.beginXfers_sound ..).up

theorem State.takeCancel_sound : ∀ s x1, Sound [.evt, .ctl] s (State.takeCancel s x1) := by
  intros
  unfold State.takeCancel
  dsimp only
  split
  with_reducible exact Sound.refl _
  split
  with_reducible refine Sound.andThen ?_ (State.updCtl_sound ..)
  with_reducible exact Sound.refl _
  split
  with_reducible exact Sound.refl _
  with_reducible refine Sound.andThen ?_ (State.raise_sound ..)
  with_reducible refine Sound.andThen ?_ (State.updCtl_sound ..)
  with_reducible exact Sound.refl _

theorem State.decideBarrier_sound : ∀ s x1, Sound [.ctl, .fab, .out] s (State.decideBarrier s x1) := by
  intros
  unfold State.decideBarrier
  with_reducible refine Sound.andThen ?_ (State.issueOrder_sound ..)
  with_reducible exact Sound.refl _

theorem State.takeBarrier_sound : ∀ s x1 x2, Sound [.ctl, .fab, .out] s (State.takeBarrier s x1 x2) := by
  intros
  unfold State.takeBarrier
  dsimp only
  split
  with_reducible exact Sound.refl _
  split
  split
  split
  with_reducible refine Sound.andThen ?_ (State.decideBarrier_sound ..)
  with_reducible refine Sound.andThen ?_ (State.updLayout_sound ..)
  with_reducible exact Sound.refl _
  with_reducible refine Sound.andThen ?_ (State.sendUp_sound ..)
  with_reducible refine Sound.andThen ?_ (State.updLayout_sound ..)
  with_reducible exact Sound.refl _
  with_reducible refine Sound.andThen ?_ (State.updLayout_sound ..)
  with_reducible exact Sound.refl _
  with_reducible refine Sound.andThen ?_ (State.updLayout_sound ..)
  with_reducible exact Sound.refl _

theorem State.actOrder_sound : ∀ s x1 x2, Sound [.fresh, .atl, .ldr, .evt, .ctl, .weir, .querns, .rows, .repl, .units, .cores, .tier, .fab, .out] s (State.actOrder s x1 x2) := by
  intros
  unfold State.actOrder
  split
  · exact (State.takeReplay_sound ..).up
  · split
    · exact (State.takeMove_sound ..).up
    · split
      · exact (State.takeFlip_sound ..).up
      · exact (State.takeCancel_sound ..).up

theorem State.spreadOrder_sound : ∀ s x1 x2 x3, Sound [.fresh, .atl, .ldr, .evt, .ctl, .weir, .querns, .rows, .repl, .units, .cores, .tier, .fab, .out] s (State.spreadOrder s x1 x2 x3) := by
  intros
  unfold State.spreadOrder
  extract_lets t
  with_reducible refine Sound.andThen ?_ (State.actOrder_sound ..)
  with_reducible refine Sound.andThen ?_ (State.emitEach_sound ..)
  dsimp only [t]
  exact (State.updCtl_sound ..).up

theorem State.settleOrders_sound : ∀ x0 s, Sound [.fresh, .atl, .ldr, .evt, .ctl, .weir, .querns, .rows, .repl, .units, .cores, .tier, .fab, .out] s (State.settleOrders x0 s) := by
  intro n
  induction n with
  | zero => exact fun s => Sound.refl s
  | succ n ih =>
    intro s
    unfold State.settleOrders
    split
    · exact Sound.refl _
    · with_reducible refine Sound.andThen ?_ (ih _)
      with_reducible refine Sound.andThen ?_ (State.spreadOrder_sound ..)
      exact (State.updCtl_sound ..).up

theorem State.settled_sound : ∀ s, Sound [.fresh, .atl, .ldr, .evt, .ctl, .weir, .querns, .rows, .repl, .units, .cores, .tier, .fab, .out] s (State.settled s) :=
  fun s => State.settleOrders_sound 3 s

theorem State.takeOrder_sound : ∀ s x1 x2, Sound [.fresh, .atl, .ldr, .evt, .ctl, .weir, .querns, .rows, .repl, .units, .cores, .tier, .fab, .out] s (State.takeOrder s x1 x2) := by
  intros
  unfold State.takeOrder
  extract_lets t
  have h : Sound [.fresh, .atl, .ldr, .evt, .ctl, .weir, .querns, .rows, .repl, .units, .cores, .tier, .fab, .out] _ t := (State.emit_sound ..).up
  split
  · exact h
  · exact h.andThen (State.spreadOrder_sound ..)

theorem execReplayRequest_sound : ∀ x0 x1 s, SoundOut [.fresh, .atl, .ldr, .evt, .ctl, .weir, .querns, .rows, .repl, .units, .cores, .tier, .fab, .out] s (execReplayRequest x0 x1 s) := by
  intros
  unfold execReplayRequest
  dsimp only
  split
  · refine SoundOut.next ?_
    with_reducible refine Sound.andThen ?_ (State.settled_sound ..)
    exact (State.issueOrder_sound ..).up
  · exact SoundOut.next (Sound.refl _)

theorem execReplay_sound : ∀ x0 s, SoundOut [.fresh, .atl, .ldr, .evt, .ctl, .weir, .querns, .rows, .repl, .units, .cores, .tier, .fab, .out] s (execReplay x0 s) :=
  fun _ _ => SoundOut.next (State.takeOrder_sound ..)

theorem execBarrierSend_sound : ∀ s, SoundOut [.fresh, .atl, .ldr, .evt, .ctl, .weir, .querns, .rows, .repl, .units, .cores, .tier, .fab, .out] s (execBarrierSend s) := by
  intros
  unfold execBarrierSend
  split
  · split
    · dsimp only
      refine SoundOut.next ?_
      with_reducible refine Sound.andThen ?_ (State.settled_sound ..)
      with_reducible refine Sound.andThen ?_ (State.takeBarrier_sound ..)
      exact (State.updLayout_sound ..).up
    · exact SoundOut.next (Sound.refl _)
  · exact SoundOut.next (Sound.refl _)

theorem execBarrier_sound : ∀ x0 s, SoundOut [.fresh, .atl, .ldr, .evt, .ctl, .weir, .querns, .rows, .repl, .units, .cores, .tier, .fab, .out] s (execBarrier x0 s) := by
  intros
  unfold execBarrier
  split
  · refine SoundOut.next ?_
    with_reducible refine Sound.andThen ?_ (State.settled_sound ..)
    exact (State.takeBarrier_sound ..).up
  · exact SoundOut.next (Sound.refl _)

theorem execMove_sound : ∀ x0 s, SoundOut [.fresh, .atl, .ldr, .evt, .ctl, .weir, .querns, .rows, .repl, .units, .cores, .tier, .fab, .out] s (execMove x0 s) :=
  fun _ _ => SoundOut.next (State.takeOrder_sound ..)

theorem execLayoutCancel_sound : ∀ x0 s, SoundOut [.fresh, .atl, .ldr, .evt, .ctl, .weir, .querns, .rows, .repl, .units, .cores, .tier, .fab, .out] s (execLayoutCancel x0 s) :=
  fun _ _ => SoundOut.next (State.takeOrder_sound ..)

theorem State.takeReplicas_sound : ∀ s x1, Sound [.fresh, .rows, .repl] s (State.takeReplicas s x1) := by
  intros
  unfold State.takeReplicas
  with_reducible refine Sound.andFold ?_ (fun a x => ?_)
  with_reducible exact Sound.refl _
  split
  with_reducible refine Sound.andThen ?_ (State.replRowIn_sound ..)
  with_reducible exact Sound.refl _
  with_reducible exact Sound.refl _

theorem State.takeShard_sound : ∀ s x1, Sound [.ldr, .ctl, .fab, .out] s (State.takeShard s x1) := by
  intros
  unfold State.takeShard
  dsimp only
  split
  with_reducible refine Sound.andThen ?_ (State.tryDoneSent_sound ..)
  split
  with_reducible refine Sound.andThen ?_ (State.sendCopies_sound ..)
  with_reducible refine Sound.andThen ?_ (State.updLayout_sound ..)
  with_reducible exact Sound.refl _
  with_reducible refine Sound.andThen ?_ (State.updLayout_sound ..)
  with_reducible exact Sound.refl _
  with_reducible exact Sound.refl _

theorem execShardXfer_sound : ∀ x0 s, SoundOut [.fresh, .atl, .ldr, .evt, .ctl, .weir, .querns, .rows, .repl, .units, .cores, .tier, .fab, .out] s (execShardXfer x0 s) := by
  intro x s
  unfold execShardXfer
  extract_lets key t n u
  split
  · have h : Sound [.fresh, .atl, .ldr, .evt, .ctl, .weir, .querns, .rows, .repl, .units, .cores, .tier, .fab, .out] s t := (State.emit_sound ..).up
    refine SoundOut.next ?_
    with_reducible refine Sound.andThen ?_ (State.settled_sound ..)
    split
    · exact h.andThen (State.takeReplicas_sound ..)
    · exact h.andThen (State.takeShard_sound ..)
  · have h : Sound [.fresh, .atl, .ldr, .evt, .ctl, .weir, .querns, .rows, .repl, .units, .cores, .tier, .fab, .out] s u := (State.updLayout_sound ..).up
    refine SoundOut.next ?_
    split
    · exact h.andThen (State.raise_sound ..)
    · exact h.andThen (State.raiseDev_sound ..)

theorem execDone_sound : ∀ x0 s, SoundOut [.fresh, .atl, .ldr, .evt, .ctl, .weir, .querns, .rows, .repl, .units, .cores, .tier, .fab, .out] s (execDone x0 s) := by
  intros
  unfold execDone
  split
  · refine SoundOut.next ?_
    with_reducible refine Sound.andThen ?_ (State.settled_sound ..)
    exact (State.takeDone_sound ..).up
  · exact SoundOut.next (Sound.refl _)

theorem execFlip_sound : ∀ x0 s, SoundOut [.fresh, .atl, .ldr, .evt, .ctl, .weir, .querns, .rows, .repl, .units, .cores, .tier, .fab, .out] s (execFlip x0 s) :=
  fun _ _ => SoundOut.next (State.takeOrder_sound ..)

end Sys2Proof.Machine
end

