-- ==== Sys2Proof/Laws/SoundFetch.lean ====
section
/-! SUPPORT. Operations of Machine/Fetch.lean are sound. -/

namespace Sys2Proof.Machine

set_option Elab.async false

theorem State.expired_sound : ∀ s x1 x2 x3, Sound [.evt, .ctl, .cores] s (State.expired s x1 x2 x3) := by
  intros
  unfold State.expired
  with_reducible refine Sound.andThen ?_ (State.updCore_sound (fun k hk => ?_) _ _)
  with_reducible refine Sound.andThen ?_ (State.raise_sound ..)
  with_reducible exact Sound.refl _
  simpa using hk

theorem State.fetchAll_sound : ∀ {x0 x1 x2 x3 s t}, State.fetchAll x0 x1 x2 x3 s = some t → Sound [.evt, .ctl, .cores] s t := by
  intro c cmd u l
  induction l with
  | nil => intro s t h; cases h; exact Sound.refl _
  | cons p l ih =>
    intro s t h
    unfold State.fetchAll at h
    split at h
    · cases h
    · exact Sound.both (State.fetchSpan_sound ..) (ih h)

theorem State.fetchWindow_sound : ∀ x0 x1 s x3, Sound [.evt, .ctl, .cores] s (State.fetchWindow x0 x1 s x3) := by
  intro c n
  induction n with
  | zero => intro s cmd; exact Sound.refl _
  | succ n ih =>
    intro s cmd
    unfold State.fetchWindow
    dsimp only
    split
    · exact Sound.refl _
    · split
      · exact (State.expired_sound ..).up
      · split
        · exact Sound.refl _
        · rename_i h
          refine Sound.both ?_ (ih _ _)
          with_reducible refine Sound.andThen (State.fetchAll_sound h) (State.updCore_sound (fun k hk => ?_) _ _)
          simpa using hk

theorem State.fetchMore_sound : ∀ s x1 x2, Sound [.evt, .ctl, .cores] s (State.fetchMore s x1 x2) := by
  intros
  unfold State.fetchMore
  split
  split
  with_reducible refine Sound.andThen ?_ (State.fetchWindow_sound ..)
  with_reducible exact Sound.refl _
  with_reducible exact Sound.refl _
  with_reducible exact Sound.refl _

end Sys2Proof.Machine
end

