-- ==== Sys2Proof/Laws/SoundEngines.lean ====
section
/-! SUPPORT. Operations of Machine/Engines.lean are sound. -/

namespace Sys2Proof.Machine

set_option Elab.async false

/-- Writing the repair map leaves the floors, the counts of burnt fuses and the mailbox buffer (R150). -/
theorem Atluta.writeRepairs_keeps (a : Atluta) (l : List RepairEntry) : (a.writeRepairs l).fwFloor = a.fwFloor ∧
    (a.writeRepairs l).imageFloor = a.imageFloor ∧ (a.writeRepairs l).fwFuses = a.fwFuses ∧ (a.writeRepairs l).keyBurns = a.keyBurns ∧
    (a.writeRepairs l).mboxBuf = a.mboxBuf := by
  unfold Atluta.writeRepairs
  extract_lets
  split <;> exact ⟨rfl, rfl, rfl, rfl, rfl⟩

theorem State.coreStall_sound : ∀ s x1 x2, Sound [.cores] s (State.coreStall s x1 x2) := by
  intros
  unfold State.coreStall
  with_reducible refine Sound.andThen ?_ (State.updCore_sound (fun k hk => ?_) _ _)
  with_reducible exact Sound.refl _
  exact hk

theorem State.clockTo_sound : ∀ s x1 x2, Sound [.cores] s (State.clockTo s x1 x2) := by
  intros
  unfold State.clockTo
  with_reducible refine Sound.andThen ?_ (State.updCore_sound (fun k hk => ?_) _ _)
  with_reducible exact Sound.refl _
  exact hk

theorem State.noteScale_sound : ∀ s x1 x2 x3, Sound [.ctl] s (State.noteScale s x1 x2 x3) := by
  intros
  unfold State.noteScale
  split
  with_reducible refine Sound.andThen ?_ (State.updStep_sound ..)
  with_reducible exact Sound.refl _
  with_reducible exact Sound.refl _

theorem State.notePass_sound : ∀ s x1 x2 x3, Sound [.ctl] s (State.notePass s x1 x2 x3) := by
  intros
  unfold State.notePass
  with_reducible refine Sound.andFold ?_ (fun a x => ?_)
  with_reducible exact Sound.refl _
  with_reducible refine Sound.andThen ?_ (State.noteScale_sound ..)
  with_reducible refine Sound.andThen ?_ (State.noteScale_sound ..)
  with_reducible exact Sound.refl _

theorem State.assignPass_sound : ∀ s x1 x2 x3 x4 x5, Sound [.ctl, .cores] s (State.assignPass s x1 x2 x3 x4 x5) := by
  intros
  unfold State.assignPass
  with_reducible refine Sound.andThen ?_ (State.updCore_sound (fun k hk => ?_) _ _)
  with_reducible refine Sound.andThen ?_ (State.updEngine_sound ..)
  with_reducible refine Sound.andThen ?_ (State.notePass_sound ..)
  with_reducible exact Sound.refl _
  dsimp only
  split
  simpa using hk
  simpa using hk

theorem State.takeStage_sound : ∀ {s x1 x2 x3 x4 t}, State.takeStage s x1 x2 x3 x4 = some t → Sound [.cores] s t := by
  intro s c cmd j p t h
  unfold State.takeStage at h
  dsimp only at h
  split at h
  · cases h
    refine State.updCore_sound (fun k hk => ?_) _ _
    exact hk
  · exact State.takeBlocks_sound h

theorem State.tryPass_sound : ∀ {s x1 x2 x3 p t}, State.tryPass s x1 x2 x3 = .inr (p, t) → Sound [.ctl, .cores] s t := by
  intro s c cmd cyc p t h
  unfold State.tryPass at h
  dsimp only at h
  repeat' split at h
  all_goals first
    | cases h; done
    | (cases h
       refine Sound.andThen ?_ (State.assignPass_sound ..)
       exact (State.takeStage_sound (by assumption)).up)

end Sys2Proof.Machine
end

