-- ==== Sys2Proof/Laws/SoundPasses.lean ====
section
/-! SUPPORT. Operations of Machine/Passes.lean are sound. -/

namespace Sys2Proof.Machine

set_option Elab.async false

theorem execTileLoadStart_sound : ∀ x0 x1 x2 s, SoundOut [.cores] s (execTileLoadStart x0 x1 x2 s) := by
  intros
  unfold execTileLoadStart
  dsimp only
  split
  with_reducible refine SoundOut.next ?_
  with_reducible refine Sound.andThen ?_ (State.clockTo_sound ..)
  with_reducible exact Sound.refl _
  split
  with_reducible refine SoundOut.next ?_
  with_reducible refine Sound.andThen ?_ (State.updEngine_sound ..)
  with_reducible refine Sound.andThen ?_ (State.clockTo_sound ..)
  with_reducible exact Sound.refl _
  with_reducible refine SoundOut.next ?_
  with_reducible refine Sound.andThen ?_ (State.clockTo_sound ..)
  with_reducible exact Sound.refl _

theorem execTileLoadReady_sound : ∀ x0 x1 x2 s, SoundOut [.cores] s (execTileLoadReady x0 x1 x2 s) := by
  intros
  unfold execTileLoadReady
  dsimp only
  split
  with_reducible refine SoundOut.next ?_
  with_reducible refine Sound.andThen ?_ (State.clockTo_sound ..)
  with_reducible exact Sound.refl _
  split
  with_reducible refine SoundOut.next ?_
  with_reducible refine Sound.andThen ?_ (State.clockTo_sound ..)
  with_reducible exact Sound.refl _
  with_reducible refine SoundOut.next ?_
  with_reducible refine Sound.andThen ?_ (State.updEngine_sound ..)
  with_reducible refine Sound.andThen ?_ (State.clockTo_sound ..)
  with_reducible exact Sound.refl _

theorem execReplayStart_sound : ∀ x0 x1 x2 s, SoundOut [.cores] s (execReplayStart x0 x1 x2 s) := by
  intros
  unfold execReplayStart
  dsimp only
  split
  with_reducible refine SoundOut.next ?_
  with_reducible refine Sound.andThen ?_ (State.clockTo_sound ..)
  with_reducible exact Sound.refl _
  split
  with_reducible refine SoundOut.next ?_
  with_reducible refine Sound.andThen ?_ (State.updEngine_sound ..)
  with_reducible refine Sound.andThen ?_ (State.clockTo_sound ..)
  with_reducible exact Sound.refl _
  with_reducible refine SoundOut.next ?_
  with_reducible refine Sound.andThen ?_ (State.clockTo_sound ..)
  with_reducible exact Sound.refl _

theorem State.passBoundary_sound : ∀ s, Sound [.ldr] s (State.passBoundary s) := by
  intros
  unfold State.passBoundary
  with_reducible refine Sound.andThen ?_ (State.updLdr_sound fun hk => ?_)
  with_reducible exact Sound.refl _
  exact hk

theorem State.startPass_sound : ∀ s x1 x2 x3 x4, Sound [.ldr, .cores] s (State.startPass s x1 x2 x3 x4) := by
  intros
  unfold State.startPass
  with_reducible refine Sound.andThen ?_ (State.updEngine_sound ..)
  with_reducible refine Sound.andThen ?_ (State.passBoundary_sound ..)
  with_reducible exact Sound.refl _

theorem execPassStart_sound : ∀ x0 x1 x2 s, SoundOut [.ldr, .cores] s (execPassStart x0 x1 x2 s) := by
  intros
  unfold execPassStart
  dsimp only
  split
  with_reducible refine SoundOut.next ?_
  with_reducible refine Sound.andThen ?_ (State.clockTo_sound ..)
  with_reducible exact Sound.refl _
  split
  with_reducible refine SoundOut.next ?_
  with_reducible refine Sound.andThen ?_ (State.startPass_sound ..)
  with_reducible refine Sound.andThen ?_ (State.clockTo_sound ..)
  with_reducible exact Sound.refl _
  split
  with_reducible refine SoundOut.next ?_
  with_reducible refine Sound.andThen ?_ (State.coreStall_sound ..)
  with_reducible refine Sound.andThen ?_ (State.clockTo_sound ..)
  with_reducible exact Sound.refl _
  with_reducible refine SoundOut.next ?_
  with_reducible refine Sound.andThen ?_ (State.clockTo_sound ..)
  with_reducible exact Sound.refl _

theorem execPassEnd_sound : ∀ x0 x1 x2 x3 s, SoundOut [.cores] s (execPassEnd x0 x1 x2 x3 s) := by
  intros
  unfold execPassEnd
  dsimp only
  split
  with_reducible refine SoundOut.next ?_
  with_reducible refine Sound.andThen ?_ (State.clockTo_sound ..)
  with_reducible exact Sound.refl _
  split
  with_reducible refine SoundOut.next ?_
  with_reducible refine Sound.andThen ?_ (State.clockTo_sound ..)
  with_reducible exact Sound.refl _
  with_reducible refine SoundOut.next ?_
  with_reducible refine Sound.andThen ?_ (State.updEngine_sound ..)
  with_reducible refine Sound.andThen ?_ (State.clockTo_sound ..)
  with_reducible exact Sound.refl _

theorem State.finishUnit_sound : ∀ s x1 x2 x3, Sound [.evt, .ctl, .cores] s (State.finishUnit s x1 x2 x3) := by
  intros
  unfold State.finishUnit
  dsimp only
  split
  with_reducible exact Sound.refl _
  with_reducible refine Sound.andThen ?_ (State.stageRows_sound ..)
  with_reducible refine Sound.andThen ?_ (State.updCore_sound (fun k hk => ?_) _ _)
  with_reducible refine Sound.andThen ?_ (State.coreEv_sound ..)
  with_reducible exact Sound.refl _
  dsimp only
  split
  exact hk
  exact hk

theorem State.commitSeries_sound (s : State) (c : CoreId) (e : EngId) (r : RunPass) : Sound [.ctl, .cores] s (s.commitSeries c e r) := by
  unfold State.commitSeries
  extract_lets p x ev t t1
  have h : Sound [.ctl, .cores] s t1 := (((State.coreEv_sound ..).trans (State.updEngine_sound ..)).trans (State.pushXfer_sound ..)).up
  split
  · exact h
  · exact (h.trans (State.updCore_sound (fun k hk => by simpa using hk) _ c)).up

theorem State.commitTiles_sound (s : State) (c : CoreId) (r : RunPass) (cyc : Nat) : Sound [.evt, .ctl, .cores] s (s.commitTiles c r cyc) := by
  have tiles : ∀ (p : Pass) (l : List (TileOp × Nat)) (k : Core),
      (l.foldl (fun a x => a.addCarry p x.1 (r.results.getD x.2 []) cyc) k).lb = k.lb := by
    intro p l
    induction l with
    | nil => intro k; rfl
    | cons x l ih => intro k; exact (ih _).trans (Core.addCarry_lb ..)
  unfold State.commitTiles
  extract_lets p t
  have h : Sound [.evt, .ctl, .cores] s t := ((State.coreEv_sound ..).trans (State.updCore_sound (fun k hk => by
    simp only [Core.dropCarries_mem, tiles]; exact hk) _ c)).up
  split
  · exact h
  · exact (h.trans (State.finishUnit_sound ..)).up

theorem State.freeStage_sound : ∀ s x1 x2, Sound [.cores] s (State.freeStage s x1 x2) := by
  intros
  unfold State.freeStage
  with_reducible refine Sound.andThen ?_ (State.updCore_sound (fun k hk => ?_) _ _)
  with_reducible exact Sound.refl _
  exact hk

theorem State.retireEngine_sound : ∀ s x1 x2 x3 x4, Sound [.atl, .evt, .ctl, .cores] s (State.retireEngine s x1 x2 x3 x4) := by
  intro s c e cause extra
  unfold State.retireEngine
  extract_lets k moved t t1 t2 entry t3
  have h2 : Sound [.atl, .evt, .ctl, .cores] s t2 := by
    dsimp only [t2, t1, t]
    with_reducible refine Sound.andThen ?_ (State.raiseDev_sound ..)
    with_reducible refine Sound.andThen ?_ (State.updEngine_sound ..)
    exact (State.updEngine_sound ..).up
  have h3 : Sound [.atl, .evt, .ctl, .cores] s t3 := by
    dsimp only [t3]
    split
    · exact h2
    · have h := Atluta.writeRepairs_keeps t2.atl (t2.atl.repairMap ++ [entry])
      exact h2.andThen (State.updAtl_sound h.1 h.2.1 h.2.2.1 h.2.2.2.1 fun hk => h.2.2.2.2 ▸ hk)
  split
  · exact h3.andThen (State.raiseDev_sound ..)
  · exact h3

theorem State.retireDue_sound : ∀ s x1 x2, Sound [.atl, .evt, .ctl, .cores] s (State.retireDue s x1 x2) := by
  intros
  unfold State.retireDue
  dsimp only
  split
  · split
    · exact State.retireEngine_sound ..
    · exact Sound.refl _
  · exact Sound.refl _

theorem State.mismatch_sound : ∀ s x1 x2 x3 x4, Sound [.atl, .evt, .ctl, .cores] s (State.mismatch s x1 x2 x3 x4) := by
  intros
  unfold State.mismatch
  dsimp only
  split
  with_reducible refine Sound.andThen ?_ (State.retireEngine_sound ..)
  with_reducible refine Sound.andThen ?_ (State.updEngine_sound ..)
  with_reducible exact Sound.refl _
  split
  with_reducible refine Sound.andThen ?_ (State.updEngine_sound ..)
  with_reducible refine Sound.andThen ?_ (State.raiseDev_sound ..)
  with_reducible refine Sound.andThen ?_ (State.updEngine_sound ..)
  with_reducible refine Sound.andThen ?_ (State.updEngine_sound ..)
  with_reducible exact Sound.refl _
  with_reducible refine Sound.andThen ?_ (State.updEngine_sound ..)
  with_reducible refine Sound.andThen ?_ (State.raiseDev_sound ..)
  with_reducible refine Sound.andThen ?_ (State.updEngine_sound ..)
  with_reducible refine Sound.andThen ?_ (State.updEngine_sound ..)
  with_reducible exact Sound.refl _

theorem State.passOk_sound : ∀ s x1 x2 x3 x4, Sound [.atl, .evt, .ctl, .cores] s (State.passOk s x1 x2 x3 x4) := by
  intro s c e r cyc
  unfold State.passOk
  extract_lets t u
  have h : Sound [.atl, .evt, .ctl, .cores] s t := by
    dsimp only [t]
    split
    · exact (State.commitSeries_sound ..).up
    · exact (State.commitTiles_sound ..).up
  split
  · exact h
  · exact (h.andThen (State.updEngine_sound ..)).both (State.retireDue_sound ..)

theorem execPassVerdict_sound : ∀ x0 x1 x2 s, SoundOut [.atl, .evt, .ctl, .cores] s (execPassVerdict x0 x1 x2 s) := by
  intros
  unfold execPassVerdict
  dsimp only
  split
  with_reducible refine SoundOut.next ?_
  with_reducible refine Sound.andThen ?_ (State.clockTo_sound ..)
  with_reducible exact Sound.refl _
  split
  with_reducible refine SoundOut.next ?_
  with_reducible refine Sound.andThen ?_ (State.clockTo_sound ..)
  with_reducible exact Sound.refl _
  split
  with_reducible refine SoundOut.next ?_
  with_reducible refine Sound.andThen ?_ (State.updEngine_sound ..)
  with_reducible refine Sound.andThen ?_ (State.freeStage_sound ..)
  with_reducible refine Sound.andThen ?_ (State.updEngine_sound ..)
  with_reducible refine Sound.andThen ?_ (State.clockTo_sound ..)
  with_reducible exact Sound.refl _
  split
  with_reducible refine SoundOut.next ?_
  with_reducible refine Sound.andThen ?_ (State.mismatch_sound ..)
  with_reducible refine Sound.andThen ?_ (State.updEngine_sound ..)
  with_reducible refine Sound.andThen ?_ (State.updEngine_sound ..)
  with_reducible refine Sound.andThen ?_ (State.clockTo_sound ..)
  with_reducible exact Sound.refl _
  with_reducible refine SoundOut.next ?_
  with_reducible refine Sound.andThen ?_ (State.passOk_sound ..)
  with_reducible refine Sound.andThen ?_ (State.updEngine_sound ..)
  with_reducible refine Sound.andThen ?_ (State.updEngine_sound ..)
  with_reducible refine Sound.andThen ?_ (State.clockTo_sound ..)
  with_reducible exact Sound.refl _

theorem execEngPreemptReq_sound : ∀ x0 x1 x2 s, SoundOut [.cores] s (execEngPreemptReq x0 x1 x2 s) := by
  intros
  unfold execEngPreemptReq
  with_reducible refine SoundOut.next ?_
  with_reducible refine Sound.andThen ?_ (State.updEngine_sound ..)
  with_reducible refine Sound.andThen ?_ (State.clockTo_sound ..)
  with_reducible exact Sound.refl _

theorem execEngPreemptWithdraw_sound : ∀ x0 x1 x2 s, SoundOut [.cores] s (execEngPreemptWithdraw x0 x1 x2 s) := by
  intros
  unfold execEngPreemptWithdraw
  with_reducible refine SoundOut.next ?_
  with_reducible refine Sound.andThen ?_ (State.updEngine_sound ..)
  with_reducible refine Sound.andThen ?_ (State.clockTo_sound ..)
  with_reducible exact Sound.refl _

theorem execEngineQuiet_sound : ∀ x0 x1 x2 s, SoundOut [.atl, .evt, .ctl, .cores] s (execEngineQuiet x0 x1 x2 s) := by
  intro c e cyc s
  unfold execEngineQuiet
  extract_lets t k set
  have h : Sound [.atl, .evt, .ctl, .cores] s t := (State.clockTo_sound ..).up
  split
  · exact SoundOut.next h
  · exact SoundOut.next ((h.andThen (State.updEngine_sound ..)).both (State.retireDue_sound ..))

theorem execEngCtrClear_sound : ∀ x0 x1 x2 s, SoundOut [.cores] s (execEngCtrClear x0 x1 x2 s) := by
  intros
  unfold execEngCtrClear
  split
  with_reducible refine SoundOut.next ?_
  with_reducible refine Sound.andThen ?_ (State.updEngine_sound ..)
  with_reducible exact Sound.refl _
  with_reducible refine SoundOut.next ?_
  with_reducible exact Sound.refl _

end Sys2Proof.Machine
end

