-- ==== Sys2Proof/Laws/SoundFeeding.lean ====
section
/-! SUPPORT. Operations of Machine/Feeding.lean are sound. -/

namespace Sys2Proof.Machine

set_option Elab.async false

theorem State.refetch_sound : ∀ s x1 x2, Sound [.cores] s (State.refetch s x1 x2) := by
  intros
  unfold State.refetch
  dsimp only
  split
  with_reducible refine Sound.andThen ?_ (State.sendPiece_sound ..)
  with_reducible exact Sound.refl _
  with_reducible refine Sound.andFold ?_ (fun a x => ?_)
  with_reducible exact Sound.refl _
  with_reducible refine Sound.andThen ?_ (State.sendPiece_sound ..)
  with_reducible exact Sound.refl _

theorem State.refetchPool_sound : ∀ s x1 x2, Sound [.cores] s (State.refetchPool s x1 x2) := by
  intros
  unfold State.refetchPool
  with_reducible refine Sound.andThen ?_ (State.updCore_sound (fun k hk => ?_) _ _)
  with_reducible refine Sound.andThen ?_ (State.updCore_sound (fun k hk => ?_) _ _)
  with_reducible exact Sound.refl _
  exact hk
  exact hk

theorem State.refetchBack_sound : ∀ s x1 x2, Sound [.cores] s (State.refetchBack s x1 x2) := by
  intros
  unfold State.refetchBack
  split
  with_reducible refine Sound.andThen ?_ (State.updCore_sound (fun k hk => ?_) _ _)
  with_reducible exact Sound.refl _
  exact hk
  with_reducible exact Sound.refl _

theorem State.cleanError_sound : ∀ s x1 x2, Sound [.evt, .ctl, .cores] s (State.cleanError s x1 x2) := by
  intro s c b
  unfold State.cleanError
  extract_lets spoil mark t
  have h : Sound [.evt, .ctl, .cores] s t := by
    dsimp only [t]
    with_reducible refine Sound.andThen ?_ (State.raiseDev_sound ..)
    refine Sound.up (State.updCore_sound (fun k hk => ?_) _ _)
    exact hk
  split
  · exact h.andThen (State.refetchBack_sound ..)
  · split
    · exact h.andThen (State.refetchPool_sound ..)
    · split
      · exact h.andThen (State.refetch_sound ..)
      · exact h

theorem execLbEccError_sound : ∀ x0 x1 x2 s, SoundOut [.evt, .ctl, .cores] s (execLbEccError x0 x1 x2 s) := by
  intros
  unfold execLbEccError
  dsimp only
  split
  with_reducible refine SoundOut.next ?_
  with_reducible refine Sound.andThen ?_ (State.updCore_sound (fun k hk => ?_) _ _)
  with_reducible exact Sound.refl _
  exact hk
  split
  with_reducible refine SoundOut.next ?_
  with_reducible exact Sound.refl _
  with_reducible refine SoundOut.next ?_
  with_reducible refine Sound.andThen ?_ (State.cleanError_sound ..)
  with_reducible exact Sound.refl _
  with_reducible refine SoundOut.next ?_
  with_reducible refine Sound.andThen ?_ (State.raiseDev_sound ..)
  with_reducible exact Sound.refl _

theorem State.dropXfer_sound : ∀ s x1 x2, Sound [.cores] s (State.dropXfer s x1 x2) := by
  intros
  unfold State.dropXfer
  with_reducible refine Sound.andThen ?_ (State.updCore_sound (fun k hk => ?_) _ _)
  with_reducible exact Sound.refl _
  exact hk

theorem State.landWrite_sound : ∀ s x1, Sound [.fresh, .tier] s (State.landWrite s x1) := by
  intros
  unfold State.landWrite
  split
  split
  with_reducible exact Sound.refl _
  with_reducible refine Sound.andThen ?_ (State.rangeWrite_sound ..)
  with_reducible exact Sound.refl _
  with_reducible exact Sound.refl _

theorem State.payAll_sound : ∀ s x1, Sound [.evt, .ctl, .cores] s (State.payAll s x1) := by
  intros
  unfold State.payAll
  with_reducible refine Sound.andThen ?_ (State.payStash_sound ..)
  with_reducible exact Sound.refl _

theorem execSpillWriteDone_sound : ∀ x0 x1 x2 x3 s, SoundOut [.fresh, .evt, .ctl, .cores, .tier] s (execSpillWriteDone x0 x1 x2 x3 s) := by
  intros
  unfold execSpillWriteDone
  dsimp only
  split
  with_reducible refine SoundOut.next ?_
  with_reducible exact Sound.refl _
  split
  with_reducible refine SoundOut.next ?_
  with_reducible refine Sound.andThen ?_ (State.landWrite_sound ..)
  with_reducible refine Sound.andThen ?_ (State.updCore_sound (fun k hk => ?_) _ _)
  with_reducible exact Sound.refl _
  exact hk
  split
  with_reducible refine SoundOut.next ?_
  with_reducible refine Sound.andThen ?_ (State.payAll_sound ..)
  with_reducible refine Sound.andThen ?_ (State.updCore_sound (fun k hk => ?_) _ _)
  with_reducible refine Sound.andThen ?_ (State.landWrite_sound ..)
  with_reducible refine Sound.andThen ?_ (State.updCore_sound (fun k hk => ?_) _ _)
  with_reducible exact Sound.refl _
  exact hk
  exact hk
  with_reducible refine SoundOut.next ?_
  with_reducible refine Sound.andThen ?_ (State.landWrite_sound ..)
  with_reducible refine Sound.andThen ?_ (State.updCore_sound (fun k hk => ?_) _ _)
  with_reducible exact Sound.refl _
  exact hk

theorem execStashReadback_sound : ∀ x0 s, SoundOut [.cores] s (execStashReadback x0 s) := by
  intros
  unfold execStashReadback
  dsimp only
  split
  with_reducible refine SoundOut.next ?_
  with_reducible exact Sound.refl _
  split
  with_reducible refine SoundOut.next ?_
  with_reducible exact Sound.refl _
  with_reducible refine SoundOut.next ?_
  with_reducible refine Sound.andThen ?_ (State.pushXfer_sound ..)
  with_reducible exact Sound.refl _

theorem execDemandFetchBegin_sound : ∀ x0 x1 s, SoundOut [.evt, .ctl, .cores] s (execDemandFetchBegin x0 x1 s) := by
  intros
  unfold execDemandFetchBegin
  with_reducible refine SoundOut.next ?_
  dsimp only
  split
  split
  with_reducible refine Sound.andThen ?_ (State.fetchWindow_sound ..)
  split
  with_reducible refine Sound.andThen ?_ (State.fetchWindow_sound ..)
  with_reducible exact Sound.refl _
  with_reducible exact Sound.refl _
  split
  with_reducible refine Sound.andThen ?_ (State.fetchWindow_sound ..)
  with_reducible exact Sound.refl _
  with_reducible exact Sound.refl _
  split
  with_reducible refine Sound.andThen ?_ (State.fetchWindow_sound ..)
  with_reducible exact Sound.refl _
  with_reducible exact Sound.refl _

theorem State.fillBuckets_sound (s : State) : Sound [.cores] s s.fillBuckets :=
  ⟨fun p => by cases p <;> first | exact .inl rfl | exact .inr rfl,
    rfl, rfl, le_rfl, le_rfl, le_rfl, le_rfl, id, id, id, id, id, fun hs => by
    simp only [State.fillBuckets, List.all_map, List.all_eq_true]
    intro c _
    exact kvGet_all (p := fun k : Core => Memory.wf k.lb.mem) hs rfl⟩

theorem State.updXfer_sound : ∀ s x1 x2 x3, Sound [.cores] s (State.updXfer s x1 x2 x3) := by
  intros
  unfold State.updXfer
  with_reducible refine Sound.andThen ?_ (State.updCore_sound (fun k hk => ?_) _ _)
  with_reducible exact Sound.refl _
  exact hk

theorem State.sendRemote_sound : ∀ s x1 x2 x3 x4 x5, Sound [.cores, .tier, .fab, .out] s (State.sendRemote s x1 x2 x3 x4 x5) := by
  intros
  unfold State.sendRemote
  dsimp only
  with_reducible refine Sound.andThen ?_ (State.updXfer_sound ..)
  with_reducible refine Sound.andThen ?_ (State.updTier_sound fun hk => ?_)
  rotate_left
  · exact hk
  with_reducible refine Sound.andThen ?_ (State.emit_sound ..)
  exact (State.updFab_sound ..).up

theorem State.access_sound : ∀ s x1 x2 x3 x4, Sound [.cores, .tier, .fab, .out] s (State.access s x1 x2 x3 x4) := by
  intro s c x a n
  unfold State.access
  extract_lets t block data u
  have h : Sound [.cores, .tier, .fab, .out] s u := by
    dsimp only [u, t]
    with_reducible refine Sound.andThen ?_ (State.updXfer_sound ..)
    exact (State.translate_sound ..).up
  split
  · exact h.both (State.sendRemote_sound ..)
  · exact h

theorem State.departs_sound : ∀ s x1 x2, Sound [.evt, .ctl, .querns, .units, .cores, .tier, .fab, .out] s (State.departs s x1 x2) := by
  intro s c x
  unfold State.departs
  extract_lets t
  have h : Sound [.evt, .ctl, .querns, .units, .cores, .tier, .fab, .out] s t := (State.updXfer_sound ..).up
  split
  · exact (h.andThen (State.dropXfer_sound ..)).andThen (State.emit_sound ..)
  · exact (h.andThen (State.dropXfer_sound ..)).andThen (State.completeRef_sound ..)
  · split
    · exact h
    · exact h.andThen (State.access_sound ..)

theorem State.offer_sound : ∀ x0 s x2, Sound [.evt, .ctl, .querns, .units, .cores, .tier, .fab, .out] s (State.offer x0 s x2) := by
  intros
  unfold State.offer
  dsimp only
  split
  split
  with_reducible refine Sound.andThen ?_ (State.updCore_sound (fun k hk => ?_) _ _)
  with_reducible refine Sound.andThen ?_ (State.updCore_sound (fun k hk => ?_) _ _)
  with_reducible exact Sound.refl _
  exact hk
  exact hk
  with_reducible refine Sound.andThen ?_ (State.departs_sound ..)
  with_reducible refine Sound.andThen ?_ (State.updCore_sound (fun k hk => ?_) _ _)
  with_reducible exact Sound.refl _
  exact hk
  with_reducible exact Sound.refl _

theorem State.drainAll_sound : ∀ s x1, Sound [.cores] s (State.drainAll s x1) := by
  intros
  unfold State.drainAll
  with_reducible refine Sound.andThen ?_ (State.drainQueue_sound ..)
  with_reducible refine Sound.andThen ?_ (State.drainQueue_sound ..)
  with_reducible refine Sound.andThen ?_ (State.drainQueue_sound ..)
  with_reducible exact Sound.refl _

theorem execSluiceTick_sound : ∀ x0 s, SoundOut [.evt, .ctl, .querns, .units, .cores, .tier, .fab, .out] s (execSluiceTick x0 s) := by
  intros
  unfold execSluiceTick
  dsimp only
  refine SoundOut.next ?_
  with_reducible refine Sound.andThen ?_ (State.drainAll_sound ..)
  refine Sound.andFold ?_ (fun a x => State.offer_sound ..)
  refine Sound.up (State.updCore_sound (fun k hk => ?_) _ _)
  exact hk

theorem State.discardPool_sound : ∀ s x1 x2, Sound [.cores] s (State.discardPool s x1 x2) := by
  intros
  unfold State.discardPool
  with_reducible refine Sound.andThen ?_ (State.updCore_sound (fun k hk => ?_) _ _)
  with_reducible exact Sound.refl _
  exact hk

theorem State.makeRoom_sound (c : CoreId) (n fuel : Nat) (s : State) : Sound [.cores] s (State.makeRoom c n fuel s) := by
  induction fuel generalizing s with
  | zero => exact Sound.refl s
  | succ m ih =>
    unfold State.makeRoom
    repeat' split
    · exact Sound.refl s
    · exact Sound.refl s
    · exact ((State.discardPool_sound ..).trans (ih _)).up

theorem State.landPool_sound : ∀ s x1 x2 x3 x4 x5 x6 x7, Sound [.cores] s (State.landPool s x1 x2 x3 x4 x5 x6 x7) := by
  intros
  unfold State.landPool
  dsimp only
  split
  with_reducible refine Sound.andThen ?_ (State.updCore_sound (fun k hk => ?_) _ _)
  with_reducible exact Sound.refl _
  exact hk
  split
  with_reducible refine Sound.andThen ?_ (State.updCore_sound (fun k hk => ?_) _ _)
  with_reducible refine Sound.andThen ?_ (State.makeRoom_sound ..)
  with_reducible exact Sound.refl _
  exact hk
  with_reducible refine Sound.andThen ?_ (State.updCore_sound (fun k hk => ?_) _ _)
  with_reducible refine Sound.andThen ?_ (State.makeRoom_sound ..)
  with_reducible exact Sound.refl _
  exact hk

theorem State.wastePart_sound : ∀ s x1 x2, Sound [.cores] s (State.wastePart s x1 x2) := by
  intros
  unfold State.wastePart
  dsimp only
  split
  with_reducible exact Sound.refl _
  with_reducible refine Sound.andThen ?_ (State.updCore_sound (fun k hk => ?_) _ _)
  with_reducible exact Sound.refl _
  exact hk

theorem State.landParts_sound : ∀ x0 x1 s x3 x4 x5, Sound [.cores] s (State.landParts x0 x1 s x3 x4 x5) := by
  intro c st s a data l
  induction l generalizing s a data with
  | nil => exact Sound.refl s
  | cons g l ih =>
    refine Sound.both ?_ (ih _ _ _)
    split
    · exact (State.landPool_sound ..).up
    · exact (State.wastePart_sound ..).up

theorem State.alterTile_sound : ∀ s x1 x2 x3 x4, Sound [.weir] s (State.alterTile s x1 x2 x3 x4) := by
  intros
  unfold State.alterTile
  split
  with_reducible refine Sound.andThen ?_ (State.updWeir_sound ..)
  with_reducible exact Sound.refl _
  with_reducible exact Sound.refl _

theorem State.arriveRing_sound : ∀ s x1 x2 x3 x4 x5, Sound [.evt, .ctl, .weir, .cores, .out] s (State.arriveRing s x1 x2 x3 x4 x5) := by
  intro s c x t tau v
  have codes : ∀ (z : List Nat) (l : List Nat) (b : LocalBuf),
      (l.foldl (fun l h => l.updHeld h fun y => { y with codes := z }) b).mem = b.mem :=
    fun z => LocalBuf.foldl_mem fun _ _ => rfl
  unfold State.arriveRing
  split
  · exact Sound.refl _
  · rename_i z _
    split
    · extract_lets u
      have h : Sound [.evt, .ctl, .weir, .cores, .out] s u := ((State.noteUse_sound ..).trans (State.dropXfer_sound ..)).up
      split
      · with_reducible refine h.andThen (State.updCore_sound (fun k hk => ?_) _ _)
        simpa only [codes] using hk
      · split
        · exact h.andThen (State.landPool_sound ..)
        · exact Sound.andFold h (fun a g => (State.wastePart_sound ..).up)
    · extract_lets home u
      have h : Sound [.evt, .ctl, .weir, .cores, .out] s u := ((State.updXfer_sound ..).trans (State.weirFault_sound ..)).up
      split
      · exact h
      · exact h.andThen (State.emit_sound ..)

theorem State.arriveRange_sound : ∀ s x1 x2 x3, Sound [.cores] s (State.arriveRange s x1 x2 x3) := by
  intro s c x a
  have put1 : ∀ (b : LocalBuf) (h : Nat), Memory.wf b.mem = true → Memory.wf (b.putHeld a x.data h).mem = true := by
    intro b h hb
    unfold LocalBuf.putHeld
    split
    · split
      · exact memWrite_wf _ _ hb
      · exact hb
    · exact hb
  have put : ∀ (l : List Nat) (b : LocalBuf), Memory.wf b.mem = true →
      Memory.wf (l.foldl (fun l h => l.putHeld a x.data h) b).mem = true := by
    intro l
    induction l with
    | nil => exact fun _ hb => hb
    | cons h l ih => exact fun b hb => ih _ (put1 b h hb)
  unfold State.arriveRange
  extract_lets u
  have h : Sound [.cores] s u := (State.dropXfer_sound ..).up
  split
  · with_reducible refine h.andThen (State.updCore_sound (fun k hk => ?_) _ _)
    exact put _ _ hk
  · exact h.both (State.landParts_sound ..)

theorem execTransferArrive_sound : ∀ x0 x1 x2 s, SoundOut [.evt, .ctl, .weir, .cores, .out] s (execTransferArrive x0 x1 x2 s) := by
  intros
  unfold execTransferArrive
  dsimp only
  split
  with_reducible refine SoundOut.next ?_
  with_reducible exact Sound.refl _
  split
  with_reducible refine SoundOut.next ?_
  with_reducible exact Sound.refl _
  split
  with_reducible refine SoundOut.next ?_
  with_reducible refine Sound.andThen ?_ (State.dropXfer_sound ..)
  with_reducible exact Sound.refl _
  split
  with_reducible refine SoundOut.next ?_
  with_reducible exact Sound.refl _
  with_reducible refine SoundOut.next ?_
  with_reducible exact Sound.refl _
  with_reducible refine SoundOut.next ?_
  with_reducible exact Sound.refl _
  with_reducible refine SoundOut.next ?_
  with_reducible exact Sound.refl _
  with_reducible refine SoundOut.next ?_
  with_reducible refine Sound.andThen ?_ (State.updCore_sound (fun k hk => ?_) _ _)
  with_reducible refine Sound.andThen ?_ (State.dropXfer_sound ..)
  with_reducible exact Sound.refl _
  dsimp only
  split
  exact hk
  exact hk
  split
  with_reducible refine SoundOut.next ?_
  with_reducible refine Sound.andThen ?_ (State.arriveRing_sound ..)
  with_reducible refine Sound.andThen ?_ (State.alterTile_sound ..)
  with_reducible exact Sound.refl _
  with_reducible refine SoundOut.next ?_
  with_reducible refine Sound.andThen ?_ (State.arriveRange_sound ..)
  with_reducible exact Sound.refl _

theorem execRingRepair_sound : ∀ x0 x1 s, SoundOut [.weir, .cores] s (execRingRepair x0 x1 s) := by
  intros
  unfold execRingRepair
  dsimp only
  split
  with_reducible refine SoundOut.next ?_
  with_reducible exact Sound.refl _
  split
  with_reducible refine SoundOut.next ?_
  with_reducible exact Sound.refl _
  split
  with_reducible refine SoundOut.next ?_
  with_reducible refine Sound.andThen ?_ (State.coreStall_sound ..)
  split
  split
  with_reducible refine Sound.andThen ?_ (State.storeTile_sound ..)
  with_reducible exact Sound.refl _
  with_reducible exact Sound.refl _
  with_reducible exact Sound.refl _
  split
  split
  split
  with_reducible refine SoundOut.next ?_
  with_reducible refine Sound.andThen ?_ (State.updWeir_sound ..)
  with_reducible refine Sound.andThen ?_ (State.updXfer_sound ..)
  with_reducible refine Sound.andThen ?_ (State.storeTile_sound ..)
  with_reducible exact Sound.refl _
  with_reducible refine SoundOut.next ?_
  with_reducible refine Sound.andThen ?_ (State.coreStall_sound ..)
  with_reducible refine Sound.andThen ?_ (State.storeTile_sound ..)
  with_reducible exact Sound.refl _
  split
  with_reducible refine SoundOut.next ?_
  with_reducible refine Sound.andThen ?_ (State.updWeir_sound ..)
  with_reducible refine Sound.andThen ?_ (State.updXfer_sound ..)
  with_reducible exact Sound.refl _
  with_reducible refine SoundOut.next ?_
  with_reducible refine Sound.andThen ?_ (State.coreStall_sound ..)
  with_reducible exact Sound.refl _
  split
  with_reducible refine SoundOut.next ?_
  with_reducible refine Sound.andThen ?_ (State.updWeir_sound ..)
  with_reducible refine Sound.andThen ?_ (State.updXfer_sound ..)
  with_reducible exact Sound.refl _
  with_reducible refine SoundOut.next ?_
  with_reducible refine Sound.andThen ?_ (State.coreStall_sound ..)
  with_reducible exact Sound.refl _

theorem execTailraceAck_sound : ∀ x0 x1 s, SoundOut [.fresh, .cores, .tier] s (execTailraceAck x0 x1 s) := by
  intro c id s
  unfold execTailraceAck
  split
  · exact SoundOut.next (Sound.refl _)
  · extract_lets a
    split
    · exact SoundOut.next (Sound.refl _)
    · split
      · exact SoundOut.next (State.countMoving_sound ..).up
      · rename_i x _ t _ _
        have h : Sound [.fresh, .cores, .tier] s t := by
          dsimp only [t]
          with_reducible refine Sound.andThen ?_ (State.updCore_sound (fun k hk => ?_) _ _)
          · exact (State.dropXfer_sound ..).up
          · exact hk
        refine SoundOut.next ?_
        split
        · exact h
        · exact h.andThen (State.landWrite_sound ..)

end Sys2Proof.Machine
end

