-- ==== Sys2Proof/Laws/SoundStreams.lean ====
section
/-! SUPPORT. Operations of Machine/Streams.lean are sound. -/

namespace Sys2Proof.Machine

set_option Elab.async false

theorem State.descTranslate_sound : ∀ s x1 x2 x3, Sound [.tier] s (State.descTranslate s x1 x2 x3) := by
  intros
  unfold State.descTranslate
  split
  with_reducible refine Sound.andFold ?_ (fun a x => ?_)
  with_reducible exact Sound.refl _
  with_reducible refine Sound.andThen ?_ (State.translate_sound ..)
  with_reducible exact Sound.refl _
  with_reducible exact Sound.refl _

theorem State.takeDesc_sound {m : List Part} {g : State → State} {s : State} (h : Sound m s (g s)) (c : CoreId) (st : Stream) (x : Nat × Nat)
    (d : BitVec 512) (e : partsIn [.evt, .ctl, .cores] m = true := by decide +kernel) : Sound m s (s.takeDesc c st x d g) := by
  unfold State.takeDesc
  dsimp only
  split
  · exact h.both ((State.raise_sound ..).up (by simp_all [partsIn]))
  · split
    · exact h.both ((State.raise_sound ..).up (by simp_all [partsIn]))
    · split
      · exact Sound.refl s
      · exact h.both (.up (l := [.cores]) (State.updCore_sound (fun k hk => by simpa using hk) _ _) (by simp_all [partsIn]))

theorem execDescDecode_sound : ∀ x0 x1 x2 s, SoundOut [.evt, .ctl, .cores, .tier] s (execDescDecode x0 x1 x2 s) := by
  intro c st d s
  unfold execDescDecode
  extract_lets f x
  split
  · exact SoundOut.next (Sound.refl _)
  · rename_i step _
    have h : ∀ t, Sound [.evt, .ctl, .cores, .tier] t (step t) := by
      intro t
      refine Sound.up (State.updCore_sound (fun k hk => ?_) _ _)
      simpa using hk
    split
    · exact SoundOut.next (Sound.refl _)
    · exact SoundOut.next ((h s).andThen (State.raise_sound ..))
    · exact SoundOut.next (Sound.both (State.descTranslate_sound ..).up (State.takeDesc_sound (h _) ..))

theorem State.pushPrefetch_sound : ∀ s x1 x2 x3 x4 x5, Sound [.cores] s (State.pushPrefetch s x1 x2 x3 x4 x5) := by
  intros
  unfold State.pushPrefetch
  dsimp only
  split
  with_reducible exact Sound.refl _
  with_reducible refine Sound.andThen ?_ (State.queueXfer_sound ..)
  with_reducible exact Sound.refl _

theorem State.pushTargets_sound : ∀ s x1 x2 x3 x4 x5, Sound [.cores] s (State.pushTargets s x1 x2 x3 x4 x5).1 := by
  intros
  unfold State.pushTargets
  dsimp only
  split
  with_reducible refine Sound.andThen ?_ (State.updCore_sound (fun k hk => ?_) _ _)
  with_reducible refine Sound.andFold ?_ (fun a x => ?_)
  with_reducible exact Sound.refl _
  with_reducible refine Sound.andFold ?_ (fun a x => ?_)
  with_reducible exact Sound.refl _
  with_reducible refine Sound.andThen ?_ (State.pushPrefetch_sound ..)
  with_reducible exact Sound.refl _
  exact hk
  with_reducible refine Sound.andFold ?_ (fun a x => ?_)
  with_reducible exact Sound.refl _
  with_reducible refine Sound.andFold ?_ (fun a x => ?_)
  with_reducible exact Sound.refl _
  with_reducible refine Sound.andThen ?_ (State.pushPrefetch_sound ..)
  with_reducible exact Sound.refl _

theorem execHintIssue_sound : ∀ x0 x1 x2 s, SoundOut [.cores] s (execHintIssue x0 x1 x2 s) := by
  intros
  unfold execHintIssue
  dsimp only
  split
  with_reducible refine SoundOut.next ?_
  with_reducible exact Sound.refl _
  with_reducible refine SoundOut.next ?_
  with_reducible refine Sound.andThen ?_ (State.updCore_sound (fun k hk => ?_) _ _)
  with_reducible refine Sound.andThen ?_ (State.pushTargets_sound ..)
  with_reducible exact Sound.refl _
  simpa using hk

theorem State.takeCredit_sound : ∀ s x1 x2, Sound [.ctl] s (State.takeCredit s x1 x2) := by
  intros
  unfold State.takeCredit
  split
  with_reducible exact Sound.refl _
  with_reducible refine Sound.andThen ?_ (State.updCtl_sound ..)
  with_reducible exact Sound.refl _

theorem State.issueCmd_sound : ∀ s x1 x2, Sound [.cores] s (State.issueCmd s x1 x2) := by
  intros
  unfold State.issueCmd
  with_reducible refine Sound.andThen ?_ (State.updCore_sound (fun k hk => ?_) _ _)
  with_reducible exact Sound.refl _
  simpa using hk

theorem State.issueChecked_sound : ∀ s x1 x2, Sound [.evt, .ctl, .cores] s (State.issueChecked s x1 x2) := by
  intros
  unfold State.issueChecked
  split
  · with_reducible refine Sound.andThen ?_ (State.issueCmd_sound ..)
    exact (State.stopAt_sound ..).up
  · exact (State.issueCmd_sound ..).up

theorem State.noIssue_sound : ∀ s x1 x2, Sound [.ctl, .cores] s (State.noIssue s x1 x2) := by
  intros
  unfold State.noIssue
  with_reducible refine Sound.andThen ?_ (State.updCore_sound (fun k hk => ?_) _ _)
  split
  split
  with_reducible refine Sound.andThen ?_ (State.coreStall_sound ..)
  with_reducible exact Sound.refl _
  with_reducible exact Sound.refl _
  with_reducible exact Sound.refl _
  exact hk

theorem execCommandIssue_sound : ∀ x0 x1 s, SoundOut [.evt, .ctl, .cores] s (execCommandIssue x0 x1 s) := by
  intro c cyc s
  unfold execCommandIssue
  extract_lets t
  have h : Sound [.evt, .ctl, .cores] s t := (State.clockTo_sound ..).up
  split
  · refine SoundOut.next ?_
    with_reducible refine Sound.andThen (h.both (State.issueChecked_sound ..)) (State.updCore_sound (fun k hk => ?_) _ _)
    exact hk
  · exact SoundOut.next (h.andThen (State.noIssue_sound ..))

theorem State.issueBest_sound : ∀ s x1 x2 x3, Sound [.evt, .ctl, .cores] s (State.issueBest s x1 x2 x3) := by
  intro s c l cyc
  unfold State.issueBest
  extract_lets best
  cases hb : best with
  | some x =>
    obtain ⟨y, -, hy⟩ := List.exists_of_findSome?_eq_some hb
    split at hy
    · cases hy
    · rename_i z hz
      split at hy
      · cases hy
      · cases hy
        refine Sound.andThen ?_ (State.fetchMore_sound ..)
        exact (State.tryPass_sound hz).up
  | none =>
    dsimp only
    split
    · split
      · exact (State.coreStall_sound ..).up
      · exact Sound.refl _
    · exact Sound.refl _

theorem execMm_sound : ∀ x0 x1 x2 s, SoundOut [.evt, .ctl, .cores] s (execMm x0 x1 x2 s) := by
  intros
  unfold execMm
  dsimp only
  exact SoundOut.next (Sound.both (State.clockTo_sound ..).up (State.issueBest_sound ..))

theorem State.nextUnit_sound {m : List Part} {g : State → Cmd → Nat → State} (h : ∀ a x n, Sound m a (g a x n)) (s : State) (c : CoreId)
    (st : Stream) (o : Op) (e : partsIn [.evt, .ctl, .cores] m = true := by decide +kernel) : SoundOut m s (s.nextUnit c st o g) := by
  unfold State.nextUnit
  split
  · exact .next (Sound.refl s)
  · dsimp only
    split
    · split
      · exact .next ((State.coreStall_sound ..).up (by simp_all [partsIn]))
      · exact .next (Sound.refl s)
    · refine .next (.andThen (.both (t := _) (.up (l := [.cores]) (State.updCore_sound (fun k hk => by simpa using hk) _ _) ?_) (h _ _ _))
        (State.fetchMore_sound ..) e)
      simp_all [partsIn]

theorem State.commit0_sound : ∀ s x1 x2, Sound [.cores] s (State.commit0 s x1 x2) := by
  intros
  unfold State.commit0
  with_reducible refine Sound.andThen ?_ (State.updCore_sound (fun k hk => ?_) _ _)
  with_reducible exact Sound.refl _
  simpa using hk

theorem State.segNode_sound : ∀ x0 x1 x2 x3 x4 x5 s, Sound [.ctl, .cores] s (State.segNode x0 x1 x2 x3 x4 x5 s).2 := by
  intro t n cores states level
  induction level with
  | zero => intro i s; exact Sound.refl _
  | succ k ih =>
    intro i s
    unfold State.segNode
    extract_lets x y
    have h : Sound [.ctl, .cores] s y.2 := (ih _ _).both (ih _ _)
    split
    · exact h
    · exact h
    · exact h.andThen (State.coreEv_sound ..)

theorem State.historyResult_sound : ∀ s x1 x2 x3 x4 x5, Sound [.ctl, .cores] s (State.historyResult s x1 x2 x3 x4 x5).2 := by
  intros
  unfold State.historyResult
  dsimp only
  with_reducible refine Sound.andThen ?_ (State.coreEv_sound ..)
  exact State.segNode_sound ..

theorem State.histories_sound : ∀ x0 x1 x2 x3 x4 s, Sound [.ctl, .cores] s (State.histories x0 x1 x2 x3 x4 s).2 := by
  intro c cmd g l
  induction l with
  | nil => intro rows s; exact Sound.refl _
  | cons n l ih =>
    intro rows s
    unfold State.histories
    dsimp only
    exact (State.historyResult_sound ..).both (ih _ _)

theorem State.runVec_sound : ∀ s x1 x2 x3 x4 x5, Sound [.evt, .ctl, .cores] s (State.runVec s x1 x2 x3 x4 x5) := by
  intro s c cmd stage u rows
  unfold State.runVec
  dsimp only
  split
  · with_reducible refine Sound.andThen ?_ (State.stageRows_sound ..)
    exact (State.histories_sound ..).up
  · with_reducible refine Sound.andThen ?_ (State.stageRows_sound ..)
    exact (State.coreEv_sound ..).up

theorem execNop_sound : ∀ x0 x1 s, SoundOut [.evt, .ctl, .cores] s (execNop x0 x1 s) := by
  intros
  unfold execNop
  with_reducible refine State.nextUnit_sound (fun a x n => ?_) ..
  with_reducible refine Sound.andThen ?_ (State.commit0_sound ..)
  with_reducible exact Sound.refl _

theorem State.retire_sound : ∀ s x1 x2, Sound [.ctl, .cores] s (State.retire s x1 x2) := by
  intros
  unfold State.retire
  dsimp only
  split
  with_reducible refine Sound.andThen ?_ (State.updCore_sound (fun k hk => ?_) _ _)
  with_reducible exact Sound.refl _
  dsimp only
  split
  split
  simpa using hk
  simpa using hk
  simpa using hk
  split
  with_reducible refine Sound.andThen ?_ (State.updCtl_sound ..)
  with_reducible refine Sound.andThen ?_ (State.updCore_sound (fun k hk => ?_) _ _)
  with_reducible exact Sound.refl _
  dsimp only
  split
  split
  simpa using hk
  simpa using hk
  simpa using hk
  with_reducible refine Sound.andThen ?_ (State.updCtl_sound ..)
  with_reducible refine Sound.andThen ?_ (State.updCore_sound (fun k hk => ?_) _ _)
  with_reducible exact Sound.refl _
  dsimp only
  split
  split
  simpa using hk
  simpa using hk
  simpa using hk
  with_reducible refine Sound.andThen ?_ (State.updCore_sound (fun k hk => ?_) _ _)
  with_reducible exact Sound.refl _
  dsimp only
  split
  split
  simpa using hk
  simpa using hk
  simpa using hk

theorem execSignal_sound : ∀ x0 x1 s, SoundOut [.ctl, .cores] s (execSignal x0 x1 s) := by
  intros
  unfold execSignal
  split
  with_reducible refine SoundOut.next ?_
  with_reducible exact Sound.refl _
  with_reducible refine SoundOut.next ?_
  with_reducible refine Sound.andThen ?_ (State.retire_sound ..)
  with_reducible refine Sound.andThen ?_ (State.updCore_sound (fun k hk => ?_) _ _)
  with_reducible exact Sound.refl _
  exact hk

theorem execWait_sound : ∀ x0 x1 s, SoundOut [.ctl, .cores] s (execWait x0 x1 s) := by
  intros
  unfold execWait
  split
  with_reducible refine SoundOut.next ?_
  with_reducible exact Sound.refl _
  split
  with_reducible refine SoundOut.next ?_
  with_reducible refine Sound.andThen ?_ (State.retire_sound ..)
  with_reducible exact Sound.refl _
  with_reducible refine SoundOut.next ?_
  with_reducible exact Sound.refl _

theorem execFwdEnd_sound : ∀ x0 s, SoundOut [.cores] s (execFwdEnd x0 s) := by
  intros
  unfold execFwdEnd
  dsimp only
  split
  with_reducible refine SoundOut.next ?_
  with_reducible exact Sound.refl _
  split
  with_reducible refine SoundOut.next ?_
  with_reducible refine Sound.andThen ?_ (State.updCore_sound (fun k hk => ?_) _ _)
  with_reducible refine Sound.andThen ?_ (State.updCore_sound (fun k hk => ?_) _ _)
  with_reducible exact Sound.refl _
  split
  exact hk
  exact hk
  simpa using hk
  with_reducible refine SoundOut.next ?_
  with_reducible exact Sound.refl _

theorem execBwdEnd_sound : ∀ x0 s, SoundOut [.cores] s (execBwdEnd x0 s) := by
  intros
  unfold execBwdEnd
  split
  with_reducible refine SoundOut.next ?_
  with_reducible exact Sound.refl _
  with_reducible refine SoundOut.next ?_
  with_reducible refine Sound.andThen ?_ (State.commit0_sound ..)
  with_reducible refine Sound.andThen ?_ (State.updCore_sound (fun k hk => ?_) _ _)
  with_reducible exact Sound.refl _
  exact hk

theorem execVec_sound : ∀ x0 x1 s, SoundOut [.evt, .ctl, .cores] s (execVec x0 x1 s) := by
  intros
  unfold execVec
  with_reducible refine State.nextUnit_sound (fun a x n => ?_) ..
  with_reducible refine Sound.andThen ?_ (State.unitDone_sound ..)
  with_reducible refine Sound.andThen ?_ (State.runVec_sound ..)
  with_reducible refine Sound.andThen ?_ (State.coreEv_sound ..)
  with_reducible exact Sound.refl _

theorem execVred_sound : ∀ x0 x1 s, SoundOut [.fresh, .evt, .ctl, .cores] s (execVred x0 x1 s) := by
  intros
  unfold execVred
  with_reducible refine State.nextUnit_sound (fun a x n => ?_) ..
  with_reducible refine Sound.andThen ?_ (State.unitDone_sound ..)
  with_reducible refine Sound.andThen ?_ (State.stageResult_sound ..)
  with_reducible refine Sound.andThen ?_ (State.coreEv_sound ..)
  split
  with_reducible refine Sound.lit ?_
  with_reducible exact Sound.refl _
  with_reducible refine Sound.lit ?_
  with_reducible exact Sound.refl _

theorem execLookup_sound : ∀ x0 s, SoundOut [.evt, .ctl, .weir, .querns, .units, .nextRef, .cores, .fab, .out] s (execLookup x0 s) := by
  intros
  unfold execLookup
  with_reducible refine State.nextUnit_sound (fun a x n => ?_) ..
  with_reducible refine Sound.andThen ?_ (State.lookupUnit_sound ..)
  with_reducible exact Sound.refl _

theorem State.poolStage_sound : ∀ s x1 x2 x3 x4 x5, Sound [.evt, .ctl, .querns, .cores] s (State.poolStage s x1 x2 x3 x4 x5) := by
  intro s c cmd stage u rows
  unfold State.poolStage
  extract_lets x t
  have h : Sound [.evt, .ctl, .querns, .cores] s t := by
    dsimp only [t]
    split
    · exact (State.coreEv_sound ..).up
    · exact (State.quernEv_sound ..).up
  exact (h.andThen (State.stageResult_sound ..)).andThen (State.unitDone_sound ..)

theorem execPool_sound : ∀ x0 s, SoundOut [.evt, .ctl, .querns, .cores] s (execPool x0 s) := by
  intros
  unfold execPool
  with_reducible refine State.nextUnit_sound (fun a x n => ?_) ..
  split
  · exact (State.unitFault_sound (by assumption)).up
  · exact Sound.both (State.coreEv_sound ..).up (State.poolStage_sound ..)

theorem State.gradUnit_sound : ∀ s x1 x2 x3, Sound [.evt, .ctl, .querns, .units, .nextRef, .cores, .fab, .out] s (State.gradUnit s x1 x2 x3) := by
  intros
  unfold State.gradUnit
  split
  · exact (State.unitFault_sound (by assumption)).up
  · dsimp only
    split
    · exact (State.addUnit_sound ..).up
    · with_reducible refine Sound.andThen ?_ (State.deliverAll_sound ..)
      with_reducible refine Sound.andThen ?_ (State.addUnit_sound ..)
      exact (State.quernEv_sound ..).up

theorem execGradSend_sound : ∀ x0 s, SoundOut [.evt, .ctl, .querns, .units, .nextRef, .cores, .fab, .out] s (execGradSend x0 s) := by
  intros
  unfold execGradSend
  with_reducible refine State.nextUnit_sound (fun a x n => ?_) ..
  exact (State.gradUnit_sound ..).andThen (State.unitDone_sound ..)

theorem execStashWr_sound : ∀ x0 s, SoundOut [.evt, .ctl, .cores] s (execStashWr x0 s) := by
  intros
  unfold execStashWr
  dsimp only
  split
  with_reducible refine SoundOut.next ?_
  with_reducible exact Sound.refl _
  split
  with_reducible refine SoundOut.next ?_
  split
  with_reducible refine Sound.andThen ?_ (State.coreStall_sound ..)
  with_reducible exact Sound.refl _
  with_reducible exact Sound.refl _
  split
  with_reducible refine SoundOut.next ?_
  with_reducible refine Sound.andThen ?_ (State.stashWrite_sound ..)
  with_reducible exact Sound.refl _
  with_reducible refine SoundOut.next ?_
  with_reducible refine Sound.andThen ?_ (State.fetchMore_sound ..)
  with_reducible refine Sound.andThen ?_ (State.updCore_sound (fun k hk => ?_) _ _)
  with_reducible refine Sound.andThen ?_ (State.updCore_sound (fun k hk => ?_) _ _)
  with_reducible refine Sound.andThen ?_ (State.coreEv_sound ..)
  with_reducible refine Sound.andThen ?_ (State.updCore_sound (fun k hk => ?_) _ _)
  with_reducible refine Sound.andThen ?_ (State.stashWrite_sound ..)
  with_reducible exact Sound.refl _
  exact hk
  simpa using hk
  exact hk

theorem execStashRd_sound (c : CoreId) (s : State) : SoundOut [.evt, .ctl, .cores] s (execStashRd c s) := by
  refine State.nextUnit_sound (fun t cmd u => ?_) s c .b .stashRd
  split
  · exact (State.commit0_sound ..).up
  · exact ((State.coreEv_sound ..).trans (State.stageResult_sound ..)).up

theorem execStashFree_sound : ∀ x0 s, SoundOut [.evt, .ctl, .cores] s (execStashFree x0 s) := by
  intros
  unfold execStashFree
  with_reducible refine State.nextUnit_sound (fun a x n => ?_) ..
  with_reducible refine Sound.andThen ?_ (State.commit0_sound ..)
  with_reducible refine Sound.andThen ?_ (State.payAll_sound ..)
  refine Sound.up (State.updCore_sound (fun k hk => ?_) _ _)
  exact hk

theorem State.keepHeld_sound : ∀ s x1 x2, Sound [.cores] s (State.keepHeld s x1 x2) := by
  intros
  unfold State.keepHeld
  with_reducible refine Sound.andThen ?_ (State.updCore_sound (fun k hk => ?_) _ _)
  with_reducible exact Sound.refl _
  exact hk

theorem State.fetchLocal_sound : ∀ s x1 x2, Sound [.cores] s (State.fetchLocal s x1 x2) := by
  intros
  unfold State.fetchLocal
  dsimp only
  with_reducible refine Sound.andThen ?_ (State.updCore_sound (fun k hk => ?_) _ _)
  · exact State.lbWrite_sound ..
  · exact hk

theorem execFetch_sound : ∀ x0 x1 s, SoundOut [.evt, .ctl, .cores] s (execFetch x0 x1 s) := by
  intros
  unfold execFetch
  with_reducible refine State.nextUnit_sound (fun a x n => ?_) ..
  with_reducible refine Sound.andThen ?_ (State.commit0_sound ..)
  split
  · exact (State.fetchLocal_sound ..).up
  · exact (State.keepHeld_sound ..).up

theorem execWrite_sound : ∀ x0 x1 s, SoundOut [.evt, .ctl, .cores] s (execWrite x0 x1 s) := by
  intros
  unfold execWrite
  with_reducible refine State.nextUnit_sound (fun a x n => ?_) ..
  with_reducible refine Sound.andThen ?_ (State.unitDone_sound ..)
  with_reducible refine Sound.andThen ?_ (State.commit0_sound ..)
  with_reducible refine Sound.andThen ?_ (State.writeBack_sound ..)
  with_reducible refine Sound.andThen ?_ (State.takeCredit_sound ..)
  with_reducible exact Sound.refl _

theorem execPrefetch_sound : ∀ x0 x1 s, SoundOut [.cores] s (execPrefetch x0 x1 s) := by
  intro c st s
  unfold execPrefetch
  split
  · exact SoundOut.next (Sound.refl _)
  · extract_lets l x t
    have h : Sound [.cores] s t := by
      dsimp only [t]
      with_reducible refine Sound.andThen ?_ (State.updCore_sound (fun k hk => ?_) _ _)
      · exact State.pushTargets_sound ..
      · simpa using hk
    refine SoundOut.next ?_
    split
    · exact h
    · with_reducible refine Sound.andThen ?_ (State.commit0_sound ..)
      with_reducible refine Sound.andThen h (State.updCore_sound (fun k hk => ?_) _ _)
      simpa using hk

theorem execCancel_sound : ∀ x0 x1 s, SoundOut [.evt, .ctl, .cores] s (execCancel x0 x1 s) := by
  intros
  unfold execCancel
  with_reducible refine State.nextUnit_sound (fun a x n => ?_) ..
  with_reducible refine Sound.andThen ?_ (State.commit0_sound ..)
  with_reducible refine Sound.andThen ?_ (State.updCore_sound (fun k hk => ?_) _ _)
  with_reducible exact Sound.refl _
  exact hk

theorem execLoadScales_sound : ∀ x0 s, SoundOut [.evt, .ctl, .cores] s (execLoadScales x0 s) := by
  intros
  unfold execLoadScales
  with_reducible refine State.nextUnit_sound (fun a x n => ?_) ..
  with_reducible refine Sound.andThen ?_ (State.commit0_sound ..)
  with_reducible refine Sound.andThen ?_ (State.updCore_sound (fun k hk => ?_) _ _)
  with_reducible exact Sound.refl _
  exact hk

theorem execLoadCsum_sound : ∀ x0 s, SoundOut [.evt, .ctl, .cores] s (execLoadCsum x0 s) := by
  intros
  unfold execLoadCsum
  with_reducible refine State.nextUnit_sound (fun a x n => ?_) ..
  with_reducible refine Sound.andThen ?_ (State.commit0_sound ..)
  with_reducible refine Sound.andThen ?_ (State.updCore_sound (fun k hk => ?_) _ _)
  with_reducible exact Sound.refl _
  exact hk

theorem execInvalidate_sound : ∀ x0 s, SoundOut [.evt, .ctl, .cores] s (execInvalidate x0 s) := by
  intros
  unfold execInvalidate
  with_reducible refine State.nextUnit_sound (fun a x n => ?_) ..
  with_reducible refine Sound.andThen ?_ (State.commit0_sound ..)
  with_reducible refine Sound.andThen ?_ (State.updCore_sound (fun k hk => ?_) _ _)
  with_reducible exact Sound.refl _
  exact hk

theorem execPrestage_sound : ∀ x0 s, SoundOut [.evt, .ctl, .cores] s (execPrestage x0 s) := by
  intros
  unfold execPrestage
  with_reducible refine State.nextUnit_sound (fun a x n => ?_) ..
  with_reducible refine Sound.andThen ?_ (State.commit0_sound ..)
  with_reducible refine Sound.andThen ?_ (State.keepHeld_sound ..)
  with_reducible exact Sound.refl _

theorem State.stageUnit_sound {m : List Part} {g : State → List (List F32) → State} (h : ∀ a x, Sound m a (g a x)) (s : State) (c : CoreId)
    (cmd : Cmd) (stage u : Nat) (e : partsIn [.cores] m = true := by decide +kernel) : Sound m s (s.stageUnit c cmd stage u g) :=
  ((State.updCore_sound (fun k hk => by simpa using hk) s c).up e).both (h _ _)

theorem State.stashStage_sound : ∀ s x1 x2 x3 x4, Sound [.evt, .ctl, .cores] s (State.stashStage s x1 x2 x3 x4) := by
  intros
  unfold State.stashStage
  dsimp only
  split
  with_reducible refine Sound.both ?_ (State.stageUnit_sound (fun a x => ?_) ..)
  with_reducible refine Sound.andThen ?_ (State.coreEv_sound ..)
  with_reducible refine Sound.andThen ?_ (State.stashWrite_sound ..)
  with_reducible exact Sound.refl _
  with_reducible refine Sound.andThen ?_ (State.updCore_sound (fun k hk => ?_) _ _)
  with_reducible exact Sound.refl _
  simpa using hk
  with_reducible refine Sound.andThen ?_ (State.stashWrite_sound ..)
  with_reducible exact Sound.refl _

theorem State.handUnit_sound {m : List Part} {g : State → List (List F32) → State} (h : ∀ a x, Sound m a (g a x)) (s : State) (c : CoreId)
    (cmd : Cmd) (stage u : Nat) (e : partsIn [.cores] m = true := by decide +kernel) : Sound m s (s.handUnit c cmd stage u g) := by
  unfold State.handUnit
  split
  · exact (State.coreStall_sound ..).up e
  · split
    · exact State.stageUnit_sound h s c cmd stage u e
    · exact Sound.refl s

theorem execHandoverUnit_sound : ∀ x0 x1 x2 s, SoundOut [.evt, .ctl, .querns, .cores] s (execHandoverUnit x0 x1 x2 s) := by
  intro c st stage s
  unfold execHandoverUnit
  split
  · exact SoundOut.next (Sound.refl _)
  · split
    · exact SoundOut.next (Sound.refl _)
    · extract_lets i u
      split
      · exact SoundOut.next (State.issueBest_sound ..).up
      · exact SoundOut.next (State.handUnit_sound (fun a x => (State.runVec_sound ..).up) ..)
      · exact SoundOut.next (State.handUnit_sound (fun a x => State.poolStage_sound ..) ..)
      · exact SoundOut.next (State.stashStage_sound ..).up
      · exact SoundOut.next (Sound.refl _)

theorem execCommandRetire_sound : ∀ x0 x1 x2 s, SoundOut [.ctl, .cores] s (execCommandRetire x0 x1 x2 s) := by
  intros
  unfold execCommandRetire
  split
  with_reducible refine SoundOut.next ?_
  with_reducible exact Sound.refl _
  with_reducible refine SoundOut.next ?_
  with_reducible refine Sound.andThen ?_ (State.retire_sound ..)
  with_reducible exact Sound.refl _

theorem execDeferPromote_sound : ∀ x0 x1 s, SoundOut [.cores] s (execDeferPromote x0 x1 s) := by
  intros
  unfold execDeferPromote
  with_reducible refine SoundOut.next ?_
  with_reducible refine Sound.andThen ?_ (State.updCore_sound (fun k hk => ?_) _ _)
  with_reducible refine Sound.andThen ?_ (State.clockTo_sound ..)
  with_reducible exact Sound.refl _
  exact hk

theorem execNoProgress_sound : ∀ x0 s, SoundOut [.evt, .ctl, .cores] s (execNoProgress x0 s) := by
  intros
  unfold execNoProgress
  dsimp only
  split
  with_reducible refine SoundOut.next ?_
  with_reducible exact Sound.refl _
  with_reducible refine SoundOut.next ?_
  with_reducible refine Sound.andThen ?_ (State.updCore_sound (fun k hk => ?_) _ _)
  with_reducible refine Sound.andThen ?_ (State.raise_sound ..)
  with_reducible exact Sound.refl _
  exact hk

theorem execDumpValid_sound : ∀ x0 x1 s, SoundOut [.cores] s (execDumpValid x0 x1 s) := by
  intros
  unfold execDumpValid
  split
  with_reducible refine SoundOut.next ?_
  with_reducible refine Sound.andThen ?_ (State.updCore_sound (fun k hk => ?_) _ _)
  with_reducible exact Sound.refl _
  exact hk
  with_reducible refine SoundOut.next ?_
  with_reducible exact Sound.refl _

theorem execGovStreamCtl_sound : ∀ x0 x1 s, SoundOut [.cores] s (execGovStreamCtl x0 x1 s) := by
  intros
  unfold execGovStreamCtl
  with_reducible refine SoundOut.next ?_
  with_reducible refine Sound.andThen ?_ (State.updCore_sound (fun k hk => ?_) _ _)
  with_reducible exact Sound.refl _
  exact hk

end Sys2Proof.Machine
end

