-- ==== Sys2Proof/Laws/SoundArbiters.lean ====
section
/-! SUPPORT. Operations of Machine/Arbiters.lean are sound. -/

namespace Sys2Proof.Machine

set_option Elab.async false

theorem State.arbJoin_sound : ∀ s x1 x2 x3, Sound [.arbs] s (State.arbJoin s x1 x2 x3) := by
  intros
  unfold State.arbJoin
  with_reducible refine Sound.andThen ?_ (State.updArb_sound ..)
  with_reducible exact Sound.refl _

theorem execArbDecision_sound : ∀ x0 x1 x2 s, SoundOut [.arbs] s (execArbDecision x0 x1 x2 s) := by
  intros
  unfold execArbDecision
  with_reducible refine SoundOut.next ?_
  split
  with_reducible refine Sound.andThen ?_ (State.arbJoin_sound ..)
  with_reducible exact Sound.refl _
  with_reducible refine Sound.andThen ?_ (State.updArb_sound ..)
  with_reducible refine Sound.andThen ?_ (State.arbJoin_sound ..)
  with_reducible exact Sound.refl _

theorem execArbHold_sound : ∀ x0 x1 s, SoundOut [.evt, .ctl, .arbs] s (execArbHold x0 x1 s) := by
  intros
  unfold execArbHold
  dsimp only
  split
  with_reducible refine SoundOut.next ?_
  with_reducible refine Sound.andThen ?_ (State.arbJoin_sound ..)
  with_reducible exact Sound.refl _
  split
  with_reducible refine SoundOut.next ?_
  with_reducible refine Sound.andThen ?_ (State.arbJoin_sound ..)
  with_reducible exact Sound.refl _
  with_reducible refine SoundOut.next ?_
  with_reducible refine Sound.andThen ?_ (State.raiseDev_sound ..)
  with_reducible refine Sound.andThen ?_ (State.updArb_sound ..)
  with_reducible refine Sound.andThen ?_ (State.arbJoin_sound ..)
  with_reducible exact Sound.refl _

theorem State.countGrant_sound : ∀ s x1 x2, Sound [.weir, .querns, .cores] s (State.countGrant s x1 x2) := by
  intros
  unfold State.countGrant
  split
  with_reducible refine Sound.andThen ?_ (State.coreStall_sound ..)
  with_reducible exact Sound.refl _
  with_reducible refine Sound.andThen ?_ (State.updQuern_sound ..)
  with_reducible exact Sound.refl _
  split
  with_reducible refine Sound.andThen ?_ (State.weirStall_sound ..)
  with_reducible exact Sound.refl _
  with_reducible exact Sound.refl _

theorem State.gateEngines_sound : ∀ s x1, Sound [.ctl, .cores] s (State.gateEngines s x1) := by
  intros
  unfold State.gateEngines
  dsimp only
  split
  with_reducible exact Sound.refl _
  split
  with_reducible exact Sound.refl _
  with_reducible refine Sound.andThen ?_ (State.updCore_sound (fun k hk => ?_) _ _)
  with_reducible exact Sound.refl _
  exact hk

theorem execTurnEstimate_sound : ∀ x0 x1 x2 s, SoundOut [.ctl, .weir, .querns, .cores, .arbs] s (execTurnEstimate x0 x1 x2 s) := by
  intros
  unfold execTurnEstimate
  dsimp only
  split
  with_reducible refine SoundOut.next ?_
  with_reducible refine Sound.andThen ?_ (State.arbJoin_sound ..)
  with_reducible exact Sound.refl _
  split
  with_reducible refine SoundOut.next ?_
  with_reducible refine Sound.andThen ?_ (State.arbJoin_sound ..)
  with_reducible exact Sound.refl _
  with_reducible refine SoundOut.next ?_
  split
  with_reducible refine Sound.andThen ?_ (State.gateEngines_sound ..)
  with_reducible refine Sound.andThen ?_ (State.countGrant_sound ..)
  with_reducible refine Sound.andThen ?_ (State.updArb_sound ..)
  with_reducible refine Sound.andThen ?_ (State.arbJoin_sound ..)
  with_reducible exact Sound.refl _
  with_reducible refine Sound.andThen ?_ (State.countGrant_sound ..)
  with_reducible refine Sound.andThen ?_ (State.updArb_sound ..)
  with_reducible refine Sound.andThen ?_ (State.arbJoin_sound ..)
  with_reducible exact Sound.refl _

theorem execEngineWake_sound : ∀ x0 x1 x2 s, SoundOut [.cores] s (execEngineWake x0 x1 x2 s) := by
  intros
  unfold execEngineWake
  dsimp only
  split
  with_reducible refine SoundOut.next ?_
  with_reducible refine Sound.andThen ?_ (State.updEngine_sound ..)
  with_reducible refine Sound.andThen ?_ (State.clockTo_sound ..)
  with_reducible exact Sound.refl _
  with_reducible refine SoundOut.next ?_
  with_reducible exact Sound.refl _

end Sys2Proof.Machine
end

