-- ==== Sys2Proof/Laws/SoundFabric.lean ====
section
/-! SUPPORT. Operations of Machine/Fabric.lean are sound. -/

namespace Sys2Proof.Machine

set_option Elab.async false

theorem State.portFault_sound : ∀ s x1 x2, Sound [.evt, .ctl] s (State.portFault s x1 x2) := by
  intros
  unfold State.portFault
  with_reducible refine Sound.andThen ?_ (State.raiseDev_sound ..)
  with_reducible exact Sound.refl _

theorem State.reroute_sound : ∀ s, Sound [.evt, .ctl, .fab] s (State.reroute s) := by
  intros
  unfold State.reroute
  with_reducible refine Sound.andFold ?_ (fun a x => ?_)
  with_reducible refine Sound.andThen ?_ (State.updFab_sound ..)
  with_reducible exact Sound.refl _
  with_reducible refine Sound.andThen ?_ (State.raiseDev_sound ..)
  with_reducible exact Sound.refl _

theorem State.sendCtrl_sound : ∀ s x1, Sound [.fresh, .fab] s (State.sendCtrl s x1) := by
  intros
  unfold State.sendCtrl
  with_reducible refine Sound.andThen ?_ (State.updPort_sound ..)
  with_reducible refine Sound.andThen ?_ (State.tick_sound ..)
  with_reducible exact Sound.refl _

theorem State.giveSlots_sound : ∀ s x1 x2 x3, Sound [.out] s (State.giveSlots s x1 x2 x3) := by
  intros
  unfold State.giveSlots
  with_reducible refine Sound.andThen ?_ (State.emit_sound ..)
  with_reducible exact Sound.refl _

theorem State.returnSlots_sound : ∀ s x1 x2 x3, Sound [.fab, .out] s (State.returnSlots s x1 x2 x3) := by
  intros
  unfold State.returnSlots
  split
  with_reducible exact Sound.refl _
  split
  with_reducible refine Sound.andThen ?_ (State.updFab_sound ..)
  with_reducible exact Sound.refl _
  with_reducible refine Sound.andThen ?_ (State.giveSlots_sound ..)
  with_reducible exact Sound.refl _

theorem State.payOwed_sound : ∀ s, Sound [.fab, .out] s (State.payOwed s) := by
  intros
  unfold State.payOwed
  split
  with_reducible exact Sound.refl _
  with_reducible refine Sound.andFold ?_ (fun a x => ?_)
  with_reducible refine Sound.andThen ?_ (State.updFab_sound ..)
  with_reducible exact Sound.refl _
  with_reducible refine Sound.andThen ?_ (State.giveSlots_sound ..)
  with_reducible exact Sound.refl _

theorem State.sendNative_sound : ∀ s x1 x2, Sound [.fab, .out] s (State.sendNative s x1 x2) := by
  intros
  unfold State.sendNative
  with_reducible refine Sound.andThen ?_ (State.emit_sound ..)
  with_reducible refine Sound.andThen ?_ (State.updPort_sound ..)
  with_reducible exact Sound.refl _

theorem State.updFlow_sound : ∀ s x1 x2 x3, Sound [.fab] s (State.updFlow s x1 x2 x3) := by
  intros
  unfold State.updFlow
  with_reducible refine Sound.andThen ?_ (State.updFab_sound ..)
  with_reducible exact Sound.refl _

theorem State.sendEth_sound : ∀ s x1 x2, Sound [.fab, .out] s (State.sendEth s x1 x2) := by
  intros
  unfold State.sendEth
  with_reducible refine Sound.andThen ?_ (State.updPort_sound ..)
  with_reducible refine Sound.andThen ?_ (State.updFlow_sound ..)
  with_reducible refine Sound.andThen ?_ (State.emit_sound ..)
  with_reducible exact Sound.refl _

theorem State.askGrant_sound : ∀ s x1 x2, Sound [.fab, .out] s (State.askGrant s x1 x2) := by
  intros
  unfold State.askGrant
  split
  · exact Sound.refl _
  · with_reducible refine Sound.andThen ?_ (State.updFlow_sound ..)
    exact (State.emit_sound ..).up

theorem State.holdFrame_sound : ∀ s x1 x2 x3, Sound [.fab, .out] s (State.holdFrame s x1 x2 x3) := by
  intros
  unfold State.holdFrame
  dsimp only
  split
  · with_reducible refine Sound.andThen ?_ (State.askGrant_sound ..)
    exact (State.updFab_sound ..).up
  · exact (State.updFab_sound ..).up

theorem State.leave_sound : ∀ s x1 x2, Sound [.fab, .out] s (State.leave s x1 x2) := by
  intros
  unfold State.leave
  split
  with_reducible refine Sound.andThen ?_ (State.returnSlots_sound ..)
  with_reducible exact Sound.refl _
  with_reducible exact Sound.refl _

theorem State.trySend_sound {s t : State} {f : Frame} (h : s.trySend f = .sent t) : Sound [.fab, .out] s t := by
  unfold State.trySend at h
  dsimp only at h
  repeat' split at h
  all_goals first
    | (cases h; done)
    | (cases h; first | exact State.sendNative_sound .. | exact State.sendEth_sound ..)

theorem State.route_sound : ∀ s x1 x2, Sound [.fab, .out] s (State.route s x1 x2) := by
  intros
  unfold State.route
  split
  · exact State.holdFrame_sound ..
  · split
    · rename_i h
      exact (State.trySend_sound h).andThen (State.leave_sound ..)
    · exact State.holdFrame_sound ..

theorem State.drain_sound : ∀ s, Sound [.fab, .out] s (State.drain s) := by
  intro s
  unfold State.drain
  extract_lets t l
  have ht : Sound [.fab, .out] s t := State.payOwed_sound ..
  refine Sound.andFold (ht.andThen (State.updFab_sound ..)) (fun a x => ?_)
  extract_lets again
  split
  · exact (State.updFab_sound ..).up
  · split
    · rename_i h
      exact (State.trySend_sound h).andThen (State.leave_sound ..)
    · exact (State.updFab_sound ..).up

theorem State.noteCounter_sound : ∀ s x1, Sound [.fab] s (State.noteCounter s x1) := by
  intros
  unfold State.noteCounter
  with_reducible refine Sound.andThen ?_ (State.updFab_sound ..)
  with_reducible exact Sound.refl _

theorem State.authDrop_sound : ∀ s x1, Sound [.atl, .evt, .ctl] s (State.authDrop s x1) := by
  intros
  unfold State.authDrop
  with_reducible refine Sound.andThen ?_ (State.raiseDev_sound ..)
  refine Sound.andThen ?_ (State.updAtl_sound rfl rfl rfl rfl id)
  with_reducible exact Sound.refl _

theorem State.admitFrame_sound : ∀ s x1, Sound [.atl, .evt, .ctl, .fab] s (State.admitFrame s x1).1 := by
  intros
  unfold State.admitFrame
  split
  with_reducible exact Sound.refl _
  split
  with_reducible refine Sound.andThen ?_ (State.authDrop_sound ..)
  with_reducible exact Sound.refl _
  dsimp only
  split
  with_reducible exact Sound.refl _
  with_reducible refine Sound.andThen ?_ (State.noteCounter_sound ..)
  with_reducible exact Sound.refl _

theorem State.consume_sound : ∀ s x1, Sound [.atl, .evt, .ctl, .fab] s (State.consume s x1) := by
  intros
  unfold State.consume
  dsimp only
  split
  · with_reducible refine Sound.andThen ?_ (State.joinRecords_sound ..)
    with_reducible refine Sound.andThen ?_ (State.updFab_sound ..)
    exact State.admitFrame_sound ..
  · exact State.admitFrame_sound ..

theorem State.frameIn_sound : ∀ s x1 x2, Sound [.atl, .evt, .ctl, .fab, .out] s (State.frameIn s x1 x2) := by
  intro s p f
  unfold State.frameIn
  extract_lets k t
  have h : Sound [.atl, .evt, .ctl, .fab, .out] s t := (State.updPort_sound ..).up
  split
  · exact (State.updPort_sound ..).up
  · split
    · with_reducible refine Sound.andThen ?_ (State.returnSlots_sound ..)
      exact h.andThen (State.consume_sound ..)
    · split
      · exact h.andThen (State.returnSlots_sound ..)
      · split
        · with_reducible refine Sound.andThen ?_ (State.returnSlots_sound ..)
          with_reducible refine Sound.andThen ?_ (State.raise_sound ..)
          exact h.andThen (State.updFab_sound ..)
        · split
          · exact h.andThen (State.route_sound ..)
          · exact h.andThen (State.returnSlots_sound ..)

theorem State.fillFrame'_sound : ∀ {s x1 p t}, State.fillFrame' s x1 = some (p, t) → Sound [.fab] s t := by
  intro s x1 p t h
  unfold State.fillFrame' at h
  split at h
  · split at h
    · cases h
    · cases h
      exact State.updFab_sound ..
  · cases h
    exact Sound.refl _

theorem State.useCounters_sound : ∀ s x1 x2, Sound [.fab] s (State.useCounters s x1 x2) := by
  intros
  unfold State.useCounters
  with_reducible refine Sound.andThen ?_ (State.updFab_sound ..)
  with_reducible exact Sound.refl _

theorem execFrameForward_sound : ∀ x0 x1 s, SoundOut [.atl, .evt, .ctl, .fab, .out] s (execFrameForward x0 x1 s) := by
  intro inPort f s
  unfold execFrameForward
  extract_lets t
  have h : Sound [.atl, .evt, .ctl, .fab, .out] s t := (State.drain_sound ..).up
  split
  · exact SoundOut.next (h.andThen (State.frameIn_sound ..))
  · split
    · exact SoundOut.next h
    · rename_i e
      have h2 := h.andThen (State.fillFrame'_sound e)
      extract_lets g u
      split
      · exact SoundOut.next h
      · refine SoundOut.next ?_
        have hu : Sound [.atl, .evt, .ctl, .fab, .out] s u := h2.andThen (State.useCounters_sound ..)
        split
        · exact hu.andThen (State.consume_sound ..)
        · exact hu.andThen (State.route_sound ..)

theorem State.noteSuspicion_sound : ∀ s x1 x2 x3 x4 x5, Sound [.rcv] s (State.noteSuspicion s x1 x2 x3 x4 x5) := by
  intros
  unfold State.noteSuspicion
  with_reducible refine Sound.andThen ?_ (State.updRcv_sound ..)
  with_reducible exact Sound.refl _

theorem State.reportSuspicion_sound : ∀ s x1 x2 x3 x4, Sound [.rcv, .out] s (State.reportSuspicion s x1 x2 x3 x4) := by
  intros
  unfold State.reportSuspicion
  split
  with_reducible refine Sound.andThen ?_ (State.noteSuspicion_sound ..)
  with_reducible exact Sound.refl _
  with_reducible refine Sound.andThen ?_ (State.emit_sound ..)
  with_reducible exact Sound.refl _

theorem State.resendFrom_sound : ∀ s x1 x2, Sound [.fab, .out] s (State.resendFrom s x1 x2) := by
  intros
  unfold State.resendFrom
  with_reducible refine Sound.andThen ?_ (State.emit_sound ..)
  with_reducible refine Sound.andThen ?_ (State.updPort_sound ..)
  with_reducible exact Sound.refl _

theorem execLinkTrain_sound : ∀ x0 x1 x2 s, SoundOut [.fresh, .fab, .rcv, .out] s (execLinkTrain x0 x1 x2 s) := by
  intro p rates half s
  unfold execLinkTrain
  extract_lets mode k
  split
  · exact SoundOut.next (Sound.refl _)
  · split
    · exact SoundOut.next (Sound.refl _)
    · split
      · exact SoundOut.next (State.updPort_sound ..).up
      · extract_lets t u v
        have ht : Sound [.fresh, .fab, .rcv, .out] s t := by
          dsimp only [t]
          with_reducible refine Sound.andThen ?_ (State.updPort_sound ..)
          exact (State.tick_sound ..).up
        have hu : Sound [.fresh, .fab, .rcv, .out] s u := by
          dsimp only [u]
          split
          · with_reducible refine Sound.andThen ?_ (State.sendCtrl_sound ..)
            exact ht.andThen (State.emit_sound ..)
          · exact ht
        have hv : Sound [.fresh, .fab, .rcv, .out] s v := by
          dsimp only [v]
          split
          · with_reducible refine Sound.andThen ?_ (State.reportSuspicion_sound ..)
            exact hu.andThen (State.resendFrom_sound ..)
          · exact hu
        exact SoundOut.next (hv.andThen (State.drain_sound ..))

theorem State.flood_sound : ∀ s x1 x2, Sound [.out] s (State.flood s x1 x2) := by
  intros
  unfold State.flood
  with_reducible refine Sound.andThen ?_ (State.emit_sound ..)
  with_reducible exact Sound.refl _

theorem State.takeId_sound : ∀ s, Sound [.evt, .ctl, .fab] s (State.takeId s) := by
  intro s
  unfold State.takeId
  split
  · exact Sound.refl _
  · extract_lets d
    split
    · split
      · with_reducible refine Sound.andThen ?_ (State.raiseDev_sound ..)
        exact (State.updFab_sound ..).up
      · exact (State.updFab_sound ..).up
    · split
      · with_reducible refine Sound.andThen ?_ (State.raiseDev_sound ..)
        exact (State.updFab_sound ..).up
      · exact (State.updFab_sound ..).up

theorem State.announce_sound : ∀ s, Sound [.fab, .out] s (State.announce s) := by
  intros
  unfold State.announce
  with_reducible refine Sound.andThen ?_ (State.flood_sound ..)
  with_reducible refine Sound.andThen ?_ (State.updFab_sound ..)
  with_reducible exact Sound.refl _

theorem execLinkInit_sound : ∀ x0 x1 s, SoundOut [.evt, .ctl, .fab, .out] s (execLinkInit x0 x1 s) := by
  intros
  unfold execLinkInit
  dsimp only
  split
  with_reducible refine SoundOut.next ?_
  with_reducible exact Sound.refl _
  split
  split
  with_reducible refine SoundOut.next ?_
  with_reducible refine Sound.andThen ?_ (State.portFault_sound ..)
  with_reducible refine Sound.andThen ?_ (State.takeId_sound ..)
  with_reducible refine Sound.andThen ?_ (State.updPort_sound ..)
  with_reducible exact Sound.refl _
  split
  with_reducible refine SoundOut.next ?_
  with_reducible refine Sound.andThen ?_ (State.drain_sound ..)
  with_reducible refine Sound.andThen ?_ (State.announce_sound ..)
  with_reducible refine Sound.andThen ?_ (State.takeId_sound ..)
  with_reducible refine Sound.andThen ?_ (State.updPort_sound ..)
  with_reducible exact Sound.refl _
  with_reducible refine SoundOut.next ?_
  with_reducible refine Sound.andThen ?_ (State.takeId_sound ..)
  with_reducible refine Sound.andThen ?_ (State.updPort_sound ..)
  with_reducible exact Sound.refl _
  split
  split
  with_reducible refine SoundOut.next ?_
  with_reducible refine Sound.andThen ?_ (State.portFault_sound ..)
  with_reducible refine Sound.andThen ?_ (State.takeId_sound ..)
  with_reducible refine Sound.andThen ?_ (State.updPort_sound ..)
  with_reducible exact Sound.refl _
  split
  with_reducible refine SoundOut.next ?_
  with_reducible refine Sound.andThen ?_ (State.drain_sound ..)
  with_reducible refine Sound.andThen ?_ (State.announce_sound ..)
  with_reducible refine Sound.andThen ?_ (State.takeId_sound ..)
  with_reducible refine Sound.andThen ?_ (State.updPort_sound ..)
  with_reducible exact Sound.refl _
  with_reducible refine SoundOut.next ?_
  with_reducible refine Sound.andThen ?_ (State.takeId_sound ..)
  with_reducible refine Sound.andThen ?_ (State.updPort_sound ..)
  with_reducible exact Sound.refl _
  split
  with_reducible refine SoundOut.next ?_
  with_reducible refine Sound.andThen ?_ (State.portFault_sound ..)
  with_reducible refine Sound.andThen ?_ (State.takeId_sound ..)
  with_reducible refine Sound.andThen ?_ (State.updPort_sound ..)
  with_reducible exact Sound.refl _
  split
  with_reducible refine SoundOut.next ?_
  with_reducible refine Sound.andThen ?_ (State.drain_sound ..)
  with_reducible refine Sound.andThen ?_ (State.announce_sound ..)
  with_reducible refine Sound.andThen ?_ (State.takeId_sound ..)
  with_reducible refine Sound.andThen ?_ (State.updPort_sound ..)
  with_reducible exact Sound.refl _
  with_reducible refine SoundOut.next ?_
  with_reducible refine Sound.andThen ?_ (State.takeId_sound ..)
  with_reducible refine Sound.andThen ?_ (State.updPort_sound ..)
  with_reducible exact Sound.refl _

theorem State.sendNak_sound : ∀ s x1, Sound [.fab, .out] s (State.sendNak s x1) := by
  intros
  unfold State.sendNak
  with_reducible refine Sound.andThen ?_ (State.emit_sound ..)
  with_reducible refine Sound.andThen ?_ (State.updPort_sound ..)
  with_reducible exact Sound.refl _

theorem State.takeNak_sound : ∀ s x1 x2 x3, Sound [.evt, .ctl, .fab, .out] s (State.takeNak s x1 x2 x3) := by
  intros
  unfold State.takeNak
  dsimp only
  split
  with_reducible refine Sound.andThen ?_ (State.portFault_sound ..)
  with_reducible refine Sound.andThen ?_ (State.updPort_sound ..)
  with_reducible refine Sound.andThen ?_ (State.resendFrom_sound ..)
  with_reducible exact Sound.refl _
  with_reducible refine Sound.andThen ?_ (State.updPort_sound ..)
  with_reducible refine Sound.andThen ?_ (State.resendFrom_sound ..)
  with_reducible exact Sound.refl _

theorem execFlitReceive_sound : ∀ x0 x1 s, SoundOut [.evt, .ctl, .fab, .out] s (execFlitReceive x0 x1 s) := by
  intros
  unfold execFlitReceive
  dsimp only
  split
  with_reducible refine SoundOut.next ?_
  with_reducible exact Sound.refl _
  split
  with_reducible refine SoundOut.next ?_
  with_reducible refine Sound.andThen ?_ (State.sendNak_sound ..)
  with_reducible refine Sound.andThen ?_ (State.updPort_sound ..)
  with_reducible exact Sound.refl _
  split
  with_reducible refine SoundOut.next ?_
  with_reducible refine Sound.andThen ?_ (State.drain_sound ..)
  with_reducible refine Sound.andThen ?_ (State.updPort_sound ..)
  with_reducible exact Sound.refl _
  with_reducible refine SoundOut.next ?_
  with_reducible refine Sound.andThen ?_ (State.drain_sound ..)
  with_reducible refine Sound.andThen ?_ (State.takeNak_sound ..)
  with_reducible refine Sound.andThen ?_ (State.updPort_sound ..)
  with_reducible exact Sound.refl _
  split
  with_reducible refine SoundOut.next ?_
  with_reducible refine Sound.andThen ?_ (State.drain_sound ..)
  with_reducible refine Sound.andThen ?_ (State.updPort_sound ..)
  with_reducible refine Sound.andThen ?_ (State.updPort_sound ..)
  with_reducible exact Sound.refl _
  split
  with_reducible refine SoundOut.next ?_
  with_reducible refine Sound.andThen ?_ (State.drain_sound ..)
  with_reducible refine Sound.andThen ?_ (State.updPort_sound ..)
  with_reducible exact Sound.refl _
  with_reducible refine SoundOut.next ?_
  with_reducible refine Sound.andThen ?_ (State.drain_sound ..)
  with_reducible refine Sound.andThen ?_ (State.sendNak_sound ..)
  with_reducible refine Sound.andThen ?_ (State.updPort_sound ..)
  with_reducible exact Sound.refl _

theorem execNak_sound : ∀ x0 x1 x2 s, SoundOut [.now, .evt, .ctl, .fab, .out] s (execNak x0 x1 x2 s) := by
  intros
  unfold execNak
  with_reducible refine SoundOut.next ?_
  with_reducible refine Sound.andThen ?_ (State.takeNak_sound ..)
  with_reducible refine Sound.andThen ?_ (State.at'_sound ..)
  with_reducible exact Sound.refl _

theorem execPopRetrainLimit_sound : ∀ x0 x1 s, SoundOut [.now, .evt, .ctl, .fab] s (execPopRetrainLimit x0 x1 s) := by
  intros
  unfold execPopRetrainLimit
  dsimp only
  split
  with_reducible refine SoundOut.next ?_
  with_reducible refine Sound.andThen ?_ (State.portFault_sound ..)
  with_reducible refine Sound.andThen ?_ (State.updFab_sound ..)
  with_reducible refine Sound.andThen ?_ (State.updPort_sound ..)
  with_reducible refine Sound.andThen ?_ (State.at'_sound ..)
  with_reducible exact Sound.refl _
  with_reducible refine SoundOut.next ?_
  with_reducible exact Sound.refl _

theorem execCreditSync_sound : ∀ x0 x1 s, SoundOut [.fab, .out] s (execCreditSync x0 x1 s) := by
  intros
  unfold execCreditSync
  with_reducible refine SoundOut.next ?_
  with_reducible refine Sound.andThen ?_ (State.drain_sound ..)
  with_reducible refine Sound.andThen ?_ (State.updPort_sound ..)
  with_reducible exact Sound.refl _

theorem State.resync_sound : ∀ s x1 x2, Sound [.fresh, .evt, .ctl, .fab, .out] s (State.resync s x1 x2) := by
  intro s gone aborted
  unfold State.resync
  extract_lets keep t ports synced
  have h : Sound [.fresh, .evt, .ctl, .fab, .out] s synced := by
    dsimp only [synced]
    refine Sound.andFold ?_ (fun a x => (State.sendCtrl_sound ..).up)
    with_reducible refine Sound.andThen ?_ (State.emit_sound ..)
    exact (State.updFab_sound ..).up
  with_reducible refine Sound.andThen ?_ (State.drain_sound ..)
  with_reducible refine Sound.andThen ?_ (State.reroute_sound ..)
  exact h.andThen (State.dropRecords_sound ..)

theorem execEthPortDown_sound : ∀ x0 s, SoundOut [.evt, .ctl, .fab] s (execEthPortDown x0 s) := by
  intros
  unfold execEthPortDown
  split
  with_reducible refine SoundOut.next ?_
  with_reducible refine Sound.andThen ?_ (State.portFault_sound ..)
  with_reducible refine Sound.andThen ?_ (State.updPort_sound ..)
  with_reducible exact Sound.refl _
  with_reducible refine SoundOut.next ?_
  with_reducible exact Sound.refl _

theorem State.ethResend_sound : ∀ s x1 x2 x3 x4, Sound [.fab, .out] s (State.ethResend s x1 x2 x3 x4) := by
  intros
  unfold State.ethResend
  with_reducible refine Sound.andThen ?_ (State.updFab_sound ..)
  with_reducible refine Sound.andThen ?_ (State.emit_sound ..)
  with_reducible exact Sound.refl _

theorem State.ethControl_sound (s : State) (p : PortId) (k : EthPacket) (at' : Nat) : Sound [.fab, .out] s (s.ethControl p k at') := by
  unfold State.ethControl
  extract_lets a b c
  have ha : Sound [.fab, .out] s a := by
    show Sound [.fab, .out] s (if _ then _ else _)
    split
    · exact (State.updFlow_sound ..).up
    · exact Sound.refl s
  have hb : Sound [.fab, .out] s b := by
    show Sound [.fab, .out] s (if _ then _ else _)
    split
    · exact ((ha.trans (State.updFlow_sound ..)).trans (State.updFab_sound ..)).up
    · exact ha
  have hc : Sound [.fab, .out] s c := by
    show Sound [.fab, .out] s (if _ then _ else _)
    split
    · exact (hb.trans (State.updFlow_sound ..)).up
    · exact hb
  split
  · exact (hc.trans (State.ethResend_sound ..)).up
  · exact hc

theorem execEthPacket_sound : ∀ x0 x1 x2 s, SoundOut [.now, .atl, .evt, .ctl, .fab, .out] s (execEthPacket x0 x1 x2 s) := by
  intros
  unfold execEthPacket
  dsimp only
  split
  with_reducible refine SoundOut.next ?_
  with_reducible exact Sound.refl _
  split
  with_reducible refine SoundOut.next ?_
  with_reducible refine Sound.andThen ?_ (State.drain_sound ..)
  split
  with_reducible refine Sound.andThen ?_ (State.updFlow_sound ..)
  with_reducible refine Sound.andThen ?_ (State.ethControl_sound ..)
  with_reducible refine Sound.andThen ?_ (State.at'_sound ..)
  with_reducible exact Sound.refl _
  with_reducible refine Sound.andThen ?_ (State.ethControl_sound ..)
  with_reducible refine Sound.andThen ?_ (State.at'_sound ..)
  with_reducible exact Sound.refl _
  split
  split
  with_reducible refine SoundOut.next ?_
  with_reducible refine Sound.andThen ?_ (State.drain_sound ..)
  with_reducible refine Sound.andThen ?_ (State.updFlow_sound ..)
  with_reducible refine Sound.andThen ?_ (State.emit_sound ..)
  with_reducible refine Sound.andThen ?_ (State.frameIn_sound ..)
  with_reducible refine Sound.andThen ?_ (State.updFlow_sound ..)
  with_reducible refine Sound.andThen ?_ (State.updFlow_sound ..)
  with_reducible refine Sound.andThen ?_ (State.ethControl_sound ..)
  with_reducible refine Sound.andThen ?_ (State.at'_sound ..)
  with_reducible exact Sound.refl _
  with_reducible refine SoundOut.next ?_
  with_reducible refine Sound.andThen ?_ (State.drain_sound ..)
  with_reducible refine Sound.andThen ?_ (State.updFlow_sound ..)
  with_reducible refine Sound.andThen ?_ (State.emit_sound ..)
  with_reducible refine Sound.andThen ?_ (State.updFlow_sound ..)
  with_reducible refine Sound.andThen ?_ (State.ethControl_sound ..)
  with_reducible refine Sound.andThen ?_ (State.at'_sound ..)
  with_reducible exact Sound.refl _
  split
  with_reducible refine SoundOut.next ?_
  with_reducible refine Sound.andThen ?_ (State.drain_sound ..)
  with_reducible refine Sound.andThen ?_ (State.updFlow_sound ..)
  with_reducible refine Sound.andThen ?_ (State.emit_sound ..)
  with_reducible refine Sound.andThen ?_ (State.frameIn_sound ..)
  with_reducible refine Sound.andThen ?_ (State.updFlow_sound ..)
  with_reducible refine Sound.andThen ?_ (State.ethControl_sound ..)
  with_reducible refine Sound.andThen ?_ (State.at'_sound ..)
  with_reducible exact Sound.refl _
  with_reducible refine SoundOut.next ?_
  with_reducible refine Sound.andThen ?_ (State.drain_sound ..)
  with_reducible refine Sound.andThen ?_ (State.updFlow_sound ..)
  with_reducible refine Sound.andThen ?_ (State.emit_sound ..)
  with_reducible refine Sound.andThen ?_ (State.ethControl_sound ..)
  with_reducible refine Sound.andThen ?_ (State.at'_sound ..)
  with_reducible exact Sound.refl _

theorem execEthRto_sound : ∀ x0 x1 x2 s, SoundOut [.now, .fab, .out] s (execEthRto x0 x1 x2 s) := by
  intro dst vc at' s
  unfold execEthRto
  extract_lets k waits
  split
  · exact SoundOut.next (Sound.refl _)
  · split
    · exact SoundOut.next (Sound.refl _)
    · split
      · refine SoundOut.next ?_
        with_reducible refine Sound.andThen ?_ (State.askGrant_sound ..)
        with_reducible refine Sound.andThen ?_ (State.updFlow_sound ..)
        exact (State.at'_sound ..).up
      · refine SoundOut.next ?_
        with_reducible refine Sound.andThen ?_ (State.updFlow_sound ..)
        with_reducible refine Sound.andThen ?_ (State.ethResend_sound ..)
        exact (State.at'_sound ..).up

theorem State.acceptAsk_sound : ∀ s x1 x2, Sound [.fresh, .evt, .ctl, .tier, .out] s (State.acceptAsk s x1 x2) := by
  intro s a step
  unfold State.acceptAsk
  extract_lets r t
  have hr : Sound [.fresh, .evt, .ctl, .tier, .out] s r := by
    dsimp only [r]
    split
    · exact (State.updCtl_sound ..).up
    · exact Sound.refl _
  have ht : Sound [.fresh, .evt, .ctl, .tier, .out] s t := hr.andThen (State.updTier_sound fun hk => hk)
  split
  · exact ht
  · split
    · exact (State.raise_sound ..).up
    · exact ht.andThen (State.serveAsks_sound ..)

theorem execRdReq_sound : ∀ x0 x1 x2 s, SoundOut [.fresh, .atl, .evt, .ctl, .tier, .fab, .out] s (execRdReq x0 x1 x2 s) := by
  intros
  unfold execRdReq
  dsimp only
  refine SoundOut.next ?_
  split
  · with_reducible refine Sound.andThen ?_ (State.acceptAsk_sound ..)
    exact (State.admitFrame_sound ..).up
  · exact (State.admitFrame_sound ..).up

theorem execRdRsp_sound : ∀ x0 x1 s, SoundOut [.cores, .tier] s (execRdRsp x0 x1 s) := by
  intros
  unfold execRdRsp
  dsimp only
  split
  with_reducible refine SoundOut.next ?_
  with_reducible exact Sound.refl _
  with_reducible refine SoundOut.next ?_
  with_reducible refine Sound.andThen ?_ (State.updCore_sound (fun k hk => ?_) _ _)
  with_reducible refine Sound.andThen ?_ (State.updTier_sound fun hk => ?_)
  with_reducible exact Sound.refl _
  exact hk
  exact hk

theorem execWr_sound : ∀ x0 x1 s, SoundOut [.fresh, .atl, .evt, .ctl, .tier, .fab, .out] s (execWr x0 x1 s) := by
  intros
  unfold execWr
  dsimp only
  refine SoundOut.next ?_
  split
  · with_reducible refine Sound.andThen ?_ (State.acceptAsk_sound ..)
    exact (State.admitFrame_sound ..).up
  · exact (State.admitFrame_sound ..).up

theorem execWrAck_sound : ∀ x0 s, SoundOut [.atl, .cores, .tier] s (execWrAck x0 s) := by
  intros
  unfold execWrAck
  with_reducible refine SoundOut.next ?_
  refine Sound.andThen ?_ (State.updAtl_sound rfl rfl rfl rfl id)
  dsimp only
  split
  with_reducible refine Sound.andThen ?_ (State.updTier_sound fun hk => ?_)
  with_reducible exact Sound.refl _
  exact hk
  with_reducible refine Sound.andThen ?_ (State.updCore_sound (fun k hk => ?_) _ _)
  with_reducible refine Sound.andThen ?_ (State.updTier_sound fun hk => ?_)
  with_reducible exact Sound.refl _
  exact hk
  exact hk

theorem execCtlRsp_sound : ∀ x0 x1 s, SoundOut [.out] s (execCtlRsp x0 x1 s) := by
  intros
  unfold execCtlRsp
  with_reducible refine SoundOut.next ?_
  with_reducible refine Sound.andThen ?_ (State.emit_sound ..)
  with_reducible exact Sound.refl _

theorem execAck_sound : ∀ x0 x1 s, SoundOut [.fresh, .atl, .ldr, .evt, .ctl, .weir, .querns, .rows, .repl, .units, .cores, .tier, .fab, .out] s (execAck x0 x1 s) := by
  intros
  unfold execAck
  refine SoundOut.next ?_
  with_reducible refine Sound.andThen ?_ (State.settled_sound ..)
  with_reducible refine Sound.andThen ?_ (State.updWeir_sound ..)
  exact (State.updFab_sound ..).up

theorem execPopAckLimit_sound : ∀ x0 x1 s, SoundOut [.now, .fab, .out] s (execPopAckLimit x0 x1 s) := by
  intros
  unfold execPopAckLimit
  with_reducible refine SoundOut.next ?_
  with_reducible refine Sound.andThen ?_ (State.emit_sound ..)
  with_reducible refine Sound.andThen ?_ (State.updFab_sound ..)
  with_reducible refine Sound.andThen ?_ (State.at'_sound ..)
  with_reducible exact Sound.refl _

theorem execDiscover_sound : ∀ x0 x1 x2 s, SoundOut [.now, .evt, .ctl, .fab, .out] s (execDiscover x0 x1 x2 s) := by
  intros
  unfold execDiscover
  dsimp only
  split
  split
  with_reducible refine SoundOut.next ?_
  with_reducible refine Sound.andThen ?_ (State.at'_sound ..)
  with_reducible exact Sound.refl _
  with_reducible refine SoundOut.next ?_
  with_reducible refine Sound.andThen ?_ (State.raiseDev_sound ..)
  with_reducible refine Sound.andThen ?_ (State.updFab_sound ..)
  with_reducible refine Sound.andThen ?_ (State.at'_sound ..)
  with_reducible exact Sound.refl _
  split
  with_reducible refine SoundOut.next ?_
  with_reducible refine Sound.andThen ?_ (State.at'_sound ..)
  with_reducible exact Sound.refl _
  with_reducible refine SoundOut.next ?_
  with_reducible refine Sound.andThen ?_ (State.flood_sound ..)
  with_reducible refine Sound.andThen ?_ (State.updFab_sound ..)
  with_reducible refine Sound.andThen ?_ (State.at'_sound ..)
  with_reducible exact Sound.refl _

theorem State.podRoles_sound : ∀ s, Sound [.rcv] s (State.podRoles s) := by
  intros
  unfold State.podRoles
  with_reducible refine Sound.andThen ?_ (State.updRcv_sound ..)
  with_reducible exact Sound.refl _

theorem execDiscoveryQuiet_sound (g : List Byte) (at' : Nat) (s : State) : SoundOut [.now, .pow, .evt, .ctl, .fab, .rcv, .out] s (execDiscoveryQuiet g at' s) := by
  unfold execDiscoveryQuiet
  split
  · exact .next (Sound.refl s)
  · extract_lets t t1 d done
    have h : Sound [.now, .pow, .evt, .ctl, .fab, .rcv, .out] s t1 := (((((State.at'_sound ..).trans (State.takeId_sound ..)).trans (State.updFab_sound ..)).trans
      (State.reroute_sound ..)).trans (State.podRoles_sound ..)).up
    have hd : ∀ u, Sound [.now, .pow, .evt, .ctl, .fab, .rcv, .out] u (done u) := fun u => ((State.updFab_sound u _).trans (State.updPow_sound ..)).up
    repeat' split
    · exact .next (((h.trans (State.emit_sound ..)).trans (hd _)).up)
    · exact .next ((h.trans (hd _)).up)
    · exact .next ((h.trans (State.announce_sound ..)).up)

end Sys2Proof.Machine
end

