-- ==== Sys2Proof/Laws/SoundRecovery.lean ====
section
/-! SUPPORT. Operations of Machine/Recovery.lean are sound. -/

namespace Sys2Proof.Machine

set_option Elab.async false

theorem State.roles_sound : ∀ s, Sound [.rcv] s (State.roles s) := by
  intros
  unfold State.roles
  with_reducible refine Sound.andThen ?_ (State.updRcv_sound ..)
  with_reducible refine Sound.andThen ?_ (State.podRoles_sound ..)
  with_reducible exact Sound.refl _

theorem State.fence_sound : ∀ s x1 x2, Sound [.pow, .evt, .ctl, .cores, .rcv] s (State.fence s x1 x2) := by
  intros
  unfold State.fence
  dsimp only
  split
  with_reducible exact Sound.refl _
  split
  with_reducible refine Sound.andThen ?_ (State.updPow_sound ..)
  with_reducible refine Sound.andThen ?_ (State.updRcv_sound ..)
  with_reducible refine Sound.litCores ?_ (fun k hk => ?_)
  with_reducible exact Sound.refl _
  exact hk
  with_reducible refine Sound.andThen ?_ (State.raiseDev_sound ..)
  with_reducible refine Sound.andThen ?_ (State.updPow_sound ..)
  with_reducible refine Sound.andThen ?_ (State.updRcv_sound ..)
  with_reducible refine Sound.litCores ?_ (fun k hk => ?_)
  with_reducible exact Sound.refl _
  exact hk

theorem execFence_sound : ∀ x0 s, SoundOut [.now, .pow, .evt, .ctl, .cores, .rcv] s (execFence x0 s) := by
  intros
  unfold execFence
  dsimp only
  split
  with_reducible refine SoundOut.next ?_
  with_reducible refine Sound.andThen ?_ (State.fence_sound ..)
  with_reducible refine Sound.andThen ?_ (State.at'_sound ..)
  with_reducible exact Sound.refl _
  with_reducible refine SoundOut.next ?_
  with_reducible refine Sound.andThen ?_ (State.at'_sound ..)
  with_reducible exact Sound.refl _

theorem State.confirm_sound : ∀ s x1 x2, Sound [.rcv, .out] s (State.confirm s x1 x2) := by
  intro s d at'
  unfold State.confirm
  split
  · exact Sound.refl _
  · extract_lets first idle t
    have ht : Sound [.rcv, .out] s t := by
      dsimp only [t]
      with_reducible refine Sound.andThen ?_ (State.roles_sound ..)
      exact (State.updRcv_sound ..).up
    split
    · exact ht
    · exact ht.andThen (State.emit_sound ..)

theorem execSuspicionReport_sound : ∀ x0 x1 x2 x3 x4 s, SoundOut [.now, .rcv, .out] s (execSuspicionReport x0 x1 x2 x3 x4 s) := by
  intros
  unfold execSuspicionReport
  dsimp only
  split
  with_reducible refine SoundOut.next ?_
  with_reducible exact Sound.refl _
  split
  with_reducible refine SoundOut.next ?_
  with_reducible refine Sound.andThen ?_ (State.confirm_sound ..)
  with_reducible refine Sound.andThen ?_ (State.noteSuspicion_sound ..)
  with_reducible refine Sound.andThen ?_ (State.at'_sound ..)
  with_reducible exact Sound.refl _
  with_reducible refine SoundOut.next ?_
  with_reducible refine Sound.andThen ?_ (State.noteSuspicion_sound ..)
  with_reducible refine Sound.andThen ?_ (State.at'_sound ..)
  with_reducible exact Sound.refl _

theorem execFailedReport_sound : ∀ x0 x1 s, SoundOut [.now, .rcv, .out] s (execFailedReport x0 x1 s) := by
  intros
  unfold execFailedReport
  dsimp only
  split
  with_reducible refine SoundOut.next ?_
  with_reducible refine Sound.andThen ?_ (State.confirm_sound ..)
  with_reducible refine Sound.andThen ?_ (State.at'_sound ..)
  with_reducible exact Sound.refl _
  with_reducible refine SoundOut.next ?_
  with_reducible refine Sound.andThen ?_ (State.at'_sound ..)
  with_reducible exact Sound.refl _

theorem execReportFailed_sound : ∀ x0 x1 s, SoundOut [.rcv, .out] s (execReportFailed x0 x1 s) := by
  intros
  unfold execReportFailed
  split
  with_reducible refine SoundOut.next ?_
  with_reducible exact Sound.refl _
  split
  with_reducible refine SoundOut.next ?_
  with_reducible refine Sound.andThen ?_ (State.confirm_sound ..)
  with_reducible exact Sound.refl _
  with_reducible refine SoundOut.next ?_
  with_reducible refine Sound.andThen ?_ (State.emit_sound ..)
  with_reducible exact Sound.refl _

theorem execPodSilence_sound : ∀ x0 x1 s, SoundOut [.now, .rcv, .out] s (execPodSilence x0 x1 s) := by
  intros
  unfold execPodSilence
  dsimp only
  split
  with_reducible refine SoundOut.next ?_
  with_reducible refine Sound.andFold ?_ (fun a x => ?_)
  with_reducible refine Sound.andThen ?_ (State.at'_sound ..)
  with_reducible exact Sound.refl _
  with_reducible refine Sound.andThen ?_ (State.confirm_sound ..)
  with_reducible exact Sound.refl _
  with_reducible refine SoundOut.next ?_
  with_reducible refine Sound.andThen ?_ (State.at'_sound ..)
  with_reducible exact Sound.refl _

theorem execLinkDown_sound : ∀ x0 x1 s, SoundOut [.now, .fab, .rcv, .out] s (execLinkDown x0 x1 s) := by
  intros
  unfold execLinkDown
  dsimp only
  split
  with_reducible refine SoundOut.next ?_
  with_reducible refine Sound.andThen ?_ (State.reportSuspicion_sound ..)
  with_reducible refine Sound.andThen ?_ (State.updPort_sound ..)
  with_reducible refine Sound.andThen ?_ (State.at'_sound ..)
  with_reducible exact Sound.refl _
  with_reducible refine SoundOut.next ?_
  with_reducible refine Sound.andThen ?_ (State.at'_sound ..)
  with_reducible exact Sound.refl _

theorem execHeartbeatSend_sound : ∀ x0 s, SoundOut [.now, .atl, .fab, .rcv, .out] s (execHeartbeatSend x0 s) := by
  intros
  unfold execHeartbeatSend
  dsimp only
  split
  split
  with_reducible refine SoundOut.next ?_
  with_reducible exact Sound.refl _
  with_reducible refine SoundOut.next ?_
  with_reducible refine Sound.andThen ?_ (State.emit_sound ..)
  with_reducible refine Sound.andThen ?_ (State.updFab_sound ..)
  refine Sound.andThen ?_ (State.updAtl_sound rfl rfl rfl rfl id)
  with_reducible refine Sound.andThen ?_ (State.updRcv_sound ..)
  with_reducible refine Sound.andThen ?_ (State.at'_sound ..)
  with_reducible exact Sound.refl _
  split
  with_reducible refine SoundOut.next ?_
  with_reducible exact Sound.refl _
  with_reducible refine SoundOut.next ?_
  with_reducible refine Sound.andThen ?_ (State.emit_sound ..)
  with_reducible refine Sound.andThen ?_ (State.updFab_sound ..)
  refine Sound.andThen ?_ (State.updAtl_sound rfl rfl rfl rfl id)
  with_reducible refine Sound.andThen ?_ (State.updRcv_sound ..)
  with_reducible refine Sound.andThen ?_ (State.at'_sound ..)
  with_reducible exact Sound.refl _

theorem State.suspect_sound : ∀ s x1 x2, Sound [.fab, .rcv, .out] s (State.suspect s x1 x2) := by
  intros
  unfold State.suspect
  dsimp only
  split
  split
  with_reducible refine Sound.andThen ?_ (State.confirm_sound ..)
  with_reducible refine Sound.andThen ?_ (State.updFab_sound ..)
  with_reducible exact Sound.refl _
  with_reducible refine Sound.andThen ?_ (State.updFab_sound ..)
  with_reducible exact Sound.refl _
  split
  with_reducible refine Sound.andThen ?_ (State.confirm_sound ..)
  with_reducible refine Sound.andThen ?_ (State.updFab_sound ..)
  with_reducible exact Sound.refl _
  with_reducible refine Sound.andThen ?_ (State.emit_sound ..)
  with_reducible refine Sound.andThen ?_ (State.updFab_sound ..)
  with_reducible exact Sound.refl _

theorem execHeartbeat_sound : ∀ x0 x1 s, SoundOut [.now, .fab, .rcv, .out] s (execHeartbeat x0 x1 s) := by
  intros
  unfold execHeartbeat
  dsimp only
  split
  with_reducible refine SoundOut.next ?_
  with_reducible refine Sound.andThen ?_ (State.at'_sound ..)
  with_reducible exact Sound.refl _
  split
  split
  with_reducible refine SoundOut.next ?_
  with_reducible refine Sound.andThen ?_ (State.suspect_sound ..)
  with_reducible refine Sound.andThen ?_ (State.updRcv_sound ..)
  with_reducible refine Sound.andThen ?_ (State.updFab_sound ..)
  with_reducible refine Sound.andThen ?_ (State.at'_sound ..)
  with_reducible exact Sound.refl _
  with_reducible refine SoundOut.next ?_
  with_reducible refine Sound.andThen ?_ (State.updRcv_sound ..)
  with_reducible refine Sound.andThen ?_ (State.updFab_sound ..)
  with_reducible refine Sound.andThen ?_ (State.at'_sound ..)
  with_reducible exact Sound.refl _
  split
  with_reducible refine SoundOut.next ?_
  with_reducible refine Sound.andThen ?_ (State.suspect_sound ..)
  with_reducible refine Sound.andThen ?_ (State.updRcv_sound ..)
  with_reducible refine Sound.andThen ?_ (State.updFab_sound ..)
  with_reducible refine Sound.andThen ?_ (State.at'_sound ..)
  with_reducible exact Sound.refl _
  with_reducible refine SoundOut.next ?_
  with_reducible refine Sound.andThen ?_ (State.updRcv_sound ..)
  with_reducible refine Sound.andThen ?_ (State.updFab_sound ..)
  with_reducible refine Sound.andThen ?_ (State.at'_sound ..)
  with_reducible exact Sound.refl _

theorem execHeartbeatTimeout_sound : ∀ x0 x1 s, SoundOut [.now, .fab, .rcv, .out] s (execHeartbeatTimeout x0 x1 s) := by
  intros
  unfold execHeartbeatTimeout
  dsimp only
  split
  with_reducible refine SoundOut.next ?_
  with_reducible refine Sound.andThen ?_ (State.suspect_sound ..)
  with_reducible refine Sound.andThen ?_ (State.at'_sound ..)
  with_reducible exact Sound.refl _
  with_reducible refine SoundOut.next ?_
  with_reducible refine Sound.andThen ?_ (State.at'_sound ..)
  with_reducible exact Sound.refl _

theorem State.grantLeases_sound : ∀ s x1, Sound [.rcv] s (State.grantLeases s x1) := by
  intros
  unfold State.grantLeases
  with_reducible refine Sound.andThen ?_ (State.updRcv_sound ..)
  with_reducible exact Sound.refl _

theorem State.resendTo_sound : ∀ s x1, Sound [.out] s (State.resendTo s x1) := by
  intros
  unfold State.resendTo
  with_reducible refine Sound.andThen ?_ (State.emit_sound ..)
  with_reducible exact Sound.refl _

theorem State.resendDecision_sound : ∀ s x1 x2, Sound [.fresh, .ldr, .evt, .ctl, .weir, .querns, .rows, .repl, .units, .cores, .fab, .rcv, .out] s (State.resendDecision s x1 x2) := by
  intros
  unfold State.resendDecision
  dsimp only
  split
  with_reducible exact Sound.refl _
  split
  with_reducible exact Sound.refl _
  split
  split
  with_reducible refine Sound.andThen ?_ (State.takeDecision_sound ..)
  with_reducible refine Sound.andThen ?_ (State.emitEach_sound ..)
  with_reducible exact Sound.refl _
  with_reducible refine Sound.andThen ?_ (State.emitEach_sound ..)
  with_reducible exact Sound.refl _
  dsimp only
  split
  split
  with_reducible refine Sound.andThen ?_ (State.takeDecision_sound ..)
  with_reducible refine Sound.andThen ?_ (State.emitEach_sound ..)
  with_reducible exact Sound.refl _
  with_reducible refine Sound.andThen ?_ (State.emitEach_sound ..)
  with_reducible exact Sound.refl _
  split
  with_reducible refine Sound.andThen ?_ (State.takeDecision_sound ..)
  with_reducible refine Sound.andThen ?_ (State.emitEach_sound ..)
  with_reducible exact Sound.refl _
  with_reducible refine Sound.andThen ?_ (State.emitEach_sound ..)
  with_reducible exact Sound.refl _

theorem State.resendFlip_sound : ∀ s x1, Sound [.fab, .out] s (State.resendFlip s x1) := by
  intros
  unfold State.resendFlip
  dsimp only
  split
  split
  with_reducible refine Sound.andThen ?_ (State.emitEach_sound ..)
  with_reducible exact Sound.refl _
  with_reducible exact Sound.refl _
  with_reducible exact Sound.refl _

theorem State.resendScales_sound : ∀ s x1 x2, Sound [.fab, .out] s (State.resendScales s x1 x2) := by
  intros
  unfold State.resendScales
  dsimp only
  split
  with_reducible refine Sound.andThen ?_ (State.emitEach_sound ..)
  split
  with_reducible refine Sound.andThen ?_ (State.emit_sound ..)
  with_reducible exact Sound.refl _
  with_reducible exact Sound.refl _
  split
  with_reducible refine Sound.andThen ?_ (State.emit_sound ..)
  with_reducible exact Sound.refl _
  with_reducible exact Sound.refl _

theorem State.sendRetained_sound : ∀ s x1 x2, Sound [.fab, .out] s (State.sendRetained s x1 x2) := by
  intros
  unfold State.sendRetained
  with_reducible refine Sound.andFold ?_ (fun a x => ?_)
  with_reducible refine Sound.andFold ?_ (fun a x => ?_)
  with_reducible exact Sound.refl _
  dsimp only
  split
  split
  with_reducible refine Sound.andThen ?_ (State.emitAcked_sound ..)
  with_reducible exact Sound.refl _
  with_reducible exact Sound.refl _
  split
  with_reducible refine Sound.andThen ?_ (State.emitAcked_sound ..)
  with_reducible exact Sound.refl _
  with_reducible exact Sound.refl _
  with_reducible refine Sound.andFold ?_ (fun a x => ?_)
  with_reducible exact Sound.refl _
  dsimp only
  split
  split
  with_reducible refine Sound.andThen ?_ (State.sendGrist_sound ..)
  with_reducible exact Sound.refl _
  with_reducible exact Sound.refl _
  split
  with_reducible refine Sound.andThen ?_ (State.sendGrist_sound ..)
  with_reducible exact Sound.refl _
  with_reducible exact Sound.refl _

theorem State.reissue_sound : ∀ s x1, Sound [.tier, .out] s (State.reissue s x1) := by
  intros
  unfold State.reissue
  with_reducible refine Sound.andThen ?_ (State.emit_sound ..)
  with_reducible refine Sound.andThen ?_ (State.updTier_sound fun hk => ?_)
  with_reducible exact Sound.refl _
  exact hk

theorem State.applyEpoch_sound : ∀ s x1, Sound [.fresh, .ldr, .evt, .ctl, .weir, .querns, .rows, .repl, .units, .cores, .tier, .fab, .rcv, .out] s (State.applyEpoch s x1) := by
  intro s m
  unfold State.applyEpoch
  extract_lets gone own roll old lost bind a writing b c d log e f
  have hc : Sound [.fresh, .ldr, .evt, .ctl, .weir, .querns, .rows, .repl, .units, .cores, .tier, .fab, .rcv, .out] s c := by
    dsimp only [c]
    with_reducible refine Sound.andThen ?_ (State.updRcv_sound ..)
    dsimp only [b]
    with_reducible refine Sound.andThen ?_ (State.updCtl_sound ..)
    exact (State.abortList_sound ..).up
  have hd : Sound [.fresh, .ldr, .evt, .ctl, .weir, .querns, .rows, .repl, .units, .cores, .tier, .fab, .rcv, .out] s d := by
    dsimp only [d]
    with_reducible refine Sound.andThen ?_ (State.roles_sound ..)
    with_reducible refine Sound.andThen ?_ (State.resync_sound ..)
    exact hc.andThen (State.event_sound ..)
  have he : Sound [.fresh, .ldr, .evt, .ctl, .weir, .querns, .rows, .repl, .units, .cores, .tier, .fab, .rcv, .out] s e := by
    dsimp only [e]
    with_reducible refine Sound.andThen ?_ (State.emit_sound ..)
    with_reducible refine Sound.andThen ?_ (State.resendFlip_sound ..)
    with_reducible refine Sound.andThen ?_ (State.reissue_sound ..)
    exact hd.andThen (State.resendTo_sound ..)
  have hf : Sound [.fresh, .ldr, .evt, .ctl, .weir, .querns, .rows, .repl, .units, .cores, .tier, .fab, .rcv, .out] s f := by
    clear_value roll e
    dsimp only [f]
    cases roll with
    | none => exact he
    | some n =>
      dsimp only
      split
      · with_reducible refine Sound.andThen ?_ (State.updCtl_sound ..)
        with_reducible refine Sound.andThen ?_ (State.haltAt_sound ..)
        exact he.andThen (State.raise_sound ..)
      · with_reducible refine Sound.andThen ?_ (State.resendSeal_sound ..)
        with_reducible refine Sound.andThen ?_ (State.resendScales_sound ..)
        with_reducible refine Sound.andThen ?_ (State.sendRetained_sound ..)
        exact he.andThen (State.resendDecision_sound ..)
  split
  · exact hf.andThen (State.rerun_sound ..)
  · exact hf

theorem State.beginTakeover_sound : ∀ s x1 x2, Sound [.fab, .rcv] s (State.beginTakeover s x1 x2) := by
  intros
  unfold State.beginTakeover
  with_reducible refine Sound.andThen ?_ (State.updFab_sound ..)
  with_reducible refine Sound.andThen ?_ (State.updRcv_sound ..)
  with_reducible exact Sound.refl _

theorem execMember_sound : ∀ x0 s, SoundOut [.fresh, .pow, .ldr, .evt, .ctl, .weir, .querns, .rows, .repl, .units, .cores, .tier, .fab, .rcv, .out] s (execMember x0 s) := by
  intro m s
  unfold execMember
  dsimp only
  split
  · refine SoundOut.next ?_
    split
    · exact (State.emit_sound ..).up
    · exact Sound.refl _
  · split
    · exact SoundOut.next (State.fence_sound ..).up
    · split
      · refine SoundOut.next ?_
        split
        · with_reducible refine Sound.andThen ?_ (State.emit_sound ..)
          with_reducible refine Sound.andThen ?_ (State.beginTakeover_sound ..)
          exact (State.applyEpoch_sound ..).up
        · with_reducible refine Sound.andThen ?_ (State.emit_sound ..)
          exact (State.applyEpoch_sound ..).up
      · refine SoundOut.next ?_
        with_reducible refine Sound.andThen ?_ (State.emit_sound ..)
        exact (State.applyEpoch_sound ..).up

theorem State.sendRecord_sound : ∀ s x1, Sound [.fresh, .ldr, .evt, .ctl, .weir, .querns, .rows, .repl, .units, .cores, .tier, .fab, .rcv, .out] s (State.sendRecord s x1) := by
  intro s failed
  unfold State.sendRecord
  extract_lets m again a b c d
  have ha : Sound [.fresh, .ldr, .evt, .ctl, .weir, .querns, .rows, .repl, .units, .cores, .tier, .fab, .rcv, .out] s a := by
    dsimp only [a]
    with_reducible refine Sound.andThen ?_ (State.updRcv_sound ..)
    exact (State.tick_sound ..).up
  have hb : Sound [.fresh, .ldr, .evt, .ctl, .weir, .querns, .rows, .repl, .units, .cores, .tier, .fab, .rcv, .out] s b := by
    dsimp only [b]
    split
    · exact ha
    · exact ha.andThen (State.raiseDev_sound ..)
  have hc : Sound [.fresh, .ldr, .evt, .ctl, .weir, .querns, .rows, .repl, .units, .cores, .tier, .fab, .rcv, .out] s c := by
    dsimp only [c]
    split
    · exact hb
    · exact hb.andThen (State.raiseDev_sound ..)
  have hd : Sound [.fresh, .ldr, .evt, .ctl, .weir, .querns, .rows, .repl, .units, .cores, .tier, .fab, .rcv, .out] s d := hc.andThen (State.emit_sound ..)
  split
  · with_reducible refine Sound.andThen ?_ (State.updRcv_sound ..)
    with_reducible refine Sound.andThen ?_ (State.beginTakeover_sound ..)
    exact hd.andThen (State.applyEpoch_sound ..)
  · with_reducible refine Sound.andThen ?_ (State.updRcv_sound ..)
    exact hd.andThen (State.applyEpoch_sound ..)

theorem execMemberBatch_sound : ∀ x0 s, SoundOut [.now, .fresh, .ldr, .evt, .ctl, .weir, .querns, .rows, .repl, .units, .cores, .tier, .fab, .rcv, .out] s (execMemberBatch x0 s) := by
  intros
  unfold execMemberBatch
  dsimp only
  split
  with_reducible refine SoundOut.next ?_
  with_reducible refine Sound.andThen ?_ (State.at'_sound ..)
  with_reducible exact Sound.refl _
  split
  with_reducible refine SoundOut.next ?_
  with_reducible refine Sound.andThen ?_ (State.sendRecord_sound ..)
  with_reducible refine Sound.andThen ?_ (State.updRcv_sound ..)
  with_reducible refine Sound.andThen ?_ (State.at'_sound ..)
  with_reducible exact Sound.refl _
  with_reducible refine SoundOut.next ?_
  with_reducible refine Sound.andThen ?_ (State.at'_sound ..)
  with_reducible exact Sound.refl _

theorem execMemberAck_sound : ∀ x0 x1 x2 x3 s, SoundOut [.now, .evt, .ctl, .rcv] s (execMemberAck x0 x1 x2 x3 s) := by
  intros
  unfold execMemberAck
  dsimp only
  split
  with_reducible refine SoundOut.next ?_
  with_reducible refine Sound.andThen ?_ (State.at'_sound ..)
  with_reducible exact Sound.refl _
  split
  with_reducible refine SoundOut.next ?_
  with_reducible refine Sound.andThen ?_ (State.at'_sound ..)
  with_reducible exact Sound.refl _
  split
  with_reducible refine SoundOut.next ?_
  split
  with_reducible refine Sound.andThen ?_ (State.grantLeases_sound ..)
  with_reducible refine Sound.andThen ?_ (State.updRcv_sound ..)
  with_reducible refine Sound.andThen ?_ (State.updRcv_sound ..)
  with_reducible refine Sound.andThen ?_ (State.at'_sound ..)
  with_reducible exact Sound.refl _
  with_reducible refine Sound.andFold ?_ (fun a x => ?_)
  with_reducible refine Sound.andThen ?_ (State.grantLeases_sound ..)
  with_reducible refine Sound.andThen ?_ (State.updRcv_sound ..)
  with_reducible refine Sound.andThen ?_ (State.updRcv_sound ..)
  with_reducible refine Sound.andThen ?_ (State.at'_sound ..)
  with_reducible exact Sound.refl _
  with_reducible refine Sound.andThen ?_ (State.raiseDev_sound ..)
  with_reducible exact Sound.refl _
  with_reducible refine SoundOut.next ?_
  with_reducible refine Sound.andThen ?_ (State.updRcv_sound ..)
  with_reducible refine Sound.andThen ?_ (State.at'_sound ..)
  with_reducible exact Sound.refl _

theorem execLeaseGrace_sound : ∀ x0 x1 s, SoundOut [.now, .rcv, .out] s (execLeaseGrace x0 x1 s) := by
  intros
  unfold execLeaseGrace
  dsimp only
  split
  with_reducible refine SoundOut.next ?_
  split
  split
  with_reducible refine Sound.andThen ?_ (State.updRcv_sound ..)
  with_reducible refine Sound.andThen ?_ (State.at'_sound ..)
  with_reducible exact Sound.refl _
  with_reducible refine Sound.andThen ?_ (State.at'_sound ..)
  with_reducible exact Sound.refl _
  with_reducible refine Sound.andThen ?_ (State.at'_sound ..)
  with_reducible exact Sound.refl _
  split
  with_reducible refine SoundOut.next ?_
  with_reducible refine Sound.andThen ?_ (State.at'_sound ..)
  with_reducible exact Sound.refl _
  split
  with_reducible refine SoundOut.next ?_
  split
  split
  split
  with_reducible refine Sound.andThen ?_ (State.updRcv_sound ..)
  with_reducible refine Sound.andThen ?_ (State.updRcv_sound ..)
  with_reducible refine Sound.andThen ?_ (State.at'_sound ..)
  with_reducible exact Sound.refl _
  with_reducible refine Sound.andThen ?_ (State.updRcv_sound ..)
  with_reducible refine Sound.andThen ?_ (State.at'_sound ..)
  with_reducible exact Sound.refl _
  with_reducible refine Sound.andThen ?_ (State.updRcv_sound ..)
  with_reducible refine Sound.andThen ?_ (State.at'_sound ..)
  with_reducible exact Sound.refl _
  split
  with_reducible refine Sound.andThen ?_ (State.emit_sound ..)
  with_reducible refine Sound.andThen ?_ (State.updRcv_sound ..)
  with_reducible refine Sound.andThen ?_ (State.at'_sound ..)
  with_reducible exact Sound.refl _
  with_reducible refine Sound.andThen ?_ (State.updRcv_sound ..)
  with_reducible refine Sound.andThen ?_ (State.at'_sound ..)
  with_reducible exact Sound.refl _
  with_reducible refine SoundOut.next ?_
  with_reducible refine Sound.andThen ?_ (State.at'_sound ..)
  with_reducible exact Sound.refl _

theorem execFmBound_sound : ∀ x0 x1 x2 s, SoundOut [.atl, .rcv] s (execFmBound x0 x1 x2 s) := by
  intros
  unfold execFmBound
  split
  with_reducible refine SoundOut.next ?_
  with_reducible exact Sound.refl _
  split
  with_reducible refine SoundOut.next ?_
  with_reducible refine Sound.andThen ?_ (State.updRcv_sound ..)
  with_reducible exact Sound.refl _
  with_reducible refine SoundOut.next ?_
  refine Sound.andThen ?_ (State.updAtl_sound rfl rfl rfl rfl id)
  with_reducible exact Sound.refl _

theorem execFmBindLimit_sound : ∀ x0 x1 s, SoundOut [.now, .evt, .ctl, .rcv] s (execFmBindLimit x0 x1 s) := by
  intros
  unfold execFmBindLimit
  dsimp only
  split
  with_reducible refine SoundOut.next ?_
  with_reducible refine Sound.andThen ?_ (State.raiseDev_sound ..)
  with_reducible refine Sound.andThen ?_ (State.updRcv_sound ..)
  with_reducible refine Sound.andThen ?_ (State.at'_sound ..)
  with_reducible exact Sound.refl _
  with_reducible refine SoundOut.next ?_
  with_reducible refine Sound.andThen ?_ (State.at'_sound ..)
  with_reducible exact Sound.refl _

theorem execTakeoverDone_sound : ∀ x0 x1 s, SoundOut [.now, .ctl, .rcv, .out] s (execTakeoverDone x0 x1 s) := by
  intros
  unfold execTakeoverDone
  dsimp only
  split
  with_reducible refine SoundOut.next ?_
  with_reducible refine Sound.andThen ?_ (State.at'_sound ..)
  with_reducible exact Sound.refl _
  split
  split
  with_reducible refine SoundOut.next ?_
  with_reducible refine Sound.andThen ?_ (State.updCtl_sound ..)
  with_reducible refine Sound.andThen ?_ (State.updCtl_sound ..)
  with_reducible refine Sound.andThen ?_ (State.emit_sound ..)
  with_reducible refine Sound.andThen ?_ (State.updRcv_sound ..)
  with_reducible refine Sound.andThen ?_ (State.at'_sound ..)
  with_reducible exact Sound.refl _
  with_reducible refine SoundOut.next ?_
  with_reducible refine Sound.andThen ?_ (State.emit_sound ..)
  with_reducible refine Sound.andThen ?_ (State.updRcv_sound ..)
  with_reducible refine Sound.andThen ?_ (State.at'_sound ..)
  with_reducible exact Sound.refl _
  split
  with_reducible refine SoundOut.next ?_
  with_reducible refine Sound.andThen ?_ (State.updCtl_sound ..)
  with_reducible refine Sound.andThen ?_ (State.updCtl_sound ..)
  with_reducible refine Sound.andThen ?_ (State.updRcv_sound ..)
  with_reducible refine Sound.andThen ?_ (State.at'_sound ..)
  with_reducible exact Sound.refl _
  with_reducible refine SoundOut.next ?_
  with_reducible refine Sound.andThen ?_ (State.updRcv_sound ..)
  with_reducible refine Sound.andThen ?_ (State.at'_sound ..)
  with_reducible exact Sound.refl _

theorem State.restore_sound : ∀ s x1 x2, Sound [.fresh, .ctl, .weir, .querns, .rows, .repl, .units] s (State.restore s x1 x2) := by
  intros
  unfold State.restore
  with_reducible refine Sound.andThen ?_ (State.updCtl_sound ..)
  with_reducible refine Sound.andThen ?_ (State.updWeir_sound ..)
  with_reducible refine Sound.andFold ?_ (fun a x => ?_)
  with_reducible refine Sound.lit ?_
  with_reducible exact Sound.refl _
  with_reducible refine Sound.andThen ?_ (State.updQuern_sound ..)
  with_reducible exact Sound.refl _

theorem State.askVersions_sound : ∀ s x1, Sound [.weir, .out] s (State.askVersions s x1) := by
  intros
  unfold State.askVersions
  with_reducible refine Sound.andThen ?_ (State.emit_sound ..)
  with_reducible refine Sound.andThen ?_ (State.emit_sound ..)
  with_reducible refine Sound.andThen ?_ (State.updWeir_sound ..)
  with_reducible refine Sound.andFold ?_ (fun a x => ?_)
  with_reducible exact Sound.refl _
  with_reducible refine Sound.andThen ?_ (State.beginArrival_sound ..)
  with_reducible exact Sound.refl _

theorem State.setRoll_sound : ∀ s x1 x2, Sound [.ldr, .ctl] s (State.setRoll s x1 x2) := by
  intros
  unfold State.setRoll
  split
  split
  with_reducible refine Sound.andThen ?_ (State.updStep_sound ..)
  with_reducible refine Sound.andThen ?_ (State.boundary_sound ..)
  with_reducible exact Sound.refl _
  with_reducible exact Sound.refl _
  with_reducible exact Sound.refl _

theorem State.mapPages_sound : ∀ s x1, Sound [.tier] s (State.mapPages s x1) := by
  intros
  unfold State.mapPages
  with_reducible refine Sound.andThen ?_ (State.updTier_sound fun hk => ?_)
  with_reducible exact Sound.refl _
  exact hk

theorem State.putRange_sound : ∀ s x1 x2, Sound [.tier] s (State.putRange s x1 x2) := by
  intros
  unfold State.putRange
  split
  with_reducible refine Sound.andThen ?_ (State.updTier_sound fun hk => ?_)
  with_reducible exact Sound.refl _
  exact memWrite_wf _ _ hk
  with_reducible exact Sound.refl _

theorem State.loadProgs_sound : ∀ s, Sound [.tier] s (State.loadProgs s) := by
  intros
  unfold State.loadProgs
  with_reducible refine Sound.andFold ?_ (fun a x => ?_)
  with_reducible exact Sound.refl _
  with_reducible refine Sound.andFold ?_ (fun a x => ?_)
  with_reducible exact Sound.refl _
  with_reducible refine Sound.andThen ?_ (State.putRange_sound ..)
  with_reducible exact Sound.refl _

theorem State.pullPages_sound : ∀ s x1, Sound [.tier] s (State.pullPages s x1) := by
  intro s d
  unfold State.pullPages
  extract_lets state fill
  exact State.updTier_sound fun hk => wf_foldl (fun _ _ h => fillFrame_wf _ _ h) _ hk

theorem execPullComplete_sound : ∀ s, SoundOut [.fresh, .atl, .ldr, .evt, .ctl, .weir, .querns, .rows, .repl, .units, .tier, .rcv, .out] s (execPullComplete s) := by
  intro s
  unfold execPullComplete
  split
  · exact SoundOut.next (Sound.refl _)
  · split
    · exact SoundOut.next (Sound.refl _)
    · extract_lets hdr v base jour bad z0 b t u w rolls seq w1 sent w2 y z
      have ht : Sound [.fresh, .atl, .ldr, .evt, .ctl, .weir, .querns, .rows, .repl, .units, .tier, .rcv, .out] s t := by
        dsimp only [t]
        split
        · exact (State.raiseDev_sound ..).up
        · exact Sound.refl _
      have hu : Sound [.fresh, .atl, .ldr, .evt, .ctl, .weir, .querns, .rows, .repl, .units, .tier, .rcv, .out] s u := by
        dsimp only [u]
        with_reducible refine Sound.andThen ?_ (State.updStandby_sound ..)
        with_reducible refine Sound.andThen ?_ (State.restore_sound ..)
        with_reducible refine Sound.andThen ?_ (State.loadProgs_sound ..)
        with_reducible refine Sound.andThen ?_ (State.pullPages_sound ..)
        exact ht.andThen (State.mapPages_sound ..)
      have hw : Sound [.fresh, .atl, .ldr, .evt, .ctl, .weir, .querns, .rows, .repl, .units, .tier, .rcv, .out] s w := by
        dsimp only [w]
        with_reducible refine Sound.andThen ?_ (State.askVersions_sound ..)
        exact hu.andThen (State.setRoll_sound ..)
      have h1 : Sound [.fresh, .atl, .ldr, .evt, .ctl, .weir, .querns, .rows, .repl, .units, .tier, .rcv, .out] s w1 := by
        dsimp only [w1]
        split
        · exact hw.andThen (State.updCtx_sound ..)
        · exact hw
      have h2 : Sound [.fresh, .atl, .ldr, .evt, .ctl, .weir, .querns, .rows, .repl, .units, .tier, .rcv, .out] s w2 := by
        dsimp only [w2]
        with_reducible refine Sound.andThen h1 (State.updLdr_sound fun hk => ?_)
        exact hk
      have hz : Sound [.fresh, .atl, .ldr, .evt, .ctl, .weir, .querns, .rows, .repl, .units, .tier, .rcv, .out] s z := by
        dsimp only [z]
        with_reducible refine Sound.andThen ?_ (State.emit_sound ..)
        exact h2.andThen (State.updRcv_sound ..)
      refine SoundOut.next ?_
      with_reducible refine Sound.andThen ?_ (State.serveAsks_sound ..)
      split
      · exact hz
      · exact hz.andThen (State.endTakeover_sound ..)

theorem execPartnerUnitRequest_sound : ∀ x0 x1 x2 s, SoundOut [.out] s (execPartnerUnitRequest x0 x1 x2 s) := by
  intros
  unfold execPartnerUnitRequest
  split
  with_reducible refine SoundOut.next ?_
  with_reducible refine Sound.andThen ?_ (State.emit_sound ..)
  with_reducible exact Sound.refl _
  with_reducible refine SoundOut.next ?_
  with_reducible exact Sound.refl _

theorem execJournalFold_sound : ∀ x0 s, SoundOut [.atl] s (execJournalFold x0 s) := by
  intros
  unfold execJournalFold
  dsimp only
  split
  with_reducible refine SoundOut.next ?_
  with_reducible exact Sound.refl _
  split
  with_reducible refine SoundOut.next ?_
  with_reducible refine Sound.andThen ?_ (State.updStandby_sound ..)
  with_reducible exact Sound.refl _
  with_reducible refine SoundOut.next ?_
  with_reducible exact Sound.refl _

theorem execReleaseFence_sound : ∀ s, SoundOut [.fresh, .pow, .ldr, .evt, .ctl, .weir, .querns, .rows, .repl, .units, .cores, .tier, .fab, .rcv, .out] s (execReleaseFence s) := by
  intros
  unfold execReleaseFence
  dsimp only
  split
  with_reducible refine SoundOut.next ?_
  with_reducible exact Sound.refl _
  split
  with_reducible refine SoundOut.next ?_
  with_reducible exact Sound.refl _
  split
  with_reducible refine SoundOut.next ?_
  split
  with_reducible refine Sound.andThen ?_ (State.updRcv_sound ..)
  split
  split
  with_reducible refine Sound.andThen ?_ (State.fence_sound ..)
  with_reducible exact Sound.refl _
  with_reducible exact Sound.refl _
  split
  with_reducible refine Sound.andThen ?_ (State.fence_sound ..)
  with_reducible exact Sound.refl _
  with_reducible exact Sound.refl _
  with_reducible refine Sound.andThen ?_ (State.sendRecord_sound ..)
  with_reducible refine Sound.andThen ?_ (State.updRcv_sound ..)
  split
  split
  with_reducible refine Sound.andThen ?_ (State.fence_sound ..)
  with_reducible exact Sound.refl _
  with_reducible exact Sound.refl _
  split
  with_reducible refine Sound.andThen ?_ (State.fence_sound ..)
  with_reducible exact Sound.refl _
  with_reducible exact Sound.refl _
  with_reducible refine SoundOut.next ?_
  split
  split
  with_reducible refine Sound.andThen ?_ (State.fence_sound ..)
  with_reducible exact Sound.refl _
  with_reducible exact Sound.refl _
  split
  with_reducible refine Sound.andThen ?_ (State.fence_sound ..)
  with_reducible exact Sound.refl _
  with_reducible exact Sound.refl _

end Sys2Proof.Machine
end

