-- ==== Sys2Proof/Laws/SoundImage.lean ====
section
/-! SUPPORT. Operations of Machine/Image.lean are sound. -/

namespace Sys2Proof.Machine

set_option Elab.async false

theorem State.under'_sound (s : State) (i : Image) (fs : List FieldSt) (c : CtxId) : Sound [.atl, .ldr] s (s.under' i fs c) :=
  ⟨fun p => by cases p <;> first | exact .inl rfl | exact .inr rfl,
    rfl, rfl, le_rfl, le_rfl, le_rfl, le_rfl, id, id, id, id, id, id⟩

theorem State.loadEnd_sound : ∀ s x1, Sound [.ldr, .evt, .ctl] s (State.loadEnd s x1) := by
  intros
  unfold State.loadEnd
  dsimp only
  split
  with_reducible refine Sound.andThen ?_ (State.raiseDev_sound ..)
  with_reducible refine Sound.andThen ?_ (State.updLdr_sound fun hk => ?_)
  with_reducible exact Sound.refl _
  exact hk
  with_reducible refine Sound.andThen ?_ (State.updLdr_sound fun hk => ?_)
  with_reducible exact Sound.refl _
  exact hk

theorem State.backInService_sound : ∀ s, Sound [.cores] s (State.backInService s) := by
  intros
  unfold State.backInService
  refine Sound.foldl (fun u c => Sound.foldl (fun v e => ?_) _ _) _ _
  split
  · exact State.updEngine_sound ..
  · exact Sound.refl _

theorem State.applyImage_sound : ∀ s x1 x2, Sound [.ldr, .cores] s (State.applyImage s x1 x2) := by
  intro s i bank
  unfold State.applyImage
  extract_lets t
  have ht : Sound [.ldr, .cores] s t := by
    dsimp only [t]
    have h := State.backInService_sound s
    generalize s.backInService = u at h
    exact (h.up : Sound [.ldr, .cores] s u).andThen (State.updLdr_sound fun hk => hk)
  refine Sound.andFold ht (fun u c => Sound.foldl (fun v e => ?_) _ _)
  split
  · exact (State.updEngine_sound ..).up
  · exact Sound.refl _

theorem State.putBank_sound : ∀ s x1 x2, Sound [.ldr] s (State.putBank s x1 x2) := by
  intros
  unfold State.putBank
  with_reducible refine Sound.andThen ?_ (State.updLdr_sound fun hk => ?_)
  with_reducible exact Sound.refl _
  dsimp only
  split
  exact hk
  exact hk

theorem execStore_sound : ∀ x0 x1 s, SoundOut [.atl, .ldr, .evt, .ctl] s (execStore x0 x1 s) := by
  intros
  unfold execStore
  split
  with_reducible refine SoundOut.next ?_
  with_reducible exact Sound.refl _
  split
  with_reducible refine SoundOut.next ?_
  with_reducible refine Sound.andThen ?_ (State.loadEnd_sound ..)
  with_reducible refine Sound.andThen ?_ (State.putBank_sound ..)
  with_reducible exact Sound.refl _
  with_reducible refine SoundOut.next ?_
  with_reducible refine Sound.andThen ?_ (State.loadEnd_sound ..)
  with_reducible exact Sound.refl _

theorem execStoreApply_sound (i : Image) (ok : Bool) (s : State) : SoundOut [.atl, .ldr, .evt, .ctl, .cores] s (execStoreApply i ok s) := by
  unfold execStoreApply
  repeat' split
  all_goals refine .next ?_
  · exact Sound.refl s
  · exact (State.loadEnd_sound ..).up
  · exact ((State.updLdr_sound fun hk => hk).trans (State.raiseDev_sound ..)).up
  · exact (((State.putBank_sound ..).trans (State.applyImage_sound ..)).trans (State.loadEnd_sound ..)).up
  · exact ((State.putBank_sound ..).trans (State.loadEnd_sound ..)).up
  · exact (State.loadEnd_sound ..).up

theorem State.stage_sound : ∀ s x1, Sound [.ldr, .evt, .ctl] s (State.stage s x1) := by
  intros
  unfold State.stage
  dsimp only
  split
  with_reducible refine Sound.andThen ?_ (State.loadEnd_sound ..)
  with_reducible refine Sound.andThen ?_ (State.raise_sound ..)
  with_reducible exact Sound.refl _
  split
  with_reducible refine Sound.andThen ?_ (State.loadEnd_sound ..)
  with_reducible refine Sound.andThen ?_ (State.updLayout_sound ..)
  with_reducible exact Sound.refl _
  with_reducible refine Sound.andThen ?_ (State.raise_sound ..)
  with_reducible refine Sound.andThen ?_ (State.updLdr_sound fun hk => ?_)
  with_reducible exact Sound.refl _
  exact hk

theorem execPackage_sound : ∀ x0 s, SoundOut [.atl, .ldr, .evt, .ctl, .cores] s (execPackage x0 s) := by
  intros
  unfold execPackage
  dsimp only
  split
  · exact SoundOut.next (Sound.refl _)
  · split
    · split
      · exact SoundOut.next (State.loadEnd_sound ..).up
      · split
        · exact SoundOut.next (State.loadEnd_sound ..).up
        · split
          · exact SoundOut.next (State.loadEnd_sound ..).up
          · split
            · refine SoundOut.next ?_
              split
              · exact (State.stage_sound ..).up
              · exact (State.loadEnd_sound ..).up
            · split
              · exact SoundOut.next (State.loadEnd_sound ..).up
              · split
                · refine SoundOut.next ?_
                  with_reducible refine Sound.andThen ?_ (State.raiseDev_sound ..)
                  exact (State.updLdr_sound fun hk => hk).up
                · split
                  · refine SoundOut.next ?_
                    with_reducible refine Sound.andThen ?_ (State.loadEnd_sound ..)
                    exact (State.updLdr_sound fun hk => hk).up
                  · exact SoundOut.next (State.loadEnd_sound ..).up
    · exact SoundOut.next (State.loadEnd_sound ..).up

theorem State.fieldEnd_sound : ∀ s x1, Sound [.ldr] s (State.fieldEnd s x1) := by
  intros
  unfold State.fieldEnd
  with_reducible refine Sound.andThen ?_ (State.updLdr_sound fun hk => ?_)
  with_reducible exact Sound.refl _
  exact hk

theorem State.fieldFault_sound : ∀ s x1 x2 x3, Sound [.ldr, .evt, .ctl] s (State.fieldFault s x1 x2 x3) := by
  intros
  unfold State.fieldFault
  with_reducible refine Sound.andThen ?_ (State.raiseDev_sound ..)
  with_reducible refine Sound.andThen ?_ (State.fieldEnd_sound ..)
  with_reducible exact Sound.refl _

theorem execFieldRead_sound (index : Nat) (s : State) : SoundOut [.ldr, .evt, .ctl] s (execFieldRead index s) := by
  have h : Sound [.ldr] s (s.updLdr fun l => { l with sel := index }) := State.updLdr_sound fun hk => hk
  unfold execFieldRead
  dsimp only
  repeat' split
  · exact .next ((h.trans (State.fieldFault_sound ..)).up)
  · exact .next ((h.trans (State.fieldFault_sound ..)).up)
  · exact .next (((h.trans (State.updLdr_sound fun _ => memWrite_wf _ _ rfl)).trans (State.fieldEnd_sound ..)).up)

theorem State.setField_sound : ∀ s x1 x2 x3, Sound [.ldr] s (State.setField s x1 x2 x3) := by
  intros
  unfold State.setField
  with_reducible refine Sound.andThen ?_ (State.updLdr_sound fun hk => ?_)
  with_reducible exact Sound.refl _
  exact hk

theorem execFieldWrite_sound : ∀ x0 x1 s, SoundOut [.now, .atl, .ldr, .evt, .ctl] s (execFieldWrite x0 x1 s) := by
  intro index ⟨value, at'⟩ s
  unfold execFieldWrite
  extract_lets t
  have ht : Sound [.now, .atl, .ldr, .evt, .ctl] s t := by
    dsimp only [t]
    refine Sound.andThen ?_ (State.updLdr_sound fun hk => hk)
    exact (State.at'_sound ..).up
  split
  · exact SoundOut.next (ht.andThen (State.fieldFault_sound ..))
  · extract_lets runs range
    split
    · exact SoundOut.next (ht.andThen (State.fieldFault_sound ..))
    · split
      · exact SoundOut.next (ht.andThen (State.fieldFault_sound ..))
      · split
        · exact SoundOut.next (ht.andThen (State.fieldFault_sound ..))
        · split
          · refine SoundOut.next ?_
            split
            · with_reducible refine Sound.andThen ?_ (State.fieldEnd_sound ..)
              exact ht.andThen (State.setField_sound ..)
            · exact ht.andThen (State.fieldFault_sound ..)
          · refine SoundOut.next ?_
            with_reducible refine Sound.andThen ?_ (State.fieldEnd_sound ..)
            exact ht.andThen (State.setField_sound ..)

theorem State.acceptWrite_sound : ∀ s x1 x2 x3, Sound [.ldr, .fab, .out] s (State.acceptWrite s x1 x2 x3) := by
  intros
  unfold State.acceptWrite
  with_reducible refine Sound.andThen ?_ (State.emitAcked_sound ..)
  with_reducible refine Sound.andThen ?_ (State.updLdr_sound fun hk => ?_)
  with_reducible exact Sound.refl _
  exact hk

theorem execWriteStep_sound : ∀ x0 x1 x2 s, SoundOut [.atl, .ldr, .evt, .ctl, .fab, .out] s (execWriteStep x0 x1 x2 s) := by
  intros
  unfold execWriteStep
  dsimp only
  split
  with_reducible refine SoundOut.next ?_
  with_reducible refine Sound.andThen ?_ (State.fieldFault_sound ..)
  with_reducible refine Sound.andThen ?_ (State.updLdr_sound fun hk => ?_)
  with_reducible exact Sound.refl _
  exact hk
  split
  with_reducible refine SoundOut.next ?_
  with_reducible refine Sound.andThen ?_ (State.updLdr_sound fun hk => ?_)
  with_reducible refine Sound.andThen ?_ (State.updLdr_sound fun hk => ?_)
  with_reducible exact Sound.refl _
  exact hk
  exact hk
  split
  with_reducible refine SoundOut.next ?_
  with_reducible refine Sound.andThen ?_ (State.updLdr_sound fun hk => ?_)
  with_reducible refine Sound.andThen ?_ (State.updLdr_sound fun hk => ?_)
  with_reducible exact Sound.refl _
  exact hk
  exact hk
  split
  with_reducible refine SoundOut.next ?_
  with_reducible refine Sound.andThen ?_ (State.fieldFault_sound ..)
  with_reducible refine Sound.andThen ?_ (State.updLdr_sound fun hk => ?_)
  with_reducible exact Sound.refl _
  exact hk
  split
  with_reducible refine SoundOut.next ?_
  with_reducible refine Sound.andThen ?_ (State.fieldFault_sound ..)
  with_reducible refine Sound.andThen ?_ (State.updLdr_sound fun hk => ?_)
  with_reducible exact Sound.refl _
  exact hk
  with_reducible refine SoundOut.next ?_
  with_reducible refine Sound.andThen ?_ (State.updLdr_sound fun hk => ?_)
  with_reducible refine Sound.andThen ?_ (State.acceptWrite_sound ..)
  with_reducible refine Sound.andThen ?_ (State.updLdr_sound fun hk => ?_)
  with_reducible exact Sound.refl _
  exact hk
  exact hk

theorem execWriteStepComplete_sound : ∀ x0 s, SoundOut [.ldr] s (execWriteStepComplete x0 s) := by
  intros
  unfold execWriteStepComplete
  split
  with_reducible refine SoundOut.next ?_
  with_reducible refine Sound.andThen ?_ (State.fieldEnd_sound ..)
  with_reducible refine Sound.andThen ?_ (State.updLdr_sound fun hk => ?_)
  with_reducible exact Sound.refl _
  exact hk
  with_reducible refine SoundOut.next ?_
  with_reducible exact Sound.refl _

end Sys2Proof.Machine
end

