-- ==== Sys2Proof/Laws/SoundAtluta.lean ====
section
/-! SUPPORT. Operations of Machine/Atluta.lean are sound. -/

namespace Sys2Proof.Machine

set_option Elab.async false

theorem Atluta.logPut_keeps (a : Atluta) (f : LogForm) : (a.logPut f).fwFloor = a.fwFloor ∧ (a.logPut f).imageFloor = a.imageFloor ∧
    (a.logPut f).fwFuses = a.fwFuses ∧ (a.logPut f).keyBurns = a.keyBurns ∧ (a.logPut f).mboxBuf = a.mboxBuf := by
  unfold Atluta.logPut
  split
  · exact ⟨rfl, rfl, rfl, rfl, rfl⟩
  · exact ⟨rfl, rfl, rfl, rfl, rfl⟩

theorem State.mbox_sound : ∀ s x1, Sound [.atl] s (State.mbox s x1) := by
  intros
  unfold State.mbox
  refine Sound.andThen ?_ (State.updAtl_sound rfl rfl rfl rfl id)
  with_reducible exact Sound.refl _

theorem State.mboxInvalid_sound : ∀ s, Sound [.atl, .evt, .ctl] s (State.mboxInvalid s) := by
  intros
  unfold State.mboxInvalid
  with_reducible refine Sound.andThen ?_ (State.raiseDev_sound ..)
  with_reducible refine Sound.andThen ?_ (State.mbox_sound ..)
  with_reducible exact Sound.refl _

theorem State.sendSegment_sound : ∀ s x1 x2 x3 x4, Sound [.fresh, .atl, .fab, .out] s (State.sendSegment s x1 x2 x3 x4) := by
  intros
  unfold State.sendSegment
  dsimp only
  split
  with_reducible refine Sound.andThen ?_ (State.updCtx_sound ..)
  with_reducible refine Sound.andThen ?_ (State.emit_sound ..)
  with_reducible exact Sound.refl _
  with_reducible refine Sound.andThen ?_ (State.updCtx_sound ..)
  with_reducible refine Sound.andThen ?_ (State.emit_sound ..)
  with_reducible refine Sound.andThen ?_ (State.updFab_sound ..)
  with_reducible refine Sound.andThen ?_ (State.tick_sound ..)
  with_reducible refine Sound.andThen ?_ (State.emit_sound ..)
  with_reducible exact Sound.refl _

theorem execDiffRingTail_sound : ∀ x0 x1 s, SoundOut [.atl] s (execDiffRingTail x0 x1 s) := by
  intros
  unfold execDiffRingTail
  with_reducible refine SoundOut.next ?_
  with_reducible refine Sound.andThen ?_ (State.updCtx_sound ..)
  with_reducible exact Sound.refl _

theorem State.startFronts_sound (s : State) (v : Nat) : Sound [.cores] s (s.startFronts v) := by
  unfold State.startFronts
  generalize List.finRange 32 = l
  refine Sound.foldl (fun a c => ?_) l s
  refine (State.updCore_sound (fun k hk => ?_) a c).up
  exact hk

theorem State.enterCtx_sound : ∀ s x1, Sound [.atl, .ctl] s (State.enterCtx s x1) := by
  intros
  unfold State.enterCtx
  with_reducible refine Sound.andThen ?_ (State.updCtl_sound ..)
  refine Sound.andThen ?_ (State.updAtl_sound rfl rfl rfl rfl id)
  with_reducible exact Sound.refl _

theorem State.loadJob_sound : ∀ s, Sound [.fresh, .ldr, .ctl, .weir, .querns, .rows, .repl, .units, .cores, .tier, .fab, .out] s (State.loadJob s) := by
  intro s
  unfold State.loadJob
  extract_lets n a b
  have ha : Sound [.fresh, .ldr, .ctl, .weir, .querns, .rows, .repl, .units, .cores, .tier, .fab, .out] s a := by
    dsimp only [a]
    with_reducible refine Sound.andThen ?_ (State.updCtl_sound ..)
    with_reducible refine Sound.andThen ?_ (State.startFronts_sound ..)
    with_reducible refine Sound.andThen ?_ (State.fillBuckets_sound ..)
    with_reducible refine Sound.andThen ?_ (State.rowsLoad_sound ..)
    with_reducible refine Sound.andThen ?_ (State.weirLoad_sound ..)
    with_reducible refine Sound.andThen ?_ (State.loadProgs_sound ..)
    exact (State.mapPages_sound ..).up
  have hb : Sound [.fresh, .ldr, .ctl, .weir, .querns, .rows, .repl, .units, .cores, .tier, .fab, .out] s b := by
    dsimp only [b]
    with_reducible refine Sound.andThen ?_ (State.boundary_sound ..)
    exact ha.andThen (State.updWeir_sound ..)
  exact hb.andThen (State.updStep_sound ..)

theorem State.keyCtx_sound : ∀ s x1 x2, Sound [.fresh, .atl, .fab, .rcv, .out] s (State.keyCtx s x1 x2) := by
  intros
  unfold State.keyCtx
  extract_lets
  split
  with_reducible refine Sound.andThen ?_ (State.emit_sound ..)
  extract_lets
  with_reducible refine Sound.andThen ?_ (State.updRcv_sound ..)
  extract_lets
  with_reducible refine Sound.andThen ?_ (State.roles_sound ..)
  extract_lets
  with_reducible refine Sound.andThen ?_ (State.updCtx_sound ..)
  extract_lets
  with_reducible refine Sound.andThen ?_ (State.tick_sound ..)
  extract_lets
  with_reducible refine Sound.andThen ?_ (State.updFab_sound ..)
  with_reducible exact Sound.refl _
  with_reducible refine Sound.andThen ?_ (State.updRcv_sound ..)
  extract_lets
  with_reducible refine Sound.andThen ?_ (State.roles_sound ..)
  extract_lets
  with_reducible refine Sound.andThen ?_ (State.updCtx_sound ..)
  extract_lets
  with_reducible refine Sound.andThen ?_ (State.tick_sound ..)
  extract_lets
  with_reducible refine Sound.andThen ?_ (State.updFab_sound ..)
  with_reducible exact Sound.refl _

theorem State.startAudit_sound : ∀ s x1, Sound [.atl] s (State.startAudit s x1) := by
  intros
  unfold State.startAudit
  with_reducible refine Sound.andThen ?_ (State.mbox_sound ..)
  refine Sound.andThen ?_ (State.updAtl_sound rfl rfl rfl rfl id)
  with_reducible refine Sound.andThen ?_ (State.updCtx_sound ..)
  with_reducible exact Sound.refl _

theorem execJobStart_sound (ctx : CtxId) (s : State) : SoundOut [.fresh, .atl, .ldr, .evt, .ctl, .weir, .querns, .rows, .repl, .units, .cores, .tier, .fab, .rcv, .out] s (execJobStart ctx s) := by
  unfold execJobStart
  extract_lets z rack known t good u
  have hz : Sound [.fresh, .atl, .ldr, .evt, .ctl, .weir, .querns, .rows, .repl, .units, .cores, .tier, .fab, .rcv, .out] s z := (State.enterCtx_sound ..).up
  have ht : Sound [.fresh, .atl, .ldr, .evt, .ctl, .weir, .querns, .rows, .repl, .units, .cores, .tier, .fab, .rcv, .out] s t := (hz.trans (State.loadJob_sound ..)).up
  have hu : Sound [.fresh, .atl, .ldr, .evt, .ctl, .weir, .querns, .rows, .repl, .units, .cores, .tier, .fab, .rcv, .out] s u := (ht.trans (State.keyCtx_sound ..)).up
  clear_value z t u
  repeat' split
  all_goals refine .next ?_
  all_goals first
    | with_reducible exact Sound.refl s
    | with_reducible exact (State.mbox_sound ..).up
    | with_reducible exact (State.startAudit_sound ..).up
    | with_reducible exact (State.mboxInvalid_sound ..).up
    | with_reducible exact ((hz.trans (State.keyCtx_sound ..)).trans (State.mbox_sound ..)).up
    | with_reducible exact ((State.mbox_sound ..).trans (State.raiseDev_sound ..)).up
    | with_reducible exact ((hu.trans (State.updStandby_sound ..)).trans (State.mbox_sound ..)).up

theorem execJobStop_sound : ∀ x0 s, SoundOut [.atl, .ctl, .weir, .querns, .rows, .repl, .units, .cores, .tier, .fab, .rcv] s (execJobStop x0 s) := by
  intros
  unfold execJobStop
  dsimp only
  split
  with_reducible refine SoundOut.next ?_
  with_reducible exact Sound.refl _
  split
  with_reducible refine SoundOut.next ?_
  with_reducible refine Sound.andThen ?_ (State.mbox_sound ..)
  with_reducible exact Sound.refl _
  split
  with_reducible refine SoundOut.next ?_
  with_reducible refine Sound.andThen ?_ (State.mbox_sound ..)
  with_reducible refine Sound.andThen ?_ (State.updCtx_sound ..)
  refine Sound.andThen ?_ (State.updAtl_sound rfl rfl rfl rfl id)
  with_reducible exact Sound.refl _
  split
  with_reducible refine SoundOut.next ?_
  with_reducible refine Sound.andThen ?_ (State.mbox_sound ..)
  with_reducible refine Sound.andThen ?_ (State.updFab_sound ..)
  with_reducible refine Sound.andThen ?_ (State.updRcv_sound ..)
  with_reducible refine Sound.andThen ?_ (State.updCtx_sound ..)
  refine Sound.andThen ?_ (State.updAtl_sound rfl rfl rfl rfl id)
  with_reducible refine Sound.andThen ?_ (State.scrub_sound ..)
  with_reducible exact Sound.refl _
  with_reducible refine SoundOut.next ?_
  with_reducible refine Sound.andThen ?_ (State.mbox_sound ..)
  refine Sound.andThen ?_ (State.updAtl_sound rfl rfl rfl rfl id)
  with_reducible refine Sound.andThen ?_ (State.updCtx_sound ..)
  with_reducible refine Sound.andThen ?_ (State.updTier_sound fun hk => ?_)
  with_reducible exact Sound.refl _
  dsimp only
  exact zeroPages_wf _ _ hk

theorem State.acceptTarget_sound : ∀ s x1 x2 x3, Sound [.atl, .ldr, .fab, .out] s (State.acceptTarget s x1 x2 x3) := by
  intros
  unfold State.acceptTarget
  split
  with_reducible refine Sound.andThen ?_ (State.mbox_sound ..)
  extract_lets
  with_reducible exact Sound.refl _
  split
  with_reducible refine Sound.andThen ?_ (State.mbox_sound ..)
  extract_lets
  with_reducible exact Sound.refl _
  with_reducible refine Sound.andThen ?_ (State.mbox_sound ..)
  extract_lets
  with_reducible refine Sound.andThen ?_ (State.acceptWrite_sound ..)
  extract_lets
  with_reducible exact Sound.refl _

theorem execJobSwitch_sound (a b : CtxId) (t : Nat) (s : State) : SoundOut [.atl, .ldr, .fab, .out] s (execJobSwitch a b t s) := by
  unfold execJobSwitch
  repeat' split
  · exact .next (Sound.refl s)
  · exact .next ((State.mbox_sound ..).up)
  · exact .next ((State.acceptTarget_sound ..).up)

theorem State.rebuildVersions_sound : ∀ s x1 x2, Sound [.ctl, .weir, .fab, .out] s (State.rebuildVersions s x1 x2) := by
  intros
  unfold State.rebuildVersions
  with_reducible refine Sound.andThen ?_ (State.tryInstall_sound ..)
  with_reducible refine Sound.andFold ?_ (fun a x => ?_)
  with_reducible refine Sound.andThen ?_ (State.updWeir_sound ..)
  with_reducible refine Sound.andFold ?_ (fun a x => ?_)
  with_reducible exact Sound.refl _
  with_reducible refine Sound.andThen ?_ (State.beginArrival_sound ..)
  with_reducible exact Sound.refl _
  with_reducible refine Sound.andFold ?_ (fun a x => ?_)
  with_reducible exact Sound.refl _
  with_reducible refine Sound.andThen ?_ (State.sendTile_sound ..)
  with_reducible exact Sound.refl _

theorem execSwitchInRestore_sound : ∀ x0 s, SoundOut [.fresh, .atl, .ctl, .weir, .querns, .rows, .repl, .units, .cores, .tier, .fab, .out] s (execSwitchInRestore x0 s) := by
  intro ctx s
  unfold execSwitchInRestore
  extract_lets x
  split
  · exact SoundOut.next (Sound.refl _)
  · split
    · exact SoundOut.next (Sound.refl _)
    · extract_lets v a pull m c d
      have ha : Sound [.fresh, .atl, .ctl, .weir, .querns, .rows, .repl, .units, .cores, .tier, .fab, .out] s a := by
        dsimp only [a]
        with_reducible refine Sound.andThen ?_ (State.updCtl_sound ..)
        exact (State.updAtl_sound rfl rfl rfl rfl id).up
      have hm : Sound [.fresh, .atl, .ctl, .weir, .querns, .rows, .repl, .units, .cores, .tier, .fab, .out] s m := by
        dsimp only [m]
        refine Sound.andThen (ha.andThen (State.mapPages_sound ..)) (State.updTier_sound fun hk => wf_foldl (fun a x h => ?_) _ hk)
        dsimp only [pull]
        split
        · exact fillFrame_wf _ _ h
        · exact h
      have hc : Sound [.fresh, .atl, .ctl, .weir, .querns, .rows, .repl, .units, .cores, .tier, .fab, .out] s c := by
        dsimp only [c]
        with_reducible refine Sound.andThen ?_ (State.startFronts_sound ..)
        with_reducible refine Sound.andThen ?_ (State.fillBuckets_sound ..)
        with_reducible refine Sound.andThen ?_ (State.restore_sound ..)
        exact hm.andThen (State.loadProgs_sound ..)
      have hd : Sound [.fresh, .atl, .ctl, .weir, .querns, .rows, .repl, .units, .cores, .tier, .fab, .out] s d := by
        dsimp only [d]
        with_reducible refine Sound.andThen ?_ (State.updCtl_sound ..)
        exact hc.andThen (State.rebuildVersions_sound ..)
      refine SoundOut.next ?_
      with_reducible refine Sound.andThen ?_ (State.serveAsks_sound ..)
      exact hd.andThen (State.updCtx_sound ..)

theorem execContextReady_sound : ∀ x0 s, SoundOut [.atl, .ctl] s (execContextReady x0 s) := by
  intros
  unfold execContextReady
  extract_lets
  split
  with_reducible refine SoundOut.next ?_
  extract_lets
  with_reducible exact Sound.refl _
  split
  with_reducible refine SoundOut.next ?_
  extract_lets
  with_reducible refine Sound.andThen ?_ (State.mbox_sound ..)
  extract_lets
  with_reducible exact Sound.refl _
  split
  with_reducible refine SoundOut.next ?_
  extract_lets
  with_reducible refine Sound.andThen ?_ (State.mbox_sound ..)
  extract_lets
  with_reducible refine Sound.andThen ?_ (State.updCtl_sound ..)
  extract_lets
  with_reducible refine Sound.andThen ?_ (State.updCtx_sound ..)
  extract_lets
  with_reducible exact Sound.refl _
  with_reducible refine SoundOut.next ?_
  extract_lets
  with_reducible refine Sound.andThen ?_ (State.mbox_sound ..)
  extract_lets
  with_reducible refine Sound.andThen ?_ (State.updCtx_sound ..)
  extract_lets
  with_reducible exact Sound.refl _

theorem execJobResume_sound : ∀ x0 s, SoundOut [.atl, .ctl, .weir, .querns, .repl, .units, .cores, .fab] s (execJobResume x0 s) := by
  intros
  unfold execJobResume
  split
  with_reducible refine SoundOut.next ?_
  with_reducible exact Sound.refl _
  split
  with_reducible refine SoundOut.next ?_
  with_reducible refine Sound.andThen ?_ (State.mbox_sound ..)
  with_reducible refine Sound.andThen ?_ (State.unhalt_sound ..)
  with_reducible exact Sound.refl _
  with_reducible refine SoundOut.next ?_
  with_reducible refine Sound.andThen ?_ (State.mbox_sound ..)
  with_reducible exact Sound.refl _

theorem State.setSpares_sound : ∀ s x1, Sound [.ldr] s (State.setSpares s x1) := by
  intros
  unfold State.setSpares
  with_reducible refine Sound.andThen ?_ (State.updLdr_sound fun hk => ?_)
  with_reducible exact Sound.refl _
  exact hk

theorem execSpareAdd_sound (ctx : CtxId) (dev : DevId) (s : State) : SoundOut [.fresh, .atl, .ldr, .evt, .ctl, .weir, .querns, .rows, .repl, .units, .cores, .tier, .fab, .rcv, .out] s (execSpareAdd ctx dev s) := by
  unfold execSpareAdd
  split
  · exact .next (Sound.refl s)
  · split
    · exact .next ((State.mbox_sound ..).up)
    · extract_lets t u
      have ht : Sound [.fresh, .atl, .ldr, .evt, .ctl, .weir, .querns, .rows, .repl, .units, .cores, .tier, .fab, .rcv, .out] s t := ((State.setSpares_sound ..).trans (State.updRcv_sound ..)).up
      have hu : Sound [.fresh, .atl, .ldr, .evt, .ctl, .weir, .querns, .rows, .repl, .units, .cores, .tier, .fab, .rcv, .out] s u := by
        show Sound [.fresh, .atl, .ldr, .evt, .ctl, .weir, .querns, .rows, .repl, .units, .cores, .tier, .fab, .rcv, .out] s (if _ then _ else _)
        split
        · exact (ht.trans (State.emit_sound ..)).up
        · exact ht
      refine .next (Sound.andThen ?_ (State.mbox_sound ..))
      split
      · exact ((hu.trans (State.updRcv_sound ..)).trans (State.sendRecord_sound ..)).up
      · exact hu

theorem execSpareRemove_sound : ∀ x0 x1 s, SoundOut [.atl, .ldr] s (execSpareRemove x0 x1 s) := by
  intros
  unfold execSpareRemove
  split
  with_reducible refine SoundOut.next ?_
  with_reducible exact Sound.refl _
  split
  with_reducible refine SoundOut.next ?_
  with_reducible refine Sound.andThen ?_ (State.mbox_sound ..)
  with_reducible exact Sound.refl _
  with_reducible refine SoundOut.next ?_
  with_reducible refine Sound.andThen ?_ (State.mbox_sound ..)
  with_reducible refine Sound.andThen ?_ (State.setSpares_sound ..)
  with_reducible exact Sound.refl _

theorem execTrayRelease_sound (ctx : CtxId) (target pod tray : Nat) (dev : DevId) (s : State) :
    SoundOut [.atl, .ldr, .fab, .out] s (execTrayRelease ctx target pod tray dev s) := by
  unfold execTrayRelease
  repeat' split
  all_goals refine .next ?_
  · exact Sound.refl s
  · exact (State.mbox_sound ..).up
  · exact (State.acceptTarget_sound ..).up
  · exact (State.mbox_sound ..).up
  · exact ((State.emit_sound ..).trans (State.mbox_sound ..)).up
  · exact (State.mbox_sound ..).up

theorem execHostSupply_sound (ctx : CtxId) (key : Nat) (content : List Byte) (s : State) :
    SoundOut [.atl, .ctl, .weir, .fab, .out] s (execHostSupply ctx key content s) := by
  unfold execHostSupply
  repeat' split
  all_goals refine .next ?_
  · exact Sound.refl s
  · exact (State.mbox_sound ..).up
  · exact (State.mbox_sound ..).up
  · exact ((((State.updWeir_sound ..).trans (State.repair_sound ..)).trans (State.sendRedo_sound ..)).trans (State.mbox_sound ..)).up

theorem execRepairMapWrite_sound : ∀ x0 x1 x2 s, SoundOut [.atl, .evt, .ctl, .cores] s (execRepairMapWrite x0 x1 x2 s) := by
  intro remove e cyc s
  unfold execRepairMapWrite
  extract_lets same bump
  have hb : ∀ t l, Sound [.atl] t (bump t l) := fun t l => by
    have h := Atluta.writeRepairs_keeps t.atl l
    exact State.updAtl_sound h.1 h.2.1 h.2.2.1 h.2.2.2.1 fun hk => h.2.2.2.2 ▸ hk
  clear_value bump
  split
  · exact SoundOut.next (Sound.refl _)
  · split
    · split
      · refine SoundOut.next ?_
        with_reducible refine Sound.andThen ?_ (State.mbox_sound ..)
        exact (hb _ _).up
      · exact SoundOut.next (State.mbox_sound ..).up
    · split
      · exact SoundOut.next (State.mbox_sound ..).up
      · have ht : ∀ l, Sound [.atl, .evt, .ctl, .cores] s ((bump s l).mbox 0) := fun l => by
          with_reducible refine Sound.andThen ?_ (State.mbox_sound ..)
          exact (hb _ _).up
        dsimp only
        split
        · refine SoundOut.next ?_
          with_reducible refine Sound.andThen ?_ (State.retireDue_sound ..)
          with_reducible refine Sound.andThen ?_ (State.updEngine_sound ..)
          exact ht _
        · exact SoundOut.next (ht _)

theorem execEngineDiag_sound (c : CoreId) (e : EngId) (s : State) : SoundOut [.fresh, .atl, .out] s (execEngineDiag c e s) := by
  unfold execEngineDiag
  repeat' split
  · exact .next (Sound.refl s)
  · exact .next ((State.mbox_sound ..).up)
  · exact .next (((((State.tick_sound s).trans (State.updAtl_sound rfl rfl rfl rfl fun _ => memWrite_wf _ _ rfl)).trans
      (State.emit_sound ..)).trans (State.mbox_sound ..)).up)

theorem execManifestWrite_sound : ∀ x0 s, SoundOut [.atl] s (execManifestWrite x0 s) := by
  intros
  unfold execManifestWrite
  dsimp only
  split
  with_reducible refine SoundOut.next ?_
  with_reducible exact Sound.refl _
  split
  with_reducible refine SoundOut.next ?_
  with_reducible refine Sound.andThen ?_ (State.mbox_sound ..)
  with_reducible exact Sound.refl _
  with_reducible refine SoundOut.next ?_
  with_reducible refine Sound.andThen ?_ (State.mbox_sound ..)
  refine Sound.andThen ?_ (State.updAtl_sound rfl rfl rfl rfl id)
  with_reducible exact Sound.refl _

theorem execRecordSign_sound (step : Nat) (s : State) : SoundOut [.fresh, .atl, .ctl, .weir, .querns, .rows, .fab, .out] s (execRecordSign step s) := by
  have put : ∀ (r : StepRecord) (f : Atluta → Atluta), (∀ a : Atluta, (f a).fwFloor = (a.logPut r.form).fwFloor ∧
      (f a).imageFloor = (a.logPut r.form).imageFloor ∧ (f a).fwFuses = (a.logPut r.form).fwFuses ∧
      (f a).keyBurns = (a.logPut r.form).keyBurns ∧ (f a).mboxBuf = (a.logPut r.form).mboxBuf) → Sound [.fresh, .atl, .ctl, .weir, .querns, .rows, .fab, .out] s (s.tick.updAtl f) := by
    intro r f hf
    obtain ⟨a1, a2, a3, a4, a5⟩ := hf s.tick.atl
    obtain ⟨b1, b2, b3, b4, b5⟩ := Atluta.logPut_keeps s.tick.atl r.form
    exact ((State.tick_sound s).trans (State.updAtl_sound (a1.trans b1) (a2.trans b2) (a3.trans b3) (a4.trans b4)
      fun hk => (a5.trans b5).symm ▸ hk)).up
  unfold execRecordSign
  extract_lets p r body head a b
  have ha : Sound [.fresh, .atl, .ctl, .weir, .querns, .rows, .fab, .out] s a := put r _ fun _ => ⟨rfl, rfl, rfl, rfl, rfl⟩
  clear_value a
  have hb : Sound [.fresh, .atl, .ctl, .weir, .querns, .rows, .fab, .out] s b := by
    show Sound [.fresh, .atl, .ctl, .weir, .querns, .rows, .fab, .out] s (match s.atl.runCtx with | some c => _ | none => a)
    split
    · exact (ha.trans (State.sendSegment_sound ..)).up
    · exact ha
  clear_value b
  repeat' split
  all_goals refine .next ?_
  · exact Sound.refl s
  · exact (State.weirStall_sound ..).up
  · exact Sound.refl s
  · exact (hb.trans (State.updStep_sound ..)).up

theorem execLogSectorErase_sound : ∀ x0 s, SoundOut [.atl, .evt, .ctl] s (execLogSectorErase x0 s) := by
  intros
  unfold execLogSectorErase
  dsimp only
  split
  with_reducible refine SoundOut.next ?_
  with_reducible exact Sound.refl _
  split
  with_reducible refine SoundOut.next ?_
  refine Sound.andThen ?_ (State.updAtl_sound rfl rfl rfl rfl id)
  with_reducible exact Sound.refl _
  with_reducible refine SoundOut.next ?_
  with_reducible refine Sound.andThen ?_ (State.raiseDev_sound ..)
  refine Sound.andThen ?_ (State.updAtl_sound rfl rfl rfl rfl id)
  with_reducible exact Sound.refl _

theorem execGetAudit_sound (first count : Nat) (s : State) : SoundOut [.atl] s (execGetAudit first count s) := by
  unfold execGetAudit
  repeat' split
  · exact .next (Sound.refl s)
  · exact .next ((State.mbox_sound ..).up)
  · exact .next (((State.updAtl_sound rfl rfl rfl rfl fun _ => memWrite_wf _ _ rfl).trans (State.mbox_sound ..)).up)

theorem execSnapshot_sound (ctx : CtxId) (target : Nat) (s : State) : SoundOut [.atl, .ldr, .fab, .out] s (execSnapshot ctx target s) := by
  unfold execSnapshot
  repeat' split
  · exact .next (Sound.refl s)
  · exact .next ((State.mbox_sound ..).up)
  · exact .next ((State.acceptTarget_sound ..).up)

theorem execSnapshotWrite_sound : ∀ s, SoundOut [.fresh, .atl, .ctl, .weir, .fab, .out] s (execSnapshotWrite s) := by
  intros
  unfold execSnapshotWrite
  dsimp only
  split
  split
  with_reducible refine SoundOut.next ?_
  with_reducible exact Sound.refl _
  split
  with_reducible refine SoundOut.next ?_
  with_reducible refine Sound.andThen ?_ (State.weirStall_sound ..)
  with_reducible exact Sound.refl _
  with_reducible refine SoundOut.next ?_
  with_reducible refine Sound.andThen ?_ (State.updCtl_sound ..)
  with_reducible refine Sound.andThen ?_ (State.sendSegment_sound ..)
  with_reducible refine Sound.andThen ?_ (State.sendSegment_sound ..)
  with_reducible refine Sound.andThen ?_ (State.tick_sound ..)
  with_reducible exact Sound.refl _
  with_reducible refine SoundOut.next ?_
  with_reducible exact Sound.refl _

end Sys2Proof.Machine
end

