-- ==== Sys2Proof/Laws/SoundAttest.lean ====
section
/-! SUPPORT. Operations of Machine/Attest.lean are sound. -/

namespace Sys2Proof.Machine

set_option Elab.async false

theorem State.chooseBank_sound (s : State) : Sound [.ldr, .evt, .ctl, .cores] s s.chooseBank := by
  unfold State.chooseBank
  extract_lets l t
  clear_value l
  have ht : Sound [.ldr, .evt, .ctl, .cores] s t := by
    cases l with
    | nil => exact Sound.refl s
    | cons x l =>
      show Sound [.ldr, .evt, .ctl, .cores] s (match loadFault (s.verify4 x.2.image) with | some c => _ | none => s)
      split
      · exact (State.raiseDev_sound ..).up
      · exact Sound.refl s
  split
  · exact (ht.trans (State.applyImage_sound ..)).up
  · exact (ht.trans (State.raiseDev_sound ..)).up

theorem State.bootRom_sound : ∀ s, Sound [.pow, .atl, .ldr, .evt, .ctl, .cores] s (State.bootRom s) := by
  intros
  unfold State.bootRom
  dsimp only
  split
  with_reducible refine Sound.andThen ?_ (State.updPow_sound ..)
  with_reducible exact Sound.refl _
  with_reducible refine Sound.andThen ?_ (State.chooseBank_sound ..)
  refine Sound.andThen ?_ (State.updAtl_sound rfl rfl rfl rfl id)
  with_reducible exact Sound.refl _

theorem State.putSlot_sound (s : State) (k : Atluta → Nat) (f : FwSlot) : Sound [.atl] s (s.updAtl fun a => a.putSlot (k a) f) := by
  refine State.updAtl_sound ?_ ?_ ?_ ?_ (fun hk => ?_) <;> unfold Atluta.putSlot <;> split <;> first | rfl | exact hk

theorem execFwRecovery_sound : ∀ x0 s, SoundOut [.pow, .atl, .ldr, .evt, .ctl, .cores] s (execFwRecovery x0 s) := by
  intros
  unfold execFwRecovery
  split
  · exact SoundOut.next (Sound.refl _)
  · refine SoundOut.next ?_
    with_reducible refine Sound.andThen ?_ (State.bootRom_sound ..)
    exact (State.putSlot_sound _ (fun a => 1 - a.active) _).up

theorem execFirmwareUpdate_sound : ∀ x0 s, SoundOut [.atl] s (execFirmwareUpdate x0 s) := by
  intro slot s
  unfold execFirmwareUpdate
  split
  · exact SoundOut.next (Sound.refl _)
  · extract_lets k t
    have ht : Sound [.atl] s t := State.putSlot_sound s (fun _ => k) slot
    refine SoundOut.next ?_
    split
    · with_reducible refine Sound.andThen ?_ (State.mbox_sound ..)
      exact ht.andThen (State.updAtl_sound rfl rfl rfl rfl id)
    · exact ht.andThen (State.mbox_sound ..)

theorem State.newNonce_sound : ∀ s, Sound [.fresh, .atl] s (State.newNonce s) := by
  intros
  unfold State.newNonce
  refine Sound.andThen ?_ (State.updAtl_sound rfl rfl rfl rfl id)
  with_reducible refine Sound.andThen ?_ (State.tick_sound ..)
  with_reducible exact Sound.refl _

theorem State.signed_sound {f : State → State} (h : ∀ a, Sound [.fresh, .atl] a (f a)) (s : State) (cmd : Nat) (body : List Byte) (sig : Option Sig) :
    Sound [.fresh, .atl] s (s.signed cmd body sig f) := by
  unfold State.signed
  split
  · exact ((h s).trans (State.newNonce_sound ..)).up
  · exact ((State.mbox_sound ..).trans (State.newNonce_sound ..)).up

theorem State.burnTable_sound {s : State} {f : Atluta → Atluta} (h : s.atl.keyBurns < keyBurnMax)
    (h1 : s.atl.fwFloor = (f s.atl).fwFloor) (h2 : s.atl.imageFloor ≤ (f s.atl).imageFloor) (h3 : (f s.atl).fwFuses = s.atl.fwFuses)
    (h5 : (f s.atl).mboxBuf = s.atl.mboxBuf) : Sound [.atl] s (s.burnTable f) := by
  have hm : keyBurnMax ≤ 64 := by decide
  unfold State.burnTable
  with_reducible refine Sound.andThen ?_ (State.mbox_sound ..)
  refine ⟨fun p => by cases p <;> first | exact .inl rfl | exact .inr rfl, rfl, rfl, h1.le, h2, h3.ge, Nat.le_succ _, fun k => h3.le.trans k, fun _ => ?_, id, fun k => ?_, id, id⟩
  · show s.atl.keyBurns + 1 ≤ 64
    omega
  · show Memory.wf (f s.atl).mboxBuf = true
    rw [h5]; exact k

theorem State.addKey_sound (s : State) (key : List Byte) : Sound [.atl] s (s.addKey key) := by
  unfold State.addKey
  split
  · exact (State.mbox_sound ..).up
  · rename_i h
    exact State.burnTable_sound (by simp only [not_or, not_le] at h; exact h.2.2.1) rfl le_rfl rfl rfl

theorem execKeyEnrol_sound : ∀ x0 x1 s, SoundOut [.fresh, .atl] s (execKeyEnrol x0 x1 s) := by
  intros
  unfold execKeyEnrol
  split
  with_reducible refine SoundOut.next ?_
  with_reducible exact Sound.refl _
  split
  with_reducible refine SoundOut.next ?_
  with_reducible refine Sound.andThen ?_ (State.addKey_sound ..)
  with_reducible exact Sound.refl _
  with_reducible refine SoundOut.next ?_
  with_reducible refine Sound.andThen ?_ (State.signed_sound (fun a => ?_) ..)
  with_reducible exact Sound.refl _
  with_reducible refine Sound.andThen ?_ (State.addKey_sound ..)
  with_reducible exact Sound.refl _

theorem execKeyRevoke_sound (k : Nat) (sig : Option Sig) (s : State) : SoundOut [.fresh, .atl] s (execKeyRevoke k sig s) := by
  unfold execKeyRevoke
  split
  · exact .next (Sound.refl s)
  · refine .next (State.signed_sound (fun a => ?_) ..)
    dsimp only
    split
    · exact (State.mbox_sound ..).up
    · rename_i h
      exact (State.burnTable_sound (by simp only [not_or, not_le] at h; exact h.2.2) rfl le_rfl rfl rfl).up

theorem execSvnRaise_sound (svn : Nat) (sig : Option Sig) (s : State) : SoundOut [.fresh, .atl] s (execSvnRaise svn sig s) := by
  unfold execSvnRaise
  split
  · exact .next (Sound.refl s)
  · refine .next (State.signed_sound (fun a => ?_) ..)
    split
    · exact (State.mbox_sound ..).up
    · rename_i h
      simp only [not_or, not_le] at h
      exact (State.burnTable_sound h.2.2 rfl h.1.le rfl rfl).up

theorem execFwSvnCommit_sound (sig : Option Sig) (s : State) : SoundOut [.fresh, .atl] s (execFwSvnCommit sig s) := by
  unfold execFwSvnCommit
  split
  · exact .next (Sound.refl s)
  · refine .next (State.signed_sound (fun a => ?_) ..)
    dsimp only
    split
    · exact (State.mbox_sound ..).up
    · rename_i hf
      split
      · exact (State.mbox_sound ..).up
      · rename_i h
        have hb : Sound [.fresh, .atl] a (a.updAtl fun q => { q with
            fwFloor := ((a.atl.slot a.atl.runSlot).map (·.svn)).getD 0, fwFuses := q.fwFuses + 1 }) :=
          ⟨fun p => by cases p <;> first | exact .inl rfl | exact .inr rfl, rfl, rfl, (not_le.1 hf).le, le_rfl, Nat.le_succ _, le_rfl, fun _ => not_le.1 h, id, id, id, id, id⟩
        exact (hb.trans (State.mbox_sound ..)).up

theorem execExportKey_sound : ∀ x0 x1 x2 s, SoundOut [.fresh, .atl] s (execExportKey x0 x1 x2 s) := by
  intros
  unfold execExportKey
  split
  with_reducible refine SoundOut.next ?_
  with_reducible exact Sound.refl _
  with_reducible refine SoundOut.next ?_
  with_reducible refine Sound.andThen ?_ (State.signed_sound (fun a => ?_) ..)
  with_reducible exact Sound.refl _
  with_reducible refine Sound.andThen ?_ (State.mbox_sound ..)
  with_reducible refine Sound.andThen ?_ (State.updCtx_sound ..)
  with_reducible exact Sound.refl _

theorem State.answer_sound : ∀ s x1 x2, Sound [.fresh, .out] s (State.answer s x1 x2) := by
  intros
  unfold State.answer
  with_reducible refine Sound.andThen ?_ (State.emit_sound ..)
  with_reducible refine Sound.andThen ?_ (State.tick_sound ..)
  with_reducible exact Sound.refl _

theorem State.spdmRefuse_sound : ∀ s, Sound [.fresh, .out] s (State.spdmRefuse s) := by
  intros
  unfold State.spdmRefuse
  with_reducible refine Sound.andThen ?_ (State.answer_sound ..)
  with_reducible exact Sound.refl _

theorem State.afterAlgs_sound {m : List Part} {f : State → State} {s : State} (h : Sound m s (f s))
    (e : partsIn [.fresh, .out] m = true := by decide +kernel) : Sound m s (s.afterAlgs f) := by
  unfold State.afterAlgs
  repeat' split
  · exact Sound.refl s
  · exact h
  · exact (State.spdmRefuse_sound ..).up e

theorem execGetVersion_sound : ∀ s, SoundOut [.fresh, .atl, .out] s (execGetVersion s) := by
  intros
  unfold execGetVersion
  split
  with_reducible refine SoundOut.next ?_
  with_reducible exact Sound.refl _
  with_reducible refine SoundOut.next ?_
  with_reducible refine Sound.andThen ?_ (State.answer_sound ..)
  refine Sound.andThen ?_ (State.updAtl_sound rfl rfl rfl rfl id)
  with_reducible exact Sound.refl _

theorem execGetCapabilities_sound : ∀ s, SoundOut [.fresh, .atl, .out] s (execGetCapabilities s) := by
  intros
  unfold execGetCapabilities
  split
  with_reducible refine SoundOut.next ?_
  with_reducible exact Sound.refl _
  split
  with_reducible refine SoundOut.next ?_
  with_reducible refine Sound.andThen ?_ (State.answer_sound ..)
  refine Sound.andThen ?_ (State.updAtl_sound rfl rfl rfl rfl id)
  with_reducible exact Sound.refl _
  with_reducible refine SoundOut.next ?_
  with_reducible refine Sound.andThen ?_ (State.answer_sound ..)
  with_reducible exact Sound.refl _

theorem execNegotiateAlgorithms_sound : ∀ s, SoundOut [.fresh, .atl, .out] s (execNegotiateAlgorithms s) := by
  intros
  unfold execNegotiateAlgorithms
  split
  with_reducible refine SoundOut.next ?_
  with_reducible exact Sound.refl _
  split
  with_reducible refine SoundOut.next ?_
  with_reducible refine Sound.andThen ?_ (State.answer_sound ..)
  refine Sound.andThen ?_ (State.updAtl_sound rfl rfl rfl rfl id)
  with_reducible exact Sound.refl _
  with_reducible refine SoundOut.next ?_
  with_reducible refine Sound.andThen ?_ (State.answer_sound ..)
  with_reducible exact Sound.refl _

theorem execGetDigests_sound : ∀ s, SoundOut [.fresh, .out] s (execGetDigests s) := by
  intros
  unfold execGetDigests
  with_reducible refine SoundOut.next ?_
  with_reducible refine State.afterAlgs_sound ?_
  with_reducible refine Sound.andThen ?_ (State.answer_sound ..)
  with_reducible exact Sound.refl _

theorem execGetCertificate_sound : ∀ x0 x1 x2 s, SoundOut [.fresh, .out] s (execGetCertificate x0 x1 x2 s) := by
  intros
  unfold execGetCertificate
  with_reducible refine SoundOut.next ?_
  with_reducible refine State.afterAlgs_sound ?_
  split
  with_reducible refine Sound.andThen ?_ (State.spdmRefuse_sound ..)
  with_reducible exact Sound.refl _
  with_reducible refine Sound.andThen ?_ (State.answer_sound ..)
  with_reducible exact Sound.refl _

theorem execChallenge_sound : ∀ x0 x1 s, SoundOut [.fresh, .out] s (execChallenge x0 x1 s) := by
  intros
  unfold execChallenge
  with_reducible refine SoundOut.next ?_
  with_reducible refine State.afterAlgs_sound ?_
  split
  with_reducible refine Sound.andThen ?_ (State.spdmRefuse_sound ..)
  with_reducible exact Sound.refl _
  with_reducible refine Sound.andThen ?_ (State.answer_sound ..)
  with_reducible exact Sound.refl _

theorem execGetMeasurements_sound : ∀ x0 x1 s, SoundOut [.fresh, .out] s (execGetMeasurements x0 x1 s) := by
  intros
  unfold execGetMeasurements
  with_reducible refine SoundOut.next ?_
  with_reducible refine State.afterAlgs_sound ?_
  dsimp only
  split
  with_reducible refine Sound.andThen ?_ (State.spdmRefuse_sound ..)
  with_reducible exact Sound.refl _
  split
  with_reducible refine Sound.andThen ?_ (State.emit_sound ..)
  with_reducible exact Sound.refl _
  split
  with_reducible refine Sound.andThen ?_ (State.emit_sound ..)
  with_reducible exact Sound.refl _
  split
  with_reducible refine Sound.andThen ?_ (State.emit_sound ..)
  with_reducible exact Sound.refl _
  with_reducible refine Sound.andThen ?_ (State.spdmRefuse_sound ..)
  with_reducible exact Sound.refl _

theorem execKeyExchange_sound : ∀ x0 x1 s, SoundOut [.fresh, .atl, .out] s (execKeyExchange x0 x1 s) := by
  intros
  unfold execKeyExchange
  with_reducible refine SoundOut.next ?_
  with_reducible refine State.afterAlgs_sound ?_
  dsimp only
  split
  with_reducible refine Sound.andThen ?_ (State.spdmRefuse_sound ..)
  with_reducible exact Sound.refl _
  with_reducible refine Sound.andThen ?_ (State.answer_sound ..)
  refine Sound.andThen ?_ (State.updAtl_sound rfl rfl rfl rfl id)
  with_reducible exact Sound.refl _

theorem execFinish_sound : ∀ x0 x1 s, SoundOut [.fresh, .atl, .out] s (execFinish x0 x1 s) := by
  intros
  unfold execFinish
  with_reducible refine SoundOut.next ?_
  with_reducible refine State.afterAlgs_sound ?_
  split
  with_reducible refine Sound.andThen ?_ (State.spdmRefuse_sound ..)
  with_reducible exact Sound.refl _
  split
  with_reducible refine Sound.andThen ?_ (State.spdmRefuse_sound ..)
  with_reducible exact Sound.refl _
  with_reducible refine Sound.andThen ?_ (State.answer_sound ..)
  refine Sound.andThen ?_ (State.updAtl_sound rfl rfl rfl rfl id)
  with_reducible exact Sound.refl _

theorem State.inSession_sound {m : List Part} {s : State} {f : Session → State} (h : ∀ x, Sound m s (f x)) (sess : Nat)
    (e : partsIn [.fresh, .out] m = true := by decide +kernel) : Sound m s (s.inSession sess f) := by
  refine State.afterAlgs_sound ?_ e
  repeat' split
  · exact h _
  · exact (State.spdmRefuse_sound ..).up e
  · exact (State.spdmRefuse_sound ..).up e

theorem execEndSession_sound : ∀ x0 s, SoundOut [.fresh, .atl, .out] s (execEndSession x0 s) := by
  intros
  unfold execEndSession
  with_reducible refine SoundOut.next ?_
  with_reducible refine State.inSession_sound (fun x => ?_) ..
  with_reducible refine Sound.andThen ?_ (State.answer_sound ..)
  refine Sound.andThen ?_ (State.updAtl_sound rfl rfl rfl rfl id)
  with_reducible exact Sound.refl _

theorem execSpdmHeartbeat_sound : ∀ x0 s, SoundOut [.fresh, .atl, .out] s (execSpdmHeartbeat x0 s) := by
  intros
  unfold execSpdmHeartbeat
  with_reducible refine SoundOut.next ?_
  with_reducible refine State.inSession_sound (fun x => ?_) ..
  with_reducible refine Sound.andThen ?_ (State.answer_sound ..)
  refine Sound.andThen ?_ (State.updAtl_sound rfl rfl rfl rfl id)
  with_reducible exact Sound.refl _

theorem execKeyUpdate_sound : ∀ x0 s, SoundOut [.fresh, .atl, .out] s (execKeyUpdate x0 s) := by
  intros
  unfold execKeyUpdate
  with_reducible refine SoundOut.next ?_
  with_reducible refine State.inSession_sound (fun x => ?_) ..
  with_reducible refine Sound.andThen ?_ (State.answer_sound ..)
  refine Sound.andThen ?_ (State.updAtl_sound rfl rfl rfl rfl id)
  with_reducible exact Sound.refl _

end Sys2Proof.Machine
end

