-- ==== Sys2Proof/Laws/SoundPower.lean ====
section
/-! SUPPORT. Operations of Machine/Power.lean are sound. -/

namespace Sys2Proof.Machine

set_option Elab.async false

theorem State.domReady_sound : ∀ s x1 x2, Sound [.pow] s (State.domReady s x1 x2) := by
  intros
  unfold State.domReady
  dsimp only
  split
  with_reducible refine Sound.andThen ?_ (State.updPow_sound ..)
  with_reducible refine Sound.andThen ?_ (State.updPow_sound ..)
  with_reducible exact Sound.refl _
  split
  with_reducible refine Sound.andThen ?_ (State.updPow_sound ..)
  with_reducible refine Sound.andThen ?_ (State.updPow_sound ..)
  with_reducible exact Sound.refl _
  with_reducible refine Sound.andThen ?_ (State.updPow_sound ..)
  with_reducible exact Sound.refl _

theorem State.settle_sound : ∀ s x1, Sound [.pow] s (State.settle s x1) := by
  intros
  unfold State.settle
  split
  with_reducible exact Sound.refl _
  split
  with_reducible exact Sound.refl _
  with_reducible refine Sound.andFold ?_ (fun a x => ?_)
  with_reducible exact Sound.refl _
  with_reducible refine Sound.andThen ?_ (State.domReady_sound ..)
  with_reducible exact Sound.refl _

theorem execDomainSwitchOn_sound : ∀ x0 s, SoundOut [.now, .pow] s (execDomainSwitchOn x0 s) := by
  intros
  unfold execDomainSwitchOn
  dsimp only
  split
  split
  split
  with_reducible refine SoundOut.next ?_
  with_reducible refine Sound.andThen ?_ (State.settle_sound ..)
  with_reducible refine Sound.andThen ?_ (State.at'_sound ..)
  with_reducible exact Sound.refl _
  with_reducible refine SoundOut.next ?_
  with_reducible refine Sound.andThen ?_ (State.updPow_sound ..)
  with_reducible refine Sound.andThen ?_ (State.settle_sound ..)
  with_reducible refine Sound.andThen ?_ (State.at'_sound ..)
  with_reducible exact Sound.refl _
  split
  with_reducible refine SoundOut.next ?_
  with_reducible refine Sound.andThen ?_ (State.settle_sound ..)
  with_reducible refine Sound.andThen ?_ (State.at'_sound ..)
  with_reducible exact Sound.refl _
  with_reducible refine SoundOut.next ?_
  with_reducible refine Sound.andThen ?_ (State.updPow_sound ..)
  with_reducible refine Sound.andThen ?_ (State.settle_sound ..)
  with_reducible refine Sound.andThen ?_ (State.at'_sound ..)
  with_reducible exact Sound.refl _
  with_reducible refine SoundOut.next ?_
  with_reducible refine Sound.andThen ?_ (State.settle_sound ..)
  with_reducible refine Sound.andThen ?_ (State.at'_sound ..)
  with_reducible exact Sound.refl _

theorem State.loseWork_sound (s : State) : Sound [.ctl, .weir, .querns, .rows, .repl, .units, .cores, .arbs, .tier, .fab, .rcv] s s.loseWork :=
  ⟨fun p => by cases p <;> first | exact .inl rfl | exact .inr rfl,
    rfl, rfl, le_rfl, le_rfl, le_rfl, le_rfl, id, id, fun hk => wf_filter _ hk, id, id, fun _ => rfl⟩

theorem State.switchAllOff_sound : ∀ s, Sound [.pow, .ctl, .weir, .querns, .rows, .repl, .units, .cores, .arbs, .tier, .fab, .rcv] s (State.switchAllOff s) := by
  intros
  unfold State.switchAllOff
  with_reducible refine Sound.andThen ?_ (State.updPow_sound ..)
  with_reducible refine Sound.andThen ?_ (State.loseWork_sound ..)
  with_reducible exact Sound.refl _

theorem State.resetEvent_sound (s : State) : Sound [.pow, .atl, .ldr, .evt, .ctl, .weir, .querns, .rows, .repl, .units, .cores, .arbs, .tier, .fab, .rcv] s s.resetEvent := by
  unfold State.resetEvent
  exact (((((State.switchAllOff_sound s).trans (State.updPow_sound ..)).trans (State.updAtl_sound rfl rfl rfl rfl id)).trans
    (State.updLdr_sound fun hk => hk)).trans (State.updEvt_sound ..)).up

theorem State.applyRepair_sound : ∀ s x1, Sound [.evt, .ctl, .cores] s (State.applyRepair s x1) := by
  intros
  unfold State.applyRepair
  dsimp only
  split
  with_reducible refine Sound.andThen ?_ (State.updEngine_sound ..)
  with_reducible exact Sound.refl _
  split
  with_reducible exact Sound.refl _
  split
  with_reducible refine Sound.andThen ?_ (State.raiseDev_sound ..)
  with_reducible refine Sound.andThen ?_ (State.updEngine_sound ..)
  with_reducible exact Sound.refl _
  with_reducible refine Sound.andThen ?_ (State.updEngine_sound ..)
  with_reducible exact Sound.refl _
  split
  with_reducible exact Sound.refl _
  split
  with_reducible refine Sound.andThen ?_ (State.raiseDev_sound ..)
  with_reducible refine Sound.andThen ?_ (State.updEngine_sound ..)
  with_reducible exact Sound.refl _
  with_reducible refine Sound.andThen ?_ (State.updEngine_sound ..)
  with_reducible exact Sound.refl _
  with_reducible refine Sound.andThen ?_ (State.raiseDev_sound ..)
  with_reducible refine Sound.andThen ?_ (State.updEngine_sound ..)
  with_reducible exact Sound.refl _

theorem State.buildRepairs_sound : ∀ s, Sound [.atl, .evt, .ctl, .cores] s (State.buildRepairs s) := by
  intro s
  unfold State.buildRepairs
  extract_lets t m
  have ht : Sound [.atl, .evt, .ctl, .cores] s t := by
    dsimp only [t]
    exact Sound.foldl (fun u c => Sound.foldl (fun v e => (State.updEngine_sound ..).up) _ _) _ _
  refine Sound.andFold ?_ (fun a x => (State.applyRepair_sound ..).up)
  exact ht.andThen (State.updAtl_sound rfl rfl rfl rfl id)

theorem State.reapply_sound : ∀ s, Sound [.ldr, .evt, .ctl, .cores] s (State.reapply s) := by
  intro s
  unfold State.reapply
  extract_lets b
  clear_value b
  cases b with
  | none => exact Sound.refl _
  | some x =>
    dsimp only
    have h : Sound [.ldr, .evt, .ctl, .cores] s (s.applyImage x.image s.ldr.fromBank) := (State.applyImage_sound ..).up
    generalize s.applyImage x.image s.ldr.fromBank = t at h ⊢
    split
    · have k := h.andThen (State.backInService_sound t)
      generalize t.backInService = u at k ⊢
      with_reducible refine Sound.andThen ?_ (State.raiseDev_sound ..)
      exact k.andThen (State.updLdr_sound fun hk => hk)
    · exact h

theorem State.enterPhase1_sound (s : State) : Sound [.pow, .atl, .ldr, .evt, .ctl, .cores] s s.enterPhase1 := by
  have h : Sound [.pow, .ldr, .evt, .ctl, .cores] s { s with cores := [] } :=
    ⟨fun p => by cases p <;> first | exact .inl rfl | exact .inr rfl, rfl, rfl, le_rfl, le_rfl, le_rfl, le_rfl, id, id, id, id, id, fun _ => rfl⟩
  exact (((h.trans (State.buildRepairs_sound _)).trans (State.reapply_sound _)).trans (State.updPow_sound ..)).up

theorem State.setDividers_sound (s : State) : Sound [.cores] s s.setDividers := by
  unfold State.setDividers
  generalize List.finRange 32 = l
  refine Sound.foldl (fun a c => ?_) l s
  refine (State.updCore_sound (fun k hk => ?_) a c).up
  exact hk

theorem execDividerChange_sound : ∀ x0 x1 s, SoundOut [.cores] s (execDividerChange x0 x1 s) := by
  intros
  unfold execDividerChange
  dsimp only
  split
  with_reducible refine SoundOut.next ?_
  with_reducible exact Sound.refl _
  with_reducible refine SoundOut.next ?_
  with_reducible refine Sound.andThen ?_ (State.updCore_sound (fun k hk => ?_) _ _)
  with_reducible exact Sound.refl _
  exact hk

theorem execVauxOn_sound : ∀ s, SoundOut [.pow] s (execVauxOn s) := by
  intros
  unfold execVauxOn
  split
  with_reducible refine SoundOut.next ?_
  with_reducible exact Sound.refl _
  with_reducible refine SoundOut.next ?_
  with_reducible refine Sound.andThen ?_ (State.updPow_sound ..)
  with_reducible exact Sound.refl _

theorem execVauxLoss_sound (s : State) : SoundOut [.pow, .atl, .ldr, .evt, .ctl, .weir, .querns, .rows, .repl, .units, .cores, .arbs, .tier, .fab, .rcv] s (execVauxLoss s) := by
  unfold execVauxLoss
  extract_lets t
  have h : Sound [.pow, .atl, .ldr, .evt, .ctl, .weir, .querns, .rows, .repl, .units, .cores, .arbs, .tier, .fab, .rcv] s t := (State.switchAllOff_sound s).up
  exact .next (h.both ⟨fun p => by cases p <;> first | exact .inl rfl | exact .inr rfl, rfl, rfl, le_rfl, le_rfl, le_rfl, le_rfl,
    id, id, id, fun _ => rfl, fun _ => rfl, id⟩)

theorem State.restart_sound (s : State) : Sound [.pow, .atl, .ldr, .evt, .ctl, .cores] s s.restart := by
  unfold State.restart
  dsimp only
  repeat' split
  · exact Sound.refl s
  · exact ((State.updPow_sound ..).trans (State.enterPhase1_sound _)).up
  · exact (State.updPow_sound ..).up

theorem execPwrGoodRise_sound : ∀ x0 x1 s, SoundOut [.now, .pow, .atl, .ldr, .evt, .ctl, .cores] s (execPwrGoodRise x0 x1 s) := by
  intros
  unfold execPwrGoodRise
  dsimp only
  split
  with_reducible refine SoundOut.next ?_
  with_reducible exact Sound.refl _
  split
  with_reducible refine SoundOut.next ?_
  with_reducible refine Sound.andThen ?_ (State.restart_sound ..)
  with_reducible refine Sound.andThen ?_ (State.updEvt_sound ..)
  with_reducible refine Sound.andThen ?_ (State.updPow_sound ..)
  with_reducible exact Sound.refl _
  with_reducible refine SoundOut.next ?_
  split
  with_reducible refine Sound.andThen ?_ (State.updPow_sound ..)
  with_reducible refine Sound.lit ?_
  with_reducible refine Sound.andThen ?_ (State.updEvt_sound ..)
  with_reducible refine Sound.andThen ?_ (State.updPow_sound ..)
  with_reducible exact Sound.refl _
  with_reducible refine Sound.andThen ?_ (State.bootRom_sound ..)
  with_reducible refine Sound.andThen ?_ (State.updPow_sound ..)
  with_reducible refine Sound.lit ?_
  with_reducible refine Sound.andThen ?_ (State.updEvt_sound ..)
  with_reducible refine Sound.andThen ?_ (State.updPow_sound ..)
  with_reducible exact Sound.refl _

theorem execPwrGoodFall_sound : ∀ x0 s, SoundOut [.pow, .atl, .ldr, .evt, .ctl, .weir, .querns, .rows, .repl, .units, .cores, .arbs, .tier, .fab, .rcv] s (execPwrGoodFall x0 s) := by
  intros
  unfold execPwrGoodFall
  split
  with_reducible refine SoundOut.next ?_
  with_reducible exact Sound.refl _
  with_reducible refine SoundOut.next ?_
  with_reducible refine Sound.andThen ?_ (State.updPow_sound ..)
  with_reducible refine Sound.andThen ?_ (State.resetEvent_sound ..)
  with_reducible exact Sound.refl _

theorem execSysRstNAssert_sound : ∀ x0 s, SoundOut [.pow, .atl, .ldr, .evt, .ctl, .weir, .querns, .rows, .repl, .units, .cores, .arbs, .tier, .fab, .rcv] s (execSysRstNAssert x0 s) := by
  intros
  unfold execSysRstNAssert
  split
  with_reducible refine SoundOut.next ?_
  extract_lets
  with_reducible exact Sound.refl _
  split
  with_reducible refine SoundOut.next ?_
  extract_lets
  with_reducible refine Sound.andThen ?_ (State.updPow_sound ..)
  extract_lets
  with_reducible refine Sound.andThen ?_ (State.resetEvent_sound ..)
  extract_lets
  with_reducible exact Sound.refl _
  with_reducible refine SoundOut.next ?_
  extract_lets
  with_reducible refine Sound.andThen ?_ (State.updPow_sound ..)
  extract_lets
  with_reducible exact Sound.refl _

theorem execSysRstNRelease_sound : ∀ x0 s, SoundOut [.pow, .atl, .ldr, .evt, .ctl, .cores] s (execSysRstNRelease x0 s) := by
  intros
  unfold execSysRstNRelease
  split
  with_reducible refine SoundOut.next ?_
  with_reducible exact Sound.refl _
  with_reducible refine SoundOut.next ?_
  with_reducible refine Sound.andThen ?_ (State.restart_sound ..)
  with_reducible refine Sound.andThen ?_ (State.updPow_sound ..)
  with_reducible exact Sound.refl _

theorem execPerstRelease_sound : ∀ s, SoundOut [.pow] s (execPerstRelease s) := by
  intros
  unfold execPerstRelease
  with_reducible refine SoundOut.next ?_
  with_reducible refine Sound.andThen ?_ (State.updPow_sound ..)
  with_reducible exact Sound.refl _

theorem execPerstAssert_sound : ∀ s, SoundOut [.pow, .evt] s (execPerstAssert s) := by
  intros
  unfold execPerstAssert
  with_reducible refine SoundOut.next ?_
  with_reducible refine Sound.andThen ?_ (State.updEvt_sound ..)
  with_reducible refine Sound.andThen ?_ (State.updPow_sound ..)
  with_reducible exact Sound.refl _

theorem execCxPerstRelease_sound : ∀ x0 s, SoundOut [.now, .pow, .tier] s (execCxPerstRelease x0 s) := by
  intros
  unfold execCxPerstRelease
  dsimp only
  split
  split
  with_reducible refine SoundOut.next ?_
  with_reducible refine Sound.andThen ?_ (State.updCxl_sound ..)
  with_reducible refine Sound.andThen ?_ (State.updCxl_sound ..)
  with_reducible refine Sound.andThen ?_ (State.settle_sound ..)
  with_reducible refine Sound.andThen ?_ (State.at'_sound ..)
  with_reducible exact Sound.refl _
  with_reducible refine SoundOut.next ?_
  with_reducible refine Sound.andThen ?_ (State.settle_sound ..)
  with_reducible refine Sound.andThen ?_ (State.at'_sound ..)
  with_reducible exact Sound.refl _
  with_reducible refine SoundOut.next ?_
  with_reducible refine Sound.andThen ?_ (State.settle_sound ..)
  with_reducible refine Sound.andThen ?_ (State.at'_sound ..)
  with_reducible exact Sound.refl _

theorem execPllLock_sound : ∀ s, SoundOut [.pow] s (execPllLock s) := by
  intros
  unfold execPllLock
  split
  with_reducible refine SoundOut.next ?_
  with_reducible refine Sound.andThen ?_ (State.updPow_sound ..)
  with_reducible exact Sound.refl _
  with_reducible refine SoundOut.next ?_
  with_reducible exact Sound.refl _

theorem execPllUnlock_sound : ∀ s, SoundOut [.pow, .evt, .ctl, .weir, .querns, .rows, .repl, .units, .cores, .arbs, .tier, .fab, .rcv] s (execPllUnlock s) := by
  intros
  unfold execPllUnlock
  dsimp only
  split
  with_reducible refine SoundOut.next ?_
  with_reducible exact Sound.refl _
  with_reducible refine SoundOut.next ?_
  with_reducible refine Sound.andThen ?_ (State.raiseDev_sound ..)
  with_reducible refine Sound.andThen ?_ (State.updPow_sound ..)
  with_reducible refine Sound.andThen ?_ (State.loseWork_sound ..)
  with_reducible exact Sound.refl _

theorem execAlwaysOnPllUnlock_sound : ∀ s, SoundOut [.pow, .atl] s (execAlwaysOnPllUnlock s) := by
  intros
  unfold execAlwaysOnPllUnlock
  split
  with_reducible refine SoundOut.next ?_
  with_reducible exact Sound.refl _
  with_reducible refine SoundOut.next ?_
  refine Sound.andThen ?_ (State.updAtl_sound rfl rfl rfl rfl id)
  with_reducible refine Sound.andThen ?_ (State.updPow_sound ..)
  with_reducible exact Sound.refl _

theorem execDomainWake_sound : ∀ x0 s, SoundOut [.pow, .cores] s (execDomainWake x0 s) := by
  intro d s
  unfold execDomainWake
  split
  · exact SoundOut.next (Sound.refl _)
  · extract_lets t
    have ht : Sound [.pow, .cores] s t := (State.domReady_sound ..).up
    split
    · extract_lets k n u
      have hu : Sound [.pow, .cores] s u := by
        dsimp only [u]
        split
        · with_reducible refine Sound.andThen ?_ (State.updEngine_sound ..)
          exact ht.andThen (State.updEngine_sound ..)
        · exact ht
      split
      · refine SoundOut.next ?_
        with_reducible refine Sound.andThen hu (State.updCore_sound (fun k hk => ?_) _ _)
        exact hk
      · exact SoundOut.next hu
    · exact SoundOut.next ht

theorem execDomainSwitchOff_sound : ∀ x0 s, SoundOut [.pow, .cores, .tier] s (execDomainSwitchOff x0 s) := by
  intros
  unfold execDomainSwitchOff
  dsimp only
  split
  with_reducible refine SoundOut.next ?_
  with_reducible exact Sound.refl _
  split
  split
  with_reducible refine SoundOut.next ?_
  with_reducible refine Sound.andThen ?_ (State.updCore_sound (fun k hk => ?_) _ _)
  with_reducible refine Sound.andThen ?_ (State.updPow_sound ..)
  with_reducible exact Sound.refl _
  simpa using hk
  with_reducible refine SoundOut.next ?_
  with_reducible refine Sound.andThen ?_ (State.updCore_sound (fun k hk => ?_) _ _)
  with_reducible refine Sound.andThen ?_ (State.updCore_sound (fun k hk => ?_) _ _)
  with_reducible refine Sound.andThen ?_ (State.updPow_sound ..)
  with_reducible exact Sound.refl _
  exact hk
  exact hk
  split
  with_reducible refine SoundOut.next ?_
  with_reducible refine Sound.andThen ?_ (State.updCxl_sound ..)
  with_reducible refine Sound.andThen ?_ (State.updCxl_sound ..)
  with_reducible refine Sound.andThen ?_ (State.updPow_sound ..)
  with_reducible refine Sound.andThen ?_ (State.updPow_sound ..)
  with_reducible exact Sound.refl _
  with_reducible refine SoundOut.next ?_
  with_reducible refine Sound.andThen ?_ (State.updPow_sound ..)
  with_reducible exact Sound.refl _

theorem State.toFullRate_sound : ∀ s, Sound [.fab] s (State.toFullRate s) := by
  intros
  unfold State.toFullRate
  refine Sound.foldl (fun t p => ?_) _ _
  split
  · exact State.updPort_sound ..
  · exact Sound.refl _

theorem State.sendGraph_sound : ∀ s, Sound [.out] s (State.sendGraph s) := by
  intros
  unfold State.sendGraph
  dsimp only
  split
  with_reducible refine Sound.andThen ?_ (State.emit_sound ..)
  with_reducible exact Sound.refl _
  with_reducible exact Sound.refl _

theorem execBringupPhaseEnd_sound : ∀ x0 s, SoundOut [.now, .pow, .atl, .ldr, .evt, .ctl, .cores, .fab, .out] s (execBringupPhaseEnd x0 s) := by
  intro at' s
  unfold execBringupPhaseEnd
  extract_lets t
  have h : Sound [.now, .pow, .atl, .ldr, .evt, .ctl, .cores, .fab, .out] s t := by
    dsimp only [t]
    with_reducible refine Sound.andThen ?_ (State.settle_sound ..)
    exact (State.at'_sound ..).up
  split
  · exact SoundOut.next h
  · split
    · exact SoundOut.next (h.andThen (State.enterPhase1_sound ..))
    · exact SoundOut.next (h.andThen (State.updPow_sound ..))
    · exact SoundOut.next (h.andThen (State.updPow_sound ..))
    · refine SoundOut.next ?_
      with_reducible refine Sound.andThen ?_ (State.sendGraph_sound ..)
      with_reducible refine Sound.andThen ?_ (State.toFullRate_sound ..)
      with_reducible refine Sound.andThen ?_ (State.setDividers_sound ..)
      exact h.andThen (State.updPow_sound ..)
    · refine SoundOut.next ?_
      with_reducible refine Sound.andThen ?_ (State.setDividers_sound ..)
      exact h.andThen (State.updPow_sound ..)

theorem execBringupSlow_sound : ∀ x0 s, SoundOut [.now, .pow, .evt, .ctl] s (execBringupSlow x0 s) := by
  intros
  unfold execBringupSlow
  dsimp only
  split
  with_reducible refine SoundOut.next ?_
  with_reducible refine Sound.andThen ?_ (State.at'_sound ..)
  with_reducible exact Sound.refl _
  with_reducible refine SoundOut.next ?_
  with_reducible refine Sound.andThen ?_ (State.raiseDev_sound ..)
  with_reducible refine Sound.andThen ?_ (State.updPow_sound ..)
  with_reducible refine Sound.andThen ?_ (State.at'_sound ..)
  with_reducible exact Sound.refl _

theorem execHbmTrain_sound : ∀ x0 x1 s, SoundOut [.pow, .evt, .ctl, .tier] s (execHbmTrain x0 x1 s) := by
  intros
  unfold execHbmTrain
  dsimp only
  split
  with_reducible refine SoundOut.next ?_
  with_reducible exact Sound.refl _
  split
  with_reducible refine SoundOut.next ?_
  with_reducible refine Sound.andThen ?_ (State.updTier_sound fun hk => ?_)
  with_reducible refine Sound.andThen ?_ (State.updPow_sound ..)
  with_reducible exact Sound.refl _
  exact hk
  split
  with_reducible refine SoundOut.next ?_
  with_reducible refine Sound.andThen ?_ (State.raiseDev_sound ..)
  with_reducible refine Sound.andThen ?_ (State.updPow_sound ..)
  with_reducible refine Sound.andThen ?_ (State.updPow_sound ..)
  with_reducible exact Sound.refl _
  with_reducible refine SoundOut.next ?_
  with_reducible refine Sound.andThen ?_ (State.updPow_sound ..)
  with_reducible exact Sound.refl _

theorem execStayReduced_sound : ∀ x0 s, SoundOut [.pow] s (execStayReduced x0 s) := by
  intros
  unfold execStayReduced
  with_reducible refine SoundOut.next ?_
  with_reducible refine Sound.andThen ?_ (State.updPow_sound ..)
  with_reducible exact Sound.refl _

theorem execFantailSample_sound : ∀ x0 x1 s, SoundOut [.pow] s (execFantailSample x0 x1 s) := by
  intros
  unfold execFantailSample
  split
  with_reducible refine SoundOut.next ?_
  with_reducible exact Sound.refl _
  with_reducible refine SoundOut.next ?_
  with_reducible refine Sound.andThen ?_ (State.updPow_sound ..)
  with_reducible exact Sound.refl _

theorem State.raiseUnmet_sound : ∀ s x1, Sound [.evt, .ctl] s (State.raiseUnmet s x1) := by
  intros
  unfold State.raiseUnmet
  split
  with_reducible refine Sound.andThen ?_ (State.raiseDev_sound ..)
  with_reducible exact Sound.refl _
  with_reducible exact Sound.refl _

theorem State.evalLevels_sound : ∀ s x1, Sound [.pow] s (State.evalLevels s x1) := by
  intros
  unfold State.evalLevels
  with_reducible refine Sound.andThen ?_ (State.updPow_sound ..)
  with_reducible exact Sound.refl _

theorem State.evalUnmet_sound : ∀ s x1, Sound [.pow, .evt, .ctl] s (State.evalUnmet s x1) := by
  intros
  unfold State.evalUnmet
  with_reducible refine Sound.andThen ?_ (State.raiseUnmet_sound ..)
  with_reducible refine Sound.andThen ?_ (State.raiseUnmet_sound ..)
  with_reducible refine Sound.andThen ?_ (State.raiseUnmet_sound ..)
  with_reducible refine Sound.andThen ?_ (State.raiseUnmet_sound ..)
  with_reducible refine Sound.andThen ?_ (State.raiseUnmet_sound ..)
  with_reducible refine Sound.andThen ?_ (State.raiseUnmet_sound ..)
  with_reducible refine Sound.andThen ?_ (State.raiseUnmet_sound ..)
  with_reducible refine Sound.andThen ?_ (State.raiseUnmet_sound ..)
  with_reducible refine Sound.andThen ?_ (State.raiseUnmet_sound ..)
  with_reducible refine Sound.andThen ?_ (State.raiseUnmet_sound ..)
  with_reducible refine Sound.andThen ?_ (State.raiseUnmet_sound ..)
  with_reducible refine Sound.andThen ?_ (State.updPow_sound ..)
  with_reducible exact Sound.refl _

theorem execFantailEvaluate_sound : ∀ x0 s, SoundOut [.now, .pow, .evt, .ctl] s (execFantailEvaluate x0 s) := by
  intros
  unfold execFantailEvaluate
  dsimp only
  split
  with_reducible refine SoundOut.next ?_
  with_reducible refine Sound.andThen ?_ (State.at'_sound ..)
  with_reducible exact Sound.refl _
  with_reducible refine SoundOut.next ?_
  with_reducible refine Sound.andThen ?_ (State.updPow_sound ..)
  with_reducible refine Sound.andThen ?_ (State.evalUnmet_sound ..)
  split
  with_reducible refine Sound.andThen ?_ (State.evalLevels_sound ..)
  with_reducible refine Sound.andThen ?_ (State.at'_sound ..)
  with_reducible exact Sound.refl _
  with_reducible refine Sound.andThen ?_ (State.updPow_sound ..)
  with_reducible refine Sound.andThen ?_ (State.at'_sound ..)
  with_reducible exact Sound.refl _

theorem execHoldNLow_sound : ∀ s, SoundOut [.pow] s (execHoldNLow s) := by
  intros
  unfold execHoldNLow
  with_reducible refine SoundOut.next ?_
  with_reducible refine Sound.andThen ?_ (State.updPow_sound ..)
  with_reducible exact Sound.refl _

theorem execHoldNHigh_sound : ∀ s, SoundOut [.pow] s (execHoldNHigh s) := by
  intros
  unfold execHoldNHigh
  with_reducible refine SoundOut.next ?_
  with_reducible refine Sound.andThen ?_ (State.updPow_sound ..)
  with_reducible exact Sound.refl _

theorem execDroopDetect_sound : ∀ x0 x1 s, SoundOut [.pow] s (execDroopDetect x0 x1 s) := by
  intros
  unfold execDroopDetect
  split
  with_reducible refine SoundOut.next ?_
  with_reducible exact Sound.refl _
  with_reducible refine SoundOut.next ?_
  with_reducible refine Sound.andThen ?_ (State.updPow_sound ..)
  with_reducible exact Sound.refl _

theorem execDroopEnd_sound : ∀ x0 x1 s, SoundOut [.pow] s (execDroopEnd x0 x1 s) := by
  intros
  unfold execDroopEnd
  split
  with_reducible refine SoundOut.next ?_
  with_reducible exact Sound.refl _
  split
  with_reducible refine SoundOut.next ?_
  with_reducible exact Sound.refl _
  with_reducible refine SoundOut.next ?_
  with_reducible refine Sound.andThen ?_ (State.updPow_sound ..)
  with_reducible exact Sound.refl _

theorem execThermalTrip_sound (s : State) : SoundOut [.pow, .evt, .ctl, .cores] s (execThermalTrip s) := by
  unfold execThermalTrip
  generalize List.finRange 32 = l
  extract_lets over' ask t
  split
  · exact .next (Sound.refl s)
  · have h : Sound [.pow, .evt, .ctl, .cores] s t := by
      refine Sound.foldl (fun a c => ?_) l s
      refine (State.updCore_sound (fun k hk => ?_) a c).up
      exact hk
    exact .next (((h.trans (State.updPow_sound ..)).trans (State.raiseDev_sound ..)).up)

theorem execTripPowerOff_sound (cycles : Nat) (s : State) : SoundOut [.pow, .ctl, .weir, .querns, .rows, .repl, .units, .cores, .arbs, .tier, .fab, .rcv] s (execTripPowerOff cycles s) := by
  unfold execTripPowerOff
  extract_lets quiet
  split
  · exact .next (Sound.refl s)
  · exact .next (((State.switchAllOff_sound s).trans (State.updPow_sound ..)).up)

theorem State.tap_sound : ∀ s x1 x2, Sound [.pow, .out] s (State.tap s x1 x2) := by
  intros
  unfold State.tap
  split
  with_reducible refine Sound.andThen ?_ (State.emit_sound ..)
  with_reducible refine Sound.andThen ?_ (State.updPow_sound ..)
  with_reducible exact Sound.refl _
  with_reducible exact Sound.refl _

theorem State.drive_sound : ∀ s x1, Sound [.pow, .out] s (State.drive s x1) := by
  intros
  unfold State.drive
  split
  with_reducible refine Sound.andThen ?_ (State.tap_sound ..)
  with_reducible exact Sound.refl _
  with_reducible refine Sound.andThen ?_ (State.tap_sound ..)
  with_reducible exact Sound.refl _

theorem execBypass_sound : ∀ s, SoundOut [.pow, .out] s (execBypass s) := by
  intros
  unfold execBypass
  with_reducible refine SoundOut.next ?_
  with_reducible refine Sound.andThen ?_ (State.tap_sound ..)
  with_reducible exact Sound.refl _

theorem execIdcode_sound : ∀ s, SoundOut [.pow, .out] s (execIdcode s) := by
  intros
  unfold execIdcode
  with_reducible refine SoundOut.next ?_
  with_reducible refine Sound.andThen ?_ (State.tap_sound ..)
  with_reducible exact Sound.refl _

theorem execSamplePreload_sound : ∀ s, SoundOut [.fresh, .pow, .out] s (execSamplePreload s) := by
  intros
  unfold execSamplePreload
  with_reducible refine SoundOut.next ?_
  with_reducible refine Sound.andThen ?_ (State.tap_sound ..)
  with_reducible refine Sound.andThen ?_ (State.tick_sound ..)
  with_reducible exact Sound.refl _

theorem execExtest_sound : ∀ s, SoundOut [.pow, .out] s (execExtest s) := by
  intros
  unfold execExtest
  with_reducible refine SoundOut.next ?_
  with_reducible refine Sound.andThen ?_ (State.drive_sound ..)
  with_reducible exact Sound.refl _

theorem execExtestPulse_sound : ∀ s, SoundOut [.pow, .out] s (execExtestPulse s) := by
  intros
  unfold execExtestPulse
  with_reducible refine SoundOut.next ?_
  with_reducible refine Sound.andThen ?_ (State.drive_sound ..)
  with_reducible exact Sound.refl _

theorem execExtestTrain_sound : ∀ s, SoundOut [.pow, .out] s (execExtestTrain s) := by
  intros
  unfold execExtestTrain
  with_reducible refine SoundOut.next ?_
  with_reducible refine Sound.andThen ?_ (State.drive_sound ..)
  with_reducible exact Sound.refl _

theorem execHighz_sound : ∀ s, SoundOut [.pow, .out] s (execHighz s) := by
  intros
  unfold execHighz
  with_reducible refine SoundOut.next ?_
  with_reducible refine Sound.andThen ?_ (State.tap_sound ..)
  with_reducible exact Sound.refl _

theorem execClamp_sound : ∀ s, SoundOut [.pow, .out] s (execClamp s) := by
  intros
  unfold execClamp
  with_reducible refine SoundOut.next ?_
  with_reducible refine Sound.andThen ?_ (State.drive_sound ..)
  with_reducible exact Sound.refl _

end Sys2Proof.Machine
end

