-- ==== Sys2Proof/Laws/SoundRegs.lean ====
section
/-! SUPPORT. Operations of Machine/Regs.lean are sound. -/

namespace Sys2Proof.Machine

set_option Elab.async false

theorem State.updEvq_sound : ∀ s x1 x2, Sound [.evt] s (State.updEvq s x1 x2) := by
  intros
  unfold State.updEvq
  with_reducible refine Sound.andThen ?_ (State.updEvt_sound ..)
  with_reducible exact Sound.refl _

theorem State.updVec_sound : ∀ s x1 x2, Sound [.evt] s (State.updVec s x1 x2) := by
  intros
  unfold State.updVec
  with_reducible refine Sound.andThen ?_ (State.updEvt_sound ..)
  with_reducible exact Sound.refl _

theorem outState_sound {m : List Part} {s : State} {o : Out} (h : SoundOut m s o) : Sound m s (outState s o) := by
  cases o with
  | next t => exact h t rfl
  | fault => exact Sound.refl s
  | refused => exact Sound.refl s

theorem State.lockedWrite_sound : ∀ s x1, Sound [.evt, .ctl] s (State.lockedWrite s x1) := by
  intros
  unfold State.lockedWrite
  with_reducible refine Sound.andThen ?_ (State.raiseDev_sound ..)
  with_reducible exact Sound.refl _

theorem State.fieldCtl_sound : ∀ s x1, Sound [.now, .atl, .ldr, .evt, .ctl, .fab, .out] s (State.fieldCtl s x1) := by
  intros
  unfold State.fieldCtl
  dsimp only
  split
  with_reducible refine outState_sound ?_
  with_reducible exact (execFieldRead_sound ..).up
  with_reducible refine outState_sound ?_
  with_reducible exact (execFieldWrite_sound ..).up
  with_reducible refine outState_sound ?_
  with_reducible exact (execWriteStep_sound ..).up
  with_reducible exact Sound.refl _

theorem State.mailboxCtl_sound : ∀ s x1, Sound [.fresh, .atl, .ldr, .evt, .ctl, .weir, .querns, .rows, .repl, .units, .cores, .tier, .fab, .rcv, .out] s (State.mailboxCtl s x1) := by
  intros
  unfold State.mailboxCtl
  extract_lets
  split
  with_reducible refine outState_sound ?_
  extract_lets
  with_reducible exact (execJobStart_sound ..).up
  with_reducible refine outState_sound ?_
  extract_lets
  with_reducible exact (execJobStop_sound ..).up
  with_reducible refine outState_sound ?_
  extract_lets
  with_reducible exact (execJobResume_sound ..).up
  with_reducible refine outState_sound ?_
  extract_lets
  with_reducible exact (execSnapshot_sound ..).up
  with_reducible refine outState_sound ?_
  extract_lets
  with_reducible exact (execContextReady_sound ..).up
  split
  with_reducible refine Sound.andThen ?_ (State.mbox_sound ..)
  extract_lets
  with_reducible exact Sound.refl _
  with_reducible exact Sound.refl _

theorem State.writeAtluta_sound (s : State) (a mask w v : Nat) : Sound [.fresh, .atl, .ldr, .evt, .ctl, .weir, .querns, .rows, .repl, .units, .cores, .tier, .fab, .rcv, .out] s (s.writeAtluta a mask w v) := by
  unfold State.writeAtluta
  repeat' split
  all_goals try dsimp only
  all_goals repeat' split
  all_goals first
    | with_reducible exact Sound.refl s
    | with_reducible exact (State.mailboxCtl_sound ..).up
    | with_reducible exact (State.updCtx_sound ..).up
    | with_reducible exact (outState_sound (execDiffRingTail_sound ..)).up
    | with_reducible exact (State.updRcv_sound ..).up
    | exact (State.updAtl_sound rfl rfl rfl rfl id).up
    | exact (State.updAtl_sound rfl rfl rfl rfl fun hk => putWord8_wf _ _ _ hk).up

theorem State.writeFantail_sound : ∀ s x1 x2, Sound [.pow] s (State.writeFantail s x1 x2) := by
  intros
  unfold State.writeFantail
  split
  with_reducible refine Sound.andThen ?_ (State.updPow_sound ..)
  with_reducible exact Sound.refl _
  with_reducible refine Sound.andThen ?_ (State.updPow_sound ..)
  with_reducible exact Sound.refl _
  with_reducible refine Sound.andThen ?_ (State.updPow_sound ..)
  with_reducible exact Sound.refl _
  with_reducible refine Sound.andThen ?_ (State.updPow_sound ..)
  with_reducible exact Sound.refl _
  with_reducible exact Sound.refl _

theorem State.writeLoader_sound (s : State) (a mask w v : Nat) : Sound [.now, .atl, .ldr, .evt, .ctl, .fab, .out] s (s.writeLoader a mask w v) := by
  unfold State.writeLoader
  repeat' split
  all_goals first
    | with_reducible exact Sound.refl s
    | with_reducible exact (State.fieldCtl_sound ..).up
    | exact (State.updLdr_sound fun hk => hk).up
    | exact (State.updLdr_sound fun hk => putWord8_wf _ _ _ hk).up

theorem State.writeEvq_sound : ∀ s x1 x2 x3 x4, Sound [.evt, .ctl] s (State.writeEvq s x1 x2 x3 x4) := by
  intros
  unfold State.writeEvq
  dsimp only
  split
  split
  with_reducible refine Sound.andThen ?_ (State.lockedWrite_sound ..)
  with_reducible exact Sound.refl _
  with_reducible refine Sound.andThen ?_ (State.updEvq_sound ..)
  with_reducible exact Sound.refl _
  split
  with_reducible refine Sound.andThen ?_ (State.lockedWrite_sound ..)
  with_reducible exact Sound.refl _
  split
  with_reducible refine Sound.andThen ?_ (State.updEvq_sound ..)
  with_reducible exact Sound.refl _
  with_reducible exact Sound.refl _
  with_reducible refine Sound.andThen ?_ (State.updEvq_sound ..)
  with_reducible exact Sound.refl _
  with_reducible refine Sound.andThen ?_ (State.updEvq_sound ..)
  with_reducible exact Sound.refl _
  with_reducible refine Sound.andThen ?_ (State.updEvq_sound ..)
  with_reducible exact Sound.refl _
  with_reducible exact Sound.refl _

theorem State.latch_sound : ∀ s x1, Sound [.evt, .weir, .querns, .cores, .tier] s (State.latch s x1) := by
  intros
  unfold State.latch
  dsimp only
  split
  with_reducible refine Sound.andThen ?_ (State.updEvt_sound ..)
  with_reducible refine Sound.andThen ?_ (State.updTier_sound fun hk => ?_)
  with_reducible refine Sound.andThen ?_ (State.updWeir_sound ..)
  with_reducible refine Sound.litCores ?_ (fun k hk => ?_)
  with_reducible exact Sound.refl _
  exact hk
  exact hk
  with_reducible refine Sound.andThen ?_ (State.updEvt_sound ..)
  with_reducible exact Sound.refl _

theorem State.writeEvents_sound : ∀ s x1 x2 x3 x4, Sound [.evt, .ctl, .weir, .querns, .cores, .tier] s (State.writeEvents s x1 x2 x3 x4) := by
  intros
  unfold State.writeEvents
  split
  · exact (State.writeEvq_sound ..).up
  · split
    · exact (State.updEvt_sound ..).up
    · exact (State.updEvt_sound ..).up
    · split
      · exact (State.latch_sound ..).up
      · exact Sound.refl _
    · exact Sound.refl _

theorem State.writeWeir_sound : ∀ s x1 x2 x3, Sound [.weir, .arbs] s (State.writeWeir s x1 x2 x3) := by
  intros
  unfold State.writeWeir
  split
  with_reducible refine Sound.andThen ?_ (State.updArb_sound ..)
  with_reducible exact Sound.refl _
  split
  with_reducible refine Sound.andThen ?_ (State.updWeir_sound ..)
  with_reducible exact Sound.refl _
  with_reducible refine Sound.andThen ?_ (State.updWeir_sound ..)
  with_reducible exact Sound.refl _
  with_reducible refine Sound.andThen ?_ (State.updWeir_sound ..)
  with_reducible exact Sound.refl _
  with_reducible refine Sound.andThen ?_ (State.updWeir_sound ..)
  with_reducible exact Sound.refl _
  with_reducible exact Sound.refl _

theorem State.writeQuern_sound : ∀ s x1 x2 x3, Sound [.querns] s (State.writeQuern s x1 x2 x3) := by
  intros
  unfold State.writeQuern
  with_reducible refine Sound.andThen ?_ (State.updQuern_sound ..)
  with_reducible exact Sound.refl _

theorem State.writeEngine_sound : ∀ s x1 x2 x3 x4 x5 x6, Sound [.cores] s (State.writeEngine s x1 x2 x3 x4 x5 x6) := by
  intros
  unfold State.writeEngine
  dsimp only
  split
  with_reducible refine outState_sound ?_
  with_reducible exact (execEngCtrClear_sound ..).up
  with_reducible refine Sound.andThen ?_ (State.updEngine_sound ..)
  with_reducible exact Sound.refl _
  split
  with_reducible exact Sound.refl _
  split
  with_reducible refine outState_sound ?_
  with_reducible exact (execEngPreemptReq_sound ..).up
  with_reducible refine outState_sound ?_
  with_reducible exact (execEngPreemptWithdraw_sound ..).up
  with_reducible exact Sound.refl _

theorem State.writeCore_sound : ∀ s x1 x2 x3 x4 x5, Sound [.cores, .arbs] s (State.writeCore s x1 x2 x3 x4 x5) := by
  intros
  unfold State.writeCore
  dsimp only
  split
  with_reducible refine Sound.andThen ?_ (State.updArb_sound ..)
  with_reducible exact Sound.refl _
  split
  with_reducible refine Sound.andThen ?_ (State.writeEngine_sound ..)
  with_reducible exact Sound.refl _
  split
  with_reducible refine outState_sound ?_
  with_reducible exact (execGovStreamCtl_sound ..).up
  with_reducible refine Sound.andThen ?_ (State.updCore_sound (fun k hk => ?_) _ _)
  with_reducible exact Sound.refl _
  exact hk
  with_reducible refine outState_sound ?_
  with_reducible exact (execDumpValid_sound ..).up
  with_reducible refine Sound.andThen ?_ (State.updCore_sound (fun k hk => ?_) _ _)
  with_reducible exact Sound.refl _
  exact hk
  with_reducible refine Sound.andThen ?_ (State.updCore_sound (fun k hk => ?_) _ _)
  with_reducible exact Sound.refl _
  exact hk
  with_reducible refine Sound.andThen ?_ (State.updCore_sound (fun k hk => ?_) _ _)
  with_reducible exact Sound.refl _
  exact hk
  with_reducible refine Sound.andThen ?_ (State.updCore_sound (fun k hk => ?_) _ _)
  with_reducible exact Sound.refl _
  exact hk
  with_reducible refine Sound.andThen ?_ (State.updCore_sound (fun k hk => ?_) _ _)
  with_reducible exact Sound.refl _
  exact hk
  with_reducible refine Sound.andThen ?_ (State.updCore_sound (fun k hk => ?_) _ _)
  with_reducible exact Sound.refl _
  exact hk
  with_reducible refine Sound.andThen ?_ (State.updCore_sound (fun k hk => ?_) _ _)
  with_reducible exact Sound.refl _
  exact hk
  with_reducible exact Sound.refl _

theorem State.writeTier_sound : ∀ s x1 x2 x3, Sound [.fresh, .arbs, .tier, .out] s (State.writeTier s x1 x2 x3) := by
  intros
  unfold State.writeTier
  split
  with_reducible refine Sound.andThen ?_ (State.updArb_sound ..)
  with_reducible exact Sound.refl _
  split
  with_reducible refine Sound.andThen ?_ (State.updTier_sound fun hk => ?_)
  with_reducible exact Sound.refl _
  exact hk
  with_reducible refine Sound.andThen ?_ (State.updTier_sound fun hk => ?_)
  with_reducible exact Sound.refl _
  exact hk
  with_reducible refine Sound.andThen ?_ (State.updTier_sound fun hk => ?_)
  with_reducible exact Sound.refl _
  exact hk
  with_reducible refine Sound.andThen ?_ (State.updTier_sound fun hk => ?_)
  with_reducible exact Sound.refl _
  exact hk
  with_reducible refine Sound.andThen ?_ (State.updTier_sound fun hk => ?_)
  with_reducible exact Sound.refl _
  exact hk
  with_reducible refine outState_sound ?_
  with_reducible exact (execTierRefillDone_sound ..).up
  with_reducible exact Sound.refl _

theorem State.writePopor_sound : ∀ s x1 x2, Sound [.fab] s (State.writePopor s x1 x2) := by
  intros
  unfold State.writePopor
  split
  with_reducible refine Sound.andThen ?_ (State.updPort_sound ..)
  with_reducible exact Sound.refl _
  split
  with_reducible refine Sound.andThen ?_ (State.updFab_sound ..)
  with_reducible exact Sound.refl _
  with_reducible refine Sound.andThen ?_ (State.updFab_sound ..)
  with_reducible exact Sound.refl _
  with_reducible refine Sound.andThen ?_ (State.updFab_sound ..)
  with_reducible exact Sound.refl _
  with_reducible exact Sound.refl _

theorem State.unmask_sound : ∀ s x1, Sound [.evt, .out] s (State.unmask s x1) := by
  intros
  unfold State.unmask
  dsimp only
  split
  with_reducible refine Sound.andThen ?_ (State.emit_sound ..)
  with_reducible refine Sound.andThen ?_ (State.updVec_sound ..)
  with_reducible refine Sound.andThen ?_ (State.updVec_sound ..)
  with_reducible exact Sound.refl _
  with_reducible refine Sound.andThen ?_ (State.updVec_sound ..)
  with_reducible exact Sound.refl _

theorem State.writeHost_sound : ∀ s x1 x2, Sound [.evt, .tier, .out] s (State.writeHost s x1 x2) := by
  intros
  unfold State.writeHost
  dsimp only
  split
  with_reducible refine Sound.andThen ?_ (State.updCxl_sound ..)
  with_reducible exact Sound.refl _
  split
  with_reducible refine Sound.andThen ?_ (State.updCxl_sound ..)
  with_reducible exact Sound.refl _
  split
  split
  with_reducible refine Sound.andThen ?_ (State.updVec_sound ..)
  with_reducible exact Sound.refl _
  split
  with_reducible refine Sound.andThen ?_ (State.updVec_sound ..)
  with_reducible exact Sound.refl _
  with_reducible refine Sound.andThen ?_ (State.unmask_sound ..)
  with_reducible refine Sound.andThen ?_ (State.updVec_sound ..)
  with_reducible exact Sound.refl _
  with_reducible exact Sound.refl _

theorem State.regWrite_sound (s : State) (a mask value : Nat) : Sound [.now, .fresh, .pow, .atl, .ldr, .evt, .ctl, .weir, .querns, .rows, .repl, .units, .cores, .arbs, .tier, .fab, .rcv, .out] s (s.regWrite a mask value) := by
  unfold State.regWrite
  extract_lets v w
  repeat' split
  all_goals first
    | with_reducible exact Sound.refl s
    | with_reducible exact (State.writeAtluta_sound ..).up
    | with_reducible exact (State.writeFantail_sound ..).up
    | with_reducible exact (State.writeLoader_sound ..).up
    | with_reducible exact (State.writeEvents_sound ..).up
    | with_reducible exact (State.writeWeir_sound ..).up
    | with_reducible exact (State.writeQuern_sound ..).up
    | with_reducible exact (State.writeCore_sound ..).up
    | with_reducible exact (State.writeTier_sound ..).up
    | with_reducible exact (State.writePopor_sound ..).up
    | with_reducible exact (State.writeHost_sound ..).up

end Sys2Proof.Machine
end

