-- ==== Sys2Proof/Laws/SoundControl.lean ====
section
/-! SUPPORT. Operations of Machine/Control.lean are sound. -/

namespace Sys2Proof.Machine

set_option Elab.async false

theorem State.countAccess_sound : ∀ s, Sound [.evt] s (State.countAccess s) := by
  intros
  unfold State.countAccess
  with_reducible refine Sound.andThen ?_ (State.updEvt_sound ..)
  with_reducible exact Sound.refl _

theorem State.countOff_sound : ∀ s, Sound [.pow] s (State.countOff s) := by
  intros
  unfold State.countOff
  with_reducible refine Sound.andThen ?_ (State.updPow_sound ..)
  with_reducible exact Sound.refl _

theorem State.writeAccess_sound : ∀ s x1 x2 x3, Sound [.now, .fresh, .pow, .atl, .ldr, .evt, .ctl, .weir, .querns, .rows, .repl, .units, .cores, .arbs, .tier, .fab, .rcv, .out] s (State.writeAccess s x1 x2 x3) := by
  intros
  unfold State.writeAccess
  dsimp only
  split
  with_reducible refine Sound.andThen ?_ (State.countAccess_sound ..)
  with_reducible exact Sound.refl _
  split
  with_reducible refine Sound.andThen ?_ (State.countOff_sound ..)
  with_reducible exact Sound.refl _
  with_reducible refine Sound.andThen ?_ (State.regWrite_sound ..)
  with_reducible exact Sound.refl _

theorem State.readAccess_sound : ∀ s x1 x2, Sound [.pow, .evt] s (State.readAccess s x1 x2).1 := by
  intros
  unfold State.readAccess
  dsimp only
  split
  with_reducible refine Sound.andThen ?_ (State.countAccess_sound ..)
  with_reducible exact Sound.refl _
  split
  with_reducible refine Sound.andThen ?_ (State.countOff_sound ..)
  with_reducible exact Sound.refl _
  with_reducible exact Sound.refl _

theorem execAccessErr_sound : ∀ x0 x1 x2 x3 s, SoundOut [.evt, .out] s (execAccessErr x0 x1 x2 x3 s) := by
  intros
  unfold execAccessErr
  split
  with_reducible refine SoundOut.next ?_
  with_reducible exact Sound.refl _
  with_reducible refine SoundOut.next ?_
  split
  with_reducible refine Sound.andThen ?_ (State.countAccess_sound ..)
  with_reducible exact Sound.refl _
  with_reducible refine Sound.andThen ?_ (State.emit_sound ..)
  with_reducible refine Sound.andThen ?_ (State.countAccess_sound ..)
  with_reducible exact Sound.refl _

theorem execOffAccess_sound : ∀ x0 x1 x2 s, SoundOut [.pow, .out] s (execOffAccess x0 x1 x2 s) := by
  intros
  unfold execOffAccess
  split
  with_reducible refine SoundOut.next ?_
  with_reducible exact Sound.refl _
  with_reducible refine SoundOut.next ?_
  split
  with_reducible refine Sound.andThen ?_ (State.countOff_sound ..)
  with_reducible exact Sound.refl _
  with_reducible refine Sound.andThen ?_ (State.emit_sound ..)
  with_reducible refine Sound.andThen ?_ (State.countOff_sound ..)
  with_reducible exact Sound.refl _

theorem execRegisterWrite_sound : ∀ x0 x1 x2 s, SoundOut [.now, .fresh, .pow, .atl, .ldr, .evt, .ctl, .weir, .querns, .rows, .repl, .units, .cores, .arbs, .tier, .fab, .rcv, .out] s (execRegisterWrite x0 x1 x2 s) := by
  intros
  unfold execRegisterWrite
  with_reducible refine SoundOut.next ?_
  split
  with_reducible refine Sound.andThen ?_ (State.writeAccess_sound ..)
  with_reducible exact Sound.refl _
  with_reducible exact Sound.refl _

theorem execCtlReq_sound : ∀ x0 x1 x2 x3 s, SoundOut [.now, .fresh, .pow, .atl, .ldr, .evt, .ctl, .weir, .querns, .rows, .repl, .units, .cores, .arbs, .tier, .fab, .rcv, .out] s (execCtlReq x0 x1 x2 x3 s) := by
  intros
  unfold execCtlReq
  dsimp only
  split
  with_reducible refine SoundOut.next ?_
  with_reducible refine Sound.andThen ?_ (State.admitFrame_sound ..)
  with_reducible exact Sound.refl _
  split
  with_reducible refine SoundOut.next ?_
  with_reducible refine Sound.andThen ?_ (State.emit_sound ..)
  with_reducible refine Sound.andThen ?_ (State.writeAccess_sound ..)
  with_reducible refine Sound.andThen ?_ (State.admitFrame_sound ..)
  with_reducible exact Sound.refl _
  with_reducible refine SoundOut.next ?_
  with_reducible refine Sound.andThen ?_ (State.emit_sound ..)
  with_reducible refine Sound.andThen ?_ (State.readAccess_sound ..)
  with_reducible refine Sound.andThen ?_ (State.admitFrame_sound ..)
  with_reducible exact Sound.refl _

theorem State.raiseVec_sound : ∀ s x1 x2, Sound [.evt, .out] s (State.raiseVec s x1 x2) := by
  intros
  unfold State.raiseVec
  dsimp only
  split
  with_reducible refine Sound.andThen ?_ (State.updVec_sound ..)
  with_reducible exact Sound.refl _
  with_reducible refine Sound.andThen ?_ (State.emit_sound ..)
  with_reducible refine Sound.andThen ?_ (State.updVec_sound ..)
  with_reducible exact Sound.refl _

theorem State.queueRecord_sound : ∀ s x1, Sound [.evt, .out] s (State.queueRecord s x1) := by
  intros
  unfold State.queueRecord
  dsimp only
  split
  with_reducible refine Sound.andThen ?_ (State.raiseVec_sound ..)
  with_reducible refine Sound.andThen ?_ (State.updEvq_sound ..)
  with_reducible refine Sound.andThen ?_ (State.emit_sound ..)
  with_reducible exact Sound.refl _
  with_reducible refine Sound.andThen ?_ (State.updEvq_sound ..)
  with_reducible exact Sound.refl _

theorem State.deviceFatal_sound : ∀ s, Sound [.pow, .evt, .ctl, .cores, .rcv, .out] s (State.deviceFatal s) := by
  intros
  unfold State.deviceFatal
  dsimp only
  split
  with_reducible refine Sound.andThen ?_ (State.fence_sound ..)
  with_reducible refine Sound.andThen ?_ (State.updPow_sound ..)
  with_reducible exact Sound.refl _
  with_reducible refine Sound.andThen ?_ (State.emit_sound ..)
  with_reducible refine Sound.andThen ?_ (State.fence_sound ..)
  with_reducible refine Sound.andThen ?_ (State.updPow_sound ..)
  with_reducible exact Sound.refl _

theorem State.putRecord_sound : ∀ s x1, Sound [.evt, .out] s (State.putRecord s x1) := by
  intros
  unfold State.putRecord
  with_reducible refine Sound.andThen ?_ (State.queueRecord_sound ..)
  with_reducible refine Sound.andThen ?_ (State.updEvt_sound ..)
  with_reducible exact Sound.refl _

theorem execFaultRecord_sound : ∀ x0 s, SoundOut [.now, .pow, .evt, .ctl, .cores, .rcv, .out] s (execFaultRecord x0 s) := by
  intros
  unfold execFaultRecord
  dsimp only
  split
  with_reducible refine SoundOut.next ?_
  with_reducible exact Sound.refl _
  split
  with_reducible refine SoundOut.next ?_
  with_reducible exact Sound.refl _
  with_reducible refine SoundOut.next ?_
  split
  with_reducible refine Sound.andThen ?_ (State.deviceFatal_sound ..)
  with_reducible refine Sound.andThen ?_ (State.putRecord_sound ..)
  with_reducible refine Sound.andThen ?_ (State.updEvt_sound ..)
  with_reducible refine Sound.andThen ?_ (State.at'_sound ..)
  with_reducible exact Sound.refl _
  with_reducible refine Sound.andThen ?_ (State.putRecord_sound ..)
  with_reducible refine Sound.andThen ?_ (State.updEvt_sound ..)
  with_reducible refine Sound.andThen ?_ (State.at'_sound ..)
  with_reducible exact Sound.refl _

theorem execCoalesceExpiry_sound : ∀ x0 s, SoundOut [.evt, .out] s (execCoalesceExpiry x0 s) := by
  intros
  unfold execCoalesceExpiry
  dsimp only
  split
  with_reducible refine SoundOut.next ?_
  with_reducible exact Sound.refl _
  split
  with_reducible refine SoundOut.next ?_
  with_reducible refine Sound.andThen ?_ (State.emit_sound ..)
  with_reducible refine Sound.andThen ?_ (State.updVec_sound ..)
  with_reducible exact Sound.refl _
  with_reducible refine SoundOut.next ?_
  with_reducible refine Sound.andThen ?_ (State.updVec_sound ..)
  with_reducible exact Sound.refl _

theorem execVectorUnmask_sound : ∀ x0 s, SoundOut [.evt, .out] s (execVectorUnmask x0 s) := by
  intros
  unfold execVectorUnmask
  with_reducible refine SoundOut.next ?_
  split
  with_reducible refine Sound.andThen ?_ (State.unmask_sound ..)
  with_reducible exact Sound.refl _
  with_reducible exact Sound.refl _

theorem execEvqCtl_sound : ∀ x0 x1 s, SoundOut [.evt] s (execEvqCtl x0 x1 s) := by
  intros
  unfold execEvqCtl
  with_reducible refine SoundOut.next ?_
  split
  with_reducible refine Sound.andThen ?_ (State.updEvq_sound ..)
  with_reducible exact Sound.refl _
  with_reducible exact Sound.refl _

theorem execEvqTail_sound : ∀ x0 x1 s, SoundOut [.evt] s (execEvqTail x0 x1 s) := by
  intros
  unfold execEvqTail
  with_reducible refine SoundOut.next ?_
  split
  with_reducible refine Sound.andThen ?_ (State.updEvq_sound ..)
  with_reducible exact Sound.refl _
  with_reducible exact Sound.refl _

theorem execStallLatch_sound : ∀ x0 s, SoundOut [.evt, .weir, .querns, .cores, .tier] s (execStallLatch x0 s) := by
  intros
  unfold execStallLatch
  with_reducible refine SoundOut.next ?_
  split
  with_reducible refine Sound.andThen ?_ (State.latch_sound ..)
  with_reducible exact Sound.refl _
  with_reducible exact Sound.refl _

end Sys2Proof.Machine
end

