-- ==== Sys2Proof/WellFormed.lean ====
section
/-! DEFINITION. Which commands are well formed: every operand lies in the range that the spec gives it. -/

namespace Sys2Proof.WellFormed

/-- A number of `w` bits. -/
def fits (w n : Nat) : Bool := decide (n < 2 ^ w)
/-- A device ID (R5). -/
def dev (d : Nat) : Bool := fits 16 d
/-- A device ID that names one device: neither unassigned nor broadcast (R5, R418). -/
def oneDev (d : Nat) : Bool := dev d && d != 0 && d != 0xFFFF
/-- A step number (R5). -/
def step (n : Nat) : Bool := fits 48 n
/-- An epoch (R422, R369). -/
def epoch (n : Nat) : Bool := fits 32 n
/-- A micro-batch of a step (R22). -/
def mb (n : Nat) : Bool := fits 3 n
/-- A table number and a row (R248, R285). -/
def table (t : Nat) : Bool := fits 12 t
def row (r : Nat) : Bool := fits 40 r
/-- A tensor number (R312), and a tile index along one axis (R127). -/
def tensor (t : Nat) : Bool := fits 12 t
def tileIx (t : Nat) : Bool := fits 16 t
/-- A range address (R222). -/
def range (a : Nat) : Bool := fits 56 a
/-- A page number of the range (R222). -/
def page (p : Nat) : Bool := fits 35 p
/-- An offset in the control window (R555). -/
def control (a : Nat) : Bool := fits 28 a
/-- A 32-bit check field (R127, R399). -/
def crc (n : Nat) : Bool := fits 32 n
/-- A SHA-384 digest. -/
def digest (l : List Byte) : Bool := l.length == 48
/-- A digest as its first 16 bytes are used for a leaf or bucket, or whole. -/
def leaf (l : List Byte) : Bool := decide (l.length ≤ 48)
/-- A virtual channel (R405). -/
def vc (n : Nat) : Bool := fits 3 n
/-- A frame tag (R402), as the model counts tags (log entry 39). -/
def tag (n : Nat) : Bool := fits 64 n
/-- A scale record (R79). -/
def scaleRec (r : ScaleRec) : Bool := decide (r.mu < 32) && decide (-126 ≤ r.eps) && decide (r.eps ≤ 127) && decide (-128 ≤ r.zp) && decide (r.zp ≤ 127)
/-- A scale set (R85, R331). -/
def scaleSet (s : ScaleSet) : Bool := step s.version && s.recs.all scaleRec && fits 4 s.backoff && fits 16 s.decay && leaf s.digest
/-- A vote word (R34). -/
def voteWord (w : VoteWord) : Bool := epoch w.memEpoch && epoch w.layEpoch && step w.step && fits 32 w.count && fits 64 w.view
/-- A vote frame (R339). -/
def voteFrame (v : VoteFrame) : Bool := oneDev v.child && voteWord v.word
/-- A step-targeted write (R472). -/
def stepWrite (w : StepWrite) : Bool := fits 32 w.index && step w.target
/-- A decision (R352). -/
def decisionMsg (d : DecisionMsg) : Bool :=
  step d.step && dev d.src && epoch d.memEpoch && epoch d.layEpoch && d.writes.all stepWrite && (d.scaleSet.map scaleSet).getD true
/-- An order (R352). -/
def orderMsg (o : OrderMsg) : Bool := step o.step && epoch o.memEpoch && epoch o.layEpoch && dev o.src
/-- A barrier or DONE word (R370). -/
def barrierWord (w : BarrierWord) : Bool := oneDev w.child && step w.step && epoch w.memEpoch && epoch w.layEpoch && fits 64 w.layDigest
/-- A sample list (R496). -/
def sampleList (l : SampleList) : Bool := step l.step && fits 8 l.mb && decide (l.count ≤ 16384) && l.ids.all (fits 64)
/-- A lookup request and reply (R261, R404). -/
def lkpReq (r : LkpReq) : Bool := oneDev r.src && step r.step && table r.table && row r.row && fits 16 r.ver16 && fits 32 r.ref
def lkpRsp (r : LkpRsp) : Bool := oneDev r.src && table r.table && row r.row && fits 16 r.ver16 && fits 32 r.ref
/-- A gradient contribution (R285): at most 1,024 values. -/
def contribution (g : Contribution) : Bool :=
  oneDev g.src && table g.table && row g.row && step g.step && epoch g.layEpoch && fits 32 g.count && decide (g.vals.length ≤ 1024)
    && g.vals.all (fits (if g.fx48 then 48 else 32))
/-- An end-of-Gather marker (R286). -/
def gatherMarker (m : GatherMarker) : Bool := oneDev m.src && step m.step && epoch m.layEpoch && fits 32 m.count
/-- A message to replicas (R304). -/
def replMsg : ReplMsg → Bool
  | .sum src n t r count vals c => oneDev src && step n && table t && row r && fits 32 count && vals.all (fits 48) && crc c
  | .endMark src n _ => oneDev src && step n
  | .dropped src n t r => oneDev src && step n && table t && row r
/-- A slice (R127). -/
def slice (s : Slice) : Bool :=
  oneDev s.src && step s.step && mb s.mb && epoch s.layEpoch && tensor s.tensor && tileIx s.tileK && tileIx s.tileN && fits 7 s.rows
    && fits 7 s.cols && crc s.crc
/-- A reduction node and a retained root (R317, R321). -/
def redNode (n : RedNode) : Bool :=
  oneDev n.src && step n.step && epoch n.layEpoch && tensor n.tensor && tileIx n.tileK && tileIx n.tileN && fits 16 n.index && crc n.crc
def retRoot (r : RetRoot) : Bool := oneDev r.src && step r.step && tensor r.tensor && tileIx r.tileK && tileIx r.tileN && crc r.crc && epoch r.layEpoch
/-- A working-copy tile (R332, R333). -/
def wcTile (t : WcTile) : Bool :=
  oneDev t.src && tensor t.tensor && tileIx t.tileK && tileIx t.tileN && step t.version && leaf t.digest && crc t.check
/-- Digest traffic. -/
def digestFrame : DigestFrame → Bool
  | .leaf src n _ l => oneDev src && step n && leaf l
  | .leafEnd src n _ => oneDev src && step n
  | .bucket src n _ l => oneDev src && step n && leaf l
  | .bucketEnd src n _ => oneDev src && step n
  | .shard src n _ t _ l => oneDev src && step n && fits 12 t && leaf l
  | .wc src n t l => oneDev src && step n && tensor t && leaf l
  | .wcSource src n t _ => oneDev src && step n && tensor t
  | .shardLeaves src n _ t _ _ => oneDev src && step n && fits 12 t
  | .redo src n _ _ l => oneDev src && step n && leaf l
  | .differ src n _ t _ d l => oneDev src && step n && fits 12 t && dev d && leaf l
  | .replica src n t _ l => oneDev src && step n && table t && leaf l
  | .param src n l => oneDev src && step n && leaf l
/-- A shard transfer (R372). -/
def shardXfer (x : ShardXfer) : Bool := oneDev x.src && fits 12 x.table && epoch x.epoch && leaf x.digest
/-- A transport frame (R402): at most 4,096 payload bytes. -/
def frame (f : Frame) : Bool :=
  dev f.dst && dev f.src && fits 8 f.opcode && vc f.vc && fits 4 f.hops && fits 2 f.rev && step f.step && epoch f.epoch && fits 64 f.counter
    && decide (f.payload.length ≤ 4096)
/-- A flit (R399): 252 bytes besides its CRC. -/
def flit (f : Flit) : Bool := vc f.vc && fits 4 f.first && fits 12 f.seq && fits 12 f.ack && vc f.crVc && fits 16 f.crCount && crc f.crc
/-- A LINK_INIT message (R399). -/
def linkInit (l : LinkInit) : Bool := fits 2 l.rev && fits 2 l.rates && fits 6 l.trayId && fits 10 l.pod && fits 4 l.port && dev l.peerId
/-- A packet on Ethernet (R414). -/
def ethPacket (k : EthPacket) : Bool := oneDev k.src && dev k.dst && vc k.vc && fits 32 k.psn && fits 32 k.ackPsn && (k.frame.map frame).getD true
/-- A membership record (R436). -/
def memberRec (m : MemberRec) : Bool := epoch m.epoch && m.failed.all oneDev && m.members.all oneDev && decide (m.members.length ≤ 1024)
/-- An arbiter request (R210): classes 0 to 9 and requesters 0 to 63. -/
def arbReq (r : ArbReq) : Bool := fits 4 r.cls && fits 6 r.requester
/-- An upset inside the array (R104). -/
def upset (u : Upset) : Bool := decide (u.half < 2) && decide (u.row < 4096) && decide (u.col < 128)
/-- A signature block (R460, R481). -/
def sig (g : Sig) : Bool := fits 128 g.keyId && fits 384 g.r && fits 384 g.s
/-- A signature block where there is one. -/
def sigOpt (g : Option Sig) : Bool := (g.map sig).getD true
/-- An image (R457 to R459). -/
def image (i : Image) : Bool := fits 32 i.length && fits 64 i.buildId && dev i.deviceId && fits 32 i.svn && leaf i.baseDigest && leaf i.numericId
  && (i.sections.all fun x => fits 32 x.offset && fits 32 x.length && fits 128 x.digest) && sig i.sig
/-- A firmware slot (R477): at most 4 MiB − 128 KiB. -/
def fwSlot (f : FwSlot) : Bool := fits 32 f.version && fits 16 f.svn && decide (f.image.length ≤ 4 * 2 ^ 20 - 128 * 1024) && sig f.sig
/-- An installation manifest (R417). -/
def manifest (m : Manifest) : Bool := digest m.digest && fits 10 m.pod && m.modes.length == 16 && m.maxRates.length == 16 && fits 16 m.udpPort
  && m.dscp.all (fits 6) && m.plan.all fun x => dev x.2
/-- A repair map entry (R151). -/
def repair (e : RepairEntry) : Bool := fits 8 e.index && fits 2 e.origin && fits 32 e.stepLo
/-- A power sample (R518) and a thermal one (R523): eight stacks, and at most 48 junction sensors. -/
def power (p : PowerSample) : Bool := p.hbm.length == 8
def thermal (t : ThermalSample) : Bool := decide (t.junction.length ≤ 48) && t.hbm.length == 8

/-- Whether a command is well formed. -/
def instr : Instr → Bool
  | .mbAdmit a => (a.feed.map sampleList).getD true
  | .slotRelease _ => true
  | .gatherClose n => step n
  | .finitenessScreen _ n => step n
  | .qrnLogReserve _ n => step n
  | .voteSend n => step n
  | .vote v => voteFrame v
  | .voteMirrorStore d => decisionMsg d
  | .decisionBroadcast n => step n
  | .decision d => decisionMsg d
  | .applyEnd n => step n
  | .stbyHeaderWrite n => step n
  | .sealComplete n => step n
  | .descDecode _ _ _ => true
  | .hintIssue _ _ i => fits 32 i
  | .commandIssue _ _ => true
  | .nop _ _ => true
  | .signal _ _ => true
  | .wait _ _ => true
  | .fwdEnd _ => true
  | .bwdEnd _ => true
  | .mm _ _ _ => true
  | .vec _ _ => true
  | .vred _ _ => true
  | .lookup _ => true
  | .pool _ => true
  | .gradSend _ => true
  | .stashWr _ => true
  | .stashRd _ => true
  | .stashFree _ => true
  | .fetch _ _ => true
  | .write _ _ => true
  | .prefetch _ _ => true
  | .cancel _ _ => true
  | .loadScales _ => true
  | .loadCsum _ => true
  | .invalidate _ => true
  | .prestage _ => true
  | .commandRetire _ _ i => fits 32 i
  | .deferPromote _ _ => true
  | .handoverUnit _ _ _ => true
  | .noProgress _ => true
  | .dumpValid _ _ => true
  | .govStreamCtl _ _ => true
  | .tileLoadStart _ _ _ => true
  | .tileLoadReady _ _ _ => true
  | .passStart _ _ _ => true
  | .passEnd _ _ _ us => us.all upset
  | .passVerdict _ _ _ => true
  | .replayStart _ _ _ => true
  | .engPreemptReq _ _ _ => true
  | .engPreemptWithdraw _ _ _ => true
  | .engineQuiet _ _ _ => true
  | .engCtrClear _ _ _ => true
  | .dividerChange _ _ => true
  | .lbEccError _ _ _ => true
  | .spillWriteDone _ _ id b => fits 16 id && fits 16 b
  | .stashReadback _ => true
  | .demandFetchBegin _ _ => true
  | .sluiceTick _ => true
  | .transferArrive _ _ _ => true
  | .ringRepair _ _ => true
  | .tailraceAck _ _ => true
  | .arbDecision _ x _ => x.raised.all arbReq
  | .arbHold _ x => x.raised.all arbReq
  | .turnEstimate _ r x => fits 6 r && x.raised.all arbReq
  | .engineWake _ _ _ => true
  | .pageMoveStart => true
  | .heatDecay => true
  | .migrationPassEnd _ => true
  | .pageFlip _ => true
  | .sourceFrameFree _ => true
  | .hbmEccError _ f _ => decide (f < 49152)
  | .pageRefillDone p => page p
  | .hbmPatrol l => l.all fun x => decide (x.2.1 < 49152)
  | .tierRefillDone _ => true
  | .cxlPoison p => page p
  | .cxlCompletionTimeout p => page p
  | .cxlLinkDown _ _ => true
  | .cxlLinkReturn _ _ => true
  | .cxlDownLimit _ _ => true
  | .accessLate t _ _ => decide (t < 3)
  | .lkpReq r => lkpReq r
  | .lkpRsp r => lkpRsp r
  | .lookupHoldRelease _ => true
  | .indexFaultReport _ => true
  | .replSum _ m => replMsg m
  | .gristAdd g => contribution g
  | .gristSlotFree _ => true
  | .gatherEnd _ m => gatherMarker m
  | .sliceArrive s => slice s
  | .sliceResend _ _ n m t k l => step n && mb m && tensor t && tileIx k && tileIx l
  | .redNode n => redNode n
  | .rootRetain n t k l => step n && tensor t && tileIx k && tileIx l
  | .retRoot r => retRoot r
  | .candidateForm n t k l => step n && tensor t && tileIx k && tileIx l
  | .scaleSetDerive n => step n
  | .scaleSetArrive _ s => scaleSet s
  | .wcTile t => wcTile t
  | .wcResend d t k l v => oneDev d && tensor t && tileIx k && tileIx l && step v
  | .digest _ d => digestFrame d
  | .replicaRepairDone n _ t _ => step n && fits 12 t
  | .replayRequest d n => oneDev d && step n
  | .replay o => orderMsg o
  | .rebuildRedo _ _ l => leaf l
  | .rebuildHostLimit _ => true
  | .barrierSend => true
  | .barrier w => barrierWord w
  | .move o => orderMsg o
  | .shardXfer x => shardXfer x
  | .done w => barrierWord w
  | .flip o => orderMsg o
  | .layoutCancel o => orderMsg o
  | .linkTrain _ rs _ => rs.all (fits 2)
  | .linkInit _ l => linkInit l
  | .flitReceive _ f => flit f
  | .nak _ a _ => fits 12 a
  | .popRetrainLimit _ _ => true
  | .linkDown _ _ => true
  | .creditSync _ l => l.all (fits 16)
  | .frameForward _ f => frame f
  | .rdReq f a n => frame f && range a && decide (n ≤ 4096)
  | .rdRsp _ l => decide (l.length ≤ 4096)
  | .wr f a => frame f && range a
  | .wrAck t => tag t
  | .ctlReq f _ a _ => frame f && control a
  | .ctlRsp t _ => tag t
  | .ethPacket _ k _ => ethPacket k
  | .ethRto d v _ => oneDev d && vc v
  | .ack d t => oneDev d && tag t
  | .popAckLimit t _ => tag t
  | .heartbeatSend _ => true
  | .heartbeat h _ => oneDev h.src && epoch h.epoch && fits 32 h.sealedLo
  | .heartbeatTimeout d _ => oneDev d
  | .discover d ns _ => dev d && ns.all fun x => fits 4 x.port && dev x.peer && fits 4 x.peerPort
  | .discoveryQuiet l _ => leaf l
  | .member m => memberRec m
  | .failedReport d _ => oneDev d
  | .podSilence p _ => fits 10 p
  | .fence _ => true
  | .memberBatch _ => true
  | .memberAck d e _ _ => oneDev d && epoch e
  | .leaseGrace d _ => oneDev d
  | .fmBindLimit d _ => oneDev d
  | .partnerUnitRequest d _ v => oneDev d && step v
  | .pullComplete => true
  | .takeoverDone d _ => oneDev d
  | .journalFold n => step n
  | .releaseFence => true
  | .jobStart _ => true
  | .jobStop _ => true
  | .jobSwitch _ _ n => step n
  | .switchInRestore _ => true
  | .jobResume _ => true
  | .snapshot _ n => step n
  | .snapshotWrite => true
  | .trayRelease _ n p t d => step n && fits 10 p && fits 6 t && dev d
  | .spareAdd _ d => oneDev d
  | .spareRemove _ d => oneDev d
  | .reportFailed _ d => oneDev d
  | .hostSupply _ _ l => decide (l.length ≤ 2 ^ 20)
  | .repairMapWrite _ e _ => repair e
  | .engineDiag _ _ => true
  | .manifestWrite m => manifest m
  | .fmBound _ a b => oneDev a && oneDev b
  | .contextReady _ => true
  | .keyEnrol k g => k.length == 97 && sigOpt g
  | .keyRevoke k g => fits 128 k && sigOpt g
  | .svnRaise n g => fits 32 n && sigOpt g
  | .fwSvnCommit g => sigOpt g
  | .exportKey _ _ g => sigOpt g
  | .getAudit _ n => decide (n ≤ 25)
  | .recordSign n => step n
  | .logSectorErase _ => true
  | .diffRingTail _ _ => true
  | .getVersion => true
  | .getCapabilities => true
  | .negotiateAlgorithms => true
  | .getDigests => true
  | .getCertificate n o l => decide (n < 8) && fits 16 o && fits 16 l
  | .challenge n l => decide (n < 8) && l.length == 32
  | .getMeasurements n _ => fits 8 n
  | .keyExchange n _ => decide (n < 8)
  | .finish n _ => fits 32 n
  | .endSession n => fits 32 n
  | .spdmHeartbeat n => fits 32 n
  | .keyUpdate n => fits 32 n
  | .fwRecovery f => fwSlot f
  | .store i _ => image i
  | .storeApply i _ => image i
  | .package i => image i
  | .fieldRead i => fits 32 i
  | .fieldWrite i _ => fits 32 i
  | .writeStep i n _ => fits 32 i && step n
  | .writeStepComplete _ => true
  | .vauxOn => true
  | .vauxLoss => true
  | .pwrGoodRise _ _ => true
  | .pwrGoodFall _ => true
  | .sysRstNAssert _ => true
  | .sysRstNRelease _ => true
  | .perstRelease => true
  | .perstAssert => true
  | .cxPerstRelease _ => true
  | .pllLock => true
  | .pllUnlock => true
  | .domainSwitchOn _ => true
  | .domainWake _ => true
  | .domainSwitchOff _ => true
  | .bringupPhaseEnd _ => true
  | .bringupSlow _ => true
  | .hbmTrain _ _ => true
  | .fantailSample p t => power p && thermal t
  | .fantailEvaluate _ => true
  | .holdNLow => true
  | .holdNHigh => true
  | .droopDetect u _ => decide (u < 48)
  | .droopEnd u _ => decide (u < 48)
  | .thermalTrip => true
  | .tripPowerOff _ => true
  | .stayReduced _ => true
  | .bypass => true
  | .idcode => true
  | .samplePreload => true
  | .extest => true
  | .extestPulse => true
  | .extestTrain => true
  | .highz => true
  | .clamp => true
  | .accessErr _ a _ _ => control a
  | .offAccess _ a _ => control a
  | .registerWrite a n _ => control a && decide (n ≤ 8)
  | .faultRecord _ => true
  | .coalesceExpiry v => fits 11 v
  | .vectorUnmask v => fits 11 v
  | .evqCtl _ _ => true
  | .evqTail _ _ => true
  | .stallLatch _ => true
  | .ethPortDown _ => true
  | .firmwareUpdate f => fwSlot f
  | .alwaysOnPllUnlock => true
  | .suspicionReport a b p _ _ => oneDev a && oneDev b && fits 4 p

end Sys2Proof.WellFormed
end

