-- ==== Sys2Proof/Tests/Slice0.lean ====
section
/-! SUPPORT. Tests: ill-formed commands refused, the worked examples of the spec, and for each statement with hypotheses
a state and operands that meet them together, one for each clause. -/

open Sys2Proof Sys2Proof.Machine

namespace Sys2Proof.Tests

set_option Elab.async false

/-! ## Ill-formed commands are refused by the checks of WellFormed.lean -/

/-- A device ID that names no single device: unassigned, broadcast, or wider than 16 bits (R5). -/
theorem test_wf_device : WellFormed.instr (.ack 0 1) = false ∧ WellFormed.instr (.ack 0xFFFF 1) = false
    ∧ WellFormed.instr (.ack 0x10000 1) = false ∧ WellFormed.instr (.ack 0x0047 1) = true := by decide
/-- A step number of 49 bits (R5), a micro-batch of 4 bits, a tensor of 13 and a tile index of 17 (R127). -/
theorem test_wf_step : WellFormed.instr (.gatherClose (2 ^ 48)) = false ∧ WellFormed.instr (.gatherClose (2 ^ 48 - 1)) = true
    ∧ WellFormed.instr (.sliceResend 0 0 1 8 1 1 1) = false ∧ WellFormed.instr (.sliceResend 0 0 1 7 4096 1 1) = false
    ∧ WellFormed.instr (.rootRetain 1 1 65536 0) = false ∧ WellFormed.instr (.rootRetain 1 1 65535 0) = true := by decide
/-- A page beyond the range, an access beyond the control window, and one of 9 bytes (R222, R555). -/
theorem test_wf_address : WellFormed.instr (.cxlPoison (2 ^ 35)) = false ∧ WellFormed.instr (.registerWrite (2 ^ 28) 8 0) = false
    ∧ WellFormed.instr (.registerWrite 0 9 0) = false ∧ WellFormed.instr (.registerWrite 0 8 0) = true := by decide
/-- A vector of 12 bits, a droop unit above 47, a tier above 2 and a frame above 49,151. -/
theorem test_wf_number : WellFormed.instr (.coalesceExpiry 2048) = false ∧ WellFormed.instr (.droopDetect 48 true) = false
    ∧ WellFormed.instr (.accessLate 3 0 false) = false ∧ WellFormed.instr (.hbmEccError 0 49152 false) = false
    ∧ WellFormed.instr (.hbmPatrol [(0, 49152, true)]) = false := by decide
/-- A key that is not 97 bytes, a nonce that is not 32, a certificate slot above 7, and 26 audit entries. -/
theorem test_wf_bytes : WellFormed.instr (.keyEnrol [] none) = false ∧ WellFormed.instr (.challenge 0 []) = false
    ∧ WellFormed.instr (.getCertificate 8 0 0) = false ∧ WellFormed.instr (.getAudit 0 26) = false
    ∧ WellFormed.instr (.getAudit 0 25) = true := by decide
/-- A requester above 63 and a class above 15 at an arbiter, and an upset outside the array. -/
theorem test_wf_unit : WellFormed.instr (.arbDecision 0 ⟨0, [⟨1, 64, 0, 0⟩]⟩ false) = false ∧ WellFormed.instr (.arbDecision 0 ⟨0, [⟨16, 1, 0, 0⟩]⟩ false) = false
    ∧ WellFormed.instr (.passEnd 0 0 0 [⟨2, 0, 0, 0⟩]) = false ∧ WellFormed.instr (.passEnd 0 0 0 [⟨1, 4095, 127, 0⟩]) = true := by decide
/-- A gradient contribution. -/
def contributionOf (vals : List Nat) : Contribution := ⟨1, 0, 0, 1, 0, 0, false, false, false, 1, vals⟩
/-- A scale set of one record. -/
def scaleSetOf (r : ScaleRec) : ScaleSet := ⟨1, [r], [], 0, 0, [], []⟩
/-- A gradient contribution with a value wider than its form, and a scale record out of range. -/
theorem test_wf_value :
    WellFormed.instr (.gristAdd (contributionOf [2 ^ 32])) = false ∧ WellFormed.instr (.gristAdd (contributionOf [2 ^ 32 - 1])) = true
    ∧ WellFormed.instr (.scaleSetArrive 0 (scaleSetOf ⟨0, 128, .e4m3, .weight, 0⟩)) = false
    ∧ WellFormed.instr (.scaleSetArrive 0 (scaleSetOf ⟨0, 127, .e4m3, .weight, 0⟩)) = true := by decide

/-- Every number check refuses the first number beyond its width (R5, R13). -/
theorem test_wf_widths : WellFormed.fits 4 16 = false ∧ WellFormed.dev 65536 = false ∧ WellFormed.epoch (2 ^ 32) = false
    ∧ WellFormed.mb 8 = false ∧ WellFormed.table 4096 = false ∧ WellFormed.row (2 ^ 40) = false ∧ WellFormed.tensor 4096 = false
    ∧ WellFormed.tileIx 65536 = false ∧ WellFormed.range (2 ^ 56) = false ∧ WellFormed.page (2 ^ 35) = false
    ∧ WellFormed.control (2 ^ 28) = false ∧ WellFormed.crc (2 ^ 32) = false ∧ WellFormed.vc 8 = false
    ∧ WellFormed.tag (2 ^ 64) = false ∧ WellFormed.digest [] = false ∧ WellFormed.leaf (List.replicate 49 0) = false := by decide
/-- A vote word and frame. -/
def voteFrameOf (child step : Nat) : VoteFrame := ⟨child, false, ⟨{}, false, 0, 0, step, 1, 0⟩, [], false, false⟩
/-- The vote's words: a step of 49 bits, a child that is no device, a write, a decision, an order, a barrier word and a sample list beyond their target's width. -/
theorem test_wf_vote : WellFormed.voteWord (voteFrameOf 1 (2 ^ 48)).word = false ∧ WellFormed.voteFrame (voteFrameOf 0 1) = false
    ∧ WellFormed.voteFrame (voteFrameOf 1 1) = true ∧ WellFormed.stepWrite ⟨2 ^ 32, [], 1, 0⟩ = false
    ∧ WellFormed.decisionMsg ⟨1, 1, .apply, {}, [], 2 ^ 32, 0, [], none, 0⟩ = false
    ∧ WellFormed.decisionMsg ⟨1, 1, .apply, {}, [], 1, 0, [], none, 0⟩ = true
    ∧ WellFormed.orderMsg ⟨0, 2 ^ 48, 0, 0, 0⟩ = false ∧ WellFormed.barrierWord ⟨0, 1, 0, 0, 0, 0, 1, false⟩ = false
    ∧ WellFormed.sampleList ⟨0, 1, 256, 1, true, []⟩ = false ∧ WellFormed.sampleList ⟨0, 1, 0, 16385, true, []⟩ = false := by decide
/-- Lookups and gradients: a row of 41 bits, a source that is no device, a marker and a replica message beyond a width. -/
theorem test_wf_rows : WellFormed.lkpReq ⟨1, 1, 0, 0, 2 ^ 40, 0, 0⟩ = false ∧ WellFormed.lkpRsp ⟨0, 0, 0, 0, 0, none⟩ = false
    ∧ WellFormed.contribution (contributionOf [2 ^ 32]) = false ∧ WellFormed.gatherMarker ⟨1, 1, 2 ^ 32, 0⟩ = false
    ∧ WellFormed.replMsg (.endMark 0 1 0) = false ∧ WellFormed.replMsg (.sum 1 1 0 0 1 [2 ^ 48] 0) = false
    ∧ WellFormed.digestFrame (.shard 1 1 false 4096 0 []) = false ∧ WellFormed.shardXfer ⟨1, 0, false, 4096, 0, 0, [], []⟩ = false := by
  decide
/-- Dense traffic: a slice's rows field, a node's index, a root's tensor and a tile's digest beyond their width. -/
theorem test_wf_tiles : WellFormed.slice ⟨1, 1, 0, 0, 0, 0, 0, 0, 128, 0, 0, []⟩ = false
    ∧ WellFormed.slice ⟨1, 1, 0, 0, 0, 0, 0, 0, 127, 0, 0, []⟩ = true
    ∧ WellFormed.redNode ⟨1, 1, 0, 0, 0, 0, 0, 0, 65536, 0, []⟩ = false ∧ WellFormed.retRoot ⟨1, 0, 1, 4096, 0, 0, 0, [], 0⟩ = false
    ∧ WellFormed.wcTile ⟨1, 0, 0, 0, 0, 1, [], [], List.replicate 49 0, 0⟩ = false
    ∧ WellFormed.scaleRec ⟨0, 0, .e4m3, .weight, 128⟩ = false ∧ WellFormed.scaleSet ⟨1, [], [], 16, 0, [], []⟩ = false := by decide
/-- A frame. -/
def frameOf (op hops : Nat) : Frame := ⟨2, 1, op, 0, false, 0, hops, 1, false, true, 0, 0, 0, 0, true, []⟩
/-- The fabric: an opcode of 9 bits, hops of 5, a flit's sequence of 13, a rate code, and members that are no devices. -/
theorem test_wf_fabric : WellFormed.frame (frameOf 256 0) = false ∧ WellFormed.frame (frameOf 1 16) = false
    ∧ WellFormed.frame (frameOf 1 15) = true ∧ WellFormed.flit ⟨.data, 0, 0, 4096, 0, 0, 0, 0, []⟩ = false
    ∧ WellFormed.linkInit ⟨0, 4, 0, 0, [], 0, 1, []⟩ = false
    ∧ WellFormed.ethPacket ⟨0, 1, 0, 0, 0, false, false, false, false, 0, false, none, 0, 0, 0, []⟩ = false
    ∧ WellFormed.memberRec ⟨1, [0], [], [], [], none⟩ = false ∧ WellFormed.memberRec ⟨1, [], [], [], [1, 2], none⟩ = true := by decide
/-- Units, keys and samples: an arbiter class, an upset's half, a signature, an image, a slot, a manifest, a repair and the sensors. -/
theorem test_wf_blocks : WellFormed.arbReq ⟨16, 0, 0, 0⟩ = false ∧ WellFormed.upset ⟨0, 4096, 0, 0⟩ = false
    ∧ WellFormed.sig ⟨2 ^ 128, 0, 0⟩ = false ∧ WellFormed.sigOpt (some ⟨2 ^ 128, 0, 0⟩) = false
    ∧ WellFormed.image ⟨true, 2 ^ 32, 0, 1, false, 0, [], [], [], [], [], ⟨0, 0, 0⟩⟩ = false
    ∧ WellFormed.fwSlot ⟨0, 65536, [], ⟨0, 0, 0⟩⟩ = false ∧ WellFormed.manifest ⟨[], 0, [], [], [], [], [], [], 0, 49430, [], []⟩ = false
    ∧ WellFormed.repair ⟨0, 0, .row, 256, 0, 0⟩ = false ∧ WellFormed.power ⟨0, 0, 0, []⟩ = false
    ∧ WellFormed.thermal ⟨[], []⟩ = false := by decide

/-! ## Worked examples of the spec -/

/-- The FP32 value 0x3FC0_3000 in M19: TRUNC gives 0x1_FE01 and RNE meets a tie and gives 0x1_FE02 (after R59). -/
theorem test_m19_tie : (toM19 false 0x3FC03000).1 = 0x1FE01 ∧ (toM19 true 0x3FC03000).1 = 0x1FE02 := by decide +kernel
/-- M19 operands of a worked chunk. -/
def m19s (l : List (Nat × Nat)) : List (Val × Val) := l.map fun p => (decodeFloat fmtM19 p.1, decodeFloat fmtM19 p.2)
/-- The chunk of three products: A22 code 0x0F_EC10, and 0x3FB0_4000 in an accumulator at +0 (after R66). -/
theorem test_chunk_truncates :
    (encodeFloat fmtA22 false .trunc (chunkToA22 ((m19s [(0x1FE00, 0x1FD00), (0x20200, 0x5F800), (0x1FC01, 0x1FC01)]).map
      fun p => valMul p.1 p.2))).1 = 0x0FEC10
    ∧ (addChunk (0, {}) (m19s [(0x1FE00, 0x1FD00), (0x20200, 0x5F800), (0x1FC01, 0x1FC01)])).1 = 0x3FB04000 := by decide +kernel
/-- The chunk of 4.0 × 4.0 and a small negative product: A22 code 0x10_5FFF with either rounding of the operand (after R66). -/
theorem test_chunk_aligns :
    (encodeFloat fmtA22 false .trunc (chunkToA22 ((m19s [(0x20400, 0x20400), (0x1FE01, 0x5B800)]).map fun p => valMul p.1 p.2))).1 = 0x105FFF
    ∧ (encodeFloat fmtA22 false .trunc (chunkToA22 ((m19s [(0x20400, 0x20400), (0x1FE02, 0x5B800)]).map fun p => valMul p.1 p.2))).1
      = 0x105FFF := by decide +kernel
/-- Three contributions to a row element with x_t = −40: ties go to even, and the sum is 1,048,572 (after R71). -/
theorem test_fx48_sum :
    [(toFX48 (-40) 0x35800004).1, (toFX48 (-40) 0xACC00000).1, (toFX48 (-40) 0x2BC00000).1] = [1048576, -6, 2]
    ∧ (fxAdd (fxAdd 2 (-6)).1 1048576).1 = 1048572 := by decide +kernel
/-- Keyed dither of 0x3F81_C000 into BF16 with two values of u (after R76). -/
theorem test_dither_bf16 : (toBF16 (.kd 0x4A12F3) 0x3F81C000).1 = 0x3F82 ∧ (toBF16 (.kd 0x2FFFFF) 0x3F81C000).1 = 0x3F81 := by
  decide +kernel
/-- The weight scale of observations up to 3.2 with m = 1, and the code of the master 0.8 (after R85). -/
theorem test_weight_scale : deriveFloat .e4m3 0x404CCCCD 1 = (-6, false)
    ∧ (narrowCode ⟨0, -6, .e4m3, .weight, 0⟩ .rne 0x3F4CCCCD).1 = 0x65 := by decide +kernel
/-- The INT8 product of four k: steps, activation codes, and the rescaled result 0xBD2E_3D7B (after R97). -/
theorem test_int8_product :
    deriveInt false 0x40A00000 0 (-128) = (20561, -20, false) ∧ deriveInt false 0x3F000000 0 0 = (16514, -22, false)
    ∧ [0, 0x3F000000, 0x3F800000, 0x40000000].map (fun x => toSigned 8 (narrowCode ⟨20561, -20, .i8, .activation, -128⟩ .rne x).1)
      = [-128, -103, -77, -26]
    ∧ (dotInt (0, false) [(-128, 10), (-103, -20), (-77, 127), (-26, -64)]).1 = -7335
    ∧ (rescaleToF32 (-7335) (-128) 53 (20561 * 16514) 42).1 = 0xBD2E3D7B := by decide +kernel
/-- The bag of three classes: 0.8125, −100,000 × 2^−22 and 0.25 with weights 1.0, 0.5 and 2.0 give 0x3FA6_7960 (after R269). -/
theorem test_bag_of_three :
    (decodeElem .W 0x3C800000 0x65).1 = 0x3F500000 ∧ (decodeElem .H 0 0x3E80).1 = 0x3E800000
    ∧ (f32Fma 0x40000000 (decodeElem .H 0 0x3E80).1 (f32Fma 0x3F000000 (decodeElem .C 0x3B9C4000 0xB).1
        (f32Fma 0x3F800000 (decodeElem .W 0x3C800000 0x65).1 0).1).1).1 = 0x3FA67960 := by decide +kernel
/-- The row of table 9 in step 80,412: ADAGRAD's new weights and state (after R305). -/
theorem test_adagrad_row :
    (optRow ⟨1, 0x3D800000, 0x30800000, 0, 0⟩ [0x3F000000, 0xBE800000, 0x3E000000, 0x3D800000] [0x3F000000, 0x3F800000, 0xBEC00000, 0]
      (optRead 1 (leBytes 16 0x3F270000))).1 = [0x3EF00000, 0xBEA00000, 0x3E180000, 0x3D800000]
    ∧ (optRow ⟨1, 0x3D800000, 0x30800000, 0, 0⟩ [0x3F000000, 0xBE800000, 0x3E000000, 0x3D800000] [0x3F000000, 0x3F800000, 0xBEC00000, 0]
      (optRead 1 (leBytes 16 0x3F270000))).2.1.sv = 0x3F800000 := by decide +kernel
/-- The same row written back: its step 2^−9, and the codes 0x77, 0xF2, 0x60, and 0x69 or 0x6A by the dither value (after R305). -/
theorem test_row_written_back :
    rowStep .W [0x3EF00000, 0xBEA00000, 0x3E180000, 0x3D800000] = (1, -9)
    ∧ [0x3EF00000, 0xBEA00000, 0x3D800000].map (encodeElem .W (1, -9) 0x800000) = [0x77, 0xF2, 0x60]
    ∧ encodeElem .W (1, -9) 0x3D91A2 0x3E180000 = 0x69 ∧ encodeElem .W (1, -9) 0x800000 0x3E180000 = 0x6A
    ∧ (f32Of (.fin false 1 (-9))) = 0x3B000000 := by decide +kernel
/-- A tile element from four blocks: the tree gives 2^−24, whatever order of arrival would have given (after R320). -/
theorem test_reduction_tree :
    (f32Add 0x3F800000 0x33800000).1 = 0x3F800000 ∧ (f32Add 0x33800000 0xBF800000).1 = 0xBF7FFFFF
    ∧ (f32Add 0x3F800000 0xBF7FFFFF).1 = 0x33800000 := by decide +kernel
/-- UNIT of Quern q05 is 0x1805 (after R566). -/
theorem test_unit_number : unitNo 3 5 = 0x1805 := by decide

/-! ## No row of the opcode table gives bits -/

/-- No word spells a command, and placing one changes nothing. -/
theorem test_no_word : decodeTableWord 8 0x55 = none ∧ State.reset.withFetchWord 8 0x55 = State.reset := ⟨rfl, rfl⟩

/-! ## Witnesses -/

/-- A field in force of a device section. -/
def fieldOf (name : String) (scope v : Nat) : FieldSt :=
  { inst := { name := name, scope := scope, sect := 0, cls := .shadowed, numeric := true, len := 1, value := [v] }, sect := .device }
/-- A loader that holds fields. -/
def ldrOf (l : List (String × Nat × Nat)) : Loader := { fields := l.map fun x => fieldOf x.1 x.2.1 x.2.2 }
/-- A running job of one step with no core of a stage. -/
def wAdmit (slots : KV Nat Slot) : State :=
  { ctl := { started := true, slots := slots }, atl := { runCtx := some 0 }, rcv := { role := .member }
    weir := { ring := [(0, { version := 0, state := .installed })] } }
/-- A sample list of no samples. -/
def wSamples : SampleList := { format := 1, step := 1, mb := 0, count := 0, restZero := true, ids := [] }
/-- A slot of step 1. -/
def wSlot : Slot := { step := 1, mb := 0, ctx := 0, layEpoch := 0, version := 0 }
/-- A state whose step 1 is in a state, with every Quern at `q`. -/
def wStep (p : StepRec) (q : Quern) : State :=
  { ctl := { steps := [(1, p)] }, querns := (List.range 12).map fun k => (k, q)
    weir := { ring := [(1, { version := 1, state := .installed })], ssChecked := [1] } }
/-- The vote root. -/
def wRoot (s : State) : State := { s with ldr := ldrOf [("VOTE_ROOT", 0, 1)], fab := { devId := 1 } }
/-- A Quern whose set of step 1 holds one sum for a row with a state value that is not a number. -/
def wScreen : State :=
  { wStep { st := .gather, gatherEnded := true } { sets := [(1, { entries := [((0, 0), {})] })] } with
    rows := [((0, 0), { role := .home, record := { cls := .F, bytes := [] }, state := [0, 0, 0xC0, 0x7F] })] }
/-- A closing step under a lag of 1. -/
def wLag (n : Nat) (q : Quern) : State :=
  { ctl := { steps := [(n, { st := .gather, gatherEnded := true })] }, querns := [(11, q)], ldr := ldrOf [("STEP_LAG", 0, 1)] }
/-- A vote word. -/
def wWord : VoteWord := { flags := {}, fatal := false, memEpoch := 0, layEpoch := 0, step := 1, count := 1, view := 0 }
/-- The vote frame of a child. -/
def wVote (c : DevId) : VoteFrame := { child := c, weights := false, word := wWord, maxima := [], diffEpoch := false, diffLayout := false }
/-- A decision message. -/
def wDec (d : Decision) : DecisionMsg :=
  { tag := 1, step := 1, decision := d, flags := {}, maxima := [], memEpoch := 0, layEpoch := 0, writes := [], scaleSet := none }
/-- Step 1 next to seal and compared. -/
def wSeal (p : StepRec) (size : Nat) : State :=
  { ctl := { steps := [(1, p)] }, weir := { digests := [(1, { param := some [] })] }, ldr := ldrOf [("STBY_JOURNAL_SIZE", 0, size)] }
/-- A command of one unit. -/
def wCmd (st : Stream) (o : Op) : Cmd := { desc := { op := o, stream := st }, step := 1, index := 0 }
/-- Core 31 with one running command. -/
def wRun (c : Cmd) : State :=
  { cores := [(31, match c.desc.stream with
    | .f => { f := { running := [c] } }
    | .b => { b := { running := [c] } }
    | .u => { u := { running := [c] } })] }
/-- A POOL command on a bag list of one empty bag in the local buffer. -/
def wPoolCmd : Cmd := { wCmd .f .pool with desc := { op := .pool, stream := .f, a := { space := .loc } } }
/-- A STASH_RD command with a chain. -/
def wRead (l : List Op) : Cmd := { wCmd .b .stashRd with desc := { op := .stashRd, stream := .b, chain := l } }
/-- Core 31 with that command and its stash entry resident. -/
def wStash (l : List Op) : State :=
  { cores := [(31, { b := { running := [wRead l] }, lb := { stash := [((0, 0), { blocks := 1, resident := [0] })] } })] }
/-- A command with an output place. -/
def wOut (st : Stream) (o : Op) (p : Space) : Cmd := { wCmd st o with desc := { op := o, stream := st, out := { space := p } } }
/-- A WAIT for a count. -/
def wWait (v : Nat) : Cmd := { wCmd .f .wait with desc := { op := .wait, stream := .f, waitValue := v } }
/-- A command of micro-batch 0 at an index. -/
def wMb (o : Op) (i : Nat) : Cmd := { desc := { op := o, stream := .f, mb := some 0 }, step := 1, index := i }
/-- Core 31 with the end of a micro-batch and one more command of it. -/
def wTwoEnds : State := { cores := [(31, { f := { running := [wMb .fwdEnd 0, wMb .vec 1] } })] }
/-- Core 31 of a running job whose three programs hold one descriptor. -/
def wDecode (k : Core) : State :=
  { ctl := { started := true }, atl := { runCtx := some 0 }, cores := [(31, k)], pow := { doms := [(64, .on)] }
    ldr := ldrOf [("CMD_LEN_F", 0, 1), ("CMD_LEN_B", 0, 1), ("CMD_LEN_U", 0, 1)] }
/-- A STASH_WR of one FP32 element of the local buffer. -/
def wWrite : Cmd := { wCmd .f .stashWr with desc := { op := .stashWr, stream := .f, a := { space := .loc } } }
/-- Core 31 with that command, a reservation of one block, and a Millpond of `n` blocks. -/
def wMill (n : Nat) : State :=
  { cores := [(31, { f := { running := [wWrite] }, lb := { reserves := [(0, { reserved := 1 })] } })]
    ldr := ldrOf [("MP_BLOCKS", 31, n)] }
/-- A PREFETCH of `n` FP32 elements of the range. -/
def wPre (n : Nat) : Cmd := { wCmd .b .prefetch with desc := { op := .prefetch, stream := .b, a := { addr := 4095, space := .range }, dimR := n } }
/-- A transfer of core 31 for step 1. -/
def wXfer (k : XKind) (t : XTarget) : Transfer :=
  { id := 0, kind := k, stream := .f, cls := 0, share := .read, target := t, bytes := 4, step := 1, index := 0, unit := 0 }
/-- Core 31 with a decoded command and transfers, under a hint depth of 1. -/
def wHint (q : List Transfer) : State :=
  { cores := [(31, { f := { queue := [wCmd .f .vec] }, feed := { queue := q } })], ldr := ldrOf [("HR_HINT_DEPTH", 0, 1)] }
/-- A command of two stages. -/
def wChain (o : Op) (n : Nat) : Cmd :=
  { wCmd .f .vec with desc := { op := .vec, stream := .f, chain := [o], out := { space := .range }, dimR := n, passR := n } }
/-- Core 31 with that command and a unit in the hand-over slot before its stage 1. -/
def wHand (o : Op) (n b : Nat) : State :=
  { cores := [(31, { f := { running := [wChain o n] }, hand := [{ stream := .f, step := 1, index := 0, boundary := 0, unit := 0, rows := [] }] })]
    ldr := ldrOf [("LB_F_BLOCKS", 31, b)] }
/-- A pass of one row over one tile. -/
def wPass (id : Nat) : Pass :=
  { id := id, stream := .f, step := 1, mb := 0, index := 0, stage := 0, unit := 0, orient := .rr, fmtA := .fp32, fmtB := .fp32,
    rneA := false, rneB := false, n := 1, tile := {} }
/-- Core 31 with its engine 1 in a state. -/
def wEng (e : Engine) : State := { cores := [(31, { eng := [(1, e)] })] }
/-- A pass that started in cycle 100. -/
def wRunPass : RunPass := { pass := wPass 0, t0 := 100, tag := 0, closed := false }
/-- Core 31 with a block of its last region. -/
def wBlock (b : Nat) (k : Content) : State := { cores := [(31, { lb := { blocks := [(b, { content := k })] } })] }
/-- The stash entry 0 of slot 7 with block 0 in flight or spilled. -/
def wSpill (e : Stash) (q : List Transfer) : State := { cores := [(31, { lb := { stash := [((7, 0), e)] }, feed := { queue := q } })] }
/-- The spill of that block. -/
def wSpillX : Transfer := { wXfer .spill (.range 0 0) with index := 7 * 2 ^ 16, departed := true }
/-- Core 31 with a transfer. -/
def wFlow (x : Transfer) : State := { cores := [(31, { feed := { queue := [x] } })] }
/-- A departed transfer. -/
def wGone (k : XKind) (t : XTarget) : Transfer := { wXfer k t with departed := true }
/-- A resident page of stack 0. -/
def wPage : Page := { state := .resident, pin := false, loc := { tier := .hbm, unit := 0, frame := 0 } }
/-- An empty tile of tensor 0 as the ring stores it. -/
def wTile : StoredTile :=
  { codes := [], csums := [], digest := wcDigest .fp32 (tileKey 0 0 0) 0 [] [], check := crc32c (wcBytes .fp32 [] []) }
/-- A repair of that tile. -/
def wRepair (st : KV (Nat × Nat × Nat) StoredTile) : State :=
  { wFlow { wXfer .demand (.ring 0 0 0) with repair := true } with
    weir := { ring := [(0, { version := 0, state := .installed })], stored := st } }
/-- A request at a port. -/
def wWaits : ArbWait := { cls := 0, requester := 1, arrived := 100, slack := 0 }
/-- A port in a state. -/
def wArb (p : Nat) (a : Arb) : State := { arbs := [(p, a)] }
/-- A lookup of row 0 of table 0 for step 1. -/
def wReq : LkpReq := { src := 2, step := 1, ctx := 0, table := 0, row := 0, ver16 := 0, ref := 0 }
/-- A reply. -/
def wRsp (x : Option RowRec) : LkpRsp := { src := 2, table := 0, row := 0, ver16 := 0, ref := 0, record := x }
/-- A record without elements. -/
def wRec : RowRec := { cls := .F, bytes := [] }
/-- A lookup unit with one index. -/
def wUnit (o : IdxOutcome) : LkpUnit :=
  { ref := 0, core := 31, stream := .f, step := 1, mb := 0, index := 0, unit := 0, table := 0, mode := 0, bf16 := false, bags := [0]
    items := [{ bag := 0, pos := 0, index := 0, weight := 0, out := o }] }
/-- A gather marker of device 2. -/
def wMark : GatherMarker := { src := 2, step := 1, layEpoch := 0, count := 0 }
/-- A state whose step 1 is at `p`. -/
def wAt (p : StepRec) : State := { ctl := { steps := [(1, p)] } }
/-- A move of page 0 to pooled memory. -/
def wMig (d : List Nat) (r : Nat) (f g : Bool) : Mig :=
  { page := 0, source := { tier := .hbm, unit := 0, frame := 0 }, target := { tier := .cxl, unit := 0, frame := 0 }, dirty := d, round := r
    final := f, flipped := g }
/-- The tier manager with that move in slot 7. -/
def wMoves (m : Mig) : State := { tier := { migs := [(7, m)], pages := [(0, wPage)] } }
/-- A page of pooled memory. -/
def wPooled : Page := { wPage with loc := { tier := .cxl, unit := 1, frame := 0 } }
/-- A faulted page 0 of a region of kind `k`. -/
def wFaulted (k : Nat) : State :=
  { tier := { pages := [(0, { wPage with state := .faulted })] }, ldr := ldrOf [("RANGE_MAP", 0, 2 ^ 35 + k * 2 ^ 73)] }
/-- Port 1 of pooled memory in a state. -/
def wCxl (x : CxlPort) : State := { tier := { cxl := [(1, x)] } }
/-- A slice without elements. -/
def wSlice (c : Nat) : Slice :=
  { src := 2, step := 1, mb := 0, ctx := 0, layEpoch := 0, tensor := 0, tileK := 0, tileN := 0, rows := 0, cols := 0, crc := c, payload := [] }
/-- A node without elements. -/
def wNode (c : Nat) : RedNode :=
  { src := 2, step := 1, layEpoch := 0, ctx := 0, tensor := 0, tileK := 0, tileN := 0, level := 1, index := 0, crc := c, vals := [] }
/-- A retained root without elements. -/
def wRet (c : Nat) : RetRoot := { src := 2, tag := 0, step := 1, tensor := 0, tileK := 0, tileN := 0, crc := c, vals := [] }
/-- A working copy of an empty tile for version 0, with a digest. -/
def wCopy (d : List Byte) : WcTile :=
  { src := 2, tag := 0, tensor := 0, tileK := 0, tileN := 0, version := 0, codes := [], csums := [], digest := d, check := 0 }
/-- A state whose ring holds version 0. -/
def wRing : State := { weir := { ring := [(0, { version := 0, state := .installed })] } }
/-- An empty scale set for version 0, with a digest. -/
def wSet (d : List Byte) : ScaleSet := { version := 0, recs := [], hist := [], backoff := 0, decay := 0, pairs := [], digest := d }
/-- Step 1 with shard 0 of table 0 under repair. -/
def wRepairing (l : List (Bool × Nat × Nat × List Byte)) : State := { weir := { digests := [(1, { repairing := [(true, 0, 0, 2)], refs := l })] } }
/-- A rebuild of row 0 of table 0. -/
def wRebuild : Rebuild := { key := 0, step := 1, cmp := { kind := 0, table := 0, shard := 0, dev := 2 } }
/-- A barrier word of a child. -/
def wBarrier (c : DevId) : BarrierWord :=
  { child := c, step := 1, memEpoch := 0, view := 0, layEpoch := 0, layDigest := 0, count := 1, differs := false }
/-- A shard transfer. -/
def wMove (u : List XferUnit) (d : List Byte) : ShardXfer :=
  { src := 2, tag := 0, dense := false, table := 0, shard := 0, epoch := 1, units := u, digest := d }
/-- A replica's row. -/
def wRowUnit : XferUnit := .replica 1 0 0 { cls := .F, bytes := [] } []
/-- A frame of a read request. -/
def wFrame (d : DevId) : Frame :=
  { dst := d, src := 2, opcode := 1, vc := 1, enc := false, ctx := 0, hops := 0, rev := 2, cont := false, resvZero := true, tag := 7
    step := 1, epoch := 0, counter := 0, tagOk := true, payload := [] }
/-- A manifest that puts every port into a mode, with rates up to 2. -/
def wManifest (m : Nat) : Manifest :=
  { digest := [], pod := 0, modes := List.replicate 16 m, maxRates := List.replicate 16 2, plan := [], alternates := [], domains := []
    pods := [], collector := 0 }
/-- A device in full service with port 15 in a state. -/
def wPort (m : Nat) (p : Port) : State := { pow := { phase := 5 }, atl := { manifest := some (wManifest m) }, fab := { ports := [(15, p)] } }
/-- A LINK_INIT. -/
def wInit : LinkInit := { rev := 1, rates := 0, trayId := 0, pod := 0, manifest := [], port := 0, peerId := 2, bufs := [] }
/-- A flit without a body. -/
def wFlit : Flit := { type := .idle, vc := 0, first := 0, seq := 0, ack := 0, crVc := 0, crCount := 0, crc := 1, body := [] }
/-- A packet. -/
def wEth (f : Option Frame) : EthPacket :=
  { src := 2, dst := 0, vc := 1, psn := 0, ackPsn := 0, ackValid := false, nak := false, ceEcho := false, grantValid := false, grant := 0
    ceMark := false, frame := f }
/-- Ethernet ports with a flow to device 15. -/
def wFlowTo : State :=
  { wPort 2 { state := .up } with
    fab := { ports := [(15, { state := .up })], flows := [((15, 1), { unacked := [(0, wFrame 15)], deadline := 100 })] } }
/-- A heartbeat of device 2. -/
def wBeat : Heartbeat := { src := 2, epoch := 0, live := 0, sealedLo := 0 }
/-- Device 1, which has heard device 2. -/
def wHeard : State := { fab := { devId := 1, heard := [(2, {})] } }
/-- The coordinator of a pod of three devices that hears device 3, which faces device 2. -/
def wPod : State :=
  { rcv := { isCoord := true }, atl := { running := true }
    fab := { devId := 1, graph := [(1, []), (3, [{ port := 0, peer := 2, peerPort := 0 }])], heard := [(3, {})] } }
/-- A membership record of an epoch. -/
def wMember (e : Nat) (f : List DevId) : MemberRec := { epoch := e, failed := f, bindings := [], unbound := [], members := [], voteComplete := none }
/-- A takeover of ID 7. -/
def wTake (g p : Bool) : Takeover := { id := 7, version := 0, cxlGranted := g, pulled := p, roll := none }
/-- A standby header. -/
def wHeader (n : Nat) : StbyHeader :=
  { device := 1, jobId := 1, seq := 1, baseStep := 0, sealedStep := n, memEpoch := 1, layEpoch := 1, head := 0, tail := 0 }
/-- Context 15 running, with a standby image. -/
def wStbyOf (b : Standby) : State := { atl := { runCtx := some 15, running := true, ctxs := [(15, { standby := b })] } }
/-- A section whose digest matches. -/
def wSection (t : SectType) (c : Option CtxId) (d : DevId) : Section :=
  { type := t, ctx := c, device := d, job := 0, digestOk := true, offset := 1024 }
/-- An image signed under key 1. -/
def wImage (p : Bool) (b : List Byte) (l : List Section) (fs : List FieldInst) : Image :=
  { wellFormed := true, length := 4096, buildId := 0, deviceId := 0, package := p, svn := 0, baseDigest := b, numericId := []
    sections := l, fields := fs, jobs := [], sig := { keyId := 1, r := 0, s := 0 } }
/-- A full image without fields. -/
def wFull : Image := wImage false [] [wSection .device none 0, wSection .fieldIndex none 0] []
/-- A full image that gives core 0 a stage. -/
def wStaged : Image :=
  wImage false [] [wSection .device none 0, wSection .fieldIndex none 0]
    [{ name := "STAGE_OF_CORE", scope := 0, sect := 0, cls := .locked, numeric := false, len := 1, value := [0] }]
/-- Atluta running with owner key 1 enrolled. -/
def wAtl (cs : KV Nat Ctx) (k : List Nat) : State :=
  { atl := { running := true, keys := [(1, [])], ctxs := cs }, cores := k.map fun c => (c, { eng := [(0, { retired := true }), (1, { retired := true })] }) }
/-- That device with context 15 running an image. -/
def wForce : State := { wAtl [] [] with atl := { running := true, keys := [(1, [])], runCtx := some 15 }, ldr := { image := some wFull } }
/-- The other checks pass too. -/
def wField (n : String) (k : FieldClass) (b : Bool) (t : SectType) : FieldSt :=
  { inst := { name := n, scope := 0, sect := 0, cls := k, numeric := b, len := 4096, value := [1] }, sect := t }
/-- A device with that field alone, and contexts. -/
def wOne (f : FieldSt) (cs : KV Nat Ctx) : State := { ldr := { fields := [f] }, atl := { ctxs := cs } }
/-- The vote root, or a member, with a field of the JOB section. -/
def wJobField (r : DevId) : State :=
  { ldr := { fields := [wField "TIER_UP_POP" .shadowed false .job, fieldOf "VOTE_ROOT" 0 1] }, fab := { devId := r } }
/-- A write of the root that is not complete. -/
def wRootWrite (c : Bool) : State :=
  { ldr := { rootWrites := [{ w := { index := 0, value := [1], target := 9, serial := 7 }, complete := c, attached := false }] } }
/-- An image with context 15 and members 1 and 2. -/
def wJobImage : Image :=
  wImage false [] [wSection .device none 0, wSection .fieldIndex none 0, wSection .context (some 15) 0, wSection .member (some 15) 1,
    wSection .member (some 15) 2] []
/-- Device 1 in full service with that image in force and the vote tree of root 1 and mirror 2. -/
def wStart (cs : KV Nat Ctx) (r : Option CtxId) : State :=
  { pow := { phase := 5 }, fab := { devId := 1 }, atl := { running := true, ctxs := cs, runCtx := r }
    ldr := { image := some wJobImage
             fields := [fieldOf "VOTE_ROOT" 0 1, fieldOf "VOTE_MIRROR" 0 2, { fieldOf "VOTE_PARENT" 0 1 with device := 2 }] } }
/-- Atluta running context 15. -/
def wRunning : State := { atl := { running := true, runCtx := some 15 } }
/-- An entry of the repair map for engine 1 of core 31. -/
def wEntry (k : RepairKind) : RepairEntry := { core := 31, eng := 1, kind := k, index := 129, origin := 0, stepLo := 0 }
/-- Step 1 skipped and next to seal on a device with a spool of `v` bytes, log sectors and a snapshot of step 0 wanted. -/
def wSpool (v : Nat) (l : KV Nat (List LogForm)) : State :=
  { ctl := { steps := [(1, { st := .seal, decided := some .skip })], snapTarget := some 0, snapDone := false }
    weir := { digests := [(1, { param := some [] })] }
    atl := { running := true, runCtx := some 15, logSectors := l }, ldr := ldrOf [("DIFF_SPOOL_SIZE", 0, v)] }
/-- The bytes of a step on the way to the spool. -/
def wBytes (s : State) (n : Nat) : List Byte :=
  (s.segmentRecords n).flatMap (·.bytes) ++ (s.stepRecord n).fixed ++ (s.stepRecord n).form.sig ++ (s.stepRecord n).lists
/-- The bytes of a snapshot in the spool. -/
def wSnap (s : State) (n : Nat) : Nat := 128 + (s.snapshotBody n).length + (s.snapshotEnd n (s.snapshotBody n)).length
/-- A spool of just their size. -/
def wSize : Nat := 64 + (wBytes (wSpool 0 []) 1).length
/-- A form of the log. -/
def wForm : LogForm := { step := 1, device := 1, flags := 0, digest := [], sig := [] }
/-- A firmware slot of a floor. -/
def wSlotOf (n : Nat) : FwSlot := { version := 1, svn := n, image := [], sig := { keyId := 1, r := 0, s := 0 } }
/-- A device with the keys 1 and 2, and a floor. -/
def wKeys (n : Nat) : State := { atl := { running := true, keys := [(1, []), (2, [])], fwFloor := n, fw0 := some (wSlotOf 1) } }
/-- A signature under key 1. -/
def wSig : Option Sig := some { keyId := 1, r := 0, s := 0 }
/-- A slot verifies when its signature does and it is not below the floor. -/
def wSpdm (b : Bool) : State :=
  { atl := { running := true, spdmVersion := true, spdmCaps := true, spdmAlgs := true
             sessions := [(0, { established := b, keyGen := 0, beats := 0 })] } }
/-- Bring-up in a phase with every domain of it on. -/
def wPhase (k : Nat) : State :=
  { pow := { started := true, phase := k, pllLock := true, trained := List.range 8, discovered := true, doms := (List.range 112).map fun d => (d, .on) } }
/-- Phase 2 with stack 7 on, after some attempts to train it. -/
def wTrain (n : Nat) : State := { pow := { started := true, phase := 2, doms := [(72, .on)], attempts := [(7, n)] } }
/-- Full service with a sample of the package power. -/
def wSample (w : Nat) : State := { pow := { phase := 5, samples := [{ pkg := w, compute := 0, fabric := 0, hbm := [] }] } }
/-- A device whose host port is up. -/
def wHost : State := { pow := { hostUp := true, vaux := true }, atl := { running := true } }
/-- A raised condition of a class. -/
def wRaised (c : FaultClass) : Raised := { code := 1, cls := c, unit := 0, ctx := none, step := 0, detail := 0, detail2 := 0 }
/-- A device with that condition raised. -/
def wFault (c : FaultClass) : State := { wHost with evt := { raised := [wRaised c] } }
/-- A device with vector 2047 in a state. -/
def wVec (v : Vec) : State := { wHost with evt := { vecs := [(2047, v)] } }
/-- A firmware slot at or above the floor verifies when its signature does. -/
theorem wFw (hv : ∀ a b c d, Config.ecdsaVerify a b c d = true) (s : State) (f : FwSlot)
    (h : f.image.length ≤ fwSlotMax ∧ s.atl.fwFloor ≤ f.svn) : s.fwOk f = true := by
  simp [State.fwOk, hv, h.1, h.2]
/-- A command signed under an enrolled key passes. -/
theorem wSigned (hv : ∀ a b c d, Config.ecdsaVerify a b c d = true) (s : State) (g : Sig) (n : Nat) (b : List Byte)
    (h : (s.enrolled g.keyId).isSome = true) : s.signedOk n b (some g) = true := by
  obtain ⟨p, hp⟩ := Option.isSome_iff_exists.mp h
  simp [State.signedOk, State.signedBy, hp, hv]
/-- The first checks of an image signed under an enrolled key. -/
theorem wVerified (hv : ∀ a b c d, Config.ecdsaVerify a b c d = true) (s : State) (i : Image)
    (h1 : ¬ (i.wellFormed = false ∨ 16777152 < i.length ∨ sectionsOk i = false ∨ tableFits i = false))
    (h2 : (s.enrolled i.sig.keyId).isSome = true) (h3 : ¬ i.svn < s.atl.imageFloor) (h4 : i.sections.all (·.digestOk) = true) :
    s.verify4 i = .ok := by
  obtain ⟨p, hp⟩ := Option.isSome_iff_exists.mp h2
  simp only [State.verify4, if_neg h1, State.signedBy, hp, hv, if_neg h3, h4]
  simp
/-- The other checks pass too. -/
theorem wStored (s : State) (i : Image) (h : s.verify4 i = .ok) (hp : i.package = false) (hf : s.fieldsOk i (fieldsOf i) = true) :
    s.storeEnd i = .ok := by
  simp [State.storeEnd, State.verify, h, hp, hf]
/-- A field of no name. -/
def wNoField : FieldInst := { name := "", scope := 0, sect := 0, cls := .locked, numeric := true, len := 1, value := [0] }
/-- A field that puts core 0 on stage 0. -/
def wStageField : List FieldInst := [{ name := "STAGE_OF_CORE", scope := 0, sect := 0, cls := .locked, numeric := false, len := 1, value := [0] }]
/-- The device with the full image in force and context 15 held or not, with no job. -/
def wHeld (b : Bool) : State := { atl := { running := true, keys := [(1, [])], ctxs := [(15, { loaded := b })] }, ldr := { image := some wFull } }
theorem wImage_base (p : Bool) (b : List Byte) (l : List Section) (fs : List FieldInst) : (wImage p b l fs).baseDigest = b := rfl
/-- The grant that a lease of ID `d` gives. -/
def wGrant (d : DevId) (u : State) : State := match u.rcv.takeover with
  | none => u
  | some x => if x.id = d then u.updRcv fun r => { r with takeover := some { x with cxlGranted := true } } else u
/-- The job coordinator `me` that has asked the fabric manager about ID 7. -/
def wLease (me : DevId) (m : Option MemberRec) : State :=
  { rcv := { isJobCoord := true, fmAsked := [(7, 0)], finalAt := 1, fmBound := [7], record := m }, fab := { devId := me } }
/-- Device 1 in full service whose image has context 15 with the members 1 and 9, on two trays, and a digest of the snapshot it starts from. -/
def wApart (d : Option (List Byte)) : State :=
  { pow := { phase := 5 }, fab := { devId := 1 }, atl := { running := true }
    ldr := { image := some { wImage false [] [wSection .device none 0, wSection .fieldIndex none 0, wSection .context (some 15) 0, wSection .member (some 15) 1, wSection .member (some 15) 9] [] with jobs := [{ ctx := 15, uprog := [], rowInit := [], tileInit := [], scalarInit := [], histInit := none, snapshotDigest := d, s0 := 0, layEpoch := 1 }] }
             fields := [fieldOf "VOTE_ROOT" 0 1, fieldOf "VOTE_MIRROR" 0 9, { fieldOf "VOTE_PARENT" 0 1 with device := 9 }] } }
/-- A core of a job whose F program lies in no region. -/
def wDecodeFault : State :=
  { wDecode {} with ldr := { (wDecode {}).ldr with image := some { wJobImage with jobs := [{ ctx := 0, progs := [(.f, [0])], uprog := [], rowInit := [], tileInit := [], scalarInit := [], histInit := none, snapshotDigest := none, s0 := 0, layEpoch := 1 }] } } }
/-- A POOL whose bag list is none. -/
def wBadList : State := { cores := [(31, { f := { running := [wPoolCmd] }, lb := { mem := [(0, 2)] } })] }
/-- A closed step whose screen comes too late for a row that cannot narrow. -/
def wLateOpt : State := { wScreen with ctl := { steps := [(1, { st := .closed })] } }
/-- Whether a rebuild waits past the limit at time 0. -/
def wLate (r : Rebuild) : Bool := match r.askedAt with
  | some t => !r.fromHost && decide (t + ({} : State).field "REBUILD_HOST_LIMIT" * 1000000 ≤ 0)
  | none => false
/-- The fault of an item. -/
def wBadItem (x : LkpItem) : Option (LkpItem × Nat) := match x.out with
  | .fault k => some (x, k)
  | _ => none
/-- What an INVALIDATE drops. -/
def wOld (x : XTarget) : Bool := match x with
  | .ring _ _ v => !(((wRun (wCmd .u .invalidate)).updCore 31 fun k => k.takeUnit .u (wCmd .u .invalidate) 0).installed v)
  | .range _ _ => false
/-- One demand window for the first command that fetches. -/
def wGo (a : State) (l : List Cmd) : State := match fetchNext l with
  | none => a
  | some cmd => State.fetchWindow 31 5 a cmd
/-- The read-back of block 0 of the stash entry 0 of slot 0. -/
def wBack (l : LocalBuf) : LocalBuf :=
  if kvHas (0 / 2 ^ 16, 0 % 2 ^ 16) l.stash = true then l.updStash (0 / 2 ^ 16) (0 % 2 ^ 16) fun e => e.putBack 0 [] else l
/-- They do not depend on the size of the spool. -/
theorem wBytes_spool (v : Nat) (l : KV Nat (List LogForm)) : wBytes (wSpool v l) 1 = wBytes (wSpool 0 []) 1 := by
  have a : ∀ v l, (wSpool v l).segmentRecords 1 = [] := fun _ _ => rfl
  have b : (wSpool v l).stepRecord 1 = (wSpool 0 []).stepRecord 1 := rfl
  unfold wBytes; rw [a, a, b]
theorem wSnap_spool (v : Nat) : wSnap (wSpool v []) 0 = wSnap (wSpool 0 []) 0 := rfl
/-- The room of that spool. -/
theorem wSpool_room (v : Nat) (l : KV Nat (List LogForm)) (n : Nat) : (wSpool v l).spoolRoom n = decide (0 + n ≤ v) := rfl
theorem wSize_room (l : KV Nat (List LogForm)) (b : List Byte) (h : b = wBytes (wSpool wSize l) 1) :
    (wSpool wSize l).spoolRoom (64 + b.length) = true := by
  rw [h, wSpool_room, wBytes_spool]; simp [wSize]
theorem wSnap_room : (wSpool (wSnap (wSpool 0 []) 0) []).spoolRoom (wSnap (wSpool (wSnap (wSpool 0 []) 0) []) 0) = true := by
  rw [wSpool_room, wSnap_spool]; simp
theorem wBack_some (l : LocalBuf) (h : kvHas (0 / 2 ^ 16, 0 % 2 ^ 16) l.stash = true) :
    wBack l = l.updStash (0 / 2 ^ 16) (0 % 2 ^ 16) fun e => e.putBack 0 [] := if_pos h
theorem wBack_none (l : LocalBuf) (h : kvHas (0 / 2 ^ 16, 0 % 2 ^ 16) l.stash = false) : wBack l = l := if_neg (by rw [h]; exact Bool.noConfusion)

/-- States and operands that meet the hypotheses of StepRunsTheFrontCommand, clause by clause. -/
theorem wit_StepRunsTheFrontCommand :
    (∃ (c : Instr) (rest : List Instr) (s : State), s.pending = c :: rest)
    ∧ (∃ (s : State), s.pending = []) :=
  ⟨⟨_, _, { pending := [.idcode] }, rfl⟩,
   ⟨{}, by decide +kernel⟩⟩

/-- States and operands that meet the hypotheses of SlotsAreTakenAndFreed, clause by clause. -/
theorem wit_SlotsAreTakenAndFreed :
    (∃ (s : State) (k : Nat) (at' : Nat) (cyc : Nat) (l : SampleList) (j : _), s.admits = true ∧ s.requested s.toAdmit.1 s.toAdmit.2 = true ∧ (s.at'
      at').admitCauses s.toAdmit.1 cyc (some l) = [] ∧ (s.at' at').freeMbSlot cyc = some k ∧ j ≠ k)
    ∧ (∃ (s : State) (at' : Nat) (cyc : Nat) (feed : Option SampleList), s.admits = true ∧ s.requested s.toAdmit.1 s.toAdmit.2 = true ∧ ((s.at'
      at').admitCauses s.toAdmit.1 cyc feed ≠ [] ∨ (s.at' at').freeMbSlot cyc = none))
    ∧ (∃ (s : State), (s.admits = false ∨ s.requested s.toAdmit.1 s.toAdmit.2 = false))
    ∧ (∃ (s : State) (k : Fin 8) (x : Slot) (j : _), s.slot k.val = some x ∧ s.releasable x = true ∧ j ≠ k.val)
    ∧ (∃ (s : State) (k : Fin 8) (x : Slot), s.slot k.val = some x ∧ s.releasable x = true ∧ (s.stepOf x.step).released + 1 = s.mbs)
    ∧ (∃ (s : State) (k : Fin 8), s.slot k.val = none)
    ∧ (∃ (s : State) (k : Fin 8) (x : Slot), s.slot k.val = some x ∧ s.releasable x = false) :=
  ⟨⟨wAdmit [], 0, 0, 0, wSamples, 1, by decide +kernel⟩,
   ⟨wAdmit [(0, wSlot)], 1, 1, none, by decide +kernel⟩,
   ⟨{}, by decide +kernel⟩,
   ⟨wAdmit [(0, wSlot)], 0, _, 1, rfl, by decide +kernel⟩,
   ⟨wAdmit [(0, wSlot)], 0, _, rfl, by decide +kernel⟩,
   ⟨{}, 7, by decide +kernel⟩,
   ⟨{ wAdmit [(0, wSlot)] with ldr := ldrOf [("STAGE_OF_CORE", 0, 0)] }, 0, _, rfl, by decide +kernel⟩⟩

/-- States and operands that meet the hypotheses of CloseAndApplyEndMoveTheStep, clause by clause. -/
theorem wit_CloseAndApplyEndMoveTheStep :
    (∃ (s : State) (n : Nat), s.closed n = true)
    ∧ (∃ (s : State) (n : Nat), s.closed n = false)
    ∧ (∃ (s : State) (n : Nat), s.applyEnded n = true ∧ (s.stepOf n).decided = some .skip ∧ s.isRoot = false)
    ∧ (∃ (s : State) (n : Nat), s.applyEnded n = true ∧ (s.stepOf n).decided = some .skip ∧ s.isRoot = true)
    ∧ (∃ (s : State) (n : Nat), s.applyEnded n = true ∧ (s.stepOf n).decided ≠ some .skip)
    ∧ (∃ (s : State) (n : Nat), s.applyEnded n = false) :=
  ⟨⟨wStep { st := .gather, gatherEnded := true } { screened := [1], reserved := [(1, 0)] }, 1, by decide +kernel⟩,
   ⟨{}, 1, by decide +kernel⟩,
   ⟨wStep { st := .apply, decided := some .skip } { doneVersion := 1 }, 1, by decide +kernel⟩,
   ⟨wRoot (wStep { st := .apply, decided := some .skip } { doneVersion := 1 }), 1, by decide +kernel⟩,
   ⟨wStep { st := .apply, decided := some .apply } { doneVersion := 1 }, 1, by decide +kernel⟩,
   ⟨{}, 1, by decide +kernel⟩⟩

/-- States and operands that meet the hypotheses of ScreenAndLogReserve, clause by clause. -/
theorem wit_ScreenAndLogReserve :
    (∃ (s : State) (q : QuernId) (n : Nat), s.closing n = true ∧ s.setComplete q n = true ∧ n - 1 ≤ (s.quern q).doneVersion ∧ (s.quern
      q).screened.contains n = false)
    ∧ (∃ (s : State) (q : QuernId) (n : Nat), (s.closing n = false ∨ s.setComplete q n = false ∨ (s.quern q).doneVersion < n - 1 ∨ (s.quern
      q).screened.contains n = true))
    ∧ (∃ (s : State) (q : QuernId) (n : Nat), s.closing n = true ∧ s.setComplete q n = true ∧ kvHas n (s.quern q).reserved = false ∧ s.lag = 0)
    ∧ (∃ (s : State) (q : QuernId) (n : Nat), s.closing n = true ∧ s.setComplete q n = true ∧ kvHas n (s.quern q).reserved = false ∧ s.lag ≠ 0 ∧ (s.quern
      q).logUsed + s.logNeed q n ≤ s.field "QRN_LOG_SIZE" q.val)
    ∧ (∃ (s : State) (q : QuernId) (n : Nat), s.closing n = true ∧ s.setComplete q n = true ∧ kvHas n (s.quern q).reserved = false ∧ s.lag ≠ 0 ∧ s.field
      "QRN_LOG_SIZE" q.val < (s.quern q).logUsed + s.logNeed q n ∧ n ≤ s.ctl.sealed + 1)
    ∧ (∃ (s : State) (q : QuernId) (n : Nat), s.closing n = true ∧ s.setComplete q n = true ∧ kvHas n (s.quern q).reserved = false ∧ s.lag ≠ 0 ∧ s.field
      "QRN_LOG_SIZE" q.val < (s.quern q).logUsed + s.logNeed q n ∧ s.ctl.sealed + 1 < n)
    ∧ (∃ (s : State) (q : QuernId) (n : Nat), (s.closing n = false ∨ s.setComplete q n = false ∨ kvHas n (s.quern q).reserved = true)) :=
  ⟨⟨wScreen, 0, 1, by decide +kernel⟩,
   ⟨wScreen, 0, 2, by decide +kernel⟩,
   ⟨wScreen, 0, 1, by decide +kernel⟩,
   ⟨wLag 1 {}, 0, 1, by decide +kernel⟩,
   ⟨wLag 1 { log := [{ table := 0, row := 0, older := 0, record := { cls := .F, bytes := [] } }] }, 11, 1, by decide +kernel⟩,
   ⟨wLag 2 { log := [{ table := 0, row := 0, older := 0, record := { cls := .F, bytes := [] } }] }, 11, 2, by decide +kernel⟩,
   ⟨wScreen, 0, 2, by decide +kernel⟩⟩

/-- States and operands that meet the hypotheses of VoteWordGoesUpOnce, clause by clause. -/
theorem wit_VoteWordGoesUpOnce :
    (∃ (s : State) (n : Nat), (s.stepOf n).st = .closed ∧ s.ctl.sealed + 1 = n ∧ s.lateOpt n = false)
    ∧ (∃ (s : State) (t : State) (n : Nat), t = s.updStep n (fun p => { p with flags := { p.flags with opt := true } }) ∧ (s.stepOf n).st = .closed ∧
      s.ctl.sealed + 1 = n ∧ s.lateOpt n = true)
    ∧ (∃ (s : State) (n : Nat), ((s.stepOf n).st ≠ .closed ∨ s.ctl.sealed + 1 ≠ n))
    ∧ (∃ (s : State) (v : VoteFrame), v.child ∈ s.voteChildren s.me ∧ v.weights = false)
    ∧ (∃ (s : State) (v : VoteFrame), v.child ∈ s.voteChildren s.me ∧ v.weights = true)
    ∧ (∃ (s : State) (v : VoteFrame), v.child ∉ s.voteChildren s.me)
    ∧ (∃ (s : State), s.voteMirror = s.me)
    ∧ (∃ (s : State), s.voteMirror ≠ s.me) :=
  ⟨⟨{ ctl := { steps := [(1, { st := .closed })] } }, 1, by decide +kernel⟩,
   ⟨wLateOpt, _, 1, rfl, by decide +kernel⟩,
   ⟨{}, 1, by decide +kernel⟩,
   ⟨{ ctl := { members := [2] } }, wVote 2, by decide +kernel⟩,
   ⟨{ ctl := { members := [2] }, fab := { devId := 1 }, ldr := { fields := [{ fieldOf "VOTE_PARENT" 0 1 with device := 2 }] } }, { wVote 2 with weights := true },
    by decide +kernel⟩,
   ⟨{}, wVote 2, by decide +kernel⟩,
   ⟨{}, by decide +kernel⟩,
   ⟨wRoot (wStep { st := .apply, decided := some .skip } { doneVersion := 1 }), by decide +kernel⟩⟩

/-- States and operands that meet the hypotheses of DecisionTakesEffect, clause by clause. -/
theorem wit_DecisionTakesEffect :
    (∃ (s : State) (d : DecisionMsg), s.restoring = false ∧ s.awaits d = true)
    ∧ (∃ (s : State) (d : DecisionMsg), s.restoring = false ∧ s.awaits d = false)
    ∧ (∃ (s : State), s.restoring = true)
    ∧ (∃ (s : State) (n : Nat) (d : DecisionMsg), kvFind n s.ctl.rootDecided = some d ∧ s.ctl.broadcast.contains n = false ∧ kvHas (d.tag, s.voteMirror)
      s.fab.unacked = false)
    ∧ (∃ (s : State) (n : Nat) (d : DecisionMsg), kvFind n s.ctl.rootDecided = some d ∧ kvHas (d.tag, s.voteMirror) s.fab.unacked = true)
    ∧ (∃ (s : State) (n : Nat), (s.ctl.broadcast.contains n = true ∨ kvFind n s.ctl.rootDecided = none))
    ∧ (∃ (d : DecisionMsg), d.decision = .halt) :=
  ⟨⟨{ ctl := { steps := [(1, { st := .vote })] } }, wDec .apply, by decide +kernel⟩,
   ⟨{}, wDec .apply, by decide +kernel⟩,
   ⟨{ rcv := { takeover := some { id := 1, version := 0, cxlGranted := false, pulled := false, roll := none } } }, by decide +kernel⟩,
   ⟨{ ctl := { steps := [(1, { st := .vote })], rootDecided := [(1, wDec .apply)] } }, 1, _, rfl, by decide +kernel⟩,
   ⟨{ ctl := { rootDecided := [(1, wDec .apply)] }, fab := { unacked := [((1, 0), { msg := .decision 0 (wDec .apply), deadline := 1, limit := 1 })] } },
    1, _, rfl, by decide +kernel⟩,
   ⟨{}, 1, by decide +kernel⟩,
   ⟨wDec .halt, by decide +kernel⟩⟩

/-- States and operands that meet the hypotheses of SealCommitsTheStep, clause by clause. -/
theorem wit_SealCommitsTheStep :
    (∃ (s : State) (n : Nat), (s.stepOf n).st = .seal ∧ (s.stepOf n).stbyDone = false ∧ s.ctl.sealed + 1 = n ∧ s.compared n = true ∧ s.fenced = false ∧
      s.standbyLost = false ∧ s.pow.phase = 3)
    ∧ (∃ (s : State) (n : Nat), (s.stepOf n).st = .seal ∧ (s.stepOf n).stbyDone = false ∧ s.ctl.sealed + 1 = n ∧ s.compared n = true ∧ s.fenced = false ∧
      s.standbyLost = false ∧ s.pow.phase ≠ 3 ∧ s.standby.used + (s.stbyRecords n).foldl (fun a j => a + j.size) 0 ≤ s.field "STBY_JOURNAL_SIZE")
    ∧ (∃ (s : State) (n : Nat), (s.stepOf n).st = .seal ∧ (s.stepOf n).stbyDone = false ∧ s.ctl.sealed + 1 = n ∧ s.compared n = true ∧ s.fenced = false ∧
      s.standbyLost = false ∧ s.pow.phase ≠ 3 ∧ s.field "STBY_JOURNAL_SIZE" < s.standby.used + (s.stbyRecords n).foldl (fun a j => a + j.size) 0)
    ∧ (∃ (s : State) (n : Nat), ((s.stepOf n).st ≠ .seal ∨ (s.stepOf n).stbyDone = true ∨ s.ctl.sealed + 1 ≠ n ∨ s.compared n = false ∨ s.fenced = true ∨
      s.standbyLost = true))
    ∧ (∃ (s : State) (t : State) (n : Nat), t = ((((s.sealRows n (s.skipped n)).settleWrites n).updStep n fun p => { p with st := .sealed }).updWeir fun w
      => { w with param := ((s.digestOf n).param).getD w.param, consecSkips := if s.skipped n then satAdd 0xFFFF w.consecSkips 1 else 0, digests := w.digests.filter fun x => n < x.1 })
      ∧ s.sealable n = true)
    ∧ (∃ (s : State) (n : Nat), s.sealable n = false) :=
  ⟨⟨{ wSeal { st := .seal } 4096 with pow := { phase := 3 } }, 1, by decide +kernel⟩,
   ⟨wSeal { st := .seal } 4096, 1, by decide +kernel⟩,
   ⟨wSeal { st := .seal } 0, 1, by decide +kernel⟩,
   ⟨{}, 1, by decide +kernel⟩,
   ⟨wSeal { st := .seal, stbyDone := true, signed := true, logged := true, spooled := true } 0, _, 1, rfl, by decide +kernel⟩,
   ⟨{}, 1, by decide +kernel⟩⟩

/-- States and operands that meet the hypotheses of UnitOpcodesWait, clause by clause. -/
theorem wit_UnitOpcodesWait :
    (∃ (i : Instr) (c : CoreId) (st : Stream) (o : Op) (s : State), unitCommand i = some (c, st, o) ∧ (s.core c).todo st o = none)
    ∧ (∃ (i : Instr) (c : CoreId) (st : Stream) (o : Op) (s : State) (cmd : Cmd) (n : Nat) (cause : Nat), unitCommand i = some (c, st, o) ∧ (s.core c).todo
      st o = some cmd ∧ s.unitUnmet c cmd (nthCount cmd.taken 0) (s.core c).lastCyc = some (n, cause)) :=
  ⟨⟨.vec 31 .f, _, _, _, {}, rfl, by decide +kernel⟩,
   ⟨.vec 31 .f, 31, .f, .vec, wHand .vec 1 0, wChain .vec 1, 5, 7, by decide +kernel⟩⟩

/-- States and operands that meet the hypotheses of RowOpcodesRunAUnit, clause by clause. -/
theorem wit_RowOpcodesRunAUnit :
    (∃ (s : State) (c : CoreId) (st : Stream) (cmd : Cmd) (u : Nat), u = nthCount cmd.taken 0 ∧ (s.core c).todo st .nop = some cmd ∧ s.unitUnmet c cmd u
      (s.core c).lastCyc = none)
    ∧ (∃ (s : State) (c : CoreId) (st : Stream) (cmd : Cmd) (u : Nat) (t : _) (x : _), u = nthCount cmd.taken 0 ∧ (s.core c).todo st .vec = some cmd ∧ t =
      (s.updCore c fun k => k.takeUnit st cmd 0) ∧ x = t.rowsF32 c cmd u ∧ s.unitUnmet c cmd u (s.core c).lastCyc = none)
    ∧ (∃ (s : State) (c : CoreId) (st : Stream) (cmd : Cmd) (u : Nat) (t : _) (x : _) (l : _) (t1 : _), u = nthCount cmd.taken 0 ∧ (s.core c).todo st .vred
      = some cmd ∧ t = (s.updCore c fun k => k.takeUnit st cmd 0) ∧ x = t.rowsF32 c cmd u ∧ l = x.1.zipIdx.map (fun r => t.laneRow r.2 r.1) ∧ t1 = { t with fresh := t.fresh + (if cmd.desc.dimN ≤ 1024 then 0 else x.1.length) }
      ∧ s.unitUnmet c cmd u (s.core c).lastCyc = none)
    ∧ (∃ (s : State) (c : CoreId) (cmd : Cmd) (u : Nat) (t : _) (x : _) (y : _), u = nthCount cmd.taken 0 ∧ t = (s.updCore c fun k => k.takeUnit .f cmd 0) ∧
      x = t.poolInput c cmd u ∧ t.unitFault c cmd u = some y ∧ s.unitUnmet c cmd u (s.core c).lastCyc = none ∧ (s.core c).todo .f .pool = some cmd) :=
  ⟨⟨wRun (wCmd .f .nop), 31, .f, _, _, rfl, rfl, by decide +kernel⟩,
   ⟨wRun (wCmd .b .vec), 31, .b, _, _, _, _, rfl, rfl, rfl, rfl, by decide +kernel⟩,
   ⟨wRun (wCmd .u .vred), 31, .u, _, _, _, _, _, _, rfl, rfl, rfl, rfl, rfl, rfl, by decide +kernel⟩,
   ⟨wBadList, 31, wPoolCmd, _, _, _, _, rfl, rfl, rfl, rfl, by decide +kernel⟩⟩

/-- States and operands that meet the hypotheses of LookupOpcodesRunAUnit, clause by clause. -/
theorem wit_LookupOpcodesRunAUnit :
    (∃ (s : State) (c : CoreId) (cmd : Cmd) (u : Nat), u = nthCount cmd.taken 0 ∧ (s.core c).todo .f .lookup = some cmd ∧ s.unitUnmet c cmd u (s.core
      c).lastCyc = none)
    ∧ (∃ (s : State) (c : CoreId) (cmd : Cmd) (u : Nat), u = nthCount cmd.taken 0 ∧ (s.core c).todo .b .gradSend = some cmd ∧ s.unitUnmet c cmd u (s.core
      c).lastCyc = none)
    ∧ (∃ (s : State) (c : CoreId) (cmd : Cmd) (u : Nat), u = nthCount cmd.taken 0 ∧ (s.core c).todo .b .stashRd = some cmd ∧ s.unitUnmet c cmd u (s.core
      c).lastCyc = none ∧ cmd.desc.chain = [])
    ∧ (∃ (s : State) (c : CoreId) (cmd : Cmd) (u : Nat) (t : _) (x : _), u = nthCount cmd.taken 0 ∧ (s.core c).todo .b .stashRd = some cmd ∧ t = (s.updCore
      c fun k => k.takeUnit .b cmd 0) ∧ x = t.rowsF32 c { cmd with desc := { cmd.desc with a := { cmd.desc.a with space := .stash, addr := 0 } } } u ∧
      s.unitUnmet c cmd u (s.core c).lastCyc = none ∧ cmd.desc.chain ≠ [])
    ∧ (∃ (s : State) (c : CoreId) (cmd : Cmd) (u : Nat), u = nthCount cmd.taken 0 ∧ (s.core c).todo .b .stashFree = some cmd ∧ s.unitUnmet c cmd u (s.core
      c).lastCyc = none) :=
  ⟨⟨wRun (wCmd .f .lookup), 31, _, _, rfl, rfl, by decide +kernel⟩,
   ⟨wRun (wCmd .b .gradSend), 31, _, _, rfl, rfl, by decide +kernel⟩,
   ⟨wStash [], 31, _, _, rfl, rfl, by decide +kernel⟩,
   ⟨wStash [.vec], 31, _, _, _, _, rfl, rfl, rfl, rfl, by decide +kernel⟩,
   ⟨wRun (wCmd .b .stashFree), 31, _, _, rfl, rfl, by decide +kernel⟩⟩

/-- States and operands that meet the hypotheses of TransferAndUpdateOpcodesRunAUnit, clause by clause. -/
theorem wit_TransferAndUpdateOpcodesRunAUnit :
    (∃ (s : State) (c : CoreId) (st : Stream) (cmd : Cmd) (u : Nat) (t : State), u = nthCount cmd.taken 0 ∧ t = (s.updCore c fun k => k.takeUnit st cmd 0)
      ∧ (s.core c).todo st .fetch = some cmd ∧ s.unitUnmet c cmd u (s.core c).lastCyc = none ∧ cmd.desc.out.space = .loc)
    ∧ (∃ (s : State) (c : CoreId) (st : Stream) (cmd : Cmd) (u : Nat) (t : State), u = nthCount cmd.taken 0 ∧ t = (s.updCore c fun k => k.takeUnit st cmd 0)
      ∧ (s.core c).todo st .fetch = some cmd ∧ s.unitUnmet c cmd u (s.core c).lastCyc = none ∧ cmd.desc.out.space ≠ .loc)
    ∧ (∃ (s : State) (c : CoreId) (st : Stream) (cmd : Cmd) (u : Nat) (t : State), u = nthCount cmd.taken 0 ∧ t = (s.updCore c fun k => k.takeUnit st cmd 0)
      ∧ (s.core c).todo st .write = some cmd ∧ s.unitUnmet c cmd u (s.core c).lastCyc = none)
    ∧ (∃ (s : State) (c : CoreId) (st : Stream) (cmd : Cmd) (u : Nat) (t : State), u = nthCount cmd.taken 0 ∧ t = (s.updCore c fun k => k.takeUnit st cmd 0)
      ∧ (s.core c).todo st .cancel = some cmd ∧ s.unitUnmet c cmd u (s.core c).lastCyc = none)
    ∧ (∃ (s : State) (c : CoreId) (cmd : Cmd) (u : Nat) (t : State), u = nthCount cmd.taken 0 ∧ t = (s.updCore c fun k => k.takeUnit .u cmd 0) ∧ (s.core
      c).todo .u .loadScales = some cmd ∧ s.unitUnmet c cmd u (s.core c).lastCyc = none)
    ∧ (∃ (s : State) (c : CoreId) (cmd : Cmd) (u : Nat) (t : State), u = nthCount cmd.taken 0 ∧ t = (s.updCore c fun k => k.takeUnit .u cmd 0) ∧ (s.core
      c).todo .u .loadCsum = some cmd ∧ s.unitUnmet c cmd u (s.core c).lastCyc = none)
    ∧ (∃ (s : State) (c : CoreId) (cmd : Cmd) (u : Nat) (t : State), u = nthCount cmd.taken 0 ∧ t = (s.updCore c fun k => k.takeUnit .u cmd 0) ∧ (s.core
      c).todo .u .prestage = some cmd ∧ s.unitUnmet c cmd u (s.core c).lastCyc = none)
    ∧ (∃ (s : State) (c : CoreId) (cmd : Cmd) (u : Nat) (t : State) (old : XTarget → Bool) (ids : Core → List XTag), u = nthCount cmd.taken 0 ∧ t =
      (s.updCore c fun k => k.takeUnit .u cmd 0) ∧ (∀ a b v, old (.ring a b v) = !(t.installed v)) ∧ (∀ a b, old (.range a b) = false) ∧ (∀ k, ids k =
      ((k.feed.queue.filter fun x => old x.target).flatMap (·.tags)) ++ (k.feed.pool.filter fun b => old b.target).flatMap (·.tags)) ∧ s.unitUnmet c
      cmd u (s.core c).lastCyc = none ∧ (s.core c).todo .u .invalidate = some cmd) :=
  ⟨⟨wRun (wOut .f .fetch .loc), 31, .f, _, _, _, rfl, rfl, rfl, by decide +kernel⟩,
   ⟨wRun (wCmd .b .fetch), 31, .b, _, _, _, rfl, rfl, rfl, by decide +kernel⟩,
   ⟨wRun (wCmd .f .write), 31, .f, _, _, _, rfl, rfl, rfl, by decide +kernel⟩,
   ⟨wRun (wCmd .u .cancel), 31, .u, _, _, _, rfl, rfl, rfl, by decide +kernel⟩,
   ⟨wRun (wCmd .u .loadScales), 31, _, _, _, rfl, rfl, rfl, by decide +kernel⟩,
   ⟨wRun (wCmd .u .loadCsum), 31, _, _, _, rfl, rfl, rfl, by decide +kernel⟩,
   ⟨wRun (wCmd .u .prestage), 31, _, _, _, rfl, rfl, rfl, by decide +kernel⟩,
   ⟨wRun (wCmd .u .invalidate), 31, wCmd .u .invalidate, _, _, wOld, _, rfl, rfl, (fun _ _ _ => rfl), (fun _ _ => rfl), fun _ => rfl, by decide +kernel⟩⟩

/-- States and operands that meet the hypotheses of SignalsWaitsAndMicroBatchEnds, clause by clause. -/
theorem wit_SignalsWaitsAndMicroBatchEnds :
    (∃ (s : State) (c : CoreId) (st : Stream) (cmd : Cmd), (s.core c).todo st .signal = some cmd)
    ∧ (∃ (s : State) (c : CoreId) (st : Stream) (cmd : Cmd), (s.core c).todo st .wait = some cmd ∧ cmd.desc.waitValue ≤ kvGet 0 (cmd.step, cmd.desc.waitCtr)
      (s.core c).sync)
    ∧ (∃ (s : State) (c : CoreId) (st : Stream) (cmd : Cmd), (s.core c).todo st .wait = some cmd ∧ kvGet 0 (cmd.step, cmd.desc.waitCtr) (s.core c).sync <
      cmd.desc.waitValue)
    ∧ (∃ (s : State) (c : CoreId) (cmd : Cmd) (n : Nat), (s.core c).todo .f .fwdEnd = some cmd ∧ cmd.slot = some n ∧ (s.core c).lastOfMb cmd = true)
    ∧ (∃ (s : State) (c : CoreId) (cmd : Cmd), (s.core c).todo .f .fwdEnd = some cmd ∧ (s.core c).lastOfMb cmd = true ∧ cmd.slot = none)
    ∧ (∃ (s : State) (c : CoreId) (cmd : Cmd), (s.core c).todo .f .fwdEnd = some cmd ∧ (s.core c).lastOfMb cmd = false)
    ∧ (∃ (s : State) (c : CoreId) (cmd : Cmd), (s.core c).todo .b .bwdEnd = some cmd)
    ∧ (∃ (s : State) (c : CoreId) (st : Stream), (s.core c).todo st .signal = none)
    ∧ (∃ (s : State) (c : CoreId) (st : Stream), (s.core c).todo st .wait = none)
    ∧ (∃ (s : State) (c : CoreId), (s.core c).todo .f .fwdEnd = none)
    ∧ (∃ (s : State) (c : CoreId), (s.core c).todo .b .bwdEnd = none) :=
  ⟨⟨wRun (wCmd .u .signal), 31, .u, _, rfl⟩,
   ⟨wRun (wWait 0), 31, .f, _, rfl, by decide +kernel⟩,
   ⟨wRun (wWait 1), 31, .f, _, rfl, by decide +kernel⟩,
   ⟨wRun { wCmd .f .fwdEnd with slot := some 7 }, 31, _, _, rfl, rfl, by decide +kernel⟩,
   ⟨wRun (wCmd .f .fwdEnd), 31, _, rfl, by decide +kernel⟩,
   ⟨wTwoEnds, 31, _, rfl, by decide +kernel⟩,
   ⟨wRun (wCmd .b .bwdEnd), 31, _, rfl⟩,
   ⟨{}, 31, .f, by decide +kernel⟩,
   ⟨{}, 31, .f, by decide +kernel⟩,
   ⟨{}, 31, by decide +kernel⟩,
   ⟨{}, 31, by decide +kernel⟩⟩

/-- States and operands that meet the hypotheses of DecodeIssueRetire, clause by clause. -/
theorem wit_DecodeIssueRetire :
    (∃ (s : State) (c : CoreId) (st : Stream) (d : BitVec 512), (s.domOn (restDom c.val) = false ∨ s.decodes ((s.core c).front st) st (s.nextDesc st
      ((s.core c).front st)) = false ∨ s.descAt st (s.nextDesc st ((s.core c).front st)).2 d = .wait))
    ∧ (∃ (s : State) (c : CoreId) (st : Stream) (d : BitVec 512) (x : Nat × Nat) (step : State → State) (code : _) (a : _), x = s.nextDesc st ((s.core
      c).front st) ∧ (∀ t, step t = t.updCore c fun k => k.updFront st fun y => { y with inst := x.1, next := x.2 + 1 }) ∧ s.descAt st x.2 d = .fault
      code a ∧ s.domOn (restDom c.val) = true ∧ s.decodes ((s.core c).front st) st x = true)
    ∧ (∃ (s : State) (c : CoreId) (st : Stream) (d : BitVec 512) (x : Nat × Nat) (step : State → State) (w : _), x = s.nextDesc st ((s.core c).front st) ∧
      (∀ t, step t = t.updCore c fun k => k.updFront st fun y => { y with inst := x.1, next := x.2 + 1 }) ∧ s.descAt st x.2 d = .word w ∧ s.domOn
      (restDom c.val) = true ∧ s.decodes ((s.core c).front st) st x = true)
    ∧ (∃ (s : State) (c : CoreId) (cyc : Nat) (cmd : Cmd), (((s.clockTo c cyc).core c).candidates.find? fun x => ((s.clockTo c cyc).unmet c x cyc).isNone) =
      some cmd)
    ∧ (∃ (s : State) (c : CoreId) (cyc : Nat), (((s.clockTo c cyc).core c).candidates.find? fun x => ((s.clockTo c cyc).unmet c x cyc).isNone) = none)
    ∧ (∃ (s : State) (c : CoreId) (st : Stream) (i : Nat) (cmd : Cmd), ((s.core c).running st fun x => x.index == i && (x.complete || s.stopped c x) &&
      (s.core c).outputsGone x) = some cmd)
    ∧ (∃ (s : State) (c : CoreId) (st : Stream) (i : Nat), ((s.core c).running st fun x => x.index == i && (x.complete || s.stopped c x) && (s.core
      c).outputsGone x) = none)
    ∧ (∃ (s : State) (c : CoreId) (cyc : Nat) (due : Cmd → Bool), (∀ x, due x = (!x.promoted && decide (x.enteredAt + s.fieldAt x.step "DEFER_AGE" c.val ≤
      cyc)))) :=
  ⟨⟨{}, 31, .f, BitVec.allOnes 512, by decide +kernel⟩,
   ⟨wDecodeFault, 31, .f, 0, _, _, _, _, rfl, fun _ => rfl, rfl, by decide +kernel⟩,
   ⟨wDecode {}, 31, .f, BitVec.allOnes 512, _, _, _, rfl, fun _ => rfl, rfl, by decide +kernel⟩,
   ⟨{ cores := [(31, { f := { queue := [wCmd .f .nop] } })] }, 31, 0, wCmd .f .nop, by decide +kernel⟩,
   ⟨{}, 31, 0, by decide +kernel⟩,
   ⟨wRun { wCmd .f .nop with done := [1] }, 31, .f, 0, _, rfl⟩,
   ⟨{}, 31, .f, 0, by decide +kernel⟩,
   ⟨{}, 31, 0, _, fun _ => rfl⟩⟩

/-- States and operands that meet the hypotheses of StashPrefetchHintsAndChains, clause by clause. -/
theorem wit_StashPrefetchHintsAndChains :
    (∃ (s : State) (c : CoreId) (cmd : Cmd) (u : Nat), (s.core c).todo .f .stashWr = some cmd ∧ u = nthCount cmd.taken 0 ∧ s.unitUnmet c cmd u (s.core
      c).lastCyc = none ∧ (s.stashWrite c cmd (s.stashBytes c cmd u).1).2 = true)
    ∧ (∃ (s : State) (c : CoreId) (cmd : Cmd) (u : Nat), (s.core c).todo .f .stashWr = some cmd ∧ u = nthCount cmd.taken 0 ∧ s.unitUnmet c cmd u (s.core
      c).lastCyc = none ∧ (s.stashWrite c cmd (s.stashBytes c cmd u).1).2 = false)
    ∧ (∃ (s : State) (c : CoreId) (st : Stream) (cmd : Cmd) (x : State × Nat) (t : State), (s.core c).todo st .prefetch = some cmd ∧ x = s.pushTargets c cmd
      .prefetch (s.prefetchTargets cmd) cmd.sentPf ∧ t = x.1.updCore c (fun k => k.updCmd st cmd.step cmd.index fun y => { y with sentPf := x.2 }) ∧
      x.2 < (s.prefetchTargets cmd).length)
    ∧ (∃ (s : State) (c : CoreId) (st : Stream) (cmd : Cmd) (x : State × Nat) (t : State), (s.core c).todo st .prefetch = some cmd ∧ x = s.pushTargets c cmd
      .prefetch (s.prefetchTargets cmd) cmd.sentPf ∧ t = x.1.updCore c (fun k => k.updCmd st cmd.step cmd.index fun y => { y with sentPf := x.2 }) ∧
      (s.prefetchTargets cmd).length ≤ x.2)
    ∧ (∃ (s : State) (c : CoreId) (st : Stream) (i : Nat) (cmd : _) (x : _), s.hintCmd c st i = some cmd ∧ x = s.pushTargets c cmd .hint ((s.fetchPlan c cmd
      0).2.flatMap Span.targets) cmd.sentPf)
    ∧ (∃ (s : State) (c : CoreId) (st : Stream) (g : StageNo) (cmd : Cmd) (u : Nat), (s.core c).handTodo st g.val = some cmd ∧ u = nthCount cmd.taken g.val
      ∧ g ≠ 0 ∧ cmd.desc.stages[g.val]? = some .mm)
    ∧ (∃ (s : State) (c : CoreId) (st : Stream) (g : StageNo) (cmd : Cmd) (u : Nat), (s.core c).handTodo st g.val = some cmd ∧ u = nthCount cmd.taken g.val
      ∧ g ≠ 0 ∧ cmd.desc.stages[g.val]? = some .vec)
    ∧ (∃ (s : State) (c : CoreId) (st : Stream) (g : StageNo) (cmd : Cmd) (u : Nat), (s.core c).handTodo st g.val = some cmd ∧ u = nthCount cmd.taken g.val
      ∧ g ≠ 0 ∧ cmd.desc.stages[g.val]? = some .pool)
    ∧ (∃ (s : State) (c : CoreId) (st : Stream) (g : StageNo) (cmd : Cmd) (u : Nat), (s.core c).handTodo st g.val = some cmd ∧ u = nthCount cmd.taken g.val
      ∧ g ≠ 0 ∧ cmd.desc.stages[g.val]? = some .stashWr)
    ∧ (∃ (s : State) (c : CoreId) (st : Stream) (g : StageNo), (g = 0 ∨ (s.core c).handTodo st g.val = none))
    ∧ (∃ (s : State) (c : CoreId), (s.core c).fired = false ∧ s.field "NOPROG_LIMIT" c.val ≤ (s.core c).blocked)
    ∧ (∃ (s : State) (c : CoreId), ((s.core c).fired = true ∨ (s.core c).blocked < s.field "NOPROG_LIMIT" c.val))
    ∧ (∃ (v : W64), v.getLsbD 33 = true)
    ∧ (∃ (v : W64), v.getLsbD 33 = false) :=
  ⟨⟨wMill 96, 31, _, _, rfl, rfl, by decide +kernel⟩,
   ⟨wMill 0, 31, _, _, rfl, rfl, by decide +kernel⟩,
   ⟨wRun (wPre 65536), 31, .b, _, _, _, rfl, rfl, rfl, by decide +kernel⟩,
   ⟨wRun (wPre 1), 31, .b, _, _, _, rfl, rfl, rfl, by decide +kernel⟩,
   ⟨wHint [], 31, .f, 0, _, _, rfl, rfl⟩,
   ⟨wHand .mm 1 160, 31, .f, 1, _, _, rfl, rfl, by decide +kernel⟩,
   ⟨wHand .vec 1 160, 31, .f, 1, _, _, rfl, rfl, by decide +kernel⟩,
   ⟨wHand .pool 1 160, 31, .f, 1, _, _, rfl, rfl, by decide +kernel⟩,
   ⟨wHand .stashWr 1 160, 31, .f, 1, _, _, rfl, rfl, by decide +kernel⟩,
   ⟨wMill 96, 31, .f, 1, by decide +kernel⟩,
   ⟨{ cores := [(31, { blocked := 500000 })] }, 31, by decide +kernel⟩,
   ⟨wMill 96, 31, by decide +kernel⟩,
   ⟨0xFFFFFFFFFFFFFFFF, by decide +kernel⟩,
   ⟨0, by decide +kernel⟩⟩

/-- States and operands that meet the hypotheses of TileLoadTakes160Cycles, clause by clause. -/
theorem wit_TileLoadTakes160Cycles :
    (∃ (s : State) (t : State) (c : CoreId) (e : EngId) (cyc : Nat), t = s.clockTo c cyc ∧ t.nextPass c e = none)
    ∧ (∃ (s : State) (t : State) (c : CoreId) (e : EngId) (cyc : Nat) (p : _), t = s.clockTo c cyc ∧ t.nextPass c e = some p ∧ (t.engine c e).mayRun cyc =
      true ∧ (t.engine c e).mayLoad p cyc = true ∧ p.replay = false)
    ∧ (∃ (s : State) (t : State) (c : CoreId) (e : EngId) (cyc : Nat) (p : _), t = s.clockTo c cyc ∧ t.nextPass c e = some p ∧ ((t.engine c e).mayRun cyc =
      false ∨ (t.engine c e).mayLoad p cyc = false ∨ p.replay = true))
    ∧ (∃ (s : State) (t : State) (c : CoreId) (e : EngId) (cyc : Nat), t = s.clockTo c cyc ∧ (t.engine c e).replay = [])
    ∧ (∃ (s : State) (t : State) (c : CoreId) (e : EngId) (cyc : Nat) (p : _) (l : _), t = s.clockTo c cyc ∧ (t.engine c e).replay = p :: l ∧ (t.engine c
      e).mayRun cyc = true ∧ (t.engine c e).mayLoad p cyc = true)
    ∧ (∃ (s : State) (t : State) (c : CoreId) (e : EngId) (cyc : Nat) (p : _) (l : _), t = s.clockTo c cyc ∧ (t.engine c e).replay = p :: l ∧ ((t.engine c
      e).mayRun cyc = false ∨ (t.engine c e).mayLoad p cyc = false))
    ∧ (∃ (s : State) (t : State) (c : CoreId) (e : EngId) (cyc : Nat), t = s.clockTo c cyc ∧ (t.engine c e).loading = none)
    ∧ (∃ (s : State) (t : State) (c : CoreId) (e : EngId) (cyc : Nat) (id : _) (l : _), t = s.clockTo c cyc ∧ (t.engine c e).loading = some (id, l) ∧ cyc <
      l + 160)
    ∧ (∃ (s : State) (t : State) (c : CoreId) (e : EngId) (cyc : Nat) (id : _) (l : _), t = s.clockTo c cyc ∧ (t.engine c e).loading = some (id, l) ∧ l +
      160 ≤ cyc ∧ (t.engine c e).replay = [])
    ∧ (∃ (s : State) (t : State) (c : CoreId) (e : EngId) (cyc : Nat) (id : _) (l : _) (p : _) (r : _), t = s.clockTo c cyc ∧ (t.engine c e).loading = some
      (id, l) ∧ (t.engine c e).replay = p :: r ∧ l + 160 ≤ cyc) :=
  ⟨⟨wEng { assigned := [wPass 0] }, _, 31, 0, 0, rfl, by decide +kernel⟩,
   ⟨wEng { assigned := [wPass 0] }, _, 31, 1, 0, _, rfl, rfl, by decide +kernel⟩,
   ⟨wEng { assigned := [wPass 0], loaded := some 0, readyAt := 100 }, _, 31, 1, 0, _, rfl, rfl, by decide +kernel⟩,
   ⟨wEng { assigned := [wPass 0] }, _, 31, 1, 0, rfl, by decide +kernel⟩,
   ⟨wEng { replay := [wPass 0] }, _, 31, 1, 0, _, _, rfl, rfl, by decide +kernel⟩,
   ⟨wEng { replay := [wPass 0], reqHost := true }, _, 31, 1, 0, _, _, rfl, rfl, by decide +kernel⟩,
   ⟨wEng { assigned := [wPass 0] }, _, 31, 1, 0, rfl, by decide +kernel⟩,
   ⟨wEng { loading := some (0, 100) }, _, 31, 1, 0, _, _, rfl, rfl, by decide +kernel⟩,
   ⟨wEng { loading := some (0, 100) }, _, 31, 1, 260, _, _, rfl, rfl, by decide +kernel⟩,
   ⟨wEng { replay := [wPass 0], loading := some (0, 0) }, _, 31, 1, 160, _, _, _, _, rfl, rfl, rfl, by decide +kernel⟩⟩

/-- States and operands that meet the hypotheses of PassesStartAndEnd, clause by clause. -/
theorem wit_PassesStartAndEnd :
    (∃ (s : State) (t : State) (c : CoreId) (e : EngId) (cyc : Nat), t = s.clockTo c cyc ∧ t.nextPass c e = none)
    ∧ (∃ (s : State) (t : State) (c : CoreId) (e : EngId) (cyc : Nat) (p : _), t = s.clockTo c cyc ∧ t.nextPass c e = some p ∧ t.mayStart c e p cyc = true)
    ∧ (∃ (s : State) (t : State) (c : CoreId) (e : EngId) (cyc : Nat) (p : _) (n : _), t = s.clockTo c cyc ∧ t.nextPass c e = some p ∧ (t.engine c
      e).startStall p cyc = some n ∧ t.mayStart c e p cyc = false)
    ∧ (∃ (s : State) (t : State) (c : CoreId) (e : EngId) (cyc : Nat) (p : _), t = s.clockTo c cyc ∧ t.nextPass c e = some p ∧ t.mayStart c e p cyc = false
      ∧ (t.engine c e).startStall p cyc = none)
    ∧ (∃ (s : State) (t : State) (c : CoreId) (e : EngId) (cyc : Nat), t = s.clockTo c cyc ∧ (t.engine c e).inArray = [])
    ∧ (∃ (s : State) (t : State) (c : CoreId) (e : EngId) (cyc : Nat) (r : _) (l : _), t = s.clockTo c cyc ∧ (t.engine c e).inArray = r :: l ∧ cyc < r.t0 +
      r.pass.n + 255)
    ∧ (∃ (s : State) (t : State) (c : CoreId) (e : EngId) (cyc : Nat) (r : _) (l : _), t = s.clockTo c cyc ∧ (t.engine c e).inArray = r :: l ∧ r.t0 +
      r.pass.n + 255 ≤ cyc)
    ∧ (∃ (s : State) (t : State) (c : CoreId) (e : EngId) (cyc : Nat) (r : _) (l : _) (t1 : _) (t2 : _), t = s.clockTo c cyc ∧ (t.engine c e).ended = r :: l
      ∧ t1 = (t.updEngine c e fun x => { x with ended := x.ended.drop 1 }) ∧ t2 = (t1.updEngine c e fun x => { x with unchecked := satAdd 0xFFFF x.unchecked ((t.engine c e).finding r).unchecked })
      ∧ r.t0 + r.pass.n + 287 ≤ cyc ∧ r.pass.discard = true)
    ∧ (∃ (s : State) (t : State) (c : CoreId) (e : EngId) (cyc : Nat) (r : _) (l : _) (t1 : _) (t2 : _), t = s.clockTo c cyc ∧ (t.engine c e).ended = r :: l
      ∧ t1 = (t.updEngine c e fun x => { x with ended := x.ended.drop 1 }) ∧ t2 = (t1.updEngine c e fun x => { x with unchecked := satAdd 0xFFFF x.unchecked ((t.engine c e).finding r).unchecked })
      ∧ r.t0 + r.pass.n + 287 ≤ cyc ∧ r.pass.discard = false ∧ (((t.engine c e).finding r).bad || r.lbBad) = true)
    ∧ (∃ (s : State) (t : State) (c : CoreId) (e : EngId) (cyc : Nat) (r : _) (l : _) (t1 : _) (t2 : _), t = s.clockTo c cyc ∧ (t.engine c e).ended = r :: l
      ∧ t1 = (t.updEngine c e fun x => { x with ended := x.ended.drop 1 }) ∧ t2 = (t1.updEngine c e fun x => { x with unchecked := satAdd 0xFFFF x.unchecked ((t.engine c e).finding r).unchecked })
      ∧ r.t0 + r.pass.n + 287 ≤ cyc ∧ r.pass.discard = false ∧ (((t.engine c e).finding r).bad || r.lbBad) = false) :=
  ⟨⟨wEng { assigned := [wPass 0], loaded := some 0, readyAt := 100 }, _, 31, 0, 100, rfl, by decide +kernel⟩,
   ⟨wEng { assigned := [wPass 0], loaded := some 0, readyAt := 100 }, _, 31, 1, 100, _, rfl, rfl, by decide +kernel⟩,
   ⟨wEng { assigned := [wPass 0], reqHost := true }, _, 31, 1, 0, _, _, rfl, rfl, rfl, by decide +kernel⟩,
   ⟨wEng { assigned := [wPass 0], loaded := some 0, readyAt := 100 }, _, 31, 1, 0, _, rfl, rfl, by decide +kernel⟩,
   ⟨wEng { assigned := [wPass 0], loaded := some 0, readyAt := 100 }, _, 31, 1, 100, rfl, by decide +kernel⟩,
   ⟨wEng { inArray := [wRunPass] }, _, 31, 1, 100, _, _, rfl, rfl, by decide +kernel⟩,
   ⟨wEng { inArray := [wRunPass] }, _, 31, 1, 356, _, _, rfl, rfl, by decide +kernel⟩,
   ⟨wEng { ended := [{ wRunPass with pass := { wPass 0 with discard := true } }] }, _, 31, 1, 1000, _, _, _, _, rfl, rfl, rfl, rfl, by decide +kernel⟩,
   ⟨wEng { ended := [{ wRunPass with lbBad := true }] }, _, 31, 1, 1000, _, _, _, _, rfl, rfl, rfl, rfl, by decide +kernel⟩,
   ⟨wEng { ended := [wRunPass] }, _, 31, 1, 388, _, _, _, _, rfl, rfl, rfl, rfl, by decide +kernel⟩⟩

/-- States and operands that meet the hypotheses of PreemptionStopsAndResumes, clause by clause. -/
theorem wit_PreemptionStopsAndResumes :
    (∃ (g : Engine → Engine), (∀ x, (x.reqHost = false ∨ ({ x with reqHost := false } : Engine).held = true) → g x = { x with reqHost := false }) ∧ (∀ x,
      x.reqHost = true → ({ x with reqHost := false } : Engine).held = false → g x = { x with reqHost := false, quiet := false, coldNext := true, loaded := none, loading := none }))
    ∧ (∃ (s : State) (t : State) (c : CoreId) (e : EngId) (cyc : Nat), t = s.clockTo c cyc ∧ (t.engine c e).held = true ∧ (t.engine c e).inArray = [])
    ∧ (∃ (s : State) (t : State) (c : CoreId) (e : EngId) (cyc : Nat), t = s.clockTo c cyc ∧ ((t.engine c e).held = false ∨ (t.engine c e).inArray ≠ []))
    ∧ (∃ (v : W64), v.toNat % 2 = 1)
    ∧ (∃ (v : W64), v.toNat % 2 = 0)
    ∧ (∃ (s : State) (c : CoreId), 4 ≤ s.pow.phase ∧ (s.core c).div ≠ s.level ∧ ((s.engine c 0).inArray = [] ∨ (s.engine c 1).inArray = []))
    ∧ (∃ (s : State) (c : CoreId) (cyc : Nat) (e : EngId) (q : PrevPass), (s.engine c e).prev = some q ∧ 4 ≤ s.pow.phase ∧ (s.core c).div ≠ s.level ∧ q.t0 =
      cyc)
    ∧ (∃ (s : State) (c : CoreId), (s.pow.phase < 4 ∨ (s.core c).div = s.level)) :=
  ⟨⟨fun x => if x.reqHost = false ∨ ({ x with reqHost := false } : Engine).held = true then { x with reqHost := false } else { x with reqHost := false, quiet := false, coldNext := true, loaded := none, loading := none },
    (fun x h => if_pos h), (fun x h1 h2 => if_neg (by simp [h1, h2]))⟩,
   ⟨wEng { reqHost := true }, _, 31, 1, 100, rfl, by decide +kernel⟩,
   ⟨{}, _, 31, 1, 100, rfl, by decide +kernel⟩,
   ⟨1, by decide +kernel⟩,
   ⟨0, by decide +kernel⟩,
   ⟨wPort 1 {}, 31, by decide +kernel⟩,
   ⟨{ pow := { phase := 4 }, cores := [(31, { div := 3, eng := [(1, { prev := some { id := 0, t0 := 100, n := 1, orient := .rr, pair := false, closed := false, tag := 0 } })] })] },
    31, 100, 1, _, rfl, by decide +kernel⟩,
   ⟨{}, 31, by decide +kernel⟩⟩

/-- States and operands that meet the hypotheses of LocalBufferErrorsAndSpills, clause by clause. -/
theorem wit_LocalBufferErrorsAndSpills :
    (∃ (s : State) (c : CoreId) (b : Fin 512), s.blockContent c b.val = .empty)
    ∧ (∃ (s : State) (c : CoreId) (b : Fin 512), s.blockContent c b.val = .clean)
    ∧ (∃ (s : State) (c : CoreId) (b : Fin 512), s.blockContent c b.val ≠ .empty ∧ s.blockContent c b.val ≠ .clean)
    ∧ (∃ (s : State) (c : CoreId) (slot : Fin 8) (id : Nat) (b : Nat), (s.core c).feed.queue.find? (fun x => x.departed && x.remote.isNone && x.stashOf
      .spill slot.val id b) = none)
    ∧ (∃ (s : State) (c : CoreId) (slot : Fin 8) (id : Nat) (b : Nat) (x : _) (t : _), (s.core c).feed.queue.find? (fun x => x.departed && x.remote.isNone
      && x.stashOf .spill slot.val id b) = some x ∧ t = (s.dropXfer c fun y => y.id == x.id).landWrite x ∧ kvFind (slot.val, id) (t.core c).lb.stash =
      none)
    ∧ (∃ (s : State) (c : CoreId) (slot : Fin 8) (id : Nat) (b : Nat) (x : _) (t : _) (e : _), (s.core c).feed.queue.find? (fun x => x.departed &&
      x.remote.isNone && x.stashOf .spill slot.val id b) = some x ∧ t = (s.dropXfer c fun y => y.id == x.id).landWrite x ∧ kvFind (slot.val, id)
      (t.core c).lb.stash = some e ∧ e.inFlight.contains b = false)
    ∧ (∃ (s : State) (c : CoreId) (slot : Fin 8) (id : Nat) (b : Nat) (x : _) (t : _) (e : _), (s.core c).feed.queue.find? (fun x => x.departed &&
      x.remote.isNone && x.stashOf .spill slot.val id b) = some x ∧ t = (s.dropXfer c fun y => y.id == x.id).landWrite x ∧ kvFind (slot.val, id)
      (t.core c).lb.stash = some e ∧ e.inFlight.contains b = true)
    ∧ (∃ (s : State) (c : CoreId), (s.core c).lb.backUsed + (s.core c).feed.readbacks < s.field "MP_RB_BLOCKS" c.val ∧ (s.core c).nextBack = none)
    ∧ (∃ (s : State) (c : CoreId) (slot : _) (id : _) (b : _), (s.core c).nextBack = some (slot, id, b) ∧ (s.core c).lb.backUsed + (s.core c).feed.readbacks
      < s.field "MP_RB_BLOCKS" c.val)
    ∧ (∃ (s : State) (c : CoreId), s.field "MP_RB_BLOCKS" c.val ≤ (s.core c).lb.backUsed + (s.core c).feed.readbacks) :=
  ⟨⟨{}, 31, 511, by decide +kernel⟩,
   ⟨wBlock 511 .clean, 31, 511, by decide +kernel⟩,
   ⟨wBlock 511 .stage, 31, 511, by decide +kernel⟩,
   ⟨{}, 31, 7, 0, 0, by decide +kernel⟩,
   ⟨{ cores := [(31, { feed := { queue := [wSpillX] } })] }, 31, 7, 0, 0, _, _, rfl, rfl, by decide +kernel⟩,
   ⟨wSpill {} [wSpillX], 31, 7, 0, 0, _, _, _, rfl, rfl, rfl, by decide +kernel⟩,
   ⟨wSpill { blocks := 1, inFlight := [0] } [wSpillX], 31, 7, 0, 0, _, _, _, rfl, rfl, rfl, by decide +kernel⟩,
   ⟨{}, 31, by decide +kernel⟩,
   ⟨wSpill { spilled := [0] } [], 31, _, _, _, rfl, by decide +kernel⟩,
   ⟨wSpill { back := List.range 16 } [], 31, by decide +kernel⟩⟩

/-- States and operands that meet the hypotheses of TransfersDepartAndStand, clause by clause. -/
theorem wit_TransfersDepartAndStand :
    (∃ (s : State) (t : State) (c : CoreId) (st : Stream) (go : State → List Cmd → State), (∀ a l, fetchNext l = none → go a l = a) ∧ (∀ a l cmd,
      fetchNext l = some cmd → go a l = State.fetchWindow c 5 a cmd) ∧ t = go s ((s.core c).streamOrder st))
    ∧ (∃ (s : State) (t : State) (c : CoreId), t = s.updCore c (fun k => { k with feed := s.refill k.feed }))
    ∧ (∃ (s : State) (c : CoreId) (id : Nat) (x : _), (s.core c).feed.queue.find? (fun x => x.id == id && x.departed) = some x ∧ (x.remote.isSome ||
      x.repair) = true)
    ∧ (∃ (s : State) (c : CoreId) (id : Nat) (x : _), (s.core c).feed.queue.find? (fun x => x.id == id && x.departed) = some x ∧ x.remote = none ∧ x.repair
      = false ∧ x.dropped = true)
    ∧ (∃ (s : State) (c : CoreId) (id : Nat) (x : _), (s.core c).feed.queue.find? (fun x => x.id == id && x.departed) = some x ∧ x.remote = none ∧ x.repair
      = false ∧ x.dropped = false ∧ (x.kind = .write ∨ x.kind = .spill ∨ x.kind = .slice ∨ x.kind = .grad))
    ∧ (∃ (s : State) (c : CoreId) (id : Nat) (x : _) (back : LocalBuf→LocalBuf), (s.core c).feed.queue.find? (fun x => x.id == id && x.departed) = some x ∧
      (∀ l, kvHas (x.index / 2 ^ 16, x.index % 2 ^ 16) l.stash = true → back l = l.updStash (x.index / 2 ^ 16) (x.index % 2 ^ 16) fun e => e.putBack
      x.unit x.data) ∧ (∀ l, kvHas (x.index / 2 ^ 16, x.index % 2 ^ 16) l.stash = false → back l = l) ∧ x.remote = none ∧ x.repair = false ∧ x.dropped
      = false ∧ x.kind = .readback)
    ∧ (∃ (s : State) (c : CoreId) (id : Nat) (x : _) (tt : _) (tau : _) (v : _), (s.core c).feed.queue.find? (fun x => x.id == id && x.departed) = some x ∧
      x.target = .ring tt tau v ∧ x.remote = none ∧ x.repair = false ∧ x.dropped = false ∧ (x.kind = .demand ∨ x.kind = .prefetch ∨ x.kind = .hint))
    ∧ (∃ (s : State) (c : CoreId) (id : Nat) (x : _) (a : _) (n : _), (s.core c).feed.queue.find? (fun x => x.id == id && x.departed) = some x ∧ x.target =
      .range a n ∧ x.remote = none ∧ x.repair = false ∧ x.dropped = false ∧ (x.kind = .demand ∨ x.kind = .prefetch ∨ x.kind = .hint))
    ∧ (∃ (s : State) (w : State) (c : CoreId) (id : Nat) (x : Transfer) (tt : Nat) (tau : Nat) (v : Nat) (z : _), w = (match s.sourceOf v tt tau with | some y => if s.tileHome tt tau = s.me then s.storeTile { y with version := v } else s | none => s)
      ∧ w.ringTile v tt tau = some z ∧ (s.core c).feed.queue.find? (fun x => x.id == id && x.repair) = some x ∧ x.target = .ring tt tau v ∧ w.checkOk
      tt z = true ∧ wcDigest (w.wcFmt tt) (tileKey tt (w.tkOf tt tau) (w.tnOf tt tau)) v z.codes z.csums = z.digest)
    ∧ (∃ (s : State) (w : State) (c : CoreId) (id : Nat) (x : Transfer) (tt : Nat) (tau : Nat) (v : Nat) (z : _), (s.core c).feed.queue.find? (fun x => x.id
      == id && x.repair) = some x ∧ x.target = .ring tt tau v ∧ w = (match s.sourceOf v tt tau with | some y => if s.tileHome tt tau = s.me then s.storeTile { y with version := v } else s | none => s)
      ∧ w.ringTile v tt tau = some z ∧ (w.checkOk tt z = false ∨ wcDigest (w.wcFmt tt) (tileKey tt (w.tkOf tt tau) (w.tnOf tt tau)) v z.codes z.csums
      ≠ z.digest))
    ∧ (∃ (s : State) (c : CoreId) (id : Nat), (s.core c).feed.queue.find? (fun x => x.id == id && x.repair) = none)
    ∧ (∃ (s : State) (c : CoreId) (id : Nat) (a : Nat) (n : Nat) (x : Transfer), (s.core c).feed.queue.find? (fun x => x.id == id && x.departed && x.kind ==
      .write) = some x ∧ x.target = .range a n ∧ (x.remote.isSome || !(s.pageReady (pageOf a))) = true)
    ∧ (∃ (s : State) (c : CoreId) (id : Nat) (a : Nat) (n : Nat) (x : Transfer), (s.core c).feed.queue.find? (fun x => x.id == id && x.departed && x.kind ==
      .write) = some x ∧ x.target = .range a n ∧ x.remote = none ∧ s.pageReady (pageOf a) = true ∧ s.holdsWrites (pageOf a) = true)
    ∧ (∃ (s : State) (c : CoreId) (id : Nat) (a : Nat) (n : Nat) (x : Transfer) (t : _), t = (s.dropXfer c fun y => y.id == id).updCore c (fun k => { k with lb := k.lb.freeBlocks x.blocks, blocked := if x.blocks = [] then k.blocked else 0 })
      ∧ (s.core c).feed.queue.find? (fun x => x.id == id && x.departed && x.kind == .write) = some x ∧ x.target = .range a n ∧ x.remote = none ∧
      s.pageReady (pageOf a) = true ∧ s.holdsWrites (pageOf a) = false)
    ∧ (∃ (s : State) (c : CoreId) (id : Nat), (s.core c).feed.queue.find? (fun x => x.id == id && x.departed && x.kind == .write) = none) :=
  ⟨⟨{}, _, 31, .f, wGo, (fun a l h => by simp [wGo, h]), (fun a l cmd h => by simp [wGo, h]), rfl⟩,
   ⟨{}, _, 31, rfl⟩,
   ⟨wFlow { wGone .demand (.range 0 4) with repair := true }, 31, 0, _, rfl, by decide +kernel⟩,
   ⟨wFlow { wGone .demand (.range 0 4) with dropped := true }, 31, 0, _, rfl, by decide +kernel⟩,
   ⟨wFlow (wGone .write (.range 0 4)), 31, 0, _, rfl, by decide +kernel⟩,
   ⟨wFlow (wGone .readback (.range 0 4)), 31, 0, _, wBack, rfl, (wBack_some), (wBack_none), by decide +kernel⟩,
   ⟨wFlow (wGone .demand (.ring 0 0 0)), 31, 0, _, _, _, _, rfl, rfl, by decide +kernel⟩,
   ⟨wFlow (wGone .demand (.range 0 4)), 31, 0, _, _, _, rfl, rfl, by decide +kernel⟩,
   ⟨wRepair [((0, 0, 0), wTile)], _, 31, 0, { wXfer .demand (.ring 0 0 0) with repair := true }, 0, 0, 0, _, rfl, rfl, by decide +kernel⟩,
   ⟨wRepair [((0, 0, 0), { wTile with check := 1 })], _, 31, 0, _, _, _, _, _, rfl, rfl, rfl, rfl, by decide +kernel⟩,
   ⟨{}, 31, 0, by decide +kernel⟩,
   ⟨wFlow (wGone .write (.range 0 4)), 31, 0, 0, 4, wGone .write (.range 0 4), by decide +kernel⟩,
   ⟨{ wFlow (wGone .write (.range 0 4)) with tier := { migs := [(7, wMig [] 0 true false)], pages := [(0, wPage)] } }, 31, 0, _, _, _, rfl, rfl, by
    decide +kernel⟩,
   ⟨{ wFlow (wGone .write (.range 0 4)) with tier := { pages := [(0, wPage)] } }, 31, 0, 0, 4, wGone .write (.range 0 4), _, rfl, by decide +kernel⟩,
   ⟨{}, 31, 0, by decide +kernel⟩⟩

/-- States and operands that meet the hypotheses of ArbitersGrantAndCut, clause by clause. -/
theorem wit_ArbitersGrantAndCut :
    (∃ (s : State) (t : State) (p : Fin 344) (cyc : Nat) (l : List ArbReq) (kept : Bool), t = s.arbJoin p.val cyc l ∧ (kept && (t.arb p.val).owner.isSome)
      = true)
    ∧ (∃ (s : State) (t : State) (p : Fin 344) (cyc : Nat) (l : List ArbReq) (kept : Bool), t = s.arbJoin p.val cyc l ∧ (kept && (t.arb p.val).owner.isSome)
      = false)
    ∧ (∃ (s : State) (t : State) (p : Fin 344) (cyc : Nat) (l : List ArbReq), t = s.arbJoin p.val cyc l ∧ (t.arb p.val).owner = none)
    ∧ (∃ (s : State) (t : State) (p : Fin 344) (cyc : Nat) (l : List ArbReq) (o : _), t = s.arbJoin p.val cyc l ∧ (t.arb p.val).owner = some o ∧ cyc <
      (t.arb p.val).since + t.field "ARB_HOLD_LIMIT" p.val)
    ∧ (∃ (s : State) (t : State) (p : Fin 344) (cyc : Nat) (l : List ArbReq) (o : _), t = s.arbJoin p.val cyc l ∧ (t.arb p.val).owner = some o ∧ (t.arb
      p.val).since + t.field "ARB_HOLD_LIMIT" p.val ≤ cyc)
    ∧ (∃ (s : State) (t : State) (p : Fin 344) (r : Nat) (cyc : Nat) (l : List ArbReq) (w : _) (u : _) (c : _), t = s.arbJoin p.val cyc l ∧ (t.arb
      p.val).waiting.find? (fun w => w.requester == r) = some w ∧ u = (t.updArb p.val fun x => { x with estimates := kvPut r ((t.arb p.val).estimate w cyc) x.estimates, waiting := x.waiting.map fun (y : ArbWait) => if y.requester = r then { y with told := y.told + 1 } else y }).countGrant
      p.val r ∧ waitCore p.val r = some c ∧ w.arrived + 256 * (w.told + 1) ≤ cyc)
    ∧ (∃ (s : State) (t : State) (p : Fin 344) (r : Nat) (cyc : Nat) (l : List ArbReq) (w : _) (u : _), t = s.arbJoin p.val cyc l ∧ (t.arb
      p.val).waiting.find? (fun w => w.requester == r) = some w ∧ u = (t.updArb p.val fun x => { x with estimates := kvPut r ((t.arb p.val).estimate w cyc) x.estimates, waiting := x.waiting.map fun (y : ArbWait) => if y.requester = r then { y with told := y.told + 1 } else y }).countGrant
      p.val r ∧ w.arrived + 256 * (w.told + 1) ≤ cyc ∧ waitCore p.val r = none)
    ∧ (∃ (s : State) (c : CoreId) (e : EngId) (cyc : Nat), (s.engine c e).gated = true ∧ (((s.arb ((s.engine c e).gatedBy / 64)).waiting.any fun w =>
      w.requester == (s.engine c e).gatedBy % 64) = false ∨ (s.engine c e).wakeAt ≤ cyc))
    ∧ (∃ (s : State) (c : CoreId) (e : EngId), (s.engine c e).gated = false) :=
  ⟨⟨wArb 343 { owner := some 1 }, _, 343, 65535, [], true, rfl, by decide +kernel⟩,
   ⟨wArb 343 { owner := some 1 }, _, 343, 0, [], false, rfl, by decide +kernel⟩,
   ⟨wArb 343 {}, _, 343, 0, [], rfl, by decide +kernel⟩,
   ⟨wArb 343 { owner := some 1, since := 100 }, _, 343, 65635, [], _, rfl, rfl, by decide +kernel⟩,
   ⟨wArb 343 { owner := some 1, since := 100 }, _, 343, 65636, [], _, rfl, rfl, by decide +kernel⟩,
   ⟨wArb 287 { waiting := [wWaits] }, _, 287, 1, 356, [], _, _, _, rfl, rfl, rfl, rfl, by decide +kernel⟩,
   ⟨wArb 343 { waiting := [wWaits] }, _, 343, 1, 356, [], _, _, rfl, rfl, rfl, by decide +kernel⟩,
   ⟨wEng { gated := true, wakeAt := 100 }, 31, 1, 1, by decide +kernel⟩,
   ⟨{}, 31, 1, by decide +kernel⟩⟩

/-- States and operands that meet the hypotheses of MigrationMovesAPage, clause by clause. -/
theorem wit_MigrationMovesAPage :
    (∃ (s : State), s.field "MIG_ENABLE" = 0)
    ∧ (∃ (s : State), s.field "MIG_ENABLE" ≠ 0)
    ∧ (∃ (s : State) (k : Fin 8), kvFind k.val s.tier.migs = none)
    ∧ (∃ (s : State) (k : Fin 8) (m : Mig), kvFind k.val s.tier.migs = some m ∧ (m.final || m.flipped) = true)
    ∧ (∃ (s : State) (k : Fin 8) (m : Mig), kvFind k.val s.tier.migs = some m ∧ (m.final || m.flipped) = false ∧ (m.dirty.length ≤ 8 ∨ 3 ≤ m.round))
    ∧ (∃ (s : State) (k : Fin 8) (m : Mig), kvFind k.val s.tier.migs = some m ∧ (m.final || m.flipped) = false ∧ 8 < m.dirty.length ∧ m.round < 3)
    ∧ (∃ (s : State) (k : Fin 8) (m : Mig), kvFind k.val s.tier.migs = some m ∧ (m.final = false ∨ m.flipped = true))
    ∧ (∃ (s : State) (k : Fin 8) (m : Mig), kvFind k.val s.tier.migs = some m ∧ m.final = true ∧ m.flipped = false)
    ∧ (∃ (s : State) (k : Fin 8) (m : Mig), kvFind k.val s.tier.migs = some m ∧ m.flipped = true ∧ (m.waits.all fun w => !(s.flights m.page).contains w) =
      true)
    ∧ (∃ (s : State) (k : Fin 8) (m : Mig), kvFind k.val s.tier.migs = some m ∧ (m.flipped = false ∨ (m.waits.all fun w => !(s.flights m.page).contains w) =
      false)) :=
  ⟨⟨{ ldr := ldrOf [("MIG_ENABLE", 0, 0)] }, by decide +kernel⟩,
   ⟨{}, by decide +kernel⟩,
   ⟨{}, 7, by decide +kernel⟩,
   ⟨wMoves (wMig [] 0 true false), 7, _, rfl, by decide +kernel⟩,
   ⟨wMoves (wMig (List.range 8) 0 false false), 7, _, rfl, by decide +kernel⟩,
   ⟨wMoves (wMig (List.range 9) 2 false false), 7, _, rfl, by decide +kernel⟩,
   ⟨wMoves (wMig (List.range 8) 0 false false), 7, _, rfl, by decide +kernel⟩,
   ⟨wMoves (wMig [] 0 true false), 7, _, rfl, by decide +kernel⟩,
   ⟨wMoves (wMig [] 0 true true), 7, _, rfl, by decide +kernel⟩,
   ⟨wMoves (wMig (List.range 8) 0 false false), 7, _, rfl, by decide +kernel⟩⟩

/-- States and operands that meet the hypotheses of PooledLinksMemoryErrorsAndRefills, clause by clause. -/
theorem wit_PooledLinksMemoryErrorsAndRefills :
    (∃ (s : State) (p : Nat), (s.faultedKind p (· == 4) || (s.faultedKind p (· == 3) && (s.tilesOn p).all s.tileThere)) = true)
    ∧ (∃ (s : State) (p : Nat), (s.faultedKind p (· == 4) || (s.faultedKind p (· == 3) && (s.tilesOn p).all s.tileThere)) = false)
    ∧ (∃ (s : State) (v : W64), s.faultedKind (v.toNat % 2 ^ 35) (· == 2) = true)
    ∧ (∃ (s : State) (v : W64), s.faultedKind (v.toNat % 2 ^ 35) (· == 2) = false)
    ∧ (∃ (s : State) (p : Nat), s.cxlPortOf p = none)
    ∧ (∃ (s : State) (p : Nat) (k : _), s.cxlPortOf p = some k)
    ∧ (∃ (s : State) (p : CxlId), (s.cxl p).up = true)
    ∧ (∃ (s : State) (p : CxlId), (s.cxl p).up = false ∧ (s.cxl p).gen = 0 ∧ (s.cxl p).perstN = true ∧ 4 ≤ s.pow.phase)
    ∧ (∃ (s : State) (p : CxlId), (s.cxl p).up = false ∧ (s.cxl p).gen = 0 ∧ ((s.cxl p).perstN = false ∨ s.pow.phase < 4))
    ∧ (∃ (s : State) (p : CxlId), (s.cxl p).up = false ∧ (s.cxl p).gen ≠ 0)
    ∧ (∃ (s : State) (p : CxlId) (at' : Nat), ((s.cxl p).downWait && (s.cxl p).downAt + s.cxlLimit p ≤ at') = true)
    ∧ (∃ (s : State) (p : CxlId) (at' : Nat), ((s.cxl p).downWait && (s.cxl p).downAt + s.cxlLimit p ≤ at') = false)
    ∧ (∃ (n : _), 3 ≤ n) :=
  ⟨⟨wFaulted 3, 0, by decide +kernel⟩,
   ⟨{}, 1, by decide +kernel⟩,
   ⟨wFaulted 2, 0, by decide +kernel⟩,
   ⟨{}, 0, by decide +kernel⟩,
   ⟨{}, 1, by decide +kernel⟩,
   ⟨{ tier := { pages := [(0, wPooled)] } }, 0, _, rfl⟩,
   ⟨wCxl { up := true }, 1, by decide +kernel⟩,
   ⟨{ pow := { phase := 4 }, tier := { cxl := [(1, { perstN := true })] } }, 1, by decide +kernel⟩,
   ⟨{}, 1, by decide +kernel⟩,
   ⟨wCxl { gen := 6 }, 1, by decide +kernel⟩,
   ⟨wCxl { downWait := true }, 1, 200000000, by decide +kernel⟩,
   ⟨{}, 1, 1, by decide +kernel⟩,
   ⟨3, by decide +kernel⟩⟩

/-- States and operands that meet the hypotheses of LookupsAreServedByVersion, clause by clause. -/
theorem wit_LookupsAreServedByVersion :
    (∃ (s : State) (r : LkpReq), (s.stepOf r.step).st = .aborting)
    ∧ (∃ (s : State) (r : LkpReq), (s.stepOf r.step).st ≠ .aborting)
    ∧ (∃ (s : State) (r : LkpRsp) (u : _) (x : _), s.unitOf r.ref = some u ∧ r.record = some x)
    ∧ (∃ (s : State) (ref : Nat) (u : _) (bad : LkpItem→Option (LkpItem × Nat)) (f : _), s.units.find? (fun u => u.ref == ref) = some u ∧ (∀ x k, x.out =
      .fault k → bad x = some (x, k)) ∧ (∀ x, (∀ k, x.out ≠ .fault k) → bad x = none) ∧ u.items.findSome? bad = some f ∧ u.known = true) :=
  ⟨⟨{ ctl := { steps := [(1, { st := .aborting })] } }, wReq, by decide +kernel⟩,
   ⟨{}, wReq, by decide +kernel⟩,
   ⟨{ units := [wUnit .waiting] }, wRsp (some wRec), _, _, rfl, rfl⟩,
   ⟨{ units := [wUnit (.fault 0)] }, 0, _, wBadItem, _, rfl, (fun x k h => by simp [wBadItem, h]), (fun x h => by rcases hx : x.out with _ | _ | k <;>
    simp_all [wBadItem]), rfl, by decide +kernel⟩⟩

/-- States and operands that meet the hypotheses of GradientsAreGathered, clause by clause. -/
theorem wit_GradientsAreGathered :
    (∃ (s : State) (m : GatherMarker), ((s.stepOf m.step).st = .aborting ∨ m.step ≤ s.ctl.sealed))
    ∧ (∃ (s : State) (m : GatherMarker), (s.stepOf m.step).st ≠ .aborting ∧ s.ctl.sealed < m.step)
    ∧ (∃ (s : State) (t : State) (tag : Nat) (m : ReplMsg), t = (if replGood m then s.emit [.ack (replSrc m) tag] else s) ∧ (s.stepOf (replStep m)).decided
      = some .apply)
    ∧ (∃ (s : State) (t : State) (tag : Nat) (m : ReplMsg), t = (if replGood m then s.emit [.ack (replSrc m) tag] else s) ∧ (s.stepOf (replStep m)).decided
      = some .skip)
    ∧ (∃ (s : State) (t : State) (tag : Nat) (m : ReplMsg), t = (if replGood m then s.emit [.ack (replSrc m) tag] else s) ∧ (s.stepOf (replStep m)).decided
      ≠ some .apply ∧ (s.stepOf (replStep m)).decided ≠ some .skip ∧ (s.stepOf (replStep m)).st = .aborting)
    ∧ (∃ (s : State) (t : State) (tag : Nat) (m : ReplMsg), t = (if replGood m then s.emit [.ack (replSrc m) tag] else s) ∧ (s.stepOf (replStep m)).decided
      ≠ some .apply ∧ (s.stepOf (replStep m)).decided ≠ some .skip ∧ (s.stepOf (replStep m)).st ≠ .aborting) :=
  ⟨⟨{ ctl := { sealed := 1 } }, wMark, by decide +kernel⟩,
   ⟨{}, wMark, by decide +kernel⟩,
   ⟨wAt { decided := some .apply }, _, 0, .endMark 2 1 0, rfl, by decide +kernel⟩,
   ⟨wAt { decided := some .skip }, _, 0, .endMark 2 1 0, rfl, by decide +kernel⟩,
   ⟨wAt { st := .aborting }, _, 0, .endMark 2 1 0, rfl, by decide +kernel⟩,
   ⟨{}, _, 0, .endMark 2 1 0, rfl, by decide +kernel⟩⟩

/-- States and operands that meet the hypotheses of SlicesAndNodesAreChecked, clause by clause. -/
theorem wit_SlicesAndNodesAreChecked :
    (∃ (s : State), s.weir.creditHeld = true)
    ∧ (∃ (s : State) (x : Slice), s.weir.creditHeld = false ∧ crc32c (f32Bytes x.payload) = x.crc)
    ∧ (∃ (s : State) (t : State) (x : Slice) (n : Nat), n = kvGet 0 (s.sliceKey x, x.src) s.weir.sliceTries + 1 ∧ t = (s.updWeir fun w => { w with sliceTries := kvPut (s.sliceKey x, x.src) n w.sliceTries, crcResends := satAdd 0xFFFF w.crcResends 1 }).emit
      [.sliceAck x.src x.step x.mb x.tensor x.tileK x.tileN false] ∧ s.weir.creditHeld = false ∧ crc32c (f32Bytes x.payload) ≠ x.crc ∧ n = 3)
    ∧ (∃ (s : State) (t : State) (x : Slice) (n : Nat), n = kvGet 0 (s.sliceKey x, x.src) s.weir.sliceTries + 1 ∧ t = (s.updWeir fun w => { w with sliceTries := kvPut (s.sliceKey x, x.src) n w.sliceTries, crcResends := satAdd 0xFFFF w.crcResends 1 }).emit
      [.sliceAck x.src x.step x.mb x.tensor x.tileK x.tileN false] ∧ s.weir.creditHeld = false ∧ crc32c (f32Bytes x.payload) ≠ x.crc ∧ n ≠ 3)
    ∧ (∃ (s : State), s.weir.creditHeld = true)
    ∧ (∃ (s : State) (n : RedNode), s.weir.creditHeld = false ∧ crc32c (f32Bytes n.vals) ≠ n.crc)
    ∧ (∃ (s : State) (n : RedNode), s.weir.creditHeld = false ∧ crc32c (f32Bytes n.vals) = n.crc)
    ∧ (∃ (s : State) (c : CoreId) (e : EngId) (n : Nat) (mb : Nat) (t : Nat) (k : Nat) (l : Nat) (y : _), (s.engine c e).slices.find? (fun y => y.step == n
      && y.mb == mb && y.tensor == t && y.tileK == k && y.tileN == l) = some y) :=
  ⟨⟨{ weir := { creditHeld := true } }, by decide +kernel⟩,
   ⟨{}, wSlice 0, by decide +kernel⟩,
   ⟨{ weir := { sliceTries := [((({} : State).sliceKey (wSlice 1), 2), 2)] } }, _, wSlice 1, _, rfl, rfl, by decide +kernel⟩,
   ⟨{}, _, wSlice 1, _, rfl, rfl, by decide +kernel⟩,
   ⟨{ weir := { creditHeld := true } }, by decide +kernel⟩,
   ⟨{}, wNode 1, by decide +kernel⟩,
   ⟨{}, wNode 0, by decide +kernel⟩,
   ⟨wEng { slices := [wSlice 0] }, 31, 1, 1, 0, 0, 0, 0, _, rfl⟩⟩

/-- States and operands that meet the hypotheses of RootsAreRetainedAndCandidatesFormed, clause by clause. -/
theorem wit_RootsAreRetainedAndCandidatesFormed :
    (∃ (s : State) (n : Nat) (t : Nat) (k : Nat) (l : Nat) (m : Nat) (v : _), m = s.tileMirror t (s.tauOf t k l) ∧ kvFind (n, t, s.tauOf t k l)
      s.weir.roots = some v ∧ s.retFree n = true)
    ∧ (∃ (s : State) (n : Nat) (t : Nat) (k : Nat) (l : Nat) (m : Nat) (v : _), m = s.tileMirror t (s.tauOf t k l) ∧ kvFind (n, t, s.tauOf t k l)
      s.weir.roots = some v ∧ s.retFree n = false)
    ∧ (∃ (s : State) (r : RetRoot), (crc32c (f32Bytes r.vals) ≠ r.crc ∨ (s.stepOf r.step).st = .aborting))
    ∧ (∃ (s : State) (r : RetRoot) (tau : Nat), tau = s.tauOf r.tensor r.tileK r.tileN ∧ crc32c (f32Bytes r.vals) = r.crc ∧ (s.stepOf r.step).st ≠ .aborting
      ∧ s.tileMirror r.tensor tau ≠ s.me ∧ (s.tileHome r.tensor tau ≠ s.me ∨ (s.stepOf r.step).rolled = false))
    ∧ (∃ (s : State) (r : RetRoot) (tau : Nat), tau = s.tauOf r.tensor r.tileK r.tileN ∧ crc32c (f32Bytes r.vals) = r.crc ∧ (s.stepOf r.step).st ≠ .aborting
      ∧ (s.tileMirror r.tensor tau = s.me ∨ (s.tileHome r.tensor tau = s.me ∧ (s.stepOf r.step).rolled = true)) ∧ s.retFree r.step = true)
    ∧ (∃ (s : State) (r : RetRoot) (tau : Nat), tau = s.tauOf r.tensor r.tileK r.tileN ∧ crc32c (f32Bytes r.vals) = r.crc ∧ (s.stepOf r.step).st ≠ .aborting
      ∧ (s.tileMirror r.tensor tau = s.me ∨ (s.tileHome r.tensor tau = s.me ∧ (s.stepOf r.step).rolled = true)) ∧ s.retFree r.step = false)
    ∧ (∃ (s : State) (n : Nat) (t : Nat) (k : Nat) (l : Nat) (tau : Nat) (g : _) (p : _) (z : _) (u : _), tau = s.tauOf t k l ∧ kvFind (n, t, tau)
      s.weir.retained = some g ∧ p = s.prelude n t ∧ z = s.candFrame n t p.1 (s.tile t tau).current g ∧ u = ((s.updWeir fun w => { w with scalars := kvPut t p.1 w.scalars }).updTile
      t tau fun x => { x.setStaged z.1 with cand := some n }) ∧ s.masterCurrent n = true ∧ (s.tile t tau).cand ≠ some n) :=
  ⟨⟨{ weir := { roots := [((1, 0, 0), [])] } }, 1, 0, 1, 0, _, _, rfl, rfl, by decide +kernel⟩,
   ⟨{ weir := { roots := [((3, 0, 0), [])], retained := [((1, 0, 0), []), ((2, 0, 0), [])] } }, 3, 0, 1, 0, _, _, rfl, rfl, by decide +kernel⟩,
   ⟨{}, wRet 1, by decide +kernel⟩,
   ⟨{ fab := { devId := 1 } }, wRet 0, _, rfl, by decide +kernel⟩,
   ⟨{}, wRet 0, _, rfl, by decide +kernel⟩,
   ⟨{ weir := { retained := [((7, 0, 0), []), ((8, 0, 0), []), ((9, 0, 0), [])] } }, wRet 0, _, rfl, by decide +kernel⟩,
   ⟨{ weir := { roots := [((3, 0, 0), [])], retained := [((1, 0, 0), []), ((2, 0, 0), [])] } }, 1, 0, 1, 0, _, _, _, _, _, rfl, rfl, rfl, rfl, rfl, by
    decide +kernel⟩⟩

/-- States and operands that meet the hypotheses of WorkingCopiesAndScaleSetsArrive, clause by clause. -/
theorem wit_WorkingCopiesAndScaleSetsArrive :
    (∃ (s : State) (n : Nat), s.isRoot = true ∧ (s.stepOf n).decided = some .apply ∧ s.weightsAll n = true ∧ s.weir.ssChecked.contains n = false)
    ∧ (∃ (s : State) (n : Nat), (s.isRoot = false ∨ (s.stepOf n).decided ≠ some .apply ∨ s.weightsAll n = false ∨ s.weir.ssChecked.contains n = true))
    ∧ (∃ (s : State) (x : ScaleSet), s.entryOf x.version = none)
    ∧ (∃ (s : State) (x : ScaleSet), s.entryOf x.version ≠ none ∧ setGood x = true)
    ∧ (∃ (s : State) (x : ScaleSet), s.entryOf x.version ≠ none ∧ setGood x = false)
    ∧ (∃ (s : State) (t : State) (x : WcTile), t = (s.updWeir fun w => { w with bcastTiles := satAdd 0xFFFFFFFF w.bcastTiles 1 }).emit ((s.wcTargets
      x.tensor x.src).map fun d => .wcTile d x) ∧ s.wcSlotOf x.version x.tensor = none)
    ∧ (∃ (s : State) (t : State) (x : WcTile), t = (s.updWeir fun w => { w with bcastTiles := satAdd 0xFFFFFFFF w.bcastTiles 1 }).emit ((s.wcTargets
      x.tensor x.src).map fun d => .wcTile d x) ∧ s.wcSlotOf x.version x.tensor ≠ none ∧ wcDigest (s.wcFmt x.tensor) (tileKey x.tensor x.tileK
      x.tileN) x.version x.codes x.csums = x.digest)
    ∧ (∃ (s : State) (t : State) (x : WcTile), t = (s.updWeir fun w => { w with bcastTiles := satAdd 0xFFFFFFFF w.bcastTiles 1 }).emit ((s.wcTargets
      x.tensor x.src).map fun d => .wcTile d x) ∧ s.wcSlotOf x.version x.tensor ≠ none ∧ wcDigest (s.wcFmt x.tensor) (tileKey x.tensor x.tileK
      x.tileN) x.version x.codes x.csums ≠ x.digest)
    ∧ (∃ (s : State) (t : Nat) (k : Nat) (l : Nat) (v : Nat) (x : _), s.sourceOf v t (s.tauOf t k l) = some x)
    ∧ (∃ (s : State) (t : Nat) (k : Nat) (l : Nat) (v : Nat), s.sourceOf v t (s.tauOf t k l) = none) :=
  ⟨⟨wRoot { ctl := { steps := [(1, { decided := some .apply })] }, weir := { weightRecv := [(1, [(1, [])])] } }, 1, by decide +kernel⟩,
   ⟨{}, 1, by decide +kernel⟩,
   ⟨{}, wSet [], by decide +kernel⟩,
   ⟨wRing, wSet (scaleDigest [] [] 0 0), by decide +kernel⟩,
   ⟨wRing, wSet [], by decide +kernel⟩,
   ⟨{}, _, wCopy [], rfl, by decide +kernel⟩,
   ⟨wRing, _, wCopy (wcDigest .fp32 (tileKey 0 0 0) 0 [] []), rfl, by decide +kernel⟩,
   ⟨wRing, _, wCopy [], rfl, by decide +kernel⟩,
   ⟨{ weir := { sources := [((0, 0, 0), wCopy [])] } }, 0, 1, 0, 1, _, rfl⟩,
   ⟨{}, 1, 1, 1, 1, by decide +kernel⟩⟩

/-- States and operands that meet the hypotheses of DigestsRepairsAndReplays, clause by clause. -/
theorem wit_DigestsRepairsAndReplays :
    (∃ (s : State) (n : Nat) (rows : Bool) (t : Nat) (h : Nat), (((s.digestOf n).repairing.any fun x => x.1 == rows && x.2.1 == t && x.2.2.1 == h) = false
      ∨ s.repairReady n rows t = false))
    ∧ (∃ (s : State) (n : Nat) (rows : Bool) (t : Nat) (h : Nat) (x : _), (s.digestOf n).refs.find? (fun x => x.1 == rows && x.2.1 == t && x.2.2.1 == h) =
      some x ∧ ((s.digestOf n).repairing.any fun x => x.1 == rows && x.2.1 == t && x.2.2.1 == h) = true ∧ s.repairReady n rows t = true ∧ (x.2.2.2 =
      [] ∨ x.2.2.2 = s.repaired n rows t h))
    ∧ (∃ (s : State) (n : Nat) (rows : Bool) (t : Nat) (h : Nat) (x : _), (s.digestOf n).refs.find? (fun x => x.1 == rows && x.2.1 == t && x.2.2.1 == h) =
      some x ∧ ((s.digestOf n).repairing.any fun x => x.1 == rows && x.2.1 == t && x.2.2.1 == h) = true ∧ s.repairReady n rows t = true ∧ x.2.2.2 ≠ []
      ∧ x.2.2.2 ≠ s.repaired n rows t h)
    ∧ (∃ (s : State) (d : DevId) (n : Nat), s.isRoot = true ∧ d ∈ s.ctl.members ∧ s.orderKnown "REPLAY" (s.orderFor (n + 1 + s.lag)) = false)
    ∧ (∃ (s : State) (d : DevId) (n : Nat), (s.isRoot = false ∨ d ∉ s.ctl.members ∨ s.orderKnown "REPLAY" (s.orderFor (n + 1 + s.lag)) = true))
    ∧ (∃ (s : State) (key : Nat) (pre : List Byte) (leaf : List Byte) (r : _) (t : _), s.weir.rebuilding.find? (fun r => r.key == key) = some r ∧ t =
      (s.updWeir fun w => { w with rebuilding := w.rebuilding.filter fun x => x.key != key }) ∧ leafOf r.pre = pre ∧ s.redoLeaf r.step key r.pre ≠
      leaf)
    ∧ (∃ (s : State) (at' : Nat) (late : Rebuild → Bool), (∀ r t, r.askedAt = some t → late r = (!r.fromHost && decide (t + s.field "REBUILD_HOST_LIMIT" *
      1000000 ≤ at'))) ∧ (∀ r, r.askedAt = none → late r = false)) :=
  ⟨⟨{}, 1, true, 1, 1, by decide +kernel⟩,
   ⟨wRepairing [(true, 0, 0, [])], 1, true, 0, 0, _, rfl, by decide +kernel⟩,
   ⟨wRepairing [(true, 0, 0, [1])], 1, true, 0, 0, _, rfl, by decide +kernel⟩,
   ⟨wRoot { ctl := { members := [2] } }, 2, 1, by decide +kernel⟩,
   ⟨{}, 2, 1, by decide +kernel⟩,
   ⟨{ weir := { rebuilding := [wRebuild] } }, 0, _, [1], _, _, rfl, rfl, rfl, by decide +kernel⟩,
   ⟨{}, 0, wLate, (fun r t h => by simp [wLate, h]), (fun r h => by simp [wLate, h])⟩⟩

/-- States and operands that meet the hypotheses of ReshardBarrierAndMove, clause by clause. -/
theorem wit_ReshardBarrierAndMove :
    (∃ (s : State) (n : Nat), s.barrierTarget = some n ∧ s.ctl.sealed + 1 = n ∧ s.ctl.layout.barrierSent = false ∧ s.ctl.halted = false)
    ∧ (∃ (s : State), s.barrierTarget = none)
    ∧ (∃ (s : State) (n : Nat), s.barrierTarget = some n ∧ (s.ctl.sealed + 1 ≠ n ∨ s.ctl.layout.barrierSent = true ∨ s.ctl.halted = true))
    ∧ (∃ (s : State) (w : BarrierWord), w.child ∈ s.voteChildren s.me)
    ∧ (∃ (s : State) (w : BarrierWord), w.child ∉ s.voteChildren s.me)
    ∧ (∃ (s : State) (x : ShardXfer), moveDigest x.epoch x.units = x.digest ∧ s.copiesGood x.units = true)
    ∧ (∃ (s : State) (t : State) (x : ShardXfer) (n : Nat), n = kvGet 0 (xferKind x, x.table, x.shard, x.src) s.ctl.layout.xferTries + 1 ∧ t = s.updLayout
      (fun l => { l with xferTries := kvPut (xferKind x, x.table, x.shard, x.src) n l.xferTries }) ∧ (moveDigest x.epoch x.units ≠ x.digest ∨
      s.copiesGood x.units = false)) :=
  ⟨⟨{ ctl := { switchTarget := some 1 } }, _, rfl, by decide +kernel⟩,
   ⟨{}, by decide +kernel⟩,
   ⟨{ ctl := { layout := { target := 5 }, halted := true } }, _, rfl, by decide +kernel⟩,
   ⟨{ ctl := { members := [2] } }, wBarrier 2, by decide +kernel⟩,
   ⟨{}, wBarrier 2, by decide +kernel⟩,
   ⟨{}, wMove [wRowUnit] (moveDigest 1 [wRowUnit]), by decide +kernel⟩,
   ⟨{}, _, wMove [] [], _, rfl, rfl, by decide +kernel⟩⟩

/-- States and operands that meet the hypotheses of LinksTrainAndRetrain, clause by clause. -/
theorem wit_LinksTrainAndRetrain :
    (∃ (s : State) (p : PortId) (rates : List Nat) (half : Bool) (r : Nat) (t : _) (u : _) (v : _), t = s.tick.updPort p (fun x => { x with state := if (s.portMode p == 2 || (s.port p).state == .retraining || (s.port p).state == .up) then .up else .training, rate := r, half := half, rtt := Config.freeNat s.fresh % 2 ^ 16, rev := if s.portMode p = 2 then 3 else x.rev })
      ∧ u = (if s.portMode p = 1 then (t.emit [.linkInit p (t.ownInit p)]).sendCtrl p else t) ∧ v = (if ((s.port p).state == .retraining) = true then
      (u.resendFrom p 4096).reportSuspicion (s.port p).peerId p.val true s.now else u) ∧ r = (rates.filter fun r => 1 ≤ r && r ≤ s.rateCap p).foldl
      (fun a r => max a r) 0 ∧ r ≠ 0 ∧ s.portMode p ≠ 0 ∧ (¬(s.portMode p = 2 ∧ half = true)))
    ∧ (∃ (s : State) (p : PortId) (l : LinkInit) (st : PortState) (t : State), t = (s.updPort p fun x => { x with state := st, rev := min 3 l.rev, credits := l.bufs, peerId := l.peerId, peerTray := l.trayId, peerPort := l.port, rate := if min 3 l.rev = 2 then min 2 x.rate else x.rate }).takeId
      ∧ st = .down ∧ s.portMode p = 1 ∧ (s.port p).state ≠ .absent ∧ (s.port p).state ≠ .down ∧ l.rev < 2)
    ∧ (∃ (s : State) (p : PortId) (l : LinkInit) (st : PortState) (t : State), t = (s.updPort p fun x => { x with state := st, rev := min 3 l.rev, credits := l.bufs, peerId := l.peerId, peerTray := l.trayId, peerPort := l.port, rate := if min 3 l.rev = 2 then min 2 x.rate else x.rate }).takeId
      ∧ st = .up ∧ s.portMode p = 1 ∧ (s.port p).state ≠ .absent ∧ (s.port p).state ≠ .down ∧ 2 ≤ l.rev ∧ (l.pod == s.podNo && l.manifest ==
      s.manifestDigest) = true)
    ∧ (∃ (s : State) (p : PortId) (l : LinkInit) (st : PortState) (t : State), t = (s.updPort p fun x => { x with state := st, rev := min 3 l.rev, credits := l.bufs, peerId := l.peerId, peerTray := l.trayId, peerPort := l.port, rate := if min 3 l.rev = 2 then min 2 x.rate else x.rate }).takeId
      ∧ st = .held ∧ s.portMode p = 1 ∧ (s.port p).state ≠ .absent ∧ (s.port p).state ≠ .down ∧ 2 ≤ l.rev ∧ (l.pod == s.podNo && l.manifest ==
      s.manifestDigest) = false)
    ∧ (∃ (s : State) (p : PortId) (f : Flit) (t : _), t = s.updPort p (fun x => x.flitHeader f) ∧ (s.port p).state ≠ .absent ∧ (s.port p).state ≠ .down ∧
      crc32c f.body = f.crc ∧ f.type = .idle)
    ∧ (∃ (s : State) (p : PortId) (f : Flit) (t : _), t = s.updPort p (fun x => x.flitHeader f) ∧ (s.port p).state ≠ .absent ∧ (s.port p).state ≠ .down ∧
      crc32c f.body = f.crc ∧ f.type = .nak)
    ∧ (∃ (s : State) (p : PortId) (f : Flit) (t : _), t = s.updPort p (fun x => x.flitHeader f) ∧ (s.port p).state ≠ .absent ∧ (s.port p).state ≠ .down ∧
      crc32c f.body = f.crc ∧ f.type ≠ .idle ∧ f.type ≠ .nak ∧ f.seq = (s.port p).expect)
    ∧ (∃ (s : State) (p : PortId) (f : Flit) (t : _), t = s.updPort p (fun x => x.flitHeader f) ∧ (s.port p).state ≠ .absent ∧ (s.port p).state ≠ .down ∧
      crc32c f.body = f.crc ∧ f.type ≠ .idle ∧ f.type ≠ .nak ∧ f.seq ≠ (s.port p).expect ∧ (s.port p).awaitResend = true)
    ∧ (∃ (s : State) (p : PortId) (f : Flit) (t : _), t = s.updPort p (fun x => x.flitHeader f) ∧ (s.port p).state ≠ .absent ∧ (s.port p).state ≠ .down ∧
      crc32c f.body = f.crc ∧ f.type ≠ .idle ∧ f.type ≠ .nak ∧ f.seq ≠ (s.port p).expect ∧ (s.port p).awaitResend = false)
    ∧ (∃ (s : State) (p : PortId) (n : Nat), (s.port p).state = .retraining ∧ (s.port p).retrainAt + s.field "POP_RETRAIN_LIMIT" p.val * 1000000 ≤ n)
    ∧ (∃ (s : State) (p : PortId) (n : Nat), ((s.port p).state ≠ .retraining ∨ n < (s.port p).retrainAt + s.field "POP_RETRAIN_LIMIT" p.val * 1000000))
    ∧ (∃ (s : State) (p : PortId), s.portMode p = 1 ∧ ((s.port p).state = .up ∨ (s.port p).state = .held))
    ∧ (∃ (s : State) (p : PortId), (s.portMode p ≠ 1 ∨ ((s.port p).state ≠ .up ∧ (s.port p).state ≠ .held))) :=
  ⟨⟨wPort 1 {}, 15, [1], false, 1, _, _, _, rfl, rfl, rfl, by decide +kernel⟩,
   ⟨wPort 1 { state := .training }, 15, wInit, _, _, rfl, rfl, by decide +kernel⟩,
   ⟨wPort 1 { state := .up }, 15, { wInit with rev := 2 }, _, _, rfl, rfl, by decide +kernel⟩,
   ⟨wPort 1 { state := .up }, 15, { wInit with rev := 2, pod := 1 }, _, _, rfl, rfl, by decide +kernel⟩,
   ⟨wPort 1 { state := .up }, 15, { wFlit with crc := 0 }, _, rfl, by decide +kernel⟩,
   ⟨wPort 1 { state := .up }, 15, { wFlit with crc := 0, type := .nak }, _, rfl, by decide +kernel⟩,
   ⟨wPort 1 { state := .up }, 15, { wFlit with crc := 0, type := .data }, _, rfl, by decide +kernel⟩,
   ⟨wPort 1 { state := .up, awaitResend := true }, 15, { wFlit with crc := 0, type := .data, seq := 1 }, _, rfl, by decide +kernel⟩,
   ⟨wPort 1 { state := .up }, 15, { wFlit with crc := 0, type := .ctrl, seq := 1 }, _, rfl, by decide +kernel⟩,
   ⟨wPort 1 { state := .retraining }, 15, 50000000, by decide +kernel⟩,
   ⟨{}, 15, 0, by decide +kernel⟩,
   ⟨wPort 1 { state := .up }, 15, by decide +kernel⟩,
   ⟨{}, 15, by decide +kernel⟩⟩

/-- States and operands that meet the hypotheses of FramesAreServed, clause by clause. -/
theorem wit_FramesAreServed :
    (∃ (s : State) (f : Frame) (f' : _) (t' : _) (g : _) (u : _), s.drain.fillFrame' f = some (f', t') ∧ g = t'.ownFrame f' ∧ u = t'.useCounters
      f'.ctx.val 1 ∧ (frameInvalidOn g 0 || !(t'.maySend g)) = true)
    ∧ (∃ (s : State) (f : Frame) (f' : _) (t' : _) (g : _) (u : _), s.drain.fillFrame' f = some (f', t') ∧ g = t'.ownFrame f' ∧ u = t'.useCounters
      f'.ctx.val 1 ∧ (frameInvalidOn g 0 || !(t'.maySend g)) = false)
    ∧ (∃ (s : State) (tag : Nat) (w : _), s.tier.remoteWait.find? (fun x => x.1 == tag) = some w) :=
  ⟨⟨{}, { wFrame 2 with resvZero := false }, _, _, _, _, rfl, rfl, rfl, by decide +kernel⟩,
   ⟨{}, wFrame 0, _, _, _, _, rfl, rfl, rfl, by decide +kernel⟩,
   ⟨{ tier := { remoteWait := [(7, 2, 31)] } }, 7, _, rfl⟩⟩

/-- States and operands that meet the hypotheses of RemoteAccessesComplete, clause by clause. -/
theorem wit_RemoteAccessesComplete :
    (∃ (s : State) (t : State) (u : State) (tag : Nat), t = s.updTier (fun y => { y with remoteWait := y.remoteWait.filter fun x => x.1 != tag }) ∧
      (s.tier.remoteWait.find? (fun x => x.1 == tag) = none → u = t) ∧ (∀ w, s.tier.remoteWait.find? (fun x => x.1 == tag) = some w → u = t.updCore
      (Fin.ofNat 32 w.2.2) fun k => { k with feed := { k.feed with queue := k.feed.queue.map fun x => if x.remote = some tag then { x with remote := none } else x } }))
    ∧ (∃ (s : State) (f : Frame), ((s.admitFrame f).2 = false ∨ s.atl.running = false ∨ f.payload.headD 0 = 1))
    ∧ (∃ (s : State) (f : Frame), (s.admitFrame f).2 = true ∧ s.atl.running = true ∧ f.payload.headD 0 ≠ 1) :=
  ⟨⟨{ pending := [.idcode] }, _, { pending := [.idcode] }, 32, rfl, by decide +kernel⟩,
   ⟨{ pending := [.idcode] }, wFrame 0, by decide +kernel⟩,
   ⟨{ pow := { phase := 3 }, fab := { devId := 1 }, atl := { running := true } }, wFrame 0, by decide +kernel⟩⟩

/-- States and operands that meet the hypotheses of EthernetAndAcksRetry, clause by clause. -/
theorem wit_EthernetAndAcksRetry :
    (∃ (s : State) (p : PortId), (s.portMode p ≠ 2 ∨ (s.port p).state ≠ .up))
    ∧ (∃ (s : State) (t : State) (u : State) (p : PortId) (k : EthPacket) (n : Nat) (answer : State → Bool → State) (f : _), t = (s.at' n).ethControl p k n
      ∧ u = (if k.ceMark then t.updFlow k.src k.vc fun x => { x with ceSeen := true } else t) ∧ (∀ v nak, answer v nak = (v.emit [.eth p
      (v.ethPacketOf k.src k.vc 0 nak none)]).updFlow k.src k.vc fun x => { x with ceSeen := false }) ∧ k.frame = some f ∧ s.portMode p = 2 ∧ (s.port
      p).state = .up ∧ k.psn = (u.flow k.src k.vc).expect)
    ∧ (∃ (s : State) (t : State) (u : State) (p : PortId) (k : EthPacket) (n : Nat) (answer : State → Bool → State) (f : _), t = (s.at' n).ethControl p k n
      ∧ u = (if k.ceMark then t.updFlow k.src k.vc fun x => { x with ceSeen := true } else t) ∧ (∀ v nak, answer v nak = (v.emit [.eth p
      (v.ethPacketOf k.src k.vc 0 nak none)]).updFlow k.src k.vc fun x => { x with ceSeen := false }) ∧ s.portMode p = 2 ∧ (s.port p).state = .up ∧
      k.frame = some f ∧ k.psn ≠ (u.flow k.src k.vc).expect)
    ∧ (∃ (s : State) (d : DevId), s.ethPortOf d = none)
    ∧ (∃ (s : State) (d : DevId) (vc : Nat) (n : Nat) (p : PortId) (waits : Bool), s.ethPortOf d = some p ∧ waits = (s.fab.waitingFrames.any fun x =>
      s.bound x.2.dst == d && x.2.vc == vc) ∧ (((s.flow d vc).unacked = [] ∧ waits = false) ∨ n < (s.flow d vc).deadline))
    ∧ (∃ (s : State) (d : DevId) (vc : Nat) (n : Nat) (p : PortId) (waits : Bool), s.ethPortOf d = some p ∧ waits = (s.fab.waitingFrames.any fun x =>
      s.bound x.2.dst == d && x.2.vc == vc) ∧ (s.flow d vc).unacked = [] ∧ waits = true ∧ (s.flow d vc).deadline ≤ n)
    ∧ (∃ (s : State) (d : DevId) (vc : Nat) (n : Nat) (p : PortId) (waits : Bool), s.ethPortOf d = some p ∧ waits = (s.fab.waitingFrames.any fun x =>
      s.bound x.2.dst == d && x.2.vc == vc) ∧ (s.flow d vc).unacked ≠ [] ∧ (s.flow d vc).deadline ≤ n)
    ∧ (∃ (s : State) (tag : Nat) (n : Nat) (due : List ((Nat × DevId) × Unacked)), due = (s.fab.unacked.filter fun x => x.1.1 == tag && x.2.deadline ≤ n)) :=
  ⟨⟨{}, 15, by decide +kernel⟩,
   ⟨wPort 2 { state := .up }, _, _, 15, wEth (some (wFrame 0)), 1, _, _, rfl, rfl, fun _ _ => rfl, rfl, by decide +kernel⟩,
   ⟨wPort 2 { state := .up }, _, _, 15, { wEth (some (wFrame 0)) with psn := 1 }, 0, _, wFrame 0, rfl, rfl, fun _ _ => rfl, by decide +kernel⟩,
   ⟨{}, 15, by decide +kernel⟩,
   ⟨wPort 2 { state := .up }, 15, 1, 1, _, _, rfl, rfl, by decide +kernel⟩,
   ⟨{ wPort 2 { state := .up } with fab := { ports := [(15, { state := .up })], waitingFrames := [(none, wFrame 15)] } }, 15, 1, 0, _, _, rfl, rfl, by
    decide +kernel⟩,
   ⟨wFlowTo, 15, 1, 100, _, _, rfl, rfl, by decide +kernel⟩,
   ⟨{}, 1, 0, _, rfl⟩⟩

/-- States and operands that meet the hypotheses of DiscoveryAndHeartbeats, clause by clause. -/
theorem wit_DiscoveryAndHeartbeats :
    (∃ (s : State) (n : Nat), (s.pow.phase < 3 ∨ s.fab.devId = 0 ∨ s.atl.running = false ∨ (∃ t, s.fab.hbAt = some t ∧ n < t + ms)))
    ∧ (∃ (s : State) (t : State) (n : Nat) (h : Heartbeat), t = ((s.at' n).updRcv fun r => { r with hbStopped := (s.rcv.isCoord || s.rcv.isDeputy) && !s.podsHeard n }).updAtl
      (fun a => { a with live := (a.live + 1) % 2 ^ 32 }) ∧ h = { src := s.fab.devId, epoch := s.ctl.memEpoch, live := t.atl.live, sealedLo := s.ctl.sealed % 2 ^ 32 }
      ∧ 3 ≤ s.pow.phase ∧ s.fab.devId ≠ 0 ∧ s.atl.running = true ∧ (∀ x, s.fab.hbAt = some x → x + ms ≤ n))
    ∧ (∃ (s : State) (h : Heartbeat), s.rcv.failedIds.contains h.src = true ∧ h.epoch < s.ctl.memEpoch)
    ∧ (∃ (s : State) (u : State) (v : State) (h : Heartbeat) (n : Nat) (same : Nat) (live : List DevId), same = (if kvHas h.src s.fab.heard && (kvGet {}
      h.src s.fab.heard).live == h.live then (kvGet {} h.src s.fab.heard).same + 1 else 0) ∧ u = (s.at' n).updFab (fun f => { f with heard := kvPut h.src { at' := n, live := h.live, same := same, epoch := h.epoch, sealedLo := h.sealedLo, suspected := (kvGet {} h.src s.fab.heard).suspected } f.heard })
      ∧ live = (u.podDevices.filter fun d => d != 0 && !s.dead d) ∧ v = u.updRcv (fun r => { r with coordHeard := if (h.src == live.headD 0 || h.src == (live.drop 1).headD 0) && s.podOf h.src == s.podNo then n else r.coordHeard, podHeard := if s.podOf h.src != s.podNo then kvPut (s.podOf h.src) n r.podHeard else r.podHeard })
      ∧ (¬(s.rcv.failedIds.contains h.src = true ∧ h.epoch < s.ctl.memEpoch)))
    ∧ (∃ (s : State) (d : DevId) (l : List Neighbour), d = s.fab.devId ∧ l = s.ownNeighbours ∧ d ≠ 0)
    ∧ (∃ (s : State) (d : DevId) (l : List Neighbour), d = s.fab.devId ∧ d ≠ 0 ∧ l ≠ s.ownNeighbours)
    ∧ (∃ (s : State) (d : DevId) (l : List Neighbour), (d = 0 ∨ (d ≠ s.fab.devId ∧ kvFind d s.fab.graph = some l)))
    ∧ (∃ (s : State) (d : DevId) (l : List Neighbour), d ≠ 0 ∧ d ≠ s.fab.devId ∧ kvFind d s.fab.graph ≠ some l)
    ∧ (∃ (s : State) (n : Nat), (n < s.fab.graphAt + 1000000 ∨ s.fab.graphDone = true ∨ s.pow.phase < 3))
    ∧ (∃ (s : State) (t : State) (n : Nat) (fin : State → State), t = ((s.at' n).takeId.updFab fun f => { f with graph := kvPut f.devId (s.at' n).takeId.ownNeighbours f.graph }).reroute.podRoles
      ∧ (∀ u, fin u = (u.updFab fun f => { f with graphDone := true }).updPow fun p => { p with discovered := true }) ∧ s.fab.graphAt + 1000000 ≤ n ∧
      s.fab.graphDone = false ∧ 3 ≤ s.pow.phase ∧ t.rcv.isCoord = true)
    ∧ (∃ (s : State) (t : State) (g : List Byte) (n : Nat) (fin : State → State), t = ((s.at' n).takeId.updFab fun f => { f with graph := kvPut f.devId (s.at' n).takeId.ownNeighbours f.graph }).reroute.podRoles
      ∧ (∀ u, fin u = (u.updFab fun f => { f with graphDone := true }).updPow fun p => { p with discovered := true }) ∧ g = graphDigest t.fab.graph ∧
      s.fab.graphAt + 1000000 ≤ n ∧ s.fab.graphDone = false ∧ 3 ≤ s.pow.phase ∧ t.rcv.isCoord = false)
    ∧ (∃ (s : State) (t : State) (g : List Byte) (n : Nat) (fin : State → State), t = ((s.at' n).takeId.updFab fun f => { f with graph := kvPut f.devId (s.at' n).takeId.ownNeighbours f.graph }).reroute.podRoles
      ∧ (∀ u, fin u = (u.updFab fun f => { f with graphDone := true }).updPow fun p => { p with discovered := true }) ∧ s.fab.graphAt + 1000000 ≤ n ∧
      s.fab.graphDone = false ∧ 3 ≤ s.pow.phase ∧ t.rcv.isCoord = false ∧ g ≠ graphDigest t.fab.graph) :=
  ⟨⟨{}, 0, by decide +kernel⟩,
   ⟨{ pow := { phase := 3 }, fab := { devId := 1 }, atl := { running := true } }, _, 0, _, rfl, rfl, by decide +kernel⟩,
   ⟨{ rcv := { failedIds := [2] }, ctl := { memEpoch := 1 } }, wBeat, by decide +kernel⟩,
   ⟨{}, _, _, wBeat, 0, _, _, rfl, rfl, rfl, rfl, by decide +kernel⟩,
   ⟨wHeard, _, _, rfl, rfl, by decide +kernel⟩,
   ⟨wHeard, _, [{ port := 0, peer := 2, peerPort := 0 }], rfl, by decide +kernel⟩,
   ⟨{}, 0, [], by decide +kernel⟩,
   ⟨{}, 2, [], by decide +kernel⟩,
   ⟨{}, 0, by decide +kernel⟩,
   ⟨{ pow := { phase := 3 }, fab := { devId := 1 } }, _, 1000000, _, rfl, fun _ => rfl, by decide +kernel⟩,
   ⟨{ pow := { phase := 3 } }, _, _, 1000000, _, rfl, fun _ => rfl, rfl, by decide +kernel⟩,
   ⟨{ pow := { phase := 3 } }, _, [], 1000000, _, rfl, fun _ => rfl, by decide +kernel⟩⟩

/-- States and operands that meet the hypotheses of MembershipChangesByRecord, clause by clause. -/
theorem wit_MembershipChangesByRecord :
    (∃ (s : State) (m : MemberRec), (m.epoch = s.ctl.memEpoch ∧ (m.epoch ≤ s.ctl.memEpoch ∨ s.fenced = true)))
    ∧ (∃ (s : State) (m : MemberRec), (m.epoch < s.ctl.memEpoch ∨ (s.fenced = true ∧ m.epoch ≠ s.ctl.memEpoch)))
    ∧ (∃ (s : State) (m : MemberRec), s.ctl.memEpoch < m.epoch ∧ s.fenced = false ∧ (m.failed.contains s.me && (s.rcv.role == .member || s.rcv.role ==
      .takeover)) = true)
    ∧ (∃ (s : State) (m : MemberRec) (d : _), s.bindingHere m = some d ∧ s.ctl.memEpoch < m.epoch ∧ s.fenced = false ∧ (m.failed.contains s.me &&
      (s.rcv.role == .member || s.rcv.role == .takeover)) = false ∧ s.hasMember d = true)
    ∧ (∃ (s : State) (m : MemberRec) (d : _), s.bindingHere m = some d ∧ s.ctl.memEpoch < m.epoch ∧ s.fenced = false ∧ (m.failed.contains s.me &&
      (s.rcv.role == .member || s.rcv.role == .takeover)) = false ∧ s.hasMember d = false)
    ∧ (∃ (s : State) (n : Nat) (x : _) (l : _) (ids : _), s.rcv.confirmed = x :: l ∧ ids = (s.ctl.members.filter fun d => (s.rcv.confirmed.map
      Prod.fst).contains (s.bound d)) ∧ (s.rcv.isJobCoord = false ∨ s.fenced = true ∨ n < x.2 + s.field "MEMBER_BATCH_US" * 1000))
    ∧ (∃ (s : State) (n : Nat) (x : _) (l : _) (ids : _), s.rcv.confirmed = x :: l ∧ ids = (s.ctl.members.filter fun d => (s.rcv.confirmed.map
      Prod.fst).contains (s.bound d)) ∧ s.rcv.isJobCoord = true ∧ s.fenced = false ∧ x.2 + s.field "MEMBER_BATCH_US" * 1000 ≤ n)
    ∧ (∃ (s : State) (d : DevId) (e : Nat) (n : Nat) (dep : Bool) (m : _) (u : _), s.rcv.record = some m ∧ u = ((s.at' n).updRcv fun r => { r with acks := addNew d r.acks, deputyHolds := r.deputyHolds || dep })
      ∧ (s.rcv.isJobCoord = false ∨ e ≠ m.epoch))
    ∧ (∃ (s : State) (d : DevId) (e : Nat) (n : Nat) (dep : Bool) (m : _) (u : _), s.rcv.record = some m ∧ u = ((s.at' n).updRcv fun r => { r with acks := addNew d r.acks, deputyHolds := r.deputyHolds || dep })
      ∧ e = m.epoch ∧ s.rcv.isJobCoord = true ∧ (s.recordFinal m = true ∨ u.recordFinal m = false))
    ∧ (∃ (s : State) (d : DevId) (e : Nat) (n : Nat) (dep : Bool) (m : _) (u : _) (w : _), s.rcv.record = some m ∧ u = ((s.at' n).updRcv fun r => { r with acks := addNew d r.acks, deputyHolds := r.deputyHolds || dep })
      ∧ w = (u.updRcv fun r => { r with finalAt := n, epochUs := min 0xFFFF ((n - (m.failed.filterMap fun d => kvFind d s.rcv.fmAsked).foldl min n) / 1000) }).grantLeases
      m ∧ s.rcv.isJobCoord = true ∧ e = m.epoch ∧ s.recordFinal m = false ∧ u.recordFinal m = true)
    ∧ (∃ (s : State) (d : DevId) (n : Nat) (grant : State → State) (c : _) (u : _), (∀ u, u.rcv.takeover = none → grant u = u) ∧ (∀ u x, u.rcv.takeover =
      some x → grant u = if x.id = d then u.updRcv fun r => { r with takeover := some { x with cxlGranted := true } } else u) ∧ kvFind d s.rcv.fmAsked
      = some c ∧ u = ((s.at' n).updRcv fun r => { r with leases := kvPut (.cxlRegion, d) (s.bound d, s.ctl.memEpoch) r.leases, fmAsked := kvDel d r.fmAsked, fmBound := r.fmBound.filter (· != d), fmLate := r.fmLate.filter (· != d), jobWait := !r.unbound.isEmpty || (r.fmLate.filter (· != d)) != [] })
      ∧ s.rcv.isJobCoord = true ∧ s.rcv.finalAt ≠ 0 ∧ c + s.field "LEASE_GRACE_MS" * ms ≤ n ∧ (decide (s.field "FM_BIND_LIMIT" = 0) ||
      s.rcv.fmBound.contains d) = true ∧ s.rcv.unbound.contains d = false ∧ s.bound d = s.fab.devId)
    ∧ (∃ (s : State) (d : DevId) (n : Nat) (grant : State → State) (c : _) (u : _), (∀ u, u.rcv.takeover = none → grant u = u) ∧ (∀ u x, u.rcv.takeover =
      some x → grant u = if x.id = d then u.updRcv fun r => { r with takeover := some { x with cxlGranted := true } } else u) ∧ kvFind d s.rcv.fmAsked
      = some c ∧ u = ((s.at' n).updRcv fun r => { r with leases := kvPut (.cxlRegion, d) (s.bound d, s.ctl.memEpoch) r.leases, fmAsked := kvDel d r.fmAsked, fmBound := r.fmBound.filter (· != d), fmLate := r.fmLate.filter (· != d), jobWait := !r.unbound.isEmpty || (r.fmLate.filter (· != d)) != [] })
      ∧ s.rcv.isJobCoord = true ∧ s.rcv.finalAt ≠ 0 ∧ c + s.field "LEASE_GRACE_MS" * ms ≤ n ∧ (decide (s.field "FM_BIND_LIMIT" = 0) ||
      s.rcv.fmBound.contains d) = true ∧ s.rcv.unbound.contains d = false ∧ s.bound d ≠ s.fab.devId ∧ s.rcv.record = none)
    ∧ (∃ (s : State) (d : DevId) (n : Nat) (grant : State → State) (c : _) (u : _) (m : _), (∀ u, u.rcv.takeover = none → grant u = u) ∧ (∀ u x,
      u.rcv.takeover = some x → grant u = if x.id = d then u.updRcv fun r => { r with takeover := some { x with cxlGranted := true } } else u) ∧
      kvFind d s.rcv.fmAsked = some c ∧ u = ((s.at' n).updRcv fun r => { r with leases := kvPut (.cxlRegion, d) (s.bound d, s.ctl.memEpoch) r.leases, fmAsked := kvDel d r.fmAsked, fmBound := r.fmBound.filter (· != d), fmLate := r.fmLate.filter (· != d), jobWait := !r.unbound.isEmpty || (r.fmLate.filter (· != d)) != [] })
      ∧ s.rcv.record = some m ∧ s.rcv.isJobCoord = true ∧ s.rcv.finalAt ≠ 0 ∧ c + s.field "LEASE_GRACE_MS" * ms ≤ n ∧ (decide (s.field "FM_BIND_LIMIT"
      = 0) || s.rcv.fmBound.contains d) = true ∧ s.rcv.unbound.contains d = false ∧ s.bound d ≠ s.fab.devId) :=
  ⟨⟨{ ctl := { memEpoch := 2 } }, wMember 2 [], by decide +kernel⟩,
   ⟨{ ctl := { memEpoch := 2 } }, wMember 1 [], by decide +kernel⟩,
   ⟨{ rcv := { role := .member }, fab := { devId := 5 } }, wMember 1 [5], by decide +kernel⟩,
   ⟨{ fab := { devId := 2 }, ldr := { image := some (wImage false [] [wSection .member none 1] []) } }, { wMember 5 [] with bindings := [(1, 2)] }, _,
    rfl, by decide +kernel⟩,
   ⟨{ fab := { devId := 2 } }, { wMember 5 [] with bindings := [(1, 2)] }, _, rfl, by decide +kernel⟩,
   ⟨{ rcv := { confirmed := [(6, 0)], isJobCoord := true } }, 1, _, _, _, rfl, rfl, by decide +kernel⟩,
   ⟨{ rcv := { confirmed := [(6, 0)], isJobCoord := true } }, 200000, _, _, _, rfl, rfl, by decide +kernel⟩,
   ⟨{ rcv := { record := some (wMember 1 []), isJobCoord := true, deputyHolds := true } }, 2, 0, 1, true, _, _, rfl, rfl, by decide +kernel⟩,
   ⟨{ rcv := { record := some (wMember 1 []), isJobCoord := true, deputyHolds := true } }, 2, _, 1, true, _, _, rfl, rfl, rfl, by decide +kernel⟩,
   ⟨{ rcv := { isJobCoord := true, record := some { wMember 5 [] with members := [1, 2] } }, fab := { devId := 1 } }, 2, 5, 0, true, _, _, _, rfl, rfl,
    rfl, by decide +kernel⟩,
   ⟨wLease 7 none, 7, 1000000000000, wGrant 7, _, _, (fun u h => by simp [wGrant, h]), (fun u x h => by simp [wGrant, h]), rfl, rfl, by decide +kernel⟩,
   ⟨wLease 1 none, 7, 1000000000000, wGrant 7, _, _, (fun u h => by simp [wGrant, h]), (fun u x h => by simp [wGrant, h]), rfl, rfl, by decide +kernel⟩,
   ⟨wLease 1 (some (wMember 5 [])), 7, 1000000000000, wGrant 7, _, _, _, (fun u h => by simp [wGrant, h]), (fun u x h => by simp [wGrant, h]), rfl, rfl,
    rfl, by decide +kernel⟩⟩

/-- States and operands that meet the hypotheses of TakeoversRestoreAnId, clause by clause. -/
theorem wit_TakeoversRestoreAnId :
    (∃ (s : State) (k : Nat) (v : Nat) (c : _), s.standby.unitAt k v = some c)
    ∧ (∃ (s : State), s.rcv.takeover = none)
    ∧ (∃ (s : State) (x : Takeover), s.rcv.takeover = some x ∧ (x.cxlGranted = false ∨ x.pulled = true))
    ∧ (∃ (s : State) (t : State) (u : State) (w : State) (w1 : State) (y : State) (z : State) (x : Takeover) (v : Nat) (base : List (Bool × Journal)) (jour
      : List (Bool × Journal)) (b : Standby) (rolls : Bool), s.rcv.takeover = some x ∧ v = ((s.pooledStandby x.id).header.map (·.sealedStep)).getD
      ((match x.roll with | some n => n - 1 | none => s.ctl.sealed)) ∧ base = s.pooledOf x.id true (s.pooledStandby x.id).header.isSome v ∧ jour =
      s.pooledOf x.id false (s.pooledStandby x.id).header.isSome v ∧ b = { s.pooledStandby x.id with base := base.map Prod.snd, journal := (jour.map Prod.snd).filter fun j => j.step ≤ v }
      ∧ t = (if (s.pooledStandby x.id).header.isNone then s.raiseDev .correctable 0x083 (unitNo 9 0) x.id else s) ∧ u = ((((t.mapPages []).pullPages
      x.id).loadProgs).restore b v).updStandby (fun _ => b) ∧ w = (u.setRoll v x.roll).askVersions v ∧ rolls = (match x.roll with | some n => decide (v < n) | none => false)
      ∧ w1 = (match s.atl.runCtx with | some c => w.updCtx c fun q => { q with diffSeq := leNat ((((b.recAt 6 0 v).getD []).drop 16).take 8) } | none => w)
      ∧ y = (w1.updLdr fun l => { l with memberWrites := l.memberWrites ++ (Config.spareWrites s.fresh).map fun x => { index := x.1, value := x.2.1, target := x.2.2.1, serial := x.2.2.2 } }).updRcv
      (fun r => { r with takeover := some { x with pulled := true, version := v, roll := if rolls then x.roll else none }, partnerUnits := satAdd 0xFFFF r.partnerUnits (((base ++ jour).filter fun y => !y.1).map fun y => y.2.key).length })
      ∧ z = y.emit ((((base ++ jour).filter fun y => !y.1).map fun y => y.2.key).map fun k => .unitAsk (s.partnerFor x.id k) k v) ∧ x.cxlGranted =
      true ∧ x.pulled = false)
    ∧ (∃ (s : State) (d : DevId), s.rcv.taking.contains d = false)
    ∧ (∃ (s : State) (u : State) (v : State) (d : DevId) (n : Nat), u = (s.at' n).updRcv (fun r => { r with taking := r.taking.filter (· != d), takeoverMs := if r.isJobCoord then (n - r.finalAt) / ms else r.takeoverMs })
      ∧ v = (if s.rcv.isJobCoord then u.emit (((s.ctl.members.map s.bound).filter (· != s.fab.devId)).map fun e => .takeoverDone e d) else u) ∧
      s.rcv.taking.contains d = true ∧ v.rcv.taking ≠ [])
    ∧ (∃ (s : State) (u : State) (v : State) (d : DevId) (n : Nat), u = (s.at' n).updRcv (fun r => { r with taking := r.taking.filter (· != d), takeoverMs := if r.isJobCoord then (n - r.finalAt) / ms else r.takeoverMs })
      ∧ v = (if s.rcv.isJobCoord then u.emit (((s.ctl.members.map s.bound).filter (· != s.fab.devId)).map fun e => .takeoverDone e d) else u) ∧
      s.rcv.taking.contains d = true ∧ v.rcv.taking = [])
    ∧ (∃ (s : State) (n : Nat) (h : StbyHeader), s.standby.header = some h ∧ n = h.baseStep + 1 ∧ n + s.lag + 1 ≤ h.sealedStep ∧ s.sealedByAll n = true ∧
      s.fenced = false)
    ∧ (∃ (s : State), s.standby.header = none)
    ∧ (∃ (s : State) (n : Nat) (h : StbyHeader), s.standby.header = some h ∧ (¬(n = h.baseStep + 1 ∧ n + s.lag + 1 ≤ h.sealedStep ∧ s.sealedByAll n = true ∧
      s.fenced = false)))
    ∧ (∃ (s : State), (s.ctl.releaseTarget = none ∨ ∃ t, s.ctl.releaseTarget = some t ∧ s.ctl.sealed + 1 ≠ t))
    ∧ (∃ (s : State) (a : State) (b : State) (t : Nat) (now : List Release) (ids : List DevId), s.ctl.releaseTarget = some t ∧ now = (s.rcv.releases.filter
      fun r => r.target == t) ∧ a = (if (now.any s.released) && s.rcv.role == .member && (match s.standby.header with | some h => h.sealedStep + 1 == t | none => false)
      then s.fence .released false else s) ∧ ids = (s.ctl.members.filter fun d => now.any fun r => if r.dev ≠ 0 then r.dev == d else s.trayOf (s.bound
      d) == (r.pod, r.tray)) ∧ b = a.updRcv (fun r => { r with releases := r.releases.filter fun x => x.target != t, finalAt := 0, fmAsked := ids.foldl (fun k d => kvPut d s.now k) r.fmAsked })
      ∧ s.ctl.sealed + 1 = t) :=
  ⟨⟨wStbyOf { base := [{ step := 1, kind := 0, key := 3, content := [9] }] }, 3, 1, _, rfl⟩,
   ⟨{}, by decide +kernel⟩,
   ⟨{ rcv := { takeover := some (wTake false false) } }, _, rfl, by decide +kernel⟩,
   ⟨{ rcv := { takeover := some (wTake true false) } }, _, _, _, _, _, _, _, _, _, _, _, _, rfl, rfl, rfl, rfl, rfl, rfl, rfl, rfl, rfl, rfl, rfl, rfl,
    by decide +kernel⟩,
   ⟨{}, 2, by decide +kernel⟩,
   ⟨{ rcv := { taking := [1, 2] } }, _, _, 1, 0, rfl, rfl, by decide +kernel⟩,
   ⟨{ rcv := { taking := [7] } }, _, _, 7, 1, rfl, rfl, by decide +kernel⟩,
   ⟨wStbyOf { hdr1 := some (wHeader 2) }, _, _, rfl, rfl, by decide +kernel⟩,
   ⟨{}, by decide +kernel⟩,
   ⟨wStbyOf { hdr1 := some (wHeader 2) }, 0, _, rfl, by decide +kernel⟩,
   ⟨{}, by decide +kernel⟩,
   ⟨{ wStbyOf { hdr1 := some (wHeader 0) } with ctl := { releaseTarget := some 1 }, fab := { devId := 5 }, rcv := { role := .member, releases := [{ pod := 0, tray := 0, dev := 5, target := 1 }] } },
    _, _, _, _, _, rfl, rfl, rfl, rfl, rfl, by decide +kernel⟩⟩

/-- States and operands that meet the hypotheses of JobsStartStopAndSwitch, clause by clause. -/
theorem wit_JobsStartStopAndSwitch :
    (∃ (s : State), s.atl.running = false)
    ∧ (∃ (s : State) (z : State) (c : CtxId), z = s.enterCtx c ∧ s.atl.running = true ∧ ((s.ldr.image.map contextsOf).getD []).contains c = false)
    ∧ (∃ (s : State) (z : State) (c : CtxId), z = s.enterCtx c ∧ s.atl.running = true ∧ ((s.ldr.image.map contextsOf).getD []).contains c = true ∧ (s.ctx
      c).loaded = true)
    ∧ (∃ (s : State) (z : State) (c : CtxId), z = s.enterCtx c ∧ s.atl.running = true ∧ ((s.ldr.image.map contextsOf).getD []).contains c = true ∧ (s.ctx
      c).loaded = false ∧ z.field "AUDIT" = 1)
    ∧ (∃ (s : State) (z : State) (c : CtxId), z = s.enterCtx c ∧ s.atl.running = true ∧ ((s.ldr.image.map contextsOf).getD []).contains c = true ∧ (s.ctx
      c).loaded = false ∧ z.field "AUDIT" ≠ 1 ∧ (s.atl.runCtx.isSome = true ∨ ((z.field "JOB_LINK_MODE" == 1) = false ∧ s.pow.phase < 5)))
    ∧ (∃ (s : State) (z : State) (c : CtxId), z = s.enterCtx c ∧ s.atl.running = true ∧ ((s.ldr.image.map contextsOf).getD []).contains c = true ∧ (s.ctx
      c).loaded = false ∧ z.field "AUDIT" ≠ 1 ∧ s.atl.runCtx = none ∧ ((z.field "JOB_LINK_MODE" == 1) = true ∨ 5 ≤ s.pow.phase) ∧ (s.fab.devId = 0 ∨
      ((z.field "JOB_LINK_MODE" == 1) = true ∧ s.pow.phase ≠ 3) ∨ s.fenced = true))
    ∧ (∃ (s : State) (z : State) (c : CtxId), z = s.enterCtx c ∧ s.atl.running = true ∧ ((s.ldr.image.map contextsOf).getD []).contains c = true ∧ (s.ctx
      c).loaded = false ∧ z.field "AUDIT" ≠ 1 ∧ s.atl.runCtx = none ∧ ((z.field "JOB_LINK_MODE" == 1) = true ∨ 5 ≤ s.pow.phase) ∧ s.fab.devId ≠ 0 ∧
      ((z.field "JOB_LINK_MODE" == 1) = false ∨ s.pow.phase = 3) ∧ s.fenced = false ∧ z.startOk = false)
    ∧ (∃ (s : State) (z : State) (c : CtxId), z = s.enterCtx c ∧ s.atl.running = true ∧ ((s.ldr.image.map contextsOf).getD []).contains c = true ∧ (s.ctx
      c).loaded = false ∧ z.field "AUDIT" ≠ 1 ∧ s.atl.runCtx = none ∧ ((z.field "JOB_LINK_MODE" == 1) = true ∨ 5 ≤ s.pow.phase) ∧ s.fab.devId ≠ 0 ∧
      ((z.field "JOB_LINK_MODE" == 1) = false ∨ s.pow.phase = 3) ∧ s.fenced = false ∧ z.startOk = true ∧ z.ctl.members.contains s.fab.devId = false)
    ∧ (∃ (s : State) (z : State) (c : CtxId) (d : _), z = s.enterCtx c ∧ z.jobData.snapshotDigest = some d ∧ s.atl.running = true ∧ ((s.ldr.image.map
      contextsOf).getD []).contains c = true ∧ (s.ctx c).loaded = false ∧ z.field "AUDIT" ≠ 1 ∧ s.atl.runCtx = none ∧ ((z.field "JOB_LINK_MODE" == 1)
      = true ∨ 5 ≤ s.pow.phase) ∧ s.fab.devId ≠ 0 ∧ ((z.field "JOB_LINK_MODE" == 1) = false ∨ s.pow.phase = 3) ∧ s.fenced = false ∧ z.startOk = true ∧
      z.ctl.members.contains s.fab.devId = true ∧ d ≠ z.loadJob.weir.param)
    ∧ (∃ (s : State) (z : State) (c : CtxId), z = s.enterCtx c ∧ s.atl.running = true ∧ ((s.ldr.image.map contextsOf).getD []).contains c = true ∧ (s.ctx
      c).loaded = false ∧ z.field "AUDIT" ≠ 1 ∧ s.atl.runCtx = none ∧ ((z.field "JOB_LINK_MODE" == 1) = true ∨ 5 ≤ s.pow.phase) ∧ s.fab.devId ≠ 0 ∧
      ((z.field "JOB_LINK_MODE" == 1) = false ∨ s.pow.phase = 3) ∧ s.fenced = false ∧ z.startOk = true ∧ z.ctl.members.contains s.fab.devId = true ∧
      (z.jobData.snapshotDigest = none ∨ z.jobData.snapshotDigest = some z.loadJob.weir.param))
    ∧ (∃ (s : State) (c : CtxId) (erase : State → State), (∀ t, erase t = t.updCtx c fun x => { ringBase := x.ringBase, ringSize := x.ringSize, exportKey := x.exportKey })
      ∧ s.atl.running = true ∧ (s.ctx c).loaded = false)
    ∧ (∃ (s : State) (c : CtxId) (erase : State → State), (∀ t, erase t = t.updCtx c fun x => { ringBase := x.ringBase, ringSize := x.ringSize, exportKey := x.exportKey })
      ∧ s.atl.running = true ∧ (s.ctx c).loaded = true ∧ s.atl.audit = some c)
    ∧ (∃ (s : State) (c : CtxId) (erase : State → State), (∀ t, erase t = t.updCtx c fun x => { ringBase := x.ringBase, ringSize := x.ringSize, exportKey := x.exportKey })
      ∧ s.atl.runCtx = some c ∧ s.atl.running = true ∧ (s.ctx c).loaded = true ∧ s.atl.audit ≠ some c)
    ∧ (∃ (s : State) (c : CtxId) (erase : State → State), (∀ t, erase t = t.updCtx c fun x => { ringBase := x.ringBase, ringSize := x.ringSize, exportKey := x.exportKey })
      ∧ s.atl.running = true ∧ (s.ctx c).loaded = true ∧ s.atl.audit ≠ some c ∧ s.atl.runCtx ≠ some c)
    ∧ (∃ (s : State) (o : CtxId) (i : CtxId), s.atl.running = true ∧ (s.atl.runCtx ≠ some o ∨ (s.ctx i).loaded = false ∨ s.atl.audit = some i ∨ o = i))
    ∧ (∃ (s : State) (o : CtxId) (i : CtxId), s.atl.runCtx = some o ∧ s.atl.running = true ∧ (s.ctx i).loaded = true ∧ s.atl.audit ≠ some i ∧ o ≠ i)
    ∧ (∃ (s : State) (c : CtxId), ((s.ctx c).standby.header = none ∨ (s.ctx c).switchedOut = false ∨ s.atl.switchIn ≠ some c ∨ s.atl.runCtx.isSome = true))
    ∧ (∃ (s : State) (a : State) (m : State) (d : State) (c : CtxId) (h : StbyHeader), a = (s.updAtl fun q => { q with runCtx := some c, switchIn := none }).updCtl
      (fun _ => { s0 := (s.ctx c).s0, sealed := h.sealedStep, memEpoch := (s.ctx c).memEpoch, layEpoch := h.layEpoch, members := (s.ctx c).members })
      ∧ m = (a.mapPages (s.ctx c).kept).updTier (fun t => { t with mem := (s.ctx c).imaged.foldl (fun m p => match kvFind p.1 (a.mapPages (s.ctx c).kept).tier.pages with | some e => fillFrame e.loc p.2 m | none => m) t.mem })
      ∧ d = ((((m.loadProgs).restore (s.ctx c).standby h.sealedStep).fillBuckets.startFronts h.sealedStep).rebuildVersions (s.ctx c).standby
      h.sealedStep).updCtl (fun k => { k with started := (s.ctx c).ready }) ∧ (s.ctx c).standby.header = some h ∧ (s.ctx c).switchedOut = true ∧
      s.atl.switchIn = some c ∧ s.atl.runCtx = none ∧ s.atl.running = true)
    ∧ (∃ (s : State) (c : CtxId), s.atl.runCtx = some c ∧ s.atl.running = true ∧ s.ctl.halted = true ∧ s.ctl.shardLost = false)
    ∧ (∃ (s : State) (c : CtxId), s.atl.running = true ∧ (s.atl.runCtx ≠ some c ∨ s.ctl.halted = false ∨ s.ctl.shardLost = true)) :=
  ⟨⟨{}, by decide +kernel⟩,
   ⟨wStart [] none, _, 0, rfl, by decide +kernel⟩,
   ⟨wStart [(15, { loaded := true })] none, _, 15, rfl, by decide +kernel⟩,
   ⟨{ wStart [] none with ldr := { image := some wJobImage, fields := [fieldOf "AUDIT" 0 1] } }, _, 15, rfl, by decide +kernel⟩,
   ⟨wStart [(14, { loaded := true })] (some 15), _, 15, rfl, by decide +kernel⟩,
   ⟨{ wStart [] none with fab := {} }, _, 15, rfl, by decide +kernel⟩,
   ⟨wStart [] none, _, 15, rfl, by decide +kernel⟩,
   ⟨{ wApart none with fab := { devId := 17 } }, _, 15, rfl, by decide +kernel⟩,
   ⟨wApart (some [1]), _, 15, _, rfl, rfl, by decide +kernel⟩,
   ⟨wApart none, _, 15, rfl, by decide +kernel⟩,
   ⟨wStart [] none, 0, _, fun _ => rfl, by decide +kernel⟩,
   ⟨{ atl := { running := true, audit := some 15, ctxs := [(15, { loaded := true })] } }, 15, _, fun _ => rfl, by decide +kernel⟩,
   ⟨wStart [(15, { loaded := true })] (some 15), _, _, fun _ => rfl, rfl, by decide +kernel⟩,
   ⟨wStart [(15, { loaded := true })] none, 15, _, fun _ => rfl, by decide +kernel⟩,
   ⟨wStart [] none, 0, 0, by decide +kernel⟩,
   ⟨wStart [(14, { loaded := true })] (some 15), _, 14, rfl, by decide +kernel⟩,
   ⟨{}, 0, by decide +kernel⟩,
   ⟨{ atl := { running := true, switchIn := some 15, ctxs := [(15, { loaded := true, switchedOut := true, standby := { hdr1 := some (wHeader 0) } })] } },
    _, _, _, 15, wHeader 0, rfl, rfl, rfl, by decide +kernel⟩,
   ⟨{ wStart [(15, { loaded := true })] (some 15) with ctl := { halted := true } }, _, rfl, by decide +kernel⟩,
   ⟨wStart [] none, 0, by decide +kernel⟩⟩

/-- States and operands that meet the hypotheses of SnapshotsAndReleasesAreOrdered, clause by clause. -/
theorem wit_SnapshotsAndReleasesAreOrdered :
    (∃ (s : State), s.atl.running = false)
    ∧ (∃ (s : State) (c : CtxId), s.atl.running = true ∧ s.atl.runCtx ≠ some c)
    ∧ (∃ (s : State) (c : CtxId), s.atl.runCtx = some c ∧ s.atl.running = true ∧ s.isRoot = true)
    ∧ (∃ (s : State) (c : CtxId) (n : Nat), s.atl.runCtx = some c ∧ s.atl.running = true ∧ s.isRoot = false ∧ s.rcv.isJobCoord = true ∧ s.tooLate n = true)
    ∧ (∃ (s : State) (c : CtxId) (n : Nat), s.atl.runCtx = some c ∧ s.atl.running = true ∧ s.isRoot = false ∧ s.rcv.isJobCoord = true ∧ s.tooLate n = false)
    ∧ (∃ (s : State) (c : CtxId), s.atl.runCtx = some c ∧ s.atl.running = true ∧ s.isRoot = false ∧ s.rcv.isJobCoord = false)
    ∧ (∃ (s : State), (s.ctl.snapTarget = none ∨ s.atl.runCtx = none))
    ∧ (∃ (s : State) (n : Nat) (c : CtxId), s.ctl.snapTarget = some n ∧ s.atl.runCtx = some c ∧ (s.ctl.snapDone = true ∨ s.ctl.sealed < n ∨ s.fenced =
      true))
    ∧ (∃ (s : State) (n : Nat) (c : CtxId), s.ctl.snapTarget = some n ∧ s.atl.runCtx = some c ∧ s.ctl.snapDone = false ∧ n ≤ s.ctl.sealed ∧ s.fenced = false
      ∧ s.spoolRoom (128 + (s.snapshotBody n).length + (s.snapshotEnd n (s.snapshotBody n)).length) = false)
    ∧ (∃ (s : State) (n : Nat) (c : CtxId), s.spoolRoom (128 + (s.snapshotBody n).length + (s.snapshotEnd n (s.snapshotBody n)).length) = true ∧
      s.ctl.snapTarget = some n ∧ s.atl.runCtx = some c ∧ s.ctl.snapDone = false ∧ n ≤ s.ctl.sealed ∧ s.fenced = false)
    ∧ (∃ (s : State) (c : CtxId), s.atl.running = true ∧ (s.ctx c).loaded = false)
    ∧ (∃ (s : State) (c : CtxId), s.atl.runCtx = some c ∧ s.atl.running = true ∧ (s.ctx c).loaded = true)
    ∧ (∃ (s : State) (c : CtxId), s.atl.running = true ∧ (s.ctx c).loaded = true ∧ s.atl.runCtx ≠ some c)
    ∧ (∃ (s : State) (c : CtxId) (d : DevId) (e : DevId), s.atl.running = true ∧ s.bound d = e ∧ (s.ctx c).loaded = true)
    ∧ (∃ (s : State) (c : CtxId) (d : DevId) (e : DevId), s.atl.running = true ∧ (s.bound d ≠ e ∨ (s.ctx c).loaded = false))
    ∧ (∃ (s : State) (c : CtxId) (key : Nat) (r : _), s.weir.rebuilding.find? (fun r => r.key == key && r.askedAt.isSome && !r.fromHost) = some r ∧
      s.atl.running = true ∧ s.atl.runCtx = some c) :=
  ⟨⟨{ pending := [.idcode] }, by decide +kernel⟩,
   ⟨{ pow := { phase := 3 }, fab := { devId := 1 }, atl := { running := true } }, 0, by decide +kernel⟩,
   ⟨wStart [(15, { loaded := true })] (some 15), _, rfl, by decide +kernel⟩,
   ⟨{ wRunning with rcv := { isJobCoord := true, unbound := [7] } }, _, 0, rfl, by decide +kernel⟩,
   ⟨{ wRunning with rcv := { isJobCoord := true, unbound := [7] } }, _, 3, rfl, by decide +kernel⟩,
   ⟨wStbyOf { base := [{ step := 1, kind := 0, key := 3, content := [9] }] }, _, rfl, by decide +kernel⟩,
   ⟨{ pending := [.idcode] }, by decide +kernel⟩,
   ⟨{ ctl := { snapTarget := some 1, snapDone := true }, atl := { runCtx := some 15 } }, 1, 15, by decide +kernel⟩,
   ⟨wSpool 0 [], _, _, rfl, rfl, by decide +kernel⟩,
   ⟨wSpool (wSnap (wSpool 0 []) 0) [], 0, 15, (wSnap_room), by decide +kernel⟩,
   ⟨{ pow := { phase := 3 }, fab := { devId := 1 }, atl := { running := true } }, 0, by decide +kernel⟩,
   ⟨wStart [(15, { loaded := true })] (some 15), _, rfl, by decide +kernel⟩,
   ⟨{ atl := { running := true, ctxs := [(15, { loaded := true })] }, rcv := { bindings := [(7, 9)] } }, 15, by decide +kernel⟩,
   ⟨{ atl := { running := true, ctxs := [(15, { loaded := true })] }, rcv := { bindings := [(7, 9)] } }, 15, 0, 0, by decide +kernel⟩,
   ⟨{ pow := { phase := 3 }, fab := { devId := 1 }, atl := { running := true } }, 0, 0, 0, by decide +kernel⟩,
   ⟨{ wRunning with weir := { rebuilding := [{ wRebuild with askedAt := some 0 }] } }, 15, 0, _, rfl, by decide +kernel⟩⟩

/-- States and operands that meet the hypotheses of SparesReportsAndDiagnostics, clause by clause. -/
theorem wit_SparesReportsAndDiagnostics :
    (∃ (s : State), s.atl.running = false)
    ∧ (∃ (s : State) (c : CtxId) (d : DevId), s.atl.running = true ∧ (s.atl.runCtx ≠ some c ∨ d = 0 ∨ d = 0xFFFF ∨ 256 ≤ s.spares.length ∨ s.spares.contains
      d = true ∨ s.ctl.members.contains d = true))
    ∧ (∃ (s : State) (c : CtxId) (d : DevId) (t : _) (u : _), s.atl.runCtx = some c ∧ t = (s.setSpares (s.spares ++ [d])).updRcv (fun r => { r with badSpares := r.badSpares.filter (· != d), failedIds := r.failedIds.filter (· != d) })
      ∧ u = (if s.rcv.isJobCoord then t.emit [.jm d (s.ctx c).jobId] else t) ∧ s.atl.running = true ∧ d ≠ 0 ∧ d ≠ 0xFFFF ∧ s.spares.length < 256 ∧
      s.spares.contains d = false ∧ s.ctl.members.contains d = false)
    ∧ (∃ (s : State) (c : CtxId) (d : DevId), s.atl.running = true ∧ (s.atl.runCtx ≠ some c ∨ s.spares.contains d = false))
    ∧ (∃ (s : State) (c : CtxId) (d : DevId), s.atl.runCtx = some c ∧ s.atl.running = true ∧ s.spares.contains d = true)
    ∧ (∃ (s : State) (d : DevId), s.atl.running = true ∧ (s.rcv.isCoord && s.mayConfirm d s.now) = true)
    ∧ (∃ (s : State) (d : DevId), s.atl.running = true ∧ (s.rcv.isCoord && s.mayConfirm d s.now) = false)
    ∧ (∃ (s : State) (e : RepairEntry) (same : RepairEntry → Bool) (t : _), (∀ x, same x = (x.core == e.core && x.eng == e.eng && x.kind == e.kind &&
      x.index == e.index)) ∧ t = (s.updAtl fun a => a.writeRepairs (s.atl.repairMap ++ [{ e with origin := 0, stepLo := s.ctl.sealed % 2 ^ 32 }])).mbox
      0 ∧ s.atl.running = true ∧ s.atl.repairMap.length < 256 ∧ (e.kind ≠ .retire ∨ (s.engine e.core e.eng).retired = true ∨ s.pow.phase < 1))
    ∧ (∃ (s : State) (e : RepairEntry) (same : RepairEntry → Bool) (t : _), (∀ x, same x = (x.core == e.core && x.eng == e.eng && x.kind == e.kind &&
      x.index == e.index)) ∧ t = (s.updAtl fun a => a.writeRepairs (s.atl.repairMap ++ [{ e with origin := 0, stepLo := s.ctl.sealed % 2 ^ 32 }])).mbox
      0 ∧ s.atl.running = true ∧ s.atl.repairMap.length < 256 ∧ e.kind = .retire ∧ (s.engine e.core e.eng).retired = false ∧ 1 ≤ s.pow.phase)
    ∧ (∃ (s : State) (c : CoreId) (e : EngId) (reply : _), reply = ((List.range (Config.freeNat s.fresh % 261)).map fun i => Config.freeByte s.fresh i) ∧
      s.atl.running = true ∧ (s.engine c e).retired = true ∧ (s.engine c (sibling e)).retired = false)
    ∧ (∃ (s : State) (m : Manifest), s.atl.running = true ∧ (m.pod = 0 ∨ 1023 < m.pod ∨ (m.plan.map Prod.snd).contains 0 = true ∨ (m.plan.map
      Prod.snd).contains 0xFFFF = true ∨ (m.plan.map Prod.snd).dedup ≠ m.plan.map Prod.snd ∨ (m.alternates.map Prod.snd).contains 0xFFFF = true))
    ∧ (∃ (s : State) (m : Manifest), s.atl.running = true ∧ m.pod ≠ 0 ∧ m.pod ≤ 1023 ∧ (m.plan.map Prod.snd).contains 0 = false ∧ (m.plan.map
      Prod.snd).contains 0xFFFF = false ∧ (m.plan.map Prod.snd).dedup = m.plan.map Prod.snd ∧ (m.alternates.map Prod.snd).contains 0xFFFF = false) :=
  ⟨⟨{ pending := [.idcode] }, by decide +kernel⟩,
   ⟨{ pow := { phase := 3 }, fab := { devId := 1 }, atl := { running := true } }, 0, 0, by decide +kernel⟩,
   ⟨wStbyOf { base := [{ step := 1, kind := 0, key := 3, content := [9] }] }, _, 1, _, _, rfl, rfl, rfl, by decide +kernel⟩,
   ⟨{ pow := { phase := 3 }, fab := { devId := 1 }, atl := { running := true } }, 0, 0, by decide +kernel⟩,
   ⟨{ wRunning with ldr := ldrOf [("JOB_SPARES", 0, 9)] }, _, 9, rfl, by decide +kernel⟩,
   ⟨wPod, 0, by decide +kernel⟩,
   ⟨{ pow := { phase := 3 }, fab := { devId := 1 }, atl := { running := true } }, 0, by decide +kernel⟩,
   ⟨{ pow := { phase := 3 }, fab := { devId := 1 }, atl := { running := true } }, wEntry .row, _, _, fun _ => rfl, rfl, by decide +kernel⟩,
   ⟨{ pow := { phase := 3 }, fab := { devId := 1 }, atl := { running := true } }, wEntry .retire, _, _, fun _ => rfl, rfl, by decide +kernel⟩,
   ⟨{ wEng { retired := true } with atl := { running := true } }, 31, 1, _, rfl, by decide +kernel⟩,
   ⟨{ pow := { phase := 3 }, fab := { devId := 1 }, atl := { running := true } }, { wManifest 1 with plan := [((0, 0), 0)] }, by decide +kernel⟩,
   ⟨{ pow := { phase := 3 }, fab := { devId := 1 }, atl := { running := true } }, { wManifest 1 with pod := 1023, plan := [((1023, 0), 1), ((1023, 1), 0xFFFE)] },
    by decide +kernel⟩⟩

/-- States and operands that meet the hypotheses of FirmwareSlotsAndOwnerKeys, clause by clause. -/
theorem wit_FirmwareSlotsAndOwnerKeys (hv : ∀ a b c d, Config.ecdsaVerify a b c d = true) :
    (∃ (s : State), s.atl.running = false)
    ∧ (∃ (s : State) (sig : Option Sig), sig = none ∧ s.atl.running = true ∧ s.atl.keys = [] ∧ s.pow.boot = .ownerEnrol)
    ∧ (∃ (s : State) (key : List Byte) (sig : Option Sig), s.atl.running = true ∧ (sig ≠ none ∨ s.atl.keys ≠ [] ∨ s.pow.boot ≠ .ownerEnrol) ∧ s.signedOk
      0x10 key sig = false)
    ∧ (∃ (s : State) (key : List Byte) (sig : Option Sig), s.signedOk 0x10 key sig = true ∧ s.atl.running = true ∧ (sig ≠ none ∨ s.atl.keys ≠ [] ∨
      s.pow.boot ≠ .ownerEnrol))
    ∧ (∃ (s : State) (n : Nat) (sig : Option Sig), s.atl.running = true ∧ s.signedOk 0x11 (leBytes 16 n) sig = false)
    ∧ (∃ (s : State) (n : Nat) (sig : Option Sig) (l : _), l = (s.atl.keys.filter fun k => k.1 != n) ∧ s.signedOk 0x11 (leBytes 16 n) sig = true ∧
      s.atl.running = true ∧ (l = [] ∨ l = s.atl.keys ∨ 64 ≤ s.atl.keyBurns))
    ∧ (∃ (s : State) (n : Nat) (sig : Option Sig) (l : _), l = (s.atl.keys.filter fun k => k.1 != n) ∧ s.signedOk 0x11 (leBytes 16 n) sig = true ∧
      s.atl.running = true ∧ l ≠ [] ∧ l ≠ s.atl.keys ∧ s.atl.keyBurns < 64)
    ∧ (∃ (s : State) (n : Nat) (sig : Option Sig), s.atl.running = true ∧ s.signedOk 0x12 (leBytes 4 n) sig = false)
    ∧ (∃ (s : State) (n : Nat) (sig : Option Sig), s.signedOk 0x12 (leBytes 4 n) sig = true ∧ s.atl.running = true ∧ (n ≤ s.atl.imageFloor ∨ 2 ^ 32 ≤ n ∨ 64
      ≤ s.atl.keyBurns))
    ∧ (∃ (s : State) (n : Nat) (sig : Option Sig), s.signedOk 0x12 (leBytes 4 n) sig = true ∧ s.atl.running = true ∧ s.atl.imageFloor < n ∧ n < 2 ^ 32 ∧
      s.atl.keyBurns < 64)
    ∧ (∃ (s : State) (sig : Option Sig), s.atl.running = true ∧ s.signedOk 0x13 [] sig = false)
    ∧ (∃ (s : State) (sig : Option Sig) (svn : _), svn = ((s.atl.slot s.atl.runSlot).map (·.svn)).getD 0 ∧ s.signedOk 0x13 [] sig = true ∧ s.atl.running =
      true ∧ svn ≤ s.atl.fwFloor)
    ∧ (∃ (s : State) (sig : Option Sig) (svn : _), svn = ((s.atl.slot s.atl.runSlot).map (·.svn)).getD 0 ∧ s.signedOk 0x13 [] sig = true ∧ s.atl.running =
      true ∧ s.atl.fwFloor < svn ∧ 64 ≤ s.atl.fwFuses)
    ∧ (∃ (s : State) (sig : Option Sig) (svn : _), svn = ((s.atl.slot s.atl.runSlot).map (·.svn)).getD 0 ∧ s.signedOk 0x13 [] sig = true ∧ s.atl.running =
      true ∧ s.atl.fwFloor < svn ∧ s.atl.fwFuses < 64)
    ∧ (∃ (s : State) (sig : Option Sig) (e : BitVec 256), s.atl.running = true ∧ s.signedOk 0x14 (leBytes 32 e.toNat) sig = false)
    ∧ (∃ (s : State) (sig : Option Sig) (e : BitVec 256), s.signedOk 0x14 (leBytes 32 e.toNat) sig = true ∧ s.atl.running = true)
    ∧ (∃ (s : State) (f : FwSlot), s.fwOk f = true ∧ s.atl.running = true)
    ∧ (∃ (s : State) (f : FwSlot), s.fwOk f = false ∧ s.atl.running = true)
    ∧ (∃ (s : State) (f : FwSlot), (s.pow.boot ≠ .fwRecovery ∨ s.pow.firstRise = false ∨ s.atl.running = true ∨ s.pow.aonLock = false ∨ s.fwOk f = false))
    ∧ (∃ (s : State) (f : FwSlot), s.fwOk f = true ∧ s.pow.boot = .fwRecovery ∧ s.pow.firstRise = true ∧ s.atl.running = false ∧ s.pow.aonLock = true) :=
  ⟨⟨{ pow := { boot := .fwRecovery, firstRise := true, aonLock := true } }, by decide +kernel⟩,
   ⟨{ pow := { boot := .ownerEnrol }, atl := { running := true } }, _, rfl, by decide +kernel⟩,
   ⟨wKeys 1, [], none, by decide +kernel⟩,
   ⟨wKeys 0, [], wSig, (wSigned hv _ _ _ _ (by decide +kernel)), by decide +kernel⟩,
   ⟨wKeys 1, 1, none, by decide +kernel⟩,
   ⟨wKeys 0, 0, wSig, _, rfl, (wSigned hv _ _ _ _ (by decide +kernel)), by decide +kernel⟩,
   ⟨wKeys 0, 1, wSig, _, rfl, (wSigned hv _ _ _ _ (by decide +kernel)), by decide +kernel⟩,
   ⟨wKeys 1, 1, none, by decide +kernel⟩,
   ⟨wKeys 0, 0, wSig, (wSigned hv _ _ _ _ (by decide +kernel)), by decide +kernel⟩,
   ⟨wKeys 0, 4294967295, wSig, (wSigned hv _ _ _ _ (by decide +kernel)), by decide +kernel⟩,
   ⟨wKeys 1, none, by decide +kernel⟩,
   ⟨wKeys 1, wSig, _, rfl, (wSigned hv _ _ _ _ (by decide +kernel)), by decide +kernel⟩,
   ⟨{ wKeys 0 with atl := { (wKeys 0).atl with fwFuses := 64 } }, wSig, _, rfl, (wSigned hv _ _ _ _ (by decide +kernel)), by decide +kernel⟩,
   ⟨{ wKeys 0 with atl := { (wKeys 0).atl with fwFuses := 63 } }, wSig, _, rfl, (wSigned hv _ _ _ _ (by decide +kernel)), by decide +kernel⟩,
   ⟨wKeys 1, none, 9, by decide +kernel⟩,
   ⟨wKeys 0, wSig, 9, (wSigned hv _ _ _ _ (by decide +kernel)), by decide +kernel⟩,
   ⟨wKeys 1, wSlotOf 1, (wFw hv _ _ (by decide +kernel)), by decide +kernel⟩,
   ⟨wKeys 2, wSlotOf 1, ((by simp [State.fwOk, wKeys, wSlotOf])), by decide +kernel⟩,
   ⟨wKeys 1, wSlotOf 1, by decide +kernel⟩,
   ⟨{ pow := { boot := .fwRecovery, firstRise := true, aonLock := true } }, wSlotOf 0, (wFw hv _ _ (by decide +kernel)), by decide +kernel⟩⟩

/-- States and operands that meet the hypotheses of FloorsNeverFall, clause by clause. -/
theorem wit_FloorsNeverFall (hv : ∀ a b c d, Config.ecdsaVerify a b c d = true) :
    (∃ (i : Instr) (s : State) (t : State), exec i s = .next t ∧ s.atl.fwFuses ≤ 64)
    ∧ (∃ (i : Instr) (s : State) (t : State), exec i s = .next t ∧ s.atl.keyBurns ≤ 64)
    ∧ (∃ (s : State) (f : FwSlot) (sig : Option Sig), s.signedOk 0x13 [] sig = true ∧ s.atl.running = true ∧ s.atl.slot s.atl.runSlot = some f ∧
      s.atl.fwFloor < f.svn ∧ s.atl.fwFuses < 64)
    ∧ (∃ (s : State) (f : FwSlot), s.fwOk f = true ∧ s.atl.running = true ∧ s.atl.active < 2)
    ∧ (∃ (s : State), s.slotOk s.atl.active = true) :=
  ⟨⟨.idcode, {}, _, (rfl), by decide +kernel⟩,
   ⟨.idcode, {}, _, (rfl), by decide +kernel⟩,
   ⟨wKeys 0, wSlotOf 1, wSig, (wSigned hv _ _ _ _ (by decide +kernel)), by decide +kernel⟩,
   ⟨wKeys 1, wSlotOf 1, (wFw hv _ _ (by decide +kernel)), by decide +kernel⟩,
   ⟨wKeys 1, (wFw hv (wKeys 1) (wSlotOf 1) (by decide +kernel))⟩⟩

/-- States and operands that meet the hypotheses of SpdmNegotiatesFirst, clause by clause. -/
theorem wit_SpdmNegotiatesFirst (hv : Config.spdmMacOk 0 [] 0 = true) :
    (∃ (s : State), s.atl.running = false)
    ∧ (∃ (s : State), s.atl.running = true ∧ s.atl.spdmVersion = false)
    ∧ (∃ (s : State), s.atl.running = true ∧ s.atl.spdmVersion = true ∧ s.atl.spdmCaps = true)
    ∧ (∃ (s : State), s.atl.running = true ∧ (s.atl.spdmVersion = false ∨ s.atl.spdmCaps = false))
    ∧ (∃ (s : State), s.atl.running = true ∧ s.negotiated = false)
    ∧ (∃ (s : State) (n : Nat), s.atl.running = true ∧ s.negotiated = true ∧ n ≤ 2)
    ∧ (∃ (s : State) (n : Nat), s.atl.running = true ∧ s.negotiated = true ∧ 2 < n)
    ∧ (∃ (s : State) (x : SpdmSession), s.atl.running = true ∧ s.negotiated = true ∧ s.sessionOk x = false)
    ∧ (∃ (s : State) (i : Nat) (x : SpdmSession), s.atl.running = true ∧ s.negotiated = true ∧ s.sessionOk x = true ∧ 1 ≤ i ∧ i ≤ 8)
    ∧ (∃ (s : State) (i : Nat) (x : SpdmSession), s.atl.running = true ∧ s.negotiated = true ∧ s.sessionOk x = true ∧ 8 < i ∧ i ≠ 0xFF)
    ∧ (∃ (s : State) (n : Nat), s.atl.running = true ∧ s.negotiated = true ∧ kvFind n s.atl.sessions = none)
    ∧ (∃ (s : State) (n : Nat) (b : List Byte) (x : Session), kvFind n s.atl.sessions = some x ∧ s.atl.running = true ∧ s.negotiated = true ∧ (x.established
      = true ∨ Config.spdmMacOk n b s.fresh = false))
    ∧ (∃ (s : State) (n : Nat) (b : List Byte) (x : Session), kvFind n s.atl.sessions = some x ∧ Config.spdmMacOk n b s.fresh = true ∧ s.atl.running = true
      ∧ s.negotiated = true ∧ x.established = false)
    ∧ (∃ (s : State) (n : Nat) (x : Session), kvFind n s.atl.sessions = some x ∧ s.atl.running = true ∧ s.negotiated = true ∧ x.established = true) :=
  ⟨⟨{ pending := [.idcode] }, by decide +kernel⟩,
   ⟨wRunning, by decide +kernel⟩,
   ⟨wSpdm true, by decide +kernel⟩,
   ⟨wRunning, by decide +kernel⟩,
   ⟨wRunning, by decide +kernel⟩,
   ⟨wSpdm true, 0, by decide +kernel⟩,
   ⟨wSpdm true, 3, by decide +kernel⟩,
   ⟨wSpdm false, some 0, by decide +kernel⟩,
   ⟨wSpdm true, 2, some 0, by decide +kernel⟩,
   ⟨wSpdm true, 9, some 0, by decide +kernel⟩,
   ⟨wSpdm true, 2, by decide +kernel⟩,
   ⟨wSpdm true, 0, [], _, rfl, by decide +kernel⟩,
   ⟨wSpdm false, 0, [], _, rfl, (hv), by decide +kernel⟩,
   ⟨wSpdm true, 0, _, rfl, by decide +kernel⟩⟩

/-- States and operands that meet the hypotheses of RecordsAreSignedOrWait, clause by clause. -/
theorem wit_RecordsAreSignedOrWait :
    (∃ (s : State) (n : Nat), ((s.stepOf n).st ≠ .seal ∨ (s.stepOf n).signed = true ∨ s.ctl.sealed + 1 ≠ n ∨ s.compared n = false ∨ s.atl.running = false
      ∨ s.fenced = true))
    ∧ (∃ (s : State) (n : Nat) (r : StepRecord) (body : List Byte), r = s.stepRecord n ∧ body = (s.segmentRecords n).flatMap (·.bytes) ++ r.fixed ++
      r.form.sig ++ r.lists ∧ (s.stepOf n).st = .seal ∧ (s.stepOf n).signed = false ∧ s.ctl.sealed + 1 = n ∧ s.compared n = true ∧ s.atl.running =
      true ∧ s.fenced = false ∧ s.spoolRoom (64 + body.length) = false)
    ∧ (∃ (s : State) (n : Nat) (r : StepRecord) (body : List Byte), r = s.stepRecord n ∧ body = (s.segmentRecords n).flatMap (·.bytes) ++ r.fixed ++
      r.form.sig ++ r.lists ∧ s.spoolRoom (64 + body.length) = true ∧ (s.stepOf n).st = .seal ∧ (s.stepOf n).signed = false ∧ s.ctl.sealed + 1 = n ∧
      s.compared n = true ∧ s.atl.running = true ∧ s.fenced = false ∧ s.atl.logRoom = false)
    ∧ (∃ (s : State) (n : Nat) (r : StepRecord) (body : List Byte) (head : _) (a : _) (b : _), r = s.stepRecord n ∧ body = (s.segmentRecords n).flatMap
      (·.bytes) ++ r.fixed ++ r.form.sig ++ r.lists ∧ s.spoolRoom (64 + body.length) = true ∧ head = (if s.atl.audit.isSome then sha384 ((0x0C : Byte)
      :: (s.atl.chainHead ++ r.form.digest)) else s.atl.chainHead) ∧ a = (s.tick.updAtl fun x => { x.logPut r.form with records := [r], chainHead := head, chainSeq := if x.audit.isSome then r.chainSeq else x.chainSeq, auditRing := s.auditPut r.form })
      ∧ b = (match s.atl.runCtx with | some c => a.sendSegment c 0 n body | none => a) ∧ (s.stepOf n).st = .seal ∧ (s.stepOf n).signed = false ∧
      s.ctl.sealed + 1 = n ∧ s.compared n = true ∧ s.atl.running = true ∧ s.fenced = false ∧ s.atl.logRoom = true)
    ∧ (∃ (s : State) (count : Nat), s.atl.running = true ∧ (s.atl.audit = none ∨ 25 < count))
    ∧ (∃ (s : State) (count : Nat), s.atl.running = true ∧ s.atl.audit ≠ none ∧ count ≤ 25)
    ∧ (∃ (s : State) (k : Nat), k = s.atl.nextSector s.atl.logHead ∧ (s.atl.running = false ∨ s.atl.logErased.contains k = true ∨ k = s.atl.logHead))
    ∧ (∃ (s : State) (k : Nat), k = s.atl.nextSector s.atl.logHead ∧ s.atl.running = true ∧ s.atl.logErased.contains k = false ∧ k ≠ s.atl.logHead) :=
  ⟨⟨wRunning, 1, by decide +kernel⟩,
   ⟨wSpool 0 [], 1, _, _, rfl, rfl, by decide +kernel⟩,
   ⟨wSpool wSize [(0, List.replicate 409 wForm)], 1, _, _, rfl, rfl, (wSize_room _ _ rfl), by decide +kernel⟩,
   ⟨wSpool wSize [], 1, _, _, _, _, _, rfl, rfl, (wSize_room _ _ rfl), rfl, rfl, rfl, by decide +kernel⟩,
   ⟨wRunning, 1, by decide +kernel⟩,
   ⟨{ atl := { running := true, audit := some 15 } }, 1, by decide +kernel⟩,
   ⟨{ pending := [.idcode] }, _, rfl, by decide +kernel⟩,
   ⟨wRunning, _, rfl, by decide +kernel⟩⟩

/-- States and operands that meet the hypotheses of ImagesAreVerifiedAndStored, clause by clause. -/
theorem wit_ImagesAreVerifiedAndStored (hv : ∀ a b c d, Config.ecdsaVerify a b c d = true) :
    (∃ (s : State), s.atl.running = false)
    ∧ (∃ (s : State) (i : Image), s.atl.running = true ∧ s.storeEnd i ≠ .ok)
    ∧ (∃ (s : State) (i : Image), s.storeEnd i = .ok ∧ s.atl.running = true)
    ∧ (∃ (s : State), s.atl.running = true ∧ s.anyJob = true)
    ∧ (∃ (s : State) (i : Image), s.atl.running = true ∧ s.anyJob = false ∧ s.storeEnd i ≠ .ok)
    ∧ (∃ (s : State) (i : Image), s.storeEnd i = .ok ∧ s.atl.running = true ∧ s.anyJob = false ∧ s.deadCore i (fieldsOf i) = true)
    ∧ (∃ (s : State) (i : Image), s.storeEnd i = .ok ∧ s.atl.running = true ∧ s.anyJob = false ∧ s.deadCore i (fieldsOf i) = false)
    ∧ (∃ (s : State) (i : Image), s.atl.running = true ∧ s.verify4 i ≠ .ok)
    ∧ (∃ (s : State) (i : Image), s.verify4 i = .ok ∧ s.atl.running = true ∧ i.package = false)
    ∧ (∃ (s : State) (i : Image), s.verify4 i = .ok ∧ s.atl.running = true ∧ i.package = true ∧ s.ldr.image = none)
    ∧ (∃ (s : State) (i : Image) (a : _), s.verify4 i = .ok ∧ s.atl.running = true ∧ i.package = true ∧ s.ldr.image = some a ∧ i.baseDigest ≠ headDigest a)
    ∧ (∃ (s : State) (i : Image) (a : _), s.verify4 i = .ok ∧ i.baseDigest = headDigest a ∧ s.atl.running = true ∧ i.package = true ∧ s.ldr.image = some a ∧
      onlyLayout i = true ∧ s.atl.runCtx ≠ none ∧ i.fields.all (fieldEntryOk i.sections) = true)
    ∧ (∃ (s : State) (i : Image) (a : _), s.verify4 i = .ok ∧ i.baseDigest = headDigest a ∧ s.atl.running = true ∧ i.package = true ∧ s.ldr.image = some a ∧
      onlyLayout i = true ∧ s.atl.runCtx ≠ none ∧ i.fields.all (fieldEntryOk i.sections) = false)
    ∧ (∃ (s : State) (i : Image) (a : _) (held : _) (e : _) (fs : _), s.verify4 i = .ok ∧ i.baseDigest = headDigest a ∧ held = (i.sections.any fun x =>
      match x.ctx with | some c => (s.ctx c).loaded | none => false) ∧ e = extendImage a i ∧ fs = (s.ldr.fields.filter fun f => !((contextsOf i).any
      fun c => f.ctx == some c)) ++ fieldsOf i ∧ s.atl.running = true ∧ i.package = true ∧ s.ldr.image = some a ∧ (onlyLayout i = false ∨ s.atl.runCtx
      = none) ∧ held = true)
    ∧ (∃ (s : State) (i : Image) (a : _) (held : _) (e : _) (fs : _), s.verify4 i = .ok ∧ i.baseDigest = headDigest a ∧ held = (i.sections.any fun x =>
      match x.ctx with | some c => (s.ctx c).loaded | none => false) ∧ e = extendImage a i ∧ fs = (s.ldr.fields.filter fun f => !((contextsOf i).any
      fun c => f.ctx == some c)) ++ fieldsOf i ∧ s.atl.running = true ∧ i.package = true ∧ s.ldr.image = some a ∧ (onlyLayout i = false ∨ s.atl.runCtx
      = none) ∧ held = false ∧ s.deadCore e fs = true)
    ∧ (∃ (s : State) (i : Image) (a : _) (held : _) (e : _) (fs : _), s.verify4 i = .ok ∧ i.baseDigest = headDigest a ∧ held = (i.sections.any fun x =>
      match x.ctx with | some c => (s.ctx c).loaded | none => false) ∧ e = extendImage a i ∧ fs = (s.ldr.fields.filter fun f => !((contextsOf i).any
      fun c => f.ctx == some c)) ++ fieldsOf i ∧ s.atl.running = true ∧ i.package = true ∧ s.ldr.image = some a ∧ (onlyLayout i = false ∨ s.atl.runCtx
      = none) ∧ held = false ∧ s.deadCore e fs = false ∧ (i.fields.all (fieldEntryOk i.sections) && s.fieldsOk e fs) = true)
    ∧ (∃ (s : State) (i : Image) (a : _) (held : _) (e : _) (fs : _), s.verify4 i = .ok ∧ i.baseDigest = headDigest a ∧ held = (i.sections.any fun x =>
      match x.ctx with | some c => (s.ctx c).loaded | none => false) ∧ e = extendImage a i ∧ fs = (s.ldr.fields.filter fun f => !((contextsOf i).any
      fun c => f.ctx == some c)) ++ fieldsOf i ∧ s.atl.running = true ∧ i.package = true ∧ s.ldr.image = some a ∧ (onlyLayout i = false ∨ s.atl.runCtx
      = none) ∧ held = false ∧ s.deadCore e fs = false ∧ (i.fields.all (fieldEntryOk i.sections) && s.fieldsOk e fs) = false) :=
  ⟨⟨{}, by decide +kernel⟩,
   ⟨wAtl [] [], { wFull with wellFormed := false }, by decide +kernel⟩,
   ⟨wAtl [] [], wFull, (wStored _ _ (wVerified hv _ _ (by decide +kernel) (by decide +kernel) (by decide +kernel) (by decide +kernel)) rfl (by decide +kernel)),
    by decide +kernel⟩,
   ⟨wAtl [(15, { loaded := true })] [], by decide +kernel⟩,
   ⟨wAtl [] [], { wFull with wellFormed := false }, by decide +kernel⟩,
   ⟨wAtl [] [0], wStaged, (wStored _ _ (wVerified hv _ _ (by decide +kernel) (by decide +kernel) (by decide +kernel) (by decide +kernel)) rfl (by decide +kernel)),
    by decide +kernel⟩,
   ⟨wAtl [] [], wStaged, (wStored _ _ (wVerified hv _ _ (by decide +kernel) (by decide +kernel) (by decide +kernel) (by decide +kernel)) rfl (by decide +kernel)),
    by decide +kernel⟩,
   ⟨wAtl [] [], { wFull with wellFormed := false }, by decide +kernel⟩,
   ⟨wAtl [] [], wFull, (wVerified hv _ _ (by decide +kernel) (by decide +kernel) (by decide +kernel) (by decide +kernel)), by decide +kernel⟩,
   ⟨wAtl [] [], wImage true [] [] [], (wVerified hv _ _ (by decide +kernel) (by decide +kernel) (by decide +kernel) (by decide +kernel)), by decide +kernel⟩,
   ⟨wForce, wImage true [1] [] [], wFull, (wVerified hv _ _ (by decide +kernel) (by decide +kernel) (by decide +kernel) (by decide +kernel)), by decide +kernel⟩,
   ⟨wForce, wImage true (headDigest wFull) [] [], wFull, (wVerified hv _ _ (by decide +kernel) (by decide +kernel) (by decide +kernel) (by decide +kernel)),
    (wImage_base _ _ _ _), by decide +kernel⟩,
   ⟨wForce, wImage true (headDigest wFull) [] [wNoField], wFull, (wVerified hv _ _ (by decide +kernel) (by decide +kernel) (by decide +kernel) (by decide +kernel)),
    (wImage_base _ _ _ _), by decide +kernel⟩,
   ⟨wHeld true, wImage true (headDigest wFull) [wSection .context (some 15) 0] [], wFull, _, _, _, (wVerified hv _ _ (by decide +kernel) (by decide +kernel)
    (by decide +kernel) (by decide +kernel)), (wImage_base _ _ _ _), rfl, rfl, rfl, by decide +kernel⟩,
   ⟨{ wHeld false with cores := (wAtl [] [0]).cores }, wImage true (headDigest wFull) [wSection .fieldIndex none 0] wStageField, wFull, _, _, _,
    (wVerified hv _ _ (by decide +kernel) (by decide +kernel) (by decide +kernel) (by decide +kernel)), (wImage_base _ _ _ _), rfl, rfl, rfl, by
    decide +kernel⟩,
   ⟨wHeld false, wImage true (headDigest wFull) [wSection .layout (some 15) 0] [], wFull, _, _, _, (wVerified hv _ _ (by decide +kernel) (by decide +kernel)
    (by decide +kernel) (by decide +kernel)), (wImage_base _ _ _ _), rfl, rfl, rfl, by decide +kernel⟩,
   ⟨wHeld false, wImage true (headDigest wFull) [] [wNoField], wFull, _, _, _, (wVerified hv _ _ (by decide +kernel) (by decide +kernel) (by decide +kernel)
    (by decide +kernel)), (wImage_base _ _ _ _), rfl, rfl, rfl, by decide +kernel⟩⟩

/-- States and operands that meet the hypotheses of FieldsAreReadAndWritten, clause by clause. -/
theorem wit_FieldsAreReadAndWritten :
    (∃ (s : State) (t : State) (k : Nat) (f : _), t = s.updLdr (fun l => { l with sel := k }) ∧ s.ldr.fields[k]? = some f ∧ 4096 < f.inst.len)
    ∧ (∃ (s : State) (t : State) (k : Nat) (f : _), t = s.updLdr (fun l => { l with sel := k }) ∧ s.ldr.fields[k]? = some f ∧ f.inst.len ≤ 4096)
    ∧ (∃ (s : State) (t : State) (k : Nat) (n : Nat) (f : _), t = (s.at' n).updLdr (fun l => { l with sel := k }) ∧ s.ldr.fields[k]? = some f ∧
      f.inst.numeric = true)
    ∧ (∃ (s : State) (t : State) (k : Nat) (n : Nat) (f : _), t = (s.at' n).updLdr (fun l => { l with sel := k }) ∧ s.ldr.fields[k]? = some f ∧
      f.inst.numeric = false ∧ s.ownerRuns f = true ∧ f.inst.cls = .locked)
    ∧ (∃ (s : State) (t : State) (k : Nat) (n : Nat) (v : List Nat) (f : _) (range : _), t = (s.at' n).updLdr (fun l => { l with sel := k }) ∧
      s.ldr.fields[k]? = some f ∧ range = ((fieldSpec f.inst.name).map (·.range.has v)).getD false ∧ f.inst.numeric = false ∧ (s.ownerRuns f = false ∨
      f.inst.cls ≠ .locked) ∧ (4096 < f.inst.len ∨ range = false))
    ∧ (∃ (s : State) (t : State) (k : Nat) (n : Nat) (v : List Nat) (f : _) (range : _), t = (s.at' n).updLdr (fun l => { l with sel := k }) ∧
      s.ldr.fields[k]? = some f ∧ range = ((fieldSpec f.inst.name).map (·.range.has v)).getD false ∧ f.inst.numeric = false ∧ (s.ownerRuns f = false ∨
      f.inst.cls ≠ .locked) ∧ f.inst.len ≤ 4096 ∧ range = true ∧ (s.ownerRuns f = false ∨ f.inst.cls ≠ .shadowed))
    ∧ (∃ (s : State) (t : State) (k : Nat) (n : Nat) (v : List Nat) (f : _) (range : _), t = (s.at' n).updLdr (fun l => { l with sel := k }) ∧
      s.ldr.fields[k]? = some f ∧ range = ((fieldSpec f.inst.name).map (·.range.has v)).getD false ∧ f.inst.numeric = false ∧ (s.ownerRuns f = false ∨
      f.inst.cls ≠ .locked) ∧ f.inst.len ≤ 4096 ∧ range = true ∧ s.ownerRuns f = true ∧ f.inst.cls = .shadowed ∧ s.jointAfter k f v = true)
    ∧ (∃ (s : State) (t : State) (k : Nat) (n : Nat) (v : List Nat) (f : _) (range : _), t = (s.at' n).updLdr (fun l => { l with sel := k }) ∧
      s.ldr.fields[k]? = some f ∧ range = ((fieldSpec f.inst.name).map (·.range.has v)).getD false ∧ f.inst.numeric = false ∧ (s.ownerRuns f = false ∨
      f.inst.cls ≠ .locked) ∧ f.inst.len ≤ 4096 ∧ range = true ∧ s.ownerRuns f = true ∧ f.inst.cls = .shadowed ∧ s.jointAfter k f v = false)
    ∧ (∃ (s : State) (t : State) (k : Nat) (f : _), t = s.updLdr (fun l => { l with sel := k }) ∧ s.ldr.fields[k]? = some f ∧ (f.sect ≠ .job ∨ f.inst.cls ≠
      .shadowed))
    ∧ (∃ (s : State) (t : State) (k : Nat) (f : _), t = s.updLdr (fun l => { l with sel := k }) ∧ s.ldr.fields[k]? = some f ∧ f.sect = .job ∧ f.inst.cls =
      .shadowed ∧ s.isRoot = false)
    ∧ (∃ (s : State) (t : State) (k : Nat) (v : List Nat) (f : _) (good : _), t = s.updLdr (fun l => { l with sel := k }) ∧ s.ldr.fields[k]? = some f ∧ good
      = ((((fieldSpec f.inst.name).map (·.range.has v)).getD false) && s.jointAfter k f v) ∧ f.sect = .job ∧ f.inst.cls = .shadowed ∧ s.isRoot = true
      ∧ good = false)
    ∧ (∃ (s : State) (t : State) (k : Nat) (n : Nat) (v : List Nat) (f : _) (good : _), t = s.updLdr (fun l => { l with sel := k }) ∧ s.ldr.fields[k]? =
      some f ∧ good = ((((fieldSpec f.inst.name).map (·.range.has v)).getD false) && s.jointAfter k f v) ∧ f.sect = .job ∧ f.inst.cls = .shadowed ∧
      s.isRoot = true ∧ good = true ∧ s.tooLate n = true)
    ∧ (∃ (s : State) (t : State) (k : Nat) (n : Nat) (v : List Nat) (f : _) (good : _), t = s.updLdr (fun l => { l with sel := k }) ∧ s.ldr.fields[k]? =
      some f ∧ good = ((((fieldSpec f.inst.name).map (·.range.has v)).getD false) && s.jointAfter k f v) ∧ f.sect = .job ∧ f.inst.cls = .shadowed ∧
      s.isRoot = true ∧ good = true ∧ s.tooLate n = false)
    ∧ (∃ (s : State) (n : Nat) (held : Bool), held = (s.ldr.rootWrites.any fun w => w.w.serial == n && !w.complete) ∧ held = false)
    ∧ (∃ (s : State) (n : Nat) (held : Bool), held = (s.ldr.rootWrites.any fun w => w.w.serial == n && !w.complete) ∧ held = true) :=
  ⟨⟨wOne { wField "X" .shadowed false .job with inst := { name := "X", scope := 0, sect := 0, cls := .shadowed, numeric := false, len := 4097, value := [1] } }
    [], _, 0, _, rfl, rfl, by decide +kernel⟩,
   ⟨wOne (wField "LB_PF_MAX" .shadowed false .device) [], _, 0, _, rfl, rfl, by decide +kernel⟩,
   ⟨wOne (wField "STEP_LAG" .locked true .device) [], _, 0, 0, _, rfl, rfl, by decide +kernel⟩,
   ⟨wOne (wField "MP_BLOCKS" .locked false .device) [(15, { loaded := true })], _, 0, 0, _, rfl, rfl, by decide +kernel⟩,
   ⟨wOne (wField "LB_PF_MAX" .shadowed false .device) [], _, 0, 0, [], _, _, rfl, rfl, rfl, by decide +kernel⟩,
   ⟨wOne (wField "LB_PF_MAX" .shadowed false .device) [], _, 0, 0, [512], _, _, rfl, rfl, rfl, by decide +kernel⟩,
   ⟨wOne (wField "LB_PF_MAX" .shadowed false .device) [(15, { loaded := true })], _, 0, 0, [512], _, _, rfl, rfl, rfl, by decide +kernel⟩,
   ⟨{ atl := { ctxs := [(15, { loaded := true })] }, ldr := { fields := [{ wField "TIER_UP_POP" .shadowed false .job with ctx := some 15 }, fieldOf "DEMOTE_HEAT" 0 65535] } },
    _, 0, 0, [1], _, _, rfl, rfl, rfl, by decide +kernel⟩,
   ⟨wOne (wField "LB_PF_MAX" .shadowed false .device) [], _, 0, _, rfl, rfl, by decide +kernel⟩,
   ⟨wJobField 2, _, 0, _, rfl, rfl, by decide +kernel⟩,
   ⟨wJobField 1, _, 0, [], _, _, rfl, rfl, rfl, by decide +kernel⟩,
   ⟨wJobField 1, _, 0, 0, [512], _, _, rfl, rfl, rfl, by decide +kernel⟩,
   ⟨wJobField 1, _, 0, 3, [512], _, _, rfl, rfl, rfl, by decide +kernel⟩,
   ⟨{}, 0, _, rfl, by decide +kernel⟩,
   ⟨wRootWrite false, 7, _, rfl, by decide +kernel⟩⟩

/-- States and operands that meet the hypotheses of SupplyAndResetInputs, clause by clause. -/
theorem wit_SupplyAndResetInputs :
    (∃ (s : State), s.pow.vaux = true)
    ∧ (∃ (s : State), s.pow.vaux = false)
    ∧ (∃ (s : State) (t : State) (u : State) (y : BitVec 6) (b : BootSel), t = (s.updPow fun p => { p with pwrGood := true, tray := y }).updEvt (fun e => { e with fatalLatched := false })
      ∧ u = (({ t with now := 0 } : State).updPow fun p => { p with firstRise := true, started := true, startAt := 0, phase := 0, boot := b }) ∧
      (s.pow.vaux = false ∨ s.pow.pwrGood = true))
    ∧ (∃ (s : State) (t : State) (u : State) (y : BitVec 6) (b : BootSel), t = (s.updPow fun p => { p with pwrGood := true, tray := y }).updEvt (fun e => { e with fatalLatched := false })
      ∧ u = (({ t with now := 0 } : State).updPow fun p => { p with firstRise := true, started := true, startAt := 0, phase := 0, boot := b }) ∧
      s.pow.vaux = true ∧ s.pow.pwrGood = false ∧ s.pow.firstRise = true)
    ∧ (∃ (s : State) (t : State) (u : State) (y : BitVec 6) (b : BootSel), t = (s.updPow fun p => { p with pwrGood := true, tray := y }).updEvt (fun e => { e with fatalLatched := false })
      ∧ u = (({ t with now := 0 } : State).updPow fun p => { p with firstRise := true, started := true, startAt := 0, phase := 0, boot := b }) ∧
      s.pow.vaux = true ∧ s.pow.pwrGood = false ∧ s.pow.firstRise = false ∧ (b = .fwRecovery ∨ s.pow.aonLock = false))
    ∧ (∃ (s : State) (t : State) (u : State) (y : BitVec 6) (b : BootSel), t = (s.updPow fun p => { p with pwrGood := true, tray := y }).updEvt (fun e => { e with fatalLatched := false })
      ∧ u = (({ t with now := 0 } : State).updPow fun p => { p with firstRise := true, started := true, startAt := 0, phase := 0, boot := b }) ∧
      s.pow.vaux = true ∧ s.pow.pwrGood = false ∧ s.pow.firstRise = false ∧ b ≠ .fwRecovery ∧ s.pow.aonLock = true)
    ∧ (∃ (s : State) (n : Nat), (n < 10000 ∨ s.pow.pwrGood = false))
    ∧ (∃ (s : State) (n : Nat), 10000 ≤ n ∧ s.pow.pwrGood = true)
    ∧ (∃ (s : State) (n : Nat), (n < 10000 ∨ s.pow.sysRstN = false))
    ∧ (∃ (s : State) (n : Nat), 10000 ≤ n ∧ s.pow.sysRstN = true ∧ s.pow.firstRise = true)
    ∧ (∃ (s : State) (n : Nat), 10000 ≤ n ∧ s.pow.sysRstN = true ∧ s.pow.firstRise = false)
    ∧ (∃ (s : State), s.pow.sysRstN = true)
    ∧ (∃ (s : State), s.pow.sysRstN = false) :=
  ⟨⟨{ pow := { vaux := true } }, by decide +kernel⟩,
   ⟨{}, by decide +kernel⟩,
   ⟨{}, _, _, 0, .fwRecovery, rfl, rfl, by decide +kernel⟩,
   ⟨{ pow := { vaux := true, firstRise := true } }, _, _, 0, .fwRecovery, rfl, rfl, by decide +kernel⟩,
   ⟨{ pow := { vaux := true } }, _, _, 0, .fwRecovery, rfl, rfl, by decide +kernel⟩,
   ⟨{ pow := { vaux := true, aonLock := true } }, _, _, 0, .normal, rfl, rfl, by decide +kernel⟩,
   ⟨{}, 10000, by decide +kernel⟩,
   ⟨{ pow := { pwrGood := true } }, 10000, by decide +kernel⟩,
   ⟨{}, 10000, by decide +kernel⟩,
   ⟨{ pow := { sysRstN := true, firstRise := true } }, 10000, by decide +kernel⟩,
   ⟨{ pow := { vaux := true, sysRstN := true } }, 10000, by decide +kernel⟩,
   ⟨{ pow := { sysRstN := true, firstRise := true } }, by decide +kernel⟩,
   ⟨{}, by decide +kernel⟩⟩

/-- States and operands that meet the hypotheses of PinsClocksAndDomains, clause by clause. -/
theorem wit_PinsClocksAndDomains :
    (∃ (s : State) (t : State) (n : Nat) (t0 : _), t = (s.at' n).settle n ∧ t.pow.cxPerstAt = some t0 ∧ t.domOn 110 = true ∧ t0 + 100 * ms ≤ n ∧ 4 ≤
      t.pow.phase)
    ∧ (∃ (s : State) (t : State) (n : Nat) (t0 : _), t = (s.at' n).settle n ∧ t.pow.cxPerstAt = some t0 ∧ (t.domOn 110 = false ∨ n < t0 + 100 * ms ∨
      t.pow.phase < 4))
    ∧ (∃ (s : State), s.pow.phase = 1 ∧ s.pow.started = true)
    ∧ (∃ (s : State), (s.pow.phase ≠ 1 ∨ s.pow.started = false))
    ∧ (∃ (s : State), s.pow.pllLock = false)
    ∧ (∃ (s : State), s.pow.pllLock = true)
    ∧ (∃ (s : State), s.pow.aonLock = false)
    ∧ (∃ (s : State), s.pow.aonLock = true)
    ∧ (∃ (s : State) (t : State) (d : DomainId), t = s.domReady d.val s.now ∧ (s.pow.phase ≠ 5 ∨ s.domOn d.val = true))
    ∧ (∃ (s : State) (t : State) (d : DomainId) (c : _) (u : _), t = s.domReady d.val s.now ∧ coreOfDom d.val = some c ∧ u = (if d.val = engDom c.val then
      (t.updEngine c 0 Engine.domainOn).updEngine c 1 Engine.domainOn else t) ∧ s.pow.phase = 5 ∧ s.domOn d.val = false ∧ (s.core c).busy = true)
    ∧ (∃ (s : State) (t : State) (d : DomainId) (c : _) (u : _), t = s.domReady d.val s.now ∧ coreOfDom d.val = some c ∧ u = (if d.val = engDom c.val then
      (t.updEngine c 0 Engine.domainOn).updEngine c 1 Engine.domainOn else t) ∧ s.pow.phase = 5 ∧ s.domOn d.val = false ∧ (s.core c).busy = false)
    ∧ (∃ (s : State) (t : State) (d : DomainId) (bare : Engine → Engine), t = s.updPow (fun p => { p with doms := kvPut d.val .off p.doms }) ∧ (∀ k, bare k
      = { retired := k.retired, cause := k.cause, colRep := k.colRep, rowRep := k.rowRep, colFuse := k.colFuse, rowFuse := k.rowFuse, recur := k.recur })
      ∧ (s.pow.phase ≠ 5 ∨ s.domOn d.val = false ∨ s.mayOff d.val = false))
    ∧ (∃ (s : State) (t : State) (d : DomainId) (bare : Engine → Engine) (c : _), t = s.updPow (fun p => { p with doms := kvPut d.val .off p.doms }) ∧ (∀ k,
      bare k = { retired := k.retired, cause := k.cause, colRep := k.colRep, rowRep := k.rowRep, colFuse := k.colFuse, rowFuse := k.rowFuse, recur := k.recur })
      ∧ coreOfDom d.val = some c ∧ s.pow.phase = 5 ∧ s.domOn d.val = true ∧ s.mayOff d.val = true ∧ d.val = restDom c.val)
    ∧ (∃ (s : State) (t : State) (d : DomainId) (bare : Engine → Engine) (c : _), t = s.updPow (fun p => { p with doms := kvPut d.val .off p.doms }) ∧ (∀ k,
      bare k = { retired := k.retired, cause := k.cause, colRep := k.colRep, rowRep := k.rowRep, colFuse := k.colFuse, rowFuse := k.rowFuse, recur := k.recur })
      ∧ coreOfDom d.val = some c ∧ s.pow.phase = 5 ∧ s.domOn d.val = true ∧ s.mayOff d.val = true ∧ d.val ≠ restDom c.val)
    ∧ (∃ (s : State) (t : State) (d : DomainId) (bare : Engine → Engine), t = s.updPow (fun p => { p with doms := kvPut d.val .off p.doms }) ∧ (∀ k, bare k
      = { retired := k.retired, cause := k.cause, colRep := k.colRep, rowRep := k.rowRep, colFuse := k.colFuse, rowFuse := k.rowFuse, recur := k.recur })
      ∧ s.pow.phase = 5 ∧ s.domOn d.val = true ∧ s.mayOff d.val = true ∧ coreOfDom d.val = none ∧ d.val = 110)
    ∧ (∃ (s : State) (t : State) (d : DomainId) (bare : Engine → Engine), t = s.updPow (fun p => { p with doms := kvPut d.val .off p.doms }) ∧ (∀ k, bare k
      = { retired := k.retired, cause := k.cause, colRep := k.colRep, rowRep := k.rowRep, colFuse := k.colFuse, rowFuse := k.rowFuse, recur := k.recur })
      ∧ s.pow.phase = 5 ∧ s.domOn d.val = true ∧ s.mayOff d.val = true ∧ coreOfDom d.val = none ∧ d.val ≠ 110) :=
  ⟨⟨{ pow := { cxPerstAt := some 0, doms := [(110, .on)], phase := 4 } }, _, 100000000, _, rfl, rfl, by decide +kernel⟩,
   ⟨{ pow := { cxPerstAt := some 0, doms := [(110, .on)], phase := 4 } }, _, 0, _, rfl, rfl, by decide +kernel⟩,
   ⟨wPhase 1, by decide +kernel⟩,
   ⟨wPhase 4, by decide +kernel⟩,
   ⟨{ pow := { cxPerstAt := some 0, doms := [(110, .on)], phase := 4 } }, by decide +kernel⟩,
   ⟨wPhase 1, by decide +kernel⟩,
   ⟨wPhase 1, by decide +kernel⟩,
   ⟨{ pow := { aonLock := true } }, by decide +kernel⟩,
   ⟨wPhase 1, _, 111, rfl, by decide +kernel⟩,
   ⟨{ pow := { phase := 5 }, cores := [(31, { f := { queue := [wCmd .f .nop] } })] }, _, 64, _, _, rfl, rfl, rfl, by decide +kernel⟩,
   ⟨{ pow := { phase := 5 } }, _, 1, _, _, rfl, rfl, rfl, by decide +kernel⟩,
   ⟨wPhase 1, _, 111, _, rfl, fun _ => rfl, by decide +kernel⟩,
   ⟨{ wAtl [] [31] with pow := { phase := 5, doms := [(64, .on)] } }, _, 64, _, _, rfl, fun _ => rfl, rfl, by decide +kernel⟩,
   ⟨wPhase 5, _, 1, _, _, rfl, fun _ => rfl, rfl, by decide +kernel⟩,
   ⟨wPhase 5, _, 110, _, rfl, fun _ => rfl, by decide +kernel⟩,
   ⟨{ pow := { phase := 5, doms := [(93, .on)] } }, _, 93, _, rfl, fun _ => rfl, by decide +kernel⟩⟩

/-- States and operands that meet the hypotheses of BringUpPhasesFollow, clause by clause. -/
theorem wit_BringUpPhasesFollow :
    (∃ (s : State) (t : State) (n : Nat) (d : _), t = (s.at' n).settle n ∧ (t.phaseDoms.find? fun d => t.dom d == .off) = some d ∧ (∀ t0, s.pow.lastOn =
      some t0 → t0 + 50000 ≤ n) ∧ s.pow.started = true)
    ∧ (∃ (s : State) (t : State) (n : Nat), t = (s.at' n).settle n ∧ ((t.phaseDoms.find? fun d => t.dom d == .off) = none ∨ s.pow.started = false ∨ (∃ t0,
      s.pow.lastOn = some t0 ∧ n < t0 + 50000)))
    ∧ (∃ (s : State) (t : State) (n : Nat), t = (s.at' n).settle n ∧ (t.pow.started = false ∨ t.phaseDone = false))
    ∧ (∃ (s : State) (t : State) (n : Nat), t = (s.at' n).settle n ∧ t.pow.started = true ∧ t.phaseDone = true ∧ t.pow.phase = 0)
    ∧ (∃ (s : State) (t : State) (n : Nat), t = (s.at' n).settle n ∧ t.pow.started = true ∧ t.phaseDone = true ∧ t.pow.phase = 1)
    ∧ (∃ (s : State) (t : State) (n : Nat), t = (s.at' n).settle n ∧ t.pow.started = true ∧ t.phaseDone = true ∧ t.pow.phase = 2)
    ∧ (∃ (s : State) (t : State) (n : Nat), t = (s.at' n).settle n ∧ t.pow.started = true ∧ t.phaseDone = true ∧ t.pow.phase = 3)
    ∧ (∃ (s : State) (t : State) (n : Nat) (q : Power), t = (s.at' n).settle n ∧ q = { t.pow with phase := 5, phase5Ms := s.sinceStart n, changedP := n, changedT := n, lastEval := n, evals := [] }
      ∧ t.pow.started = true ∧ t.phaseDone = true ∧ 4 ≤ t.pow.phase)
    ∧ (∃ (s : State) (n : Nat) (k : Nat), k = s.pow.phase ∧ s.pow.started = true ∧ k < 5 ∧ k ∉ s.pow.slow ∧ s.pow.startAt + phaseBound k * ms < n ∧ (k ≠ 0 ∨
      s.pow.holdN = true))
    ∧ (∃ (s : State) (n : Nat) (k : Nat), k = s.pow.phase ∧ (s.pow.started = false ∨ 5 ≤ k ∨ k ∈ s.pow.slow ∨ n ≤ s.pow.startAt + phaseBound k * ms ∨ (k = 0
      ∧ s.pow.holdN = false)))
    ∧ (∃ (s : State) (k : StackId) (m : Nat), m = kvGet 0 k.val s.pow.attempts ∧ (s.pow.phase ≠ 2 ∨ s.pow.started = false ∨ s.domOn (65 + k.val) = false ∨ 3
      ≤ m ∨ k.val ∈ s.pow.trained))
    ∧ (∃ (s : State) (k : StackId) (m : Nat), m = kvGet 0 k.val s.pow.attempts ∧ s.pow.phase = 2 ∧ s.pow.started = true ∧ s.domOn (65 + k.val) = true ∧ m <
      3 ∧ k.val ∉ s.pow.trained ∧ m < 2)
    ∧ (∃ (s : State) (k : StackId) (m : Nat), m = kvGet 0 k.val s.pow.attempts ∧ s.pow.phase = 2 ∧ s.pow.started = true ∧ s.domOn (65 + k.val) = true ∧ m <
      3 ∧ k.val ∉ s.pow.trained ∧ m = 2) :=
  ⟨⟨{ pow := { started := true, phase := 1 } }, _, 200000, _, rfl, rfl, (by intro t0 h; cases h), by decide +kernel⟩,
   ⟨{}, _, 0, rfl, by decide +kernel⟩,
   ⟨{}, _, 0, rfl, by decide +kernel⟩,
   ⟨{ pow := { started := true, holdN := true, pwrGood := true, sysRstN := true }, atl := { running := true } }, _, 0, rfl, by decide +kernel⟩,
   ⟨wPhase 1, _, 0, rfl, by decide +kernel⟩,
   ⟨wPhase 2, _, 0, rfl, by decide +kernel⟩,
   ⟨wPhase 3, _, 0, rfl, by decide +kernel⟩,
   ⟨wPhase 4, _, 0, _, rfl, rfl, by decide +kernel⟩,
   ⟨wPhase 1, 90000000001, _, rfl, by decide +kernel⟩,
   ⟨{}, 0, _, rfl, by decide +kernel⟩,
   ⟨{}, 7, _, rfl, by decide +kernel⟩,
   ⟨wTrain 1, 7, _, rfl, by decide +kernel⟩,
   ⟨wTrain 2, 7, _, rfl, by decide +kernel⟩⟩

/-- States and operands that meet the hypotheses of FantailMovesTheLevel, clause by clause. -/
theorem wit_FantailMovesTheLevel :
    (∃ (s : State), s.pow.phase = 0)
    ∧ (∃ (s : State), s.pow.phase ≠ 0)
    ∧ (∃ (s : State) (t : State) (n : Nat), t = s.at' n ∧ (s.pow.phase = 0 ∨ s.pow.tripped = true ∨ n < s.pow.lastEval + 100000))
    ∧ (∃ (s : State) (t : State) (n : Nat), t = s.at' n ∧ s.pow.phase ≠ 0 ∧ s.pow.tripped = false ∧ s.pow.lastEval + 100000 ≤ n ∧ s.pow.phase = 5)
    ∧ (∃ (s : State) (t : State) (n : Nat), t = s.at' n ∧ s.pow.phase ≠ 0 ∧ s.pow.tripped = false ∧ s.pow.lastEval + 100000 ≤ n ∧ s.pow.phase ≠ 5)
    ∧ (∃ (s : State) (u : Nat), (s.pow.phase = 0 ∨ 48 ≤ u))
    ∧ (∃ (s : State) (u : Nat), s.pow.phase ≠ 0 ∧ u < 48)
    ∧ (∃ (s : State) (u : Nat) (n : Nat) (k : _), kvFind u s.pow.droops = some k ∧ 256 ≤ n)
    ∧ (∃ (s : State) (hot : Bool), hot = ((s.pow.thermal.junction.any (115 ≤ ·)) || s.pow.thermal.hbm.any (105 ≤ ·)) ∧ (s.pow.phase = 0 ∨ s.pow.tripped =
      true ∨ hot = false))
    ∧ (∃ (s : State) (hot : Bool) (ask : Core→Engine→Engine), hot = ((s.pow.thermal.junction.any (115 ≤ ·)) || s.pow.thermal.hbm.any (105 ≤ ·)) ∧ (∀ k e,
      ask k e = { e.unstart k.lastCyc with reqFan := true, reqCyc := k.lastCyc }) ∧ s.pow.phase ≠ 0 ∧ s.pow.tripped = false ∧ hot = true)
    ∧ (∃ (s : State) (n : Nat) (quiet : Bool), quiet = ((List.finRange 32).all fun c => (s.engine c 0).still && (s.engine c 1).still) ∧ (s.pow.tripped =
      false ∨ s.pow.started = false ∨ (quiet = false ∧ n < 4352)))
    ∧ (∃ (s : State) (n : Nat) (quiet : Bool), quiet = ((List.finRange 32).all fun c => (s.engine c 0).still && (s.engine c 1).still) ∧ s.pow.tripped = true
      ∧ s.pow.started = true ∧ (quiet = true ∨ 4352 ≤ n)) :=
  ⟨⟨{ pow := { droops := [(47, 1)] } }, by decide +kernel⟩,
   ⟨wSample 0, by decide +kernel⟩,
   ⟨wSample 0, _, 1, rfl, by decide +kernel⟩,
   ⟨wSample 0, _, 100000, rfl, by decide +kernel⟩,
   ⟨{ pow := { phase := 3 } }, _, 100000, rfl, by decide +kernel⟩,
   ⟨wSample 0, 99999, by decide +kernel⟩,
   ⟨wSample 0, 1, by decide +kernel⟩,
   ⟨{ pow := { droops := [(47, 1)] } }, 47, 99999, _, rfl, by decide +kernel⟩,
   ⟨wSample 0, _, rfl, by decide +kernel⟩,
   ⟨{ pow := { phase := 5, thermal := { junction := [115], hbm := [] } } }, _, _, rfl, fun _ _ => rfl, by decide +kernel⟩,
   ⟨wSample 0, 1, _, rfl, by decide +kernel⟩,
   ⟨{ pow := { tripped := true, started := true } }, 1, _, rfl, by decide +kernel⟩⟩

/-- States and operands that meet the hypotheses of JtagInstructionsSelectTheirRegister, clause by clause. -/
theorem wit_JtagInstructionsSelectTheirRegister :
    (∃ (s : State), s.pow.vaux = true ∧ s.pow.sysRstN = false)
    ∧ (∃ (s : State), s.pow.vaux = true ∧ s.pow.sysRstN = true)
    ∧ (∃ (s : State), s.pow.vaux = false) :=
  ⟨⟨{ pow := { vaux := true } }, by decide +kernel⟩,
   ⟨{ pow := { vaux := true, sysRstN := true } }, by decide +kernel⟩,
   ⟨{}, by decide +kernel⟩⟩

/-- States and operands that meet the hypotheses of AccessesAreCounted, clause by clause. -/
theorem wit_AccessesAreCounted :
    (∃ (s : State) (a : Nat) (n : Nat), s.pow.hostUp = true ∧ accessOk a n = false)
    ∧ (∃ (s : State) (a : Nat) (n : Nat), s.pow.hostUp = true ∧ accessOk a n = true)
    ∧ (∃ (s : State) (a : Nat) (n : Nat), s.pow.hostUp = true ∧ s.addrOff a = true ∧ accessOk a n = true)
    ∧ (∃ (s : State) (a : Nat), s.pow.hostUp = true ∧ s.addrOff a = false)
    ∧ (∃ (s : State) (a : Nat), s.pow.hostUp = true ∧ a % 8 = 0 ∧ s.addrOff a = false ∧ s.addrOff (a + 4) = false)
    ∧ (∃ (s : State), s.pow.hostUp = false)
    ∧ (∃ (s : State) (n : Nat), s.pow.hostUp = true ∧ n < 2048)
    ∧ (∃ (s : State) (n : Nat), s.pow.hostUp = true ∧ 2048 ≤ n) :=
  ⟨⟨wHost, 0, 0, by decide +kernel⟩,
   ⟨wHost, 0, 4, by decide +kernel⟩,
   ⟨wHost, 0x1000000, 4, by decide +kernel⟩,
   ⟨wHost, 0, by decide +kernel⟩,
   ⟨wHost, 0, by decide +kernel⟩,
   ⟨{}, by decide +kernel⟩,
   ⟨wHost, 0, by decide +kernel⟩,
   ⟨wHost, 0x1000000, by decide +kernel⟩⟩

/-- States and operands that meet the hypotheses of FaultsAreRecordedAndNotified, clause by clause. -/
theorem wit_FaultsAreRecordedAndNotified :
    (∃ (s : State), (s.evt.raised = [] ∨ s.pow.vaux = false))
    ∧ (∃ (s : State) (u : State) (x : Raised) (l : List Raised) (n : Nat), s.evt.raised = x :: l ∧ u = ((s.at' n).updEvt fun e => { e with raised := l }).putRecord
      (((s.at' n).updEvt fun e => { e with raised := l }).recordOf x) ∧ s.pow.vaux = true ∧ x.cls = .deviceFatal)
    ∧ (∃ (s : State) (u : State) (x : Raised) (l : List Raised) (n : Nat), s.evt.raised = x :: l ∧ u = ((s.at' n).updEvt fun e => { e with raised := l }).putRecord
      (((s.at' n).updEvt fun e => { e with raised := l }).recordOf x) ∧ s.pow.vaux = true ∧ x.cls ≠ .deviceFatal)
    ∧ (∃ (s : State) (n : Nat), (s.vec n).busy = false)
    ∧ (∃ (s : State) (n : Nat), (s.vec n).busy = true ∧ (s.vec n).pend = true ∧ (s.vec n).masked = false ∧ s.pow.hostUp = true)
    ∧ (∃ (s : State) (n : Nat), (s.vec n).busy = true ∧ ((s.vec n).pend = false ∨ (s.vec n).masked = true ∨ s.pow.hostUp = false))
    ∧ (∃ (s : State) (p : PortId), s.portMode p = 2 ∧ (s.port p).state ≠ .down)
    ∧ (∃ (s : State) (p : PortId), (s.portMode p ≠ 2 ∨ (s.port p).state = .down))
    ∧ (∃ (s : State) (t : State) (src : DevId) (dev : DevId) (port : Nat) (w : Bool) (n : Nat), t = (s.at' n).noteSuspicion src dev port w n ∧ s.rcv.isCoord
      = false ∧ s.rcv.isDeputy = false)
    ∧ (∃ (s : State) (t : State) (src : DevId) (dev : DevId) (port : Nat) (w : Bool) (n : Nat), t = (s.at' n).noteSuspicion src dev port w n ∧
      (s.rcv.isCoord = true ∨ s.rcv.isDeputy = true) ∧ (t.allPortsDown dev && t.mayConfirm dev n) = true)
    ∧ (∃ (s : State) (t : State) (src : DevId) (dev : DevId) (port : Nat) (w : Bool) (n : Nat), t = (s.at' n).noteSuspicion src dev port w n ∧
      (s.rcv.isCoord = true ∨ s.rcv.isDeputy = true) ∧ (t.allPortsDown dev && t.mayConfirm dev n) = false) :=
  ⟨⟨{}, by decide +kernel⟩,
   ⟨wFault .deviceFatal, _, _, _, 0, rfl, rfl, by decide +kernel⟩,
   ⟨wFault .stepFatal, _, _, _, 0, rfl, rfl, by decide +kernel⟩,
   ⟨{}, 0, by decide +kernel⟩,
   ⟨wVec { busy := true, pend := true, masked := false }, 2047, by decide +kernel⟩,
   ⟨wVec { busy := true, pend := false }, 2047, by decide +kernel⟩,
   ⟨wPort 2 {}, 0, by decide +kernel⟩,
   ⟨{}, 0, by decide +kernel⟩,
   ⟨{}, _, 0, 0, 0, false, 0, rfl, by decide +kernel⟩,
   ⟨wPod, _, 3, 2, 0, false, 0, rfl, by decide +kernel⟩,
   ⟨wPod, _, 0, 0, 0, false, 0, rfl, by decide +kernel⟩⟩

/-- States and operands that meet the hypotheses of QueueAndFusesAreKept, clause by clause. -/
theorem wit_QueueAndFusesAreKept :
    (∃ (i : Instr) (s : State) (t : State), exec i s = .next t)
    ∧ (∃ (c : Instr) (rest : List Instr) (s : State) (t : State), step s = .next t ∧ s.pending = c :: rest) :=
  ⟨⟨.idcode, {}, _, (rfl)⟩,
   ⟨.idcode, [], { pending := [.idcode] }, _, (rfl), by decide +kernel⟩⟩

/-- States and operands that meet the hypotheses of MemoriesKeepTheirForm, clause by clause. -/
theorem wit_MemoriesKeepTheirForm :
    (∃ (i : Instr) (s : State) (t : State), exec i s = .next t ∧ s.memOk = true)
    ∧ (∃ (m : List Host.Cell), Memory.wf m = true)
    ∧ (∃ (m : List Host.Cell) (n : List Host.Cell), (∀ x, cellRead m x = cellRead n x) ∧ Memory.wf m = true ∧ Memory.wf n = true) :=
  ⟨⟨.idcode, {}, _, (rfl), by decide +kernel⟩,
   ⟨[(0, 1), (2, 3)], by decide +kernel⟩,
   ⟨[], [], (fun _ => rfl), by decide +kernel⟩⟩

/-- States and operands that meet the hypotheses of IntegerAndFx48Sums, clause by clause. -/
theorem wit_IntegerAndFx48Sums :
    (∃ (n : Nat), 0 < n)
    ∧ (∃ (x : Int) (l : List F32) (m : List F32), l.Perm m ∧ (fxSum x l).2 = false ∧ (fxSum x m).2 = false)
    ∧ (∃ (x : Int) (l : List F32) (m : List F32), (fxSum x (l ++ m)).2 = false ∧ (fxSum x l).2 = false ∧ (fxSum x m).2 = false) :=
  ⟨⟨1, by decide +kernel⟩,
   ⟨0, [0x3F800000, 0x40000000], [0x3F800000, 0x40000000], by decide +kernel⟩,
   ⟨0, [0x3F800000, 0x40000000], [0x3F800000, 0x40000000], by decide +kernel⟩⟩

/-- States and operands that meet the hypotheses of CommandsStayInTheirFootprint, clause by clause. -/
theorem wit_CommandsStayInTheirFootprint :
    (∃ (c : Instr) (s : State) (t : State) (p : Part), exec c s = .next t ∧ p ∉ footprint c)
    ∧ (∃ (c : Instr) (rest : List Instr) (s : State) (t : State) (p : Part), step s = .next t ∧ s.pending = c :: rest ∧ p ∉ footprint c) :=
  ⟨⟨.idcode, {}, _, .cores, (rfl), by decide +kernel⟩,
   ⟨.idcode, [], { pending := [.idcode] }, _, .cores, (rfl), by decide +kernel⟩⟩

end Sys2Proof.Tests
end

section
/-! The decision of the vote root (R36): one equation per row of its table, then the order of the rows. -/

open Sys2Proof Sys2Proof.Machine

namespace Sys2Proof.Proofs

theorem flagsAny_eq_true_iff (f : Flags) :
    flagsAny f = true ↔ f.nan = true ∨ f.inf = true ∨ f.sat = true ∨ f.opt = true := by
  simp only [flagsAny, Bool.or_eq_true, or_assoc]

theorem flagsAny_eq_false_iff (f : Flags) :
    flagsAny f = false ↔ f.nan = false ∧ f.inf = false ∧ f.sat = false ∧ f.opt = false := by
  simp only [flagsAny, Bool.or_eq_false_iff, and_assoc]

section Rows
variable {v : VoteWord} {m : Nat} {e l : Bool}

theorem decide36_of_fatal_or_layout (h : v.fatal = true ∨ l = true) : decide36 v m e l = .halt :=
  if_pos ((Bool.or_eq_true _ _).mpr h)

/-- Past the HALT row the rest of the table decides. -/
theorem decide36_of_no_halt (hf : v.fatal = false) (hl : l = false) :
    decide36 v m e l = if v.count ≠ m ∨ e = true then .abort else if flagsAny v.flags then .skip else .apply :=
  if_neg (by simp [hf, hl])

theorem decide36_of_count_or_epoch (hf : v.fatal = false) (hl : l = false) (h : v.count ≠ m ∨ e = true) :
    decide36 v m e l = .abort :=
  (decide36_of_no_halt hf hl).trans (if_pos h)

/-- Past the HALT and ABORT rows the data flags decide. -/
theorem decide36_of_no_abort (hf : v.fatal = false) (hl : l = false) (hc : v.count = m) (he : e = false) :
    decide36 v m e l = if flagsAny v.flags then .skip else .apply :=
  (decide36_of_no_halt hf hl).trans (if_neg (by simp [hc, he]))

end Rows

/-- Each decision is formed exactly when the conditions of its row hold and those of the rows above it do not. -/
theorem decide36_iff_rows (v : VoteWord) (m : Nat) (e l : Bool) :
    (decide36 v m e l = .halt ↔ (v.fatal = true ∨ l = true))
    ∧ (decide36 v m e l = .abort ↔ (v.fatal = false ∧ l = false ∧ (v.count ≠ m ∨ e = true)))
    ∧ (decide36 v m e l = .skip ↔ (v.fatal = false ∧ l = false ∧ v.count = m ∧ e = false ∧ flagsAny v.flags = true))
    ∧ (decide36 v m e l = .apply ↔ (v.fatal = false ∧ l = false ∧ v.count = m ∧ e = false ∧ flagsAny v.flags = false)) := by
  by_cases hHalt : v.fatal = true ∨ l = true
  · rw [decide36_of_fatal_or_layout hHalt]
    obtain h | h := hHalt <;> simp [h]
  · obtain ⟨hf, hl⟩ : v.fatal = false ∧ l = false := by simpa using hHalt
    by_cases hAbort : v.count ≠ m ∨ e = true
    · rw [decide36_of_count_or_epoch hf hl hAbort]
      obtain h | h := hAbort <;> simp [hf, hl, h]
    · obtain ⟨hc, he⟩ : v.count = m ∧ e = false := by simpa using hAbort
      rw [decide36_of_no_abort hf hl hc he]
      cases hFlags : flagsAny v.flags <;> simp [hf, hl, hc, he]

theorem voteDiffEpoch_eq_true_iff (a b : VoteWord) :
    voteDiffEpoch a b = true ↔ a.memEpoch ≠ b.memEpoch ∨ a.view ≠ b.view := by
  simp only [voteDiffEpoch, Bool.or_eq_true, bne_iff_ne]

theorem voteDiffLayout_eq_true_iff (a b : VoteWord) :
    voteDiffLayout a b = true ↔ a.layEpoch ≠ b.layEpoch ∨ a.step ≠ b.step := by
  simp only [voteDiffLayout, Bool.or_eq_true, bne_iff_ne]

/-- Settles O6: the rows of R36 exclude one another in their order, and the DIFF bits are the differences they name. -/
theorem decisionOrder : Obligations.DecisionOrder := by
  refine ⟨fun v m e l => ?_, fun a b => ⟨voteDiffEpoch_eq_true_iff a b, voteDiffLayout_eq_true_iff a b⟩, rfl, rfl, rfl, rfl⟩
  simpa only [flagsAny_eq_true_iff, flagsAny_eq_false_iff] using decide36_iff_rows v m e l

end Sys2Proof.Proofs
end

section
/-! Integer and FX48 sums (R69, R71): saturating addition as a case split on the exact sum, then the order of an unsaturated sum, which is
the exact sum of the converted contributions. -/

open Sys2Proof Sys2Proof.Machine

namespace Sys2Proof.Proofs

section Clamp
variable {lo hi : Int}

theorem clampInt_ne_self_iff (h : lo ≤ hi) (i : Int) : clampInt lo hi i ≠ i ↔ i < lo ∨ hi < i := by
  unfold clampInt
  omega

/-- A clamp to a nonempty range with its mark: the nearer end outside the range, the value itself inside. -/
theorem clampInt_marked (h : lo ≤ hi) (i : Int) :
    (clampInt lo hi i, decide (i < lo ∨ hi < i)) = if i < lo then (lo, true) else if hi < i then (hi, true) else (i, false) := by
  unfold clampInt
  by_cases hLow : i < lo
  · have hEnd : max lo (min hi i) = lo := by omega
    simp [hLow, hEnd]
  · by_cases hHigh : hi < i
    · have hEnd : max lo (min hi i) = hi := by omega
      simp [hLow, hHigh, hEnd]
    · have hSelf : max lo (min hi i) = i := by omega
      simp [hLow, hHigh, hSelf]

end Clamp

section Int32

theorem addChunkInt_of_unsaturated (acc : Int) (ab : List (Int × Int)) :
    addChunkInt (acc, false) ab =
      if acc + chunkInt ab < -2 ^ 31 then (-2 ^ 31, true)
      else if 2 ^ 31 - 1 < acc + chunkInt ab then (2 ^ 31 - 1, true) else (acc + chunkInt ab, false) := by
  have hRange : (-2 ^ 31 : Int) ≤ 2 ^ 31 - 1 := by decide
  rw [← clampInt_marked hRange, ← decide_eq_decide.mpr (clampInt_ne_self_iff hRange _)]
  exact if_neg Bool.false_ne_true

theorem addChunkInt_of_saturated (acc : Int) (ab : List (Int × Int)) : addChunkInt (acc, true) ab = (acc, true) := if_pos rfl

theorem dotInt_of_saturated (acc : Int) (ab : List (Int × Int)) : dotInt (acc, true) ab = (acc, true) :=
  List.foldl_fixed' (addChunkInt_of_saturated acc) _

theorem evFlags_inf_of_i32 {n : Nat} (h : 0 < n) : (evFlags { i32 := n }).inf = true := by
  simpa [evFlags] using h

end Int32

section Fx48

theorem evFlags_sat_bit (b : Bool) : (evFlags { sat := bit b }).sat = b := by
  cases b <;> rfl

/-- A value in the range of FX48 (R51). -/
def FxInRange (n : Int) : Prop := fxMin ≤ n ∧ n ≤ fxMax

theorem fxAdd_eq_ite (a b : Int) :
    fxAdd a b = if a + b < fxMin then (fxMin, true) else if fxMax < a + b then (fxMax, true) else (a + b, false) :=
  clampInt_marked (by decide) (a + b)

theorem fxAdd_snd_eq_false_iff (a b : Int) : (fxAdd a b).2 = false ↔ FxInRange (a + b) := by
  simp [fxAdd, FxInRange]

theorem fxAdd_of_inRange {a b : Int} (h : FxInRange (a + b)) : fxAdd a b = (a + b, false) := by
  rw [fxAdd_eq_ite, if_neg (not_lt.mpr h.1), if_neg (not_lt.mpr h.2)]

theorem fxAdd_fst_inRange (a b : Int) : FxInRange (fxAdd a b).1 :=
  ⟨le_max_left _ _, max_le (by decide) (min_le_left _ _)⟩

/-- The sum of the converted contributions as an integer, with no bound. -/
def fxExactSum (x : Int) (l : List F32) : Int := (l.map fun v => (toFX48 x v).1).sum

theorem fxExactSum_append (x : Int) (l m : List F32) : fxExactSum x (l ++ m) = fxExactSum x l + fxExactSum x m := by
  simp [fxExactSum]

theorem fxExactSum_perm (x : Int) {l m : List F32} (h : l.Perm m) : fxExactSum x l = fxExactSum x m :=
  (h.map _).sum_eq

theorem fxSum_concat (x : Int) (v : F32) (l : List F32) :
    fxSum x (l ++ [v]) =
      ((fxAdd (fxSum x l).1 (toFX48 x v).1).1, (fxSum x l).2 || (fxAdd (fxSum x l).1 (toFX48 x v).1).2) :=
  List.foldl_append

theorem fxSum_fst_inRange (x : Int) (l : List F32) : FxInRange (fxSum x l).1 := by
  induction l using List.reverseRecOn with
  | nil => exact (by decide : fxMin ≤ 0 ∧ 0 ≤ fxMax)
  | append_singleton l v _ =>
    rw [fxSum_concat]
    exact fxAdd_fst_inRange _ _

/-- A sum that never saturated is the exact sum: each of its additions was in range. -/
theorem fxSum_fst_of_unsaturated (x : Int) (l : List F32) (h : (fxSum x l).2 = false) : (fxSum x l).1 = fxExactSum x l := by
  induction l using List.reverseRecOn with
  | nil => rfl
  | append_singleton l v ih =>
    rw [fxSum_concat] at h ⊢
    obtain ⟨hInit, hLast⟩ := Bool.or_eq_false_iff.mp h
    have hExact := fxAdd_of_inRange ((fxAdd_snd_eq_false_iff _ _).mp hLast)
    rw [hExact, ih hInit, fxExactSum_append]
    simp [fxExactSum]

theorem fxSum_fst_eq_of_perm {x : Int} {l m : List F32} (h : l.Perm m) (hl : (fxSum x l).2 = false) (hm : (fxSum x m).2 = false) :
    (fxSum x l).1 = (fxSum x m).1 := by
  rw [fxSum_fst_of_unsaturated x l hl, fxSum_fst_of_unsaturated x m hm, fxExactSum_perm x h]

/-- Partial sums join to the sum of the whole list, which is in range as every FX48 sum is. -/
theorem fxAdd_fxSum_append {x : Int} {l m : List F32} (h : (fxSum x (l ++ m)).2 = false) (hl : (fxSum x l).2 = false)
    (hm : (fxSum x m).2 = false) : fxAdd (fxSum x l).1 (fxSum x m).1 = ((fxSum x (l ++ m)).1, false) := by
  have hJoin : (fxSum x l).1 + (fxSum x m).1 = (fxSum x (l ++ m)).1 := by
    rw [fxSum_fst_of_unsaturated x _ h, fxSum_fst_of_unsaturated x l hl, fxSum_fst_of_unsaturated x m hm, fxExactSum_append]
  rw [← hJoin]
  exact fxAdd_of_inRange (hJoin ▸ fxSum_fst_inRange x (l ++ m))

end Fx48

/-- Settles O59: saturating additions by cases on the exact sum; unsaturated FX48 sums by way of the exact sum, which has no order. -/
theorem integerAndFx48Sums : Obligations.IntegerAndFx48Sums :=
  ⟨addChunkInt_of_unsaturated, dotInt_of_saturated, fun n e hn => ⟨evFlags_inf_of_i32 hn, satAdd_eq 0xFFFF e.i32 n⟩,
    fxAdd_eq_ite, fun a b => evFlags_sat_bit (fxAdd a b).2, fxSum_concat,
    fun _ _ _ => fxSum_fst_eq_of_perm, fun _ _ _ => fxAdd_fxSum_append⟩

end Sys2Proof.Proofs
end

section
/-! Every command is sound within its footprint: the dispatch of `exec` read off the law of each command (Laws/Sound*). -/

open Sys2Proof Sys2Proof.Machine

namespace Sys2Proof.Proofs

/-- What a command answers next differs from the state before only in the parts of the command's footprint, keeps the queue, the fuses and
the memories' form, and lowers no floor. -/
theorem exec_sound (i : Instr) (s : State) : SoundOut (footprint i) s (exec i s) :=
  match i with
  | .mbAdmit x1 => execMbAdmit_sound x1 s
  | .slotRelease x1 => execSlotRelease_sound x1 s
  | .gatherClose x1 => execGatherClose_sound x1 s
  | .finitenessScreen x1 x2 => execFinitenessScreen_sound x1 x2 s
  | .qrnLogReserve x1 x2 => execQrnLogReserve_sound x1 x2 s
  | .voteSend x1 => execVoteSend_sound x1 s
  | .vote x1 => execVote_sound x1 s
  | .voteMirrorStore x1 => execVoteMirrorStore_sound x1 s
  | .decisionBroadcast x1 => execDecisionBroadcast_sound x1 s
  | .decision x1 => execDecision_sound x1 s
  | .applyEnd x1 => execApplyEnd_sound x1 s
  | .stbyHeaderWrite x1 => execStbyHeaderWrite_sound x1 s
  | .sealComplete x1 => execSealComplete_sound x1 s
  | .descDecode x1 x2 x3 => execDescDecode_sound x1 x2 x3 s
  | .hintIssue x1 x2 x3 => execHintIssue_sound x1 x2 x3 s
  | .commandIssue x1 x2 => execCommandIssue_sound x1 x2 s
  | .nop x1 x2 => execNop_sound x1 x2 s
  | .signal x1 x2 => execSignal_sound x1 x2 s
  | .wait x1 x2 => execWait_sound x1 x2 s
  | .fwdEnd x1 => execFwdEnd_sound x1 s
  | .bwdEnd x1 => execBwdEnd_sound x1 s
  | .mm x1 x2 x3 => execMm_sound x1 x2 x3 s
  | .vec x1 x2 => execVec_sound x1 x2 s
  | .vred x1 x2 => execVred_sound x1 x2 s
  | .lookup x1 => execLookup_sound x1 s
  | .pool x1 => execPool_sound x1 s
  | .gradSend x1 => execGradSend_sound x1 s
  | .stashWr x1 => execStashWr_sound x1 s
  | .stashRd x1 => execStashRd_sound x1 s
  | .stashFree x1 => execStashFree_sound x1 s
  | .fetch x1 x2 => execFetch_sound x1 x2 s
  | .write x1 x2 => execWrite_sound x1 x2 s
  | .prefetch x1 x2 => execPrefetch_sound x1 x2 s
  | .cancel x1 x2 => execCancel_sound x1 x2 s
  | .loadScales x1 => execLoadScales_sound x1 s
  | .loadCsum x1 => execLoadCsum_sound x1 s
  | .invalidate x1 => execInvalidate_sound x1 s
  | .prestage x1 => execPrestage_sound x1 s
  | .commandRetire x1 x2 x3 => execCommandRetire_sound x1 x2 x3 s
  | .deferPromote x1 x2 => execDeferPromote_sound x1 x2 s
  | .handoverUnit x1 x2 x3 => execHandoverUnit_sound x1 x2 x3 s
  | .noProgress x1 => execNoProgress_sound x1 s
  | .dumpValid x1 x2 => execDumpValid_sound x1 x2 s
  | .govStreamCtl x1 x2 => execGovStreamCtl_sound x1 x2 s
  | .tileLoadStart x1 x2 x3 => execTileLoadStart_sound x1 x2 x3 s
  | .tileLoadReady x1 x2 x3 => execTileLoadReady_sound x1 x2 x3 s
  | .passStart x1 x2 x3 => execPassStart_sound x1 x2 x3 s
  | .passEnd x1 x2 x3 x4 => execPassEnd_sound x1 x2 x3 x4 s
  | .passVerdict x1 x2 x3 => execPassVerdict_sound x1 x2 x3 s
  | .replayStart x1 x2 x3 => execReplayStart_sound x1 x2 x3 s
  | .engPreemptReq x1 x2 x3 => execEngPreemptReq_sound x1 x2 x3 s
  | .engPreemptWithdraw x1 x2 x3 => execEngPreemptWithdraw_sound x1 x2 x3 s
  | .engineQuiet x1 x2 x3 => execEngineQuiet_sound x1 x2 x3 s
  | .engCtrClear x1 x2 x3 => execEngCtrClear_sound x1 x2 x3 s
  | .dividerChange x1 x2 => execDividerChange_sound x1 x2 s
  | .lbEccError x1 x2 x3 => execLbEccError_sound x1 x2 x3 s
  | .spillWriteDone x1 x2 x3 x4 => execSpillWriteDone_sound x1 x2 x3 x4 s
  | .stashReadback x1 => execStashReadback_sound x1 s
  | .demandFetchBegin x1 x2 => execDemandFetchBegin_sound x1 x2 s
  | .sluiceTick x1 => execSluiceTick_sound x1 s
  | .transferArrive x1 x2 x3 => execTransferArrive_sound x1 x2 x3 s
  | .ringRepair x1 x2 => execRingRepair_sound x1 x2 s
  | .tailraceAck x1 x2 => execTailraceAck_sound x1 x2 s
  | .arbDecision x1 x2 x3 => execArbDecision_sound x1 x2 x3 s
  | .arbHold x1 x2 => execArbHold_sound x1 x2 s
  | .turnEstimate x1 x2 x3 => execTurnEstimate_sound x1 x2 x3 s
  | .engineWake x1 x2 x3 => execEngineWake_sound x1 x2 x3 s
  | .pageMoveStart => execPageMoveStart_sound s
  | .heatDecay => execHeatDecay_sound s
  | .migrationPassEnd x1 => execMigrationPassEnd_sound x1 s
  | .pageFlip x1 => execPageFlip_sound x1 s
  | .sourceFrameFree x1 => execSourceFrameFree_sound x1 s
  | .hbmEccError x1 x2 x3 => execHbmEccError_sound x1 x2 x3 s
  | .pageRefillDone x1 => execPageRefillDone_sound x1 s
  | .hbmPatrol x1 => execHbmPatrol_sound x1 s
  | .tierRefillDone x1 => execTierRefillDone_sound x1 s
  | .cxlPoison x1 => execCxlPoison_sound x1 s
  | .cxlCompletionTimeout x1 => execCxlCompletionTimeout_sound x1 s
  | .cxlLinkDown x1 x2 => execCxlLinkDown_sound x1 x2 s
  | .cxlLinkReturn x1 x2 => execCxlLinkReturn_sound x1 x2 s
  | .cxlDownLimit x1 x2 => execCxlDownLimit_sound x1 x2 s
  | .accessLate x1 x2 x3 => execAccessLate_sound x1 x2 x3 s
  | .lkpReq x1 => execLkpReq_sound x1 s
  | .lkpRsp x1 => execLkpRsp_sound x1 s
  | .lookupHoldRelease x1 => execLookupHoldRelease_sound x1 s
  | .indexFaultReport x1 => execIndexFaultReport_sound x1 s
  | .replSum x1 x2 => execReplSum_sound x1 x2 s
  | .gristAdd x1 => execGristAdd_sound x1 s
  | .gristSlotFree x1 => execGristSlotFree_sound x1 s
  | .gatherEnd x1 x2 => execGatherEnd_sound x1 x2 s
  | .sliceArrive x1 => execSliceArrive_sound x1 s
  | .sliceResend x1 x2 x3 x4 x5 x6 x7 => execSliceResend_sound x1 x2 x3 x4 x5 x6 x7 s
  | .redNode x1 => execRedNode_sound x1 s
  | .rootRetain x1 x2 x3 x4 => execRootRetain_sound x1 x2 x3 x4 s
  | .retRoot x1 => execRetRoot_sound x1 s
  | .candidateForm x1 x2 x3 x4 => execCandidateForm_sound x1 x2 x3 x4 s
  | .scaleSetDerive x1 => execScaleSetDerive_sound x1 s
  | .scaleSetArrive x1 x2 => execScaleSetArrive_sound x1 x2 s
  | .wcTile x1 => execWcTile_sound x1 s
  | .wcResend x1 x2 x3 x4 x5 => execWcResend_sound x1 x2 x3 x4 x5 s
  | .digest x1 x2 => execDigest_sound x1 x2 s
  | .replicaRepairDone x1 x2 x3 x4 => execReplicaRepairDone_sound x1 x2 x3 x4 s
  | .replayRequest x1 x2 => execReplayRequest_sound x1 x2 s
  | .replay x1 => execReplay_sound x1 s
  | .rebuildRedo x1 x2 x3 => execRebuildRedo_sound x1 x2 x3 s
  | .rebuildHostLimit x1 => execRebuildHostLimit_sound x1 s
  | .barrierSend => execBarrierSend_sound s
  | .barrier x1 => execBarrier_sound x1 s
  | .move x1 => execMove_sound x1 s
  | .shardXfer x1 => execShardXfer_sound x1 s
  | .done x1 => execDone_sound x1 s
  | .flip x1 => execFlip_sound x1 s
  | .layoutCancel x1 => execLayoutCancel_sound x1 s
  | .linkTrain x1 x2 x3 => execLinkTrain_sound x1 x2 x3 s
  | .linkInit x1 x2 => execLinkInit_sound x1 x2 s
  | .flitReceive x1 x2 => execFlitReceive_sound x1 x2 s
  | .nak x1 x2 x3 => execNak_sound x1 x2 x3 s
  | .popRetrainLimit x1 x2 => execPopRetrainLimit_sound x1 x2 s
  | .linkDown x1 x2 => execLinkDown_sound x1 x2 s
  | .creditSync x1 x2 => execCreditSync_sound x1 x2 s
  | .frameForward x1 x2 => execFrameForward_sound x1 x2 s
  | .rdReq x1 x2 x3 => execRdReq_sound x1 x2 x3 s
  | .rdRsp x1 x2 => execRdRsp_sound x1 x2 s
  | .wr x1 x2 => execWr_sound x1 x2 s
  | .wrAck x1 => execWrAck_sound x1 s
  | .ctlReq x1 x2 x3 x4 => execCtlReq_sound x1 x2 x3 x4 s
  | .ctlRsp x1 x2 => execCtlRsp_sound x1 x2 s
  | .ethPacket x1 x2 x3 => execEthPacket_sound x1 x2 x3 s
  | .ethRto x1 x2 x3 => execEthRto_sound x1 x2 x3 s
  | .ack x1 x2 => execAck_sound x1 x2 s
  | .popAckLimit x1 x2 => execPopAckLimit_sound x1 x2 s
  | .heartbeatSend x1 => execHeartbeatSend_sound x1 s
  | .heartbeat x1 x2 => execHeartbeat_sound x1 x2 s
  | .heartbeatTimeout x1 x2 => execHeartbeatTimeout_sound x1 x2 s
  | .discover x1 x2 x3 => execDiscover_sound x1 x2 x3 s
  | .discoveryQuiet x1 x2 => execDiscoveryQuiet_sound x1 x2 s
  | .member x1 => execMember_sound x1 s
  | .failedReport x1 x2 => execFailedReport_sound x1 x2 s
  | .podSilence x1 x2 => execPodSilence_sound x1 x2 s
  | .fence x1 => execFence_sound x1 s
  | .memberBatch x1 => execMemberBatch_sound x1 s
  | .memberAck x1 x2 x3 x4 => execMemberAck_sound x1 x2 x3 x4 s
  | .leaseGrace x1 x2 => execLeaseGrace_sound x1 x2 s
  | .fmBindLimit x1 x2 => execFmBindLimit_sound x1 x2 s
  | .partnerUnitRequest x1 x2 x3 => execPartnerUnitRequest_sound x1 x2 x3 s
  | .pullComplete => execPullComplete_sound s
  | .takeoverDone x1 x2 => execTakeoverDone_sound x1 x2 s
  | .journalFold x1 => execJournalFold_sound x1 s
  | .releaseFence => execReleaseFence_sound s
  | .jobStart x1 => execJobStart_sound x1 s
  | .jobStop x1 => execJobStop_sound x1 s
  | .jobSwitch x1 x2 x3 => execJobSwitch_sound x1 x2 x3 s
  | .switchInRestore x1 => execSwitchInRestore_sound x1 s
  | .jobResume x1 => execJobResume_sound x1 s
  | .snapshot x1 x2 => execSnapshot_sound x1 x2 s
  | .snapshotWrite => execSnapshotWrite_sound s
  | .trayRelease x1 x2 x3 x4 x5 => execTrayRelease_sound x1 x2 x3 x4 x5 s
  | .spareAdd x1 x2 => execSpareAdd_sound x1 x2 s
  | .spareRemove x1 x2 => execSpareRemove_sound x1 x2 s
  | .reportFailed x1 x2 => execReportFailed_sound x1 x2 s
  | .hostSupply x1 x2 x3 => execHostSupply_sound x1 x2 x3 s
  | .repairMapWrite x1 x2 x3 => execRepairMapWrite_sound x1 x2 x3 s
  | .engineDiag x1 x2 => execEngineDiag_sound x1 x2 s
  | .manifestWrite x1 => execManifestWrite_sound x1 s
  | .fmBound x1 x2 x3 => execFmBound_sound x1 x2 x3 s
  | .contextReady x1 => execContextReady_sound x1 s
  | .keyEnrol x1 x2 => execKeyEnrol_sound x1 x2 s
  | .keyRevoke x1 x2 => execKeyRevoke_sound x1 x2 s
  | .svnRaise x1 x2 => execSvnRaise_sound x1 x2 s
  | .fwSvnCommit x1 => execFwSvnCommit_sound x1 s
  | .exportKey x1 x2 x3 => execExportKey_sound x1 x2 x3 s
  | .getAudit x1 x2 => execGetAudit_sound x1 x2 s
  | .recordSign x1 => execRecordSign_sound x1 s
  | .logSectorErase x1 => execLogSectorErase_sound x1 s
  | .diffRingTail x1 x2 => execDiffRingTail_sound x1 x2 s
  | .getVersion => execGetVersion_sound s
  | .getCapabilities => execGetCapabilities_sound s
  | .negotiateAlgorithms => execNegotiateAlgorithms_sound s
  | .getDigests => execGetDigests_sound s
  | .getCertificate x1 x2 x3 => execGetCertificate_sound x1 x2 x3 s
  | .challenge x1 x2 => execChallenge_sound x1 x2 s
  | .getMeasurements x1 x2 => execGetMeasurements_sound x1 x2 s
  | .keyExchange x1 x2 => execKeyExchange_sound x1 x2 s
  | .finish x1 x2 => execFinish_sound x1 x2 s
  | .endSession x1 => execEndSession_sound x1 s
  | .spdmHeartbeat x1 => execSpdmHeartbeat_sound x1 s
  | .keyUpdate x1 => execKeyUpdate_sound x1 s
  | .fwRecovery x1 => execFwRecovery_sound x1 s
  | .store x1 x2 => execStore_sound x1 x2 s
  | .storeApply x1 x2 => execStoreApply_sound x1 x2 s
  | .package x1 => execPackage_sound x1 s
  | .fieldRead x1 => execFieldRead_sound x1 s
  | .fieldWrite x1 x2 => execFieldWrite_sound x1 x2 s
  | .writeStep x1 x2 x3 => execWriteStep_sound x1 x2 x3 s
  | .writeStepComplete x1 => execWriteStepComplete_sound x1 s
  | .vauxOn => execVauxOn_sound s
  | .vauxLoss => execVauxLoss_sound s
  | .pwrGoodRise x1 x2 => execPwrGoodRise_sound x1 x2 s
  | .pwrGoodFall x1 => execPwrGoodFall_sound x1 s
  | .sysRstNAssert x1 => execSysRstNAssert_sound x1 s
  | .sysRstNRelease x1 => execSysRstNRelease_sound x1 s
  | .perstRelease => execPerstRelease_sound s
  | .perstAssert => execPerstAssert_sound s
  | .cxPerstRelease x1 => execCxPerstRelease_sound x1 s
  | .pllLock => execPllLock_sound s
  | .pllUnlock => execPllUnlock_sound s
  | .domainSwitchOn x1 => execDomainSwitchOn_sound x1 s
  | .domainWake x1 => execDomainWake_sound x1 s
  | .domainSwitchOff x1 => execDomainSwitchOff_sound x1 s
  | .bringupPhaseEnd x1 => execBringupPhaseEnd_sound x1 s
  | .bringupSlow x1 => execBringupSlow_sound x1 s
  | .hbmTrain x1 x2 => execHbmTrain_sound x1 x2 s
  | .fantailSample x1 x2 => execFantailSample_sound x1 x2 s
  | .fantailEvaluate x1 => execFantailEvaluate_sound x1 s
  | .holdNLow => execHoldNLow_sound s
  | .holdNHigh => execHoldNHigh_sound s
  | .droopDetect x1 x2 => execDroopDetect_sound x1 x2 s
  | .droopEnd x1 x2 => execDroopEnd_sound x1 x2 s
  | .thermalTrip => execThermalTrip_sound s
  | .tripPowerOff x1 => execTripPowerOff_sound x1 s
  | .stayReduced x1 => execStayReduced_sound x1 s
  | .bypass => execBypass_sound s
  | .idcode => execIdcode_sound s
  | .samplePreload => execSamplePreload_sound s
  | .extest => execExtest_sound s
  | .extestPulse => execExtestPulse_sound s
  | .extestTrain => execExtestTrain_sound s
  | .highz => execHighz_sound s
  | .clamp => execClamp_sound s
  | .accessErr x1 x2 x3 x4 => execAccessErr_sound x1 x2 x3 x4 s
  | .offAccess x1 x2 x3 => execOffAccess_sound x1 x2 x3 s
  | .registerWrite x1 x2 x3 => execRegisterWrite_sound x1 x2 x3 s
  | .faultRecord x1 => execFaultRecord_sound x1 s
  | .coalesceExpiry x1 => execCoalesceExpiry_sound x1 s
  | .vectorUnmask x1 => execVectorUnmask_sound x1 s
  | .evqCtl x1 x2 => execEvqCtl_sound x1 x2 s
  | .evqTail x1 x2 => execEvqTail_sound x1 x2 s
  | .stallLatch x1 => execStallLatch_sound x1 s
  | .ethPortDown x1 => execEthPortDown_sound x1 s
  | .firmwareUpdate x1 => execFirmwareUpdate_sound x1 s
  | .alwaysOnPllUnlock => execAlwaysOnPllUnlock_sound s
  | .suspicionReport x1 x2 x3 x4 x5 => execSuspicionReport_sound x1 x2 x3 x4 x5 s

end Sys2Proof.Proofs
end

section
/-! Firmware floor and firmware slots (R477, R479): the step invariant is a part of `Sound`; the three operations by their effect on
Atluta's block. -/

open Sys2Proof Sys2Proof.Machine

namespace Sys2Proof.Proofs

section Slots
variable (a : Atluta) (k : Nat) (f : FwSlot)

@[simp] theorem slot_putSlot_same : (a.putSlot k f).slot k = some f := by
  unfold Atluta.putSlot Atluta.slot
  split <;> rfl

@[simp] theorem runSlot_putSlot : (a.putSlot k f).runSlot = a.runSlot := by
  unfold Atluta.putSlot
  split <;> rfl

end Slots

section Operations
variable {s : State} {f : FwSlot}

/-- A command signed by an enrolled key takes effect, and the nonce is used up (R491). -/
theorem signed_of_signedOk {cmd : Nat} {body : List Byte} {sig : Option Sig} (h : s.signedOk cmd body sig = true) (g : State → State) :
    s.signed cmd body sig g = (g s).newNonce := if_pos h

theorem exec_fwSvnCommit_of_signedOk {sig : Option Sig} (hRun : s.atl.running = true) (hSig : s.signedOk 0x13 [] sig = true)
    (hSlot : s.atl.slot s.atl.runSlot = some f) (hAbove : s.atl.fwFloor < f.svn) (hFree : s.atl.fwFuses < 64) :
    exec (.fwSvnCommit sig) s =
      .next ((s.updAtl fun a => { a with fwFloor := f.svn, fwFuses := a.fwFuses + 1 }).mbox 0).newNonce := by
  change execFwSvnCommit sig s = _
  simp only [execFwSvnCommit, hRun, signed_of_signedOk hSig, hSlot, Option.map_some, Option.getD_some, Bool.true_eq_false, if_false,
    if_neg hAbove.not_ge, if_neg hFree.not_ge]

theorem exec_firmwareUpdate_of_fwOk (hRun : s.atl.running = true) (hOk : s.fwOk f = true) :
    exec (.firmwareUpdate f) s = .next
      (((s.updAtl fun a => a.putSlot (1 - s.atl.active) f).updAtl fun a => { a with active := 1 - s.atl.active }).mbox 0) := by
  change execFirmwareUpdate f s = _
  simp only [execFirmwareUpdate, hRun, hOk, Bool.true_eq_false, if_false, if_true]

theorem pickSlot_of_slotOk_active (h : s.slotOk s.atl.active = true) : s.pickSlot = some s.atl.active := if_pos h

/-- The choice of an image bank at boot is none of Atluta's block (R464). -/
@[simp] theorem atl_chooseBank (s : State) : s.chooseBank.atl = s.atl :=
  ((State.chooseBank_sound s).keeps .atl).resolve_left (by decide)

theorem runSlot_bootRom_of_pickSlot {k : Nat} (h : s.pickSlot = some k) : s.bootRom.atl.runSlot = k := by
  simp only [State.bootRom, h, atl_chooseBank]
  rfl

end Operations

/-- Settles O44: no floor falls because every command is `Sound`; the commit, the update and the boot by their equations. -/
theorem floorsNeverFall : Obligations.FloorsNeverFall := by
  refine ⟨fun i s t h => ?_, fun s f sig hRun hSig hSlot hAbove hFree => ?_, fun s f hRun _ hOk => ?_, fun s h => ?_⟩
  · have hSound := exec_sound i s t h
    exact ⟨hSound.fwFloor, hSound.imageFloor, hSound.fwFuses, hSound.keyBurns, hSound.fwBound, hSound.keyBound⟩
  · exact ⟨_, exec_fwSvnCommit_of_signedOk hRun hSig hSlot hAbove hFree, rfl, rfl⟩
  · exact ⟨_, exec_firmwareUpdate_of_fwOk hRun hOk, slot_putSlot_same .., rfl, runSlot_putSlot ..⟩
  · exact runSlot_bootRom_of_pickSlot (pickSlot_of_slotOk_active h)

end Sys2Proof.Proofs
end

section
/-! The invariants of every command: the queue and the fuses, the canonical form of the memories, and the footprint, each read off `Sound`
for all commands at once; and the laws of canonical form itself. -/

open Sys2Proof Sys2Proof.Machine

namespace Sys2Proof.Proofs

section Steps
variable {c : Instr} {rest : List Instr} {s t : State}

theorem step_of_pending_cons (h : s.pending = c :: rest) : step s = exec c { s with pending := rest } := by
  rw [step, h]

theorem step_of_pending_nil (h : s.pending = []) : step s = .next s := by
  rw [step, h]

/-- A step is a sound run of the front command on the state without it. -/
theorem sound_of_step (h : s.pending = c :: rest) (hStep : step s = .next t) : Sound (footprint c) { s with pending := rest } t :=
  exec_sound c _ t (step_of_pending_cons h ▸ hStep)

theorem same_of_sound {m : List Part} {p : Part} (h : Sound m s t) (hp : p ∉ m) : p.same s t :=
  (h.keeps p).resolve_left fun hIn => hp (List.contains_iff_mem.mp hIn)

/-- No part of the state is the queue. -/
theorem same_of_same_pending {p : Part} (h : p.same { s with pending := rest } t) : p.same s t := by
  cases p <;> exact h

end Steps

section Memories

theorem memOk_iff (s : State) :
    s.memOk = true ↔ Memory.wf s.tier.mem = true ∧ Memory.wf s.atl.mboxBuf = true ∧ Memory.wf s.ldr.buf = true
      ∧ (s.cores.all fun k => Memory.wf k.2.lb.mem) = true := by
  simp only [State.memOk, Bool.and_eq_true, and_assoc]

theorem memOk_of_sound {m : List Part} {s t : State} (h : Sound m s t) (hs : s.memOk = true) : t.memOk = true := by
  obtain ⟨hTier, hMbox, hBuf, hCores⟩ := (memOk_iff s).mp hs
  exact (memOk_iff t).mpr ⟨h.tierMem hTier, h.mbox hMbox, h.buf hBuf, h.cores hCores⟩

/-- A listed head in canonical form: its byte reads back and is not 0, and nothing is listed below it, nor at it in the rest. -/
theorem cellsAbove_cons {lo a : Nat} {b : Byte} {m : List Host.Cell} (h : cellsAbove lo ((a, b) :: m) = true) :
    b ≠ 0 ∧ cellsAbove a ((a, b) :: m) = true ∧ cellsAbove (a + 1) m = true := by
  simp only [cellsAbove, Bool.and_eq_true, decide_eq_true_eq, bne_iff_ne] at h ⊢
  obtain ⟨⟨_, hByte⟩, hRest⟩ := h
  exact ⟨hByte, ⟨⟨le_rfl, hByte⟩, hRest⟩, hRest⟩

/-- Of two memories that read alike, neither begins below the other: the byte of its head would read as 0 in the other. -/
theorem head_le_of_cellRead_eq {lo lo' a a' : Nat} {b b' : Byte} {m n : List Host.Cell} (hm : cellsAbove lo ((a, b) :: m) = true)
    (hn : cellsAbove lo' ((a', b') :: n) = true) (h : ∀ x, cellRead ((a, b) :: m) x = cellRead ((a', b') :: n) x) : a' ≤ a := by
  obtain ⟨hByte, _, _⟩ := cellsAbove_cons hm
  obtain ⟨_, hOther, _⟩ := cellsAbove_cons hn
  by_contra hLt
  have hHead : b = cellRead ((a, b) :: m) a := (if_pos rfl).symm
  exact hByte (hHead.trans ((h a).trans (cellRead_below (not_le.mp hLt) hOther)))

/-- Two memories in canonical form that read alike list the same bytes: their heads stand at the same address, where both tails read 0. -/
theorem eq_of_cellRead_eq {lo lo' : Nat} {m n : List Host.Cell} (hm : cellsAbove lo m = true) (hn : cellsAbove lo' n = true)
    (h : ∀ x, cellRead m x = cellRead n x) : m = n := by
  induction m generalizing lo lo' n with
  | nil =>
    match n with
    | [] => rfl
    | (a, b) :: n => exact absurd (by simpa [cellRead] using (h a).symm) (cellsAbove_cons hn).1
  | cons p m ih =>
    obtain ⟨a, b⟩ := p
    obtain ⟨hByte, _, hTail⟩ := cellsAbove_cons hm
    match n with
    | [] => exact absurd (by simpa [cellRead] using h a) hByte
    | (a', b') :: n =>
      obtain ⟨_, _, hTail'⟩ := cellsAbove_cons hn
      obtain rfl : a = a' := le_antisymm (head_le_of_cellRead_eq hn hm fun x => (h x).symm) (head_le_of_cellRead_eq hm hn h)
      obtain rfl : b = b' := by simpa [cellRead] using h a
      have hAlike : ∀ x, cellRead m x = cellRead n x := fun x => by
        by_cases hx : a = x
        · rw [← hx, cellRead_below (Nat.lt_succ_self a) hTail, cellRead_below (Nat.lt_succ_self a) hTail']
        · simpa [cellRead, hx] using h x
      rw [ih hTail hTail' hAlike]

end Memories

/-- Settles O57: queue and fuses are a part of `Sound`, and a step runs on the queue's rest. -/
theorem queueAndFusesAreKept : Obligations.QueueAndFusesAreKept :=
  ⟨fun i s t h => ⟨(exec_sound i s t h).pending, (exec_sound i s t h).fuses⟩, fun _ _ _ _ h hStep => (sound_of_step h hStep).pending⟩

/-- Settles O58: the memories' form is a part of `Sound`; reads after a write and extensionality by the order of the addresses. -/
theorem memoriesKeepTheirForm : Obligations.MemoriesKeepTheirForm :=
  ⟨fun i s t hs h => memOk_of_sound (exec_sound i s t h) hs, by decide +kernel, fun _ a _x b hm => cellRead_write_above (Nat.zero_le a) b hm,
    fun _ _ => eq_of_cellRead_eq⟩

/-- Settles O60: the footprint is a part of `Sound`, for the command alone and for the step that runs it. -/
theorem commandsStayInTheirFootprint : Obligations.CommandsStayInTheirFootprint :=
  ⟨fun c s t _ h hp => same_of_sound (exec_sound c s t h) hp,
    fun _ _ _ _ _ h hStep hp => same_of_same_pending (same_of_sound (sound_of_step h hStep) hp)⟩

/-- Settles O1: the match of `step` on the queue; no row of the opcode table gives bits, so no word decodes. -/
theorem stepRunsTheFrontCommand : Obligations.StepRunsTheFrontCommand :=
  ⟨fun _ _ _ => step_of_pending_cons, fun _ => step_of_pending_nil, fun _ _ _ => ⟨rfl, rfl⟩⟩

end Sys2Proof.Proofs
end

section
/-! The close, the screen, the log reservation, the Vote and the end of Apply (R32 to R37, R264, R299, R351): the branches of their
commands. -/

open Sys2Proof Sys2Proof.Machine

namespace Sys2Proof.Proofs

section StepOperations
variable {s : State} {n : Nat}

theorem exec_applyEnd_of_applyEnded (h : s.applyEnded n = true) :
    exec (.applyEnd n) s = .next (if (s.stepOf n).decided = some .skip then
      (if s.isRoot then (s.updStep n fun p => { p with st := .seal }).rootParam n true zero48 else s.updStep n fun p => { p with st := .seal })
      else (s.updStep n fun p => { p with st := .seal }).sealDigests n) :=
  (if_pos h).trans (apply_ite Host.Outcome.next ..).symm

/-- The condition under which FINITENESS_SCREEN works: the step closes, and its set on the Quern is complete, of the version before and
not screened yet. -/
def Screens (s : State) (q : QuernId) (n : Nat) : Prop :=
  s.closing n = true ∧ s.setComplete q n = true ∧ n - 1 ≤ (s.quern q).doneVersion ∧ (s.quern q).screened.contains n = false

theorem exec_finitenessScreen_of_screens {q : QuernId} (h : Screens s q n) :
    exec (.finitenessScreen q n) s = .next
      (((s.updQuern q fun x => { x with screened := insNat n x.screened }).quernEv q n
        (evSum ((((s.quern q).set' n).entries.map (s.screenEntry n)).map fun e => ((), e.2)))).markFlags n
        { opt := (((s.quern q).set' n).entries.map (s.screenEntry n)).any Prod.fst }) := if_pos h

theorem exec_finitenessScreen_of_not_screens {q : QuernId} (h : ¬ Screens s q n) : exec (.finitenessScreen q n) s = .next s := if_neg h

theorem not_screens_of {q : QuernId} (h : s.closing n = false ∨ s.setComplete q n = false ∨ (s.quern q).doneVersion < n - 1
    ∨ (s.quern q).screened.contains n = true) : ¬ Screens s q n := by
  rintro ⟨hClosing, hComplete, hVersion, hFresh⟩
  obtain h | h | h | h := h
  · exact Bool.false_ne_true (h.symm.trans hClosing)
  · exact Bool.false_ne_true (h.symm.trans hComplete)
  · exact h.not_ge hVersion
  · exact Bool.false_ne_true (hFresh.symm.trans h)

/-- Of a closing step with its set complete and nothing reserved, QRN_LOG_RESERVE decides by the space (R264). -/
theorem exec_qrnLogReserve_of_complete {q : QuernId} (hClosing : s.closing n = true) (hComplete : s.setComplete q n = true)
    (hNone : kvHas n (s.quern q).reserved = false) :
    exec (.qrnLogReserve q n) s =
      if s.lag = 0 then .next (s.logTake q n 0)
      else if (s.quern q).logUsed + s.logNeed q n ≤ s.field "QRN_LOG_SIZE" q.val then .next (s.logTake q n (s.logNeed q n))
      else if n ≤ s.ctl.sealed + 1 then .next ((s.logTake q n 0).raise .stepFatal 0x044 (unitNo 3 q.val) n 0)
      else .next (s.updQuern q fun x => { x with
        logHold := true, logWait := satAdd 0xFFFFFFFF x.logWait 1, stall := stallCount 17 x.stall }) :=
  if_neg (by simp [hClosing, hComplete, hNone])

/-- VOTE_SEND of a closed step that is next to seal, where `a` is the state after the late screen. -/
theorem exec_voteSend_of_closed {a : State} (hClosed : (s.stepOf n).st = .closed) (hNext : s.ctl.sealed + 1 = n)
    (ha : a = if s.lateOpt n then s.updStep n fun p => { p with flags := { p.flags with opt := true } } else s) :
    exec (.voteSend n) s = .next ((a.updStep n fun p => { p with st := .vote, voteSent := true }).takeWord n (a.ownWord n)
      { child := s.me, weights := false, word := a.ownWord n
        maxima := (a.updStep n fun p => { p with st := .vote, voteSent := true }).ownMaxima n, diffEpoch := false, diffLayout := false }) :=
  ha ▸ if_pos ⟨hClosed, hNext⟩

theorem exec_vote_of_child {v : VoteFrame} (h : v.child ∈ s.voteChildren s.me) :
    exec (.vote v) s = if v.weights then .next (s.gatherWeights v.word.step v.child v.maxima (s.ownWord v.word.step))
      else .next (s.takeWord s.voteRound (s.ownCheck s.voteRound) v) := if_neg (not_not.mpr h)

end StepOperations

/-- Settles O3: the two commands branch on the close and on the end of Apply, and APPLY_END on the decision. -/
theorem closeAndApplyEndMoveTheStep : Obligations.CloseAndApplyEndMoveTheStep := by
  refine ⟨fun s n h => if_pos h, fun s n h => if_neg (ne_true_of_eq_false h), fun s n h hSkip hRoot => ?_, fun s n h hSkip hRoot => ?_,
    fun s n h hSkip => ?_, fun s n h => if_neg (ne_true_of_eq_false h)⟩
  · rw [exec_applyEnd_of_applyEnded h, if_pos hSkip, if_neg (ne_true_of_eq_false hRoot)]
  · rw [exec_applyEnd_of_applyEnded h, if_pos hSkip, if_pos hRoot]
  · rw [exec_applyEnd_of_applyEnded h, if_neg hSkip]

/-- Settles O4: the screen's condition as one proposition; the reserve's cases in the order of its tests. -/
theorem screenAndLogReserve : Obligations.ScreenAndLogReserve := by
  refine ⟨fun s q n hClosing hComplete hVersion hFresh => exec_finitenessScreen_of_screens ⟨hClosing, hComplete, hVersion, hFresh⟩,
    fun s q n h => exec_finitenessScreen_of_not_screens (not_screens_of h), fun s q n hClosing hComplete hNone => ?_,
    fun s q n h => if_pos h⟩
  rw [exec_qrnLogReserve_of_complete hClosing hComplete hNone]
  refine ⟨fun hLag => if_pos hLag, fun hLag hRoom => ?_, fun hLag hFull hSealed => ?_, fun hLag hFull hOpen => ?_⟩ <;>
    rw [if_neg hLag]
  · rw [if_pos hRoom]
  · rw [if_neg hFull.not_ge, if_pos hSealed]
  · rw [if_neg hFull.not_ge, if_neg hOpen.not_ge]

/-- Settles O5: VOTE_SEND by its late screen, VOTE by whether the sender is a child, the mirror by its address. -/
theorem voteWordGoesUpOnce : Obligations.VoteWordGoesUpOnce := by
  refine ⟨fun s n hClosed hNext hLate => exec_voteSend_of_closed hClosed hNext (if_neg (ne_true_of_eq_false hLate)).symm,
    fun s t n hClosed hNext hLate ht => exec_voteSend_of_closed hClosed hNext (ht.trans (if_pos hLate).symm),
    fun s n h => if_neg (not_and_or.mpr h), fun s v hChild hWord => ?_, fun s v hChild hWeights => ?_, fun s v h => if_pos h,
    fun s d h => if_pos h, fun s d h => if_neg h⟩
  · rw [exec_vote_of_child hChild, if_neg (ne_true_of_eq_false hWord)]
  · rw [exec_vote_of_child hChild, if_pos hWeights]

end Sys2Proof.Proofs
end

section
/-! The decision's effect (R39, R40, R48, R350) and the Seal (R41, R441 to R444): what a HALT leaves of the decision that the step controller
shows, and the order of the conditions of STBY_HEADER_WRITE. -/

open Sys2Proof Sys2Proof.Machine

namespace Sys2Proof.Proofs

section Raising
variable (s : State)

theorem ctl_of_sound {m : List Part} {s t : State} (h : Sound m s t) (hm : .ctl ∉ m) : t.ctl = s.ctl := same_of_sound h hm

/-- Only a step-fatal condition marks a step; any other waits for its record and no more (R46). -/
theorem ctl_raise1_of_not_stepFatal {r : Raised} (h : r.cls ≠ .stepFatal) : (s.raise1 r).ctl = s.ctl := by
  have hPlaced : placed s r = r := if_pos h
  have hMarks : marksFatal r = false := by simp [marksFatal, h]
  simp [State.raise1, hPlaced, hMarks]

@[simp] theorem ctl_event (code n detail : Nat) : (s.event code n detail).ctl = s.ctl := ctl_raise1_of_not_stepFatal s nofun

@[simp] theorem ctl_raise_correctable (code unit n detail : Nat) : (s.raise .correctable code unit n detail).ctl = s.ctl :=
  ctl_raise1_of_not_stepFatal s nofun

end Raising

section Shown
variable (s : State)

/-- The decision that the step controller shows as the last one: its step and its number. -/
def shownDecision (s : State) : Nat × Nat := (s.ctl.lastDecided, s.ctl.lastDecision)

theorem shownDecision_of_ctl {s t : State} (h : t.ctl = s.ctl) : shownDecision t = shownDecision s :=
  congrArg (fun c => (c.lastDecided, c.lastDecision)) h

@[simp] theorem shownDecision_updStep (n : Nat) (f : StepRec → StepRec) : shownDecision (s.updStep n f) = shownDecision s := rfl

theorem shownDecision_updCtl {f : StepCtl → StepCtl} (h : ∀ c, (f c).lastDecided = c.lastDecided ∧ (f c).lastDecision = c.lastDecision) :
    shownDecision (s.updCtl f) = shownDecision s := Prod.ext (h s.ctl).1 (h s.ctl).2

@[simp] theorem shownDecision_event (code n detail : Nat) : shownDecision (s.event code n detail) = shownDecision s :=
  shownDecision_of_ctl (ctl_event s code n detail)

@[simp] theorem shownDecision_raise_correctable (code unit n detail : Nat) :
    shownDecision (s.raise .correctable code unit n detail) = shownDecision s :=
  shownDecision_of_ctl (ctl_raise_correctable s code unit n detail)

theorem shownDecision_takeTarget (n : Nat) : shownDecision (s.takeTarget n) = shownDecision s := by
  unfold State.takeTarget
  dsimp only
  split
  · exact shownDecision_raise_correctable ..
  · rfl

theorem shownDecision_takeTargetWrite (w : StepWrite) : shownDecision (s.takeTargetWrite w) = shownDecision s := by
  unfold State.takeTargetWrite
  split_ifs
  · rfl
  · rfl
  · rfl
  · split
    · split
      · exact shownDecision_takeTarget s _
      · rfl
    · rfl

theorem shownDecision_foldl {α : Type} {f : State → α → State} (h : ∀ a x, shownDecision (f a x) = shownDecision a) (l : List α) :
    shownDecision (l.foldl f s) = shownDecision s := by
  induction l generalizing s with
  | nil => rfl
  | cons x l ih => exact (ih (f s x)).trans (h s x)

theorem shownDecision_holdWrites (ws : List StepWrite) : shownDecision (s.holdWrites ws) = shownDecision s :=
  shownDecision_foldl _ shownDecision_takeTargetWrite ws

theorem ctl_dropSets_discardWeir (p : Nat → Bool) : ((s.dropSets p).discardWeir p).ctl = s.ctl :=
  (ctl_of_sound (State.discardWeir_sound (s.dropSets p) p) (by decide)).trans (ctl_of_sound (State.dropSets_sound s p) (by decide))

theorem shownDecision_discardWork (lo : Nat) (p : Nat → Bool) : shownDecision (s.discardWork lo p) = shownDecision s := by
  have hKept (t : State) (h : t.ctl = s.ctl) : shownDecision ((t.dropSets p).discardWeir p) = shownDecision s :=
    shownDecision_of_ctl ((ctl_dropSets_discardWeir t p).trans h)
  unfold State.discardWork
  refine (shownDecision_updCtl _ ?_).trans (hKept _ rfl)
  exact fun _ => ⟨rfl, rfl⟩

theorem shownDecision_abortFrom (n : Nat) : shownDecision (s.abortFrom n) = shownDecision s := by
  change shownDecision (s.abortList (s.abortable n)) = _
  unfold State.abortList
  split
  · rfl
  · exact (shownDecision_foldl _ (fun a m => by simp) _).trans (shownDecision_discardWork ..)

theorem ctl_haltAt (n : Nat) :
    (s.haltAt n).ctl.halted = true ∧ ((s.haltAt n).stepOf n).st = .halted ∧ shownDecision (s.haltAt n) = shownDecision s := by
  have hCtl := ctl_event (((s.abortFrom (n + 1)).updStep n fun p => { p with st := .halted }).updCtl fun c => { c with halted := true }) 0x0F4 n 0
  refine ⟨congrArg StepCtl.halted hCtl, ?_, ?_⟩
  · simp [State.stepOf, State.haltAt, State.updCtl]
  · calc shownDecision (s.haltAt n) = shownDecision _ := shownDecision_of_ctl hCtl
      _ = shownDecision ((s.abortFrom (n + 1)).updStep n fun p => { p with st := .halted }) := shownDecision_updCtl _ fun _ => ⟨rfl, rfl⟩
      _ = shownDecision (s.abortFrom (n + 1)) := shownDecision_updStep ..
      _ = shownDecision s := shownDecision_abortFrom ..

theorem takeDecision_halt {d : DecisionMsg} (h : d.decision = .halt) :
    (s.takeDecision d).ctl.halted = true ∧ ((s.takeDecision d).stepOf d.step).st = .halted
      ∧ shownDecision (s.takeDecision d) = (d.step, 3) := by
  unfold State.takeDecision
  extract_lets a b c
  have hAct : (c.holdWrites d.writes).act d = (c.holdWrites d.writes).haltAt d.step := by simp only [State.act, h]
  obtain ⟨hHalted, hStep, hShown⟩ := ctl_haltAt (c.holdWrites d.writes) d.step
  have hSent : c.ctl = b.ctl := ctl_of_sound (State.emitEach_sound ..) (by decide)
  refine hAct ▸ ⟨hHalted, hStep, hShown.trans ((shownDecision_holdWrites c _).trans ((shownDecision_of_ctl hSent).trans ?_))⟩
  simp [b, a, shownDecision, h, decisionNo]

end Shown

section Seal
variable {s : State} {n : Nat}

/-- The conditions under which STBY_HEADER_WRITE works. -/
def StbyDue (s : State) (n : Nat) : Prop :=
  (s.stepOf n).st = .seal ∧ (s.stepOf n).stbyDone = false ∧ s.ctl.sealed + 1 = n ∧ s.compared n = true ∧ s.fenced = false
    ∧ s.standbyLost = false

/-- What STBY_HEADER_WRITE does when it is due: by the service and by the room in the journal (R441, R443). -/
theorem exec_stbyHeaderWrite_of_due (h : StbyDue s n) :
    exec (.stbyHeaderWrite n) s =
      if s.pow.phase = 3 then .next (s.updStep n fun q => { q with stbyDone := true })
      else if s.field "STBY_JOURNAL_SIZE" < s.standby.used + (s.stbyRecords n).foldl (fun a j => a + j.size) 0 then
        .next ((s.updStandby fun x => { x with fullWait := true }).weirStall [27])
      else .next ((s.updStandby fun x =>
          ({ x with journal := x.journal ++ s.stbyRecords n, fullWait := false } : Standby).write
            (s.nextHeader x n ((s.stbyRecords n).foldl (fun a j => a + j.size) 0))).updStep n fun q => { q with stbyDone := true }) := by
  obtain ⟨hSeal, hDone, hNext, hCompared, hFenced, hLost⟩ := h
  exact if_neg (by simp [hSeal, hDone, hNext, hCompared, hFenced, hLost])

@[simp] theorem ctl_endRoll (s : State) (n : Nat) : (s.endRoll n).ctl = s.ctl := by
  unfold State.endRoll
  split
  · split
    · simp [State.endTakeover]
    · rfl
  · rfl

end Seal

/-- Settles O7: the commands by their conditions; a HALT by what its parts leave of the decision shown. -/
theorem decisionTakesEffect : Obligations.DecisionTakesEffect := by
  refine ⟨fun s d hHere hAwaits => ?_, fun s d hHere hAwaits => ?_, fun s d h => if_pos h, fun s n d hDecided hNew hAcked => ?_,
    fun s n d hDecided hUnacked => ?_, fun s n h => ?_, fun s d h => ?_⟩
  · exact (if_neg (ne_true_of_eq_false hHere)).trans (if_pos hAwaits)
  · exact (if_neg (ne_true_of_eq_false hHere)).trans (if_neg (ne_true_of_eq_false hAwaits))
  · change execDecisionBroadcast n s = _
    simp only [execDecisionBroadcast, hDecided, hNew, hAcked, Bool.false_eq_true, or_self, if_false]
    exact (apply_ite Host.Outcome.next ..).symm
  · change execDecisionBroadcast n s = _
    simp only [execDecisionBroadcast, hDecided, hUnacked, or_true, if_true]
  · change execDecisionBroadcast n s = _
    unfold execDecisionBroadcast
    obtain hDone | hNone := h
    · split
      · exact if_pos (.inl hDone)
      · rfl
    · rw [hNone]
  · obtain ⟨hHalted, hStep, hShown⟩ := takeDecision_halt s h
    exact ⟨hHalted, hStep, congrArg Prod.fst hShown, congrArg Prod.snd hShown⟩

/-- Settles O8: the standby write by its conditions and the room; the commit by its equation, in which only `sealed := n` is the last word
on SEALED_STEP. -/
theorem sealCommitsTheStep : Obligations.SealCommitsTheStep := by
  refine ⟨fun s n hSeal hDone hNext hCompared hFenced hLost => ?_, fun s n h => if_pos h, fun s t n h ht => ?_,
    fun s n h => if_neg (ne_true_of_eq_false h)⟩
  · rw [exec_stbyHeaderWrite_of_due ⟨hSeal, hDone, hNext, hCompared, hFenced, hLost⟩]
    exact ⟨fun hPhase => if_pos hPhase, fun hPhase hRoom => by rw [if_neg hPhase, if_neg hRoom.not_gt],
      fun hPhase hFull => by rw [if_neg hPhase, if_pos hFull]⟩
  · subst ht
    exact ⟨if_pos h, congrArg StepCtl.sealed (ctl_endRoll ..)⟩

end Sys2Proof.Proofs
end

section
/-! Units of the opcode commands (R172, R174): each command is `State.nextUnit` of its opcode with its own work, so each of them waits, counts
its stall and runs in the same three ways. -/

open Sys2Proof Sys2Proof.Machine

namespace Sys2Proof.Proofs

section NextUnit
variable {s : State} {c : CoreId} {st : Stream} {o : Op} {g : State → Cmd → Nat → State} {cmd : Cmd}

theorem nextUnit_of_none (h : (s.core c).todo st o = none) : s.nextUnit c st o g = .next s := by
  simp only [State.nextUnit, h]

theorem nextUnit_of_unmet {n cause : Nat} (h : (s.core c).todo st o = some cmd)
    (hUnmet : s.unitUnmet c cmd (nthCount cmd.taken 0) (s.core c).lastCyc = some (n, cause)) :
    s.nextUnit c st o g = .next (if cause < 32 then s.coreStall c cause else s) := by
  simp only [State.nextUnit, h, hUnmet]

theorem nextUnit_of_ready {u : Nat} (h : (s.core c).todo st o = some cmd) (hUnit : u = nthCount cmd.taken 0)
    (hMet : s.unitUnmet c cmd u (s.core c).lastCyc = none) :
    s.nextUnit c st o g = .next ((g (s.updCore c fun k => k.takeUnit st cmd 0) cmd u).fetchMore c cmd) := by
  subst hUnit
  simp only [State.nextUnit, h, hMet]

theorem exec_of_unitCommand {i : Instr} (h : unitCommand i = some (c, st, o)) : ∃ g, ∀ s, exec i s = s.nextUnit c st o g := by
  cases i
  case nop => obtain ⟨⟩ := h; exact ⟨_, fun s => show execNop c st s = _ from rfl⟩
  case vec => obtain ⟨⟩ := h; exact ⟨_, fun s => show execVec c st s = _ from rfl⟩
  case vred => obtain ⟨⟩ := h; exact ⟨_, fun s => show execVred c st s = _ from rfl⟩
  case lookup => obtain ⟨⟩ := h; exact ⟨_, fun s => show execLookup c s = _ from rfl⟩
  case pool => obtain ⟨⟩ := h; exact ⟨_, fun s => show execPool c s = _ from rfl⟩
  case gradSend => obtain ⟨⟩ := h; exact ⟨_, fun s => show execGradSend c s = _ from rfl⟩
  case stashRd => obtain ⟨⟩ := h; exact ⟨_, fun s => show execStashRd c s = _ from rfl⟩
  case stashFree => obtain ⟨⟩ := h; exact ⟨_, fun s => show execStashFree c s = _ from rfl⟩
  case fetch => obtain ⟨⟩ := h; exact ⟨_, fun s => show execFetch c st s = _ from rfl⟩
  case write => obtain ⟨⟩ := h; exact ⟨_, fun s => show execWrite c st s = _ from rfl⟩
  case cancel => obtain ⟨⟩ := h; exact ⟨_, fun s => show execCancel c st s = _ from rfl⟩
  case loadScales => obtain ⟨⟩ := h; exact ⟨_, fun s => show execLoadScales c s = _ from rfl⟩
  case loadCsum => obtain ⟨⟩ := h; exact ⟨_, fun s => show execLoadCsum c s = _ from rfl⟩
  case invalidate => obtain ⟨⟩ := h; exact ⟨_, fun s => show execInvalidate c s = _ from rfl⟩
  case prestage => obtain ⟨⟩ := h; exact ⟨_, fun s => show execPrestage c s = _ from rfl⟩
  all_goals nomatch h

end NextUnit

/-- Whether a target is a tile of a version that is not installed, so that INVALIDATE cancels what fetches it (R207). -/
def staleTarget (s : State) : XTarget → Bool
  | .ring _ _ v => !(s.installed v)
  | .range _ _ => false

/-- Settles O9: every such command is `State.nextUnit` of its core, stream and opcode. -/
theorem unitOpcodesWait : Obligations.UnitOpcodesWait := by
  intro i c st o s hCommand
  obtain ⟨g, hExec⟩ := exec_of_unitCommand hCommand
  exact ⟨fun hNone => (hExec s).trans (nextUnit_of_none hNone), fun cmd n cause hTodo hUnmet => (hExec s).trans (nextUnit_of_unmet hTodo hUnmet)⟩

/-- Settles O10: the ready case of `State.nextUnit`; POOL by whether the unit has a fault. -/
theorem rowOpcodesRunAUnit : Obligations.RowOpcodesRunAUnit := by
  intro s c st cmd u hUnit hMet
  refine ⟨fun hTodo => ?_, fun hTodo t x ht hx => ?_, fun hTodo t x l t1 ht hx hl ht1 => ?_, fun hTodo t x ht hx => ?_⟩
  · exact show execNop c st s = _ from nextUnit_of_ready hTodo hUnit hMet
  · subst hx ht
    exact show execVec c st s = _ from nextUnit_of_ready hTodo hUnit hMet
  · subst ht1 hl hx ht
    exact show execVred c st s = _ from nextUnit_of_ready hTodo hUnit hMet
  · subst hx ht
    have hRun := show execPool c s = _ from nextUnit_of_ready hTodo hUnit hMet
    refine ⟨fun hGood => hRun.trans ?_, fun y hFault => hRun.trans ?_⟩
    · simp only [hGood]
    · simp only [hFault]

/-- Settles O11: the ready case of `State.nextUnit`; STASH_RD by whether the command chains. -/
theorem lookupOpcodesRunAUnit : Obligations.LookupOpcodesRunAUnit := by
  intro s c cmd u hUnit hMet
  have hStashRd (hTodo : (s.core c).todo .b .stashRd = some cmd) := show execStashRd c s = _ from nextUnit_of_ready hTodo hUnit hMet
  refine ⟨fun hTodo => ?_, fun hTodo => ?_, fun hTodo hLast => (hStashRd hTodo).trans ?_,
    fun hTodo hChain t x ht hx => (hStashRd hTodo).trans ?_, fun hTodo => ?_⟩
  · exact show execLookup c s = _ from nextUnit_of_ready hTodo hUnit hMet
  · exact show execGradSend c s = _ from nextUnit_of_ready hTodo hUnit hMet
  · rw [if_pos hLast]
  · subst hx ht
    rw [if_neg hChain]
  · exact show execStashFree c s = _ from nextUnit_of_ready hTodo hUnit hMet

/-- Settles O12: the ready case of `State.nextUnit`; FETCH by the space of its output, and INVALIDATE by what makes a target old. -/
theorem transferAndUpdateOpcodesRunAUnit : Obligations.TransferAndUpdateOpcodesRunAUnit := by
  refine ⟨fun s c st cmd u t hUnit hMet ht => ?_, fun s c cmd u t hUnit hMet ht => ?_⟩ <;> subst ht
  · have hFetch (hTodo : (s.core c).todo st .fetch = some cmd) := show execFetch c st s = _ from nextUnit_of_ready hTodo hUnit hMet
    refine ⟨fun hTodo hLocal => (hFetch hTodo).trans ?_, fun hTodo hKept => (hFetch hTodo).trans ?_, fun hTodo => ?_, fun hTodo => ?_⟩
    · rw [if_pos hLocal]
    · rw [if_neg hKept]
    · exact show execWrite c st s = _ from nextUnit_of_ready hTodo hUnit hMet
    · exact show execCancel c st s = _ from nextUnit_of_ready hTodo hUnit hMet
  · refine ⟨fun hTodo => ?_, fun hTodo => ?_, fun hTodo => ?_, fun hTodo old ids hRing hRange hIds => ?_⟩
    · exact show execLoadScales c s = _ from nextUnit_of_ready hTodo hUnit hMet
    · exact show execLoadCsum c s = _ from nextUnit_of_ready hTodo hUnit hMet
    · exact show execPrestage c s = _ from nextUnit_of_ready hTodo hUnit hMet
    · refine (show execInvalidate c s = _ from nextUnit_of_ready hTodo hUnit hMet).trans ?_
      obtain rfl := funext hIds
      obtain rfl : old = staleTarget (s.updCore c fun k => k.takeUnit .u cmd 0) := funext fun x => by
        cases x with
        | ring => exact hRing ..
        | range => exact hRange ..
      rfl

end Sys2Proof.Proofs
end

section
/-! SIGNAL, WAIT and the ends of a micro-batch (R172, R178, R186). -/

open Sys2Proof Sys2Proof.Machine

namespace Sys2Proof.Proofs

section Control
variable {s : State} {c : CoreId} {st : Stream} {cmd : Cmd}

theorem op_of_todo {k : Core} {o : Op} (h : k.todo st o = some cmd) : cmd.desc.op = o := by
  have hFound := List.find?_some h
  simp only [Bool.and_eq_true, beq_iff_eq] at hFound
  exact hFound.1.1

@[simp] theorem sync_updFront (k : Core) (f : Front → Front) : (k.updFront st f).sync = k.sync := by
  cases st <;> rfl

/-- A retiring SIGNAL command leaves the sync counters alone: it has raised its own already (R178). -/
theorem sync_retire_of_signal (h : cmd.desc.op = .signal) : ((s.retire c cmd).core c).sync = (s.core c).sync := by
  unfold State.retire
  cases cmd.slot <;> cases cmd.desc.signalOn <;> simp [h]

theorem sync_signal (k : Core) (step ctr : Nat) : kvGet 0 (step, ctr) (k.signal step ctr).sync = min 0xFFFF (kvGet 0 (step, ctr) k.sync + 1) :=
  kvGet_put_self ..

theorem exec_signal_of_some (h : (s.core c).todo st .signal = some cmd) :
    exec (.signal c st) s = .next ((s.updCore c fun k => k.signal cmd.step cmd.desc.signalCtr).retire c cmd) := by
  change execSignal c st s = _
  simp only [execSignal, h]

theorem exec_wait_of_some (h : (s.core c).todo st .wait = some cmd) :
    exec (.wait c st) s =
      if cmd.desc.waitValue ≤ kvGet 0 (cmd.step, cmd.desc.waitCtr) (s.core c).sync then .next (s.retire c cmd) else .next s := by
  change execWait c st s = _
  simp only [execWait, h, Core.waitMet, decide_eq_true_eq]

/-- FWD_END of the last command of its micro-batch: the reservation of its slot shrinks to what is written (R186). -/
theorem exec_fwdEnd_of_slot {n : Nat} (h : (s.core c).todo .f .fwdEnd = some cmd) (hLast : (s.core c).lastOfMb cmd = true)
    (hSlot : cmd.slot = some n) :
    exec (.fwdEnd c) s = .next ((s.updCore c fun k => { k.takeUnit .f cmd 0 with lb := { (k.takeUnit .f cmd 0).lb with
      reserves := kvMod {} n (fun r => { r with reserved := min r.reserved r.written }) (k.takeUnit .f cmd 0).lb.reserves } }).commit0 c
        cmd) := by
  change execFwdEnd c s = _
  simp only [execFwdEnd, h, hLast, hSlot, if_true]

theorem exec_fwdEnd_of_no_slot (h : (s.core c).todo .f .fwdEnd = some cmd) (hLast : (s.core c).lastOfMb cmd = true)
    (hSlot : cmd.slot = none) : exec (.fwdEnd c) s = .next ((s.updCore c fun k => k.takeUnit .f cmd 0).commit0 c cmd) := by
  change execFwdEnd c s = _
  simp only [execFwdEnd, h, hLast, hSlot, if_true]

theorem exec_fwdEnd_of_not_last (h : (s.core c).todo .f .fwdEnd = some cmd) (hLast : (s.core c).lastOfMb cmd = false) :
    exec (.fwdEnd c) s = .next s := by
  change execFwdEnd c s = _
  simp only [execFwdEnd, h, hLast, Bool.false_eq_true, if_false]

theorem exec_bwdEnd_of_some (h : (s.core c).todo .b .bwdEnd = some cmd) :
    exec (.bwdEnd c) s = .next ((s.updCore c fun k => k.takeUnit .b cmd 0).commit0 c cmd) := by
  change execBwdEnd c s = _
  simp only [execBwdEnd, h]

theorem exec_control_of_none (s : State) (c : CoreId) (st : Stream) :
    ((s.core c).todo st .signal = none → exec (.signal c st) s = .next s)
    ∧ ((s.core c).todo st .wait = none → exec (.wait c st) s = .next s)
    ∧ ((s.core c).todo .f .fwdEnd = none → exec (.fwdEnd c) s = .next s)
    ∧ ((s.core c).todo .b .bwdEnd = none → exec (.bwdEnd c) s = .next s) := by
  refine ⟨fun h => ?_, fun h => ?_, fun h => ?_, fun h => ?_⟩
  · change execSignal c st s = _
    rw [execSignal, h]
  · change execWait c st s = _
    rw [execWait, h]
  · change execFwdEnd c s = _
    rw [execFwdEnd, h]
  · change execBwdEnd c s = _
    rw [execBwdEnd, h]

end Control

/-- Settles O13: each command by whether it has a running command; the counter by what SIGNAL adds and its retirement leaves. -/
theorem signalsWaitsAndMicroBatchEnds : Obligations.SignalsWaitsAndMicroBatchEnds := by
  refine ⟨fun s c st cmd h => ⟨exec_signal_of_some h, ?_⟩, fun s c st cmd h => ?_,
    fun s c cmd n h hLast hSlot => exec_fwdEnd_of_slot h hLast hSlot, fun s c cmd h hLast hSlot => exec_fwdEnd_of_no_slot h hLast hSlot,
    fun s c cmd h hLast => exec_fwdEnd_of_not_last h hLast, fun s c cmd h => exec_bwdEnd_of_some h, exec_control_of_none⟩
  · rw [sync_retire_of_signal (op_of_todo h), State.core_updCore_self, sync_signal]
  · rw [exec_wait_of_some h]
    exact ⟨fun hMet => if_pos hMet, fun hBelow => if_neg hBelow.not_ge⟩

end Sys2Proof.Proofs
end

section
/-! Decode, issue, retirement and the deferred pool (R167, R174 to R176); the stash, prefetches, hints, chains and the governor (R179 to
R200). -/

open Sys2Proof Sys2Proof.Machine

namespace Sys2Proof.Proofs

section Decode
variable {s : State} {c : CoreId} {st : Stream} {d : BitVec 512}

/-- DESC_DECODE where the stream decodes: by what stands at the descriptor's address (R173). -/
theorem exec_descDecode_of_decodes {x : Nat × Nat} {step : State → State} (hx : x = s.nextDesc st ((s.core c).front st))
    (hStep : ∀ t, step t = t.updCore c fun k => k.updFront st fun y => { y with inst := x.1, next := x.2 + 1 })
    (hOn : s.domOn (restDom c.val) = true) (hDecodes : s.decodes ((s.core c).front st) st x = true) :
    (s.descAt st x.2 d = .wait → exec (.descDecode c st d) s = .next s)
    ∧ (∀ code a, s.descAt st x.2 d = .fault code a →
      exec (.descDecode c st d) s = .next ((step s).raise .stepFatal code (unitNo 1 c.val) x.1 a))
    ∧ (∀ w, s.descAt st x.2 d = .word w →
      exec (.descDecode c st d) s = .next ((s.descTranslate c st x.2).takeDesc c st x w step)) := by
  obtain rfl := funext hStep
  subst hx
  change (_ → execDescDecode c st d s = _) ∧ (∀ code a, _ → execDescDecode c st d s = _) ∧ (∀ w, _ → execDescDecode c st d s = _)
  simp only [execDescDecode, hOn, hDecodes, Bool.true_eq_false, or_self, if_false]
  refine ⟨fun h => ?_, fun code a h => ?_, fun w h => ?_⟩ <;> rw [h]

theorem exec_descDecode_of_idle (h : s.domOn (restDom c.val) = false
    ∨ s.decodes ((s.core c).front st) st (s.nextDesc st ((s.core c).front st)) = false
    ∨ s.descAt st (s.nextDesc st ((s.core c).front st)).2 d = .wait) : exec (.descDecode c st d) s = .next s := by
  by_cases hIdle : s.domOn (restDom c.val) = false ∨ s.decodes ((s.core c).front st) st (s.nextDesc st ((s.core c).front st)) = false
  · exact if_pos hIdle
  · obtain ⟨hOn, hDecodes⟩ := not_or.mp hIdle
    have hWait := (h.resolve_left hOn).resolve_left hDecodes
    exact (exec_descDecode_of_decodes rfl (fun _ => rfl) (eq_true_of_ne_false hOn) (eq_true_of_ne_false hDecodes)).1 hWait

theorem exec_commandRetire_eq (s : State) (c : CoreId) (st : Stream) (i : Nat) :
    exec (.commandRetire c st i) s = .next
      ((((s.core c).running st fun x => x.index == i && (x.complete || s.stopped c x) && (s.core c).outputsGone x).map
        (s.retire c)).getD s) := by
  change execCommandRetire c st i s = _
  unfold execCommandRetire
  cases (s.core c).running st fun x => x.index == i && (x.complete || s.stopped c x) && (s.core c).outputsGone x <;> rfl

end Decode

/-- Settles O14: decode by the address, issue and retirement by the command found, promotion by its one equation. -/
theorem decodeIssueRetire : Obligations.DecodeIssueRetire := by
  refine ⟨fun s c st d h => exec_descDecode_of_idle h,
    fun s c st d x step hx hStep hOn hDecodes => (exec_descDecode_of_decodes hx hStep hOn hDecodes).2, fun s c cyc cmd h => ?_,
    fun s c cyc h => ?_, fun s c st i cmd h => ?_, fun s c st i h => ?_, fun s c cyc due hDue => ?_⟩
  · change execCommandIssue c cyc s = _
    simp only [execCommandIssue, h]
  · change execCommandIssue c cyc s = _
    simp only [execCommandIssue, h]
  · rw [exec_commandRetire_eq, h]
    rfl
  · rw [exec_commandRetire_eq, h]
    rfl
  · obtain rfl := funext hDue
    rfl

section Chains
variable {s : State} {c : CoreId} {st : Stream} {cmd : Cmd}

/-- STASH_WR with its conditions met: by whether the write finds room (R187). -/
theorem exec_stashWr_of_ready {u : Nat} (h : (s.core c).todo .f .stashWr = some cmd) (hUnit : u = nthCount cmd.taken 0)
    (hMet : s.unitUnmet c cmd u (s.core c).lastCyc = none) :
    exec (.stashWr c) s = if (s.stashWrite c cmd (s.stashBytes c cmd u).1).2 = false then .next (s.stashWrite c cmd (s.stashBytes c cmd u).1).1
      else .next ((((((s.stashWrite c cmd (s.stashBytes c cmd u).1).1.updCore c fun k => k.takeUnit .f cmd 0).coreEv c
        cmd.step (s.stashBytes c cmd u).2).commit0 c cmd).unitDone c cmd u).fetchMore c cmd) := by
  subst hUnit
  change execStashWr c s = _
  simp only [execStashWr, h, hMet]

theorem exec_prefetch_of_some {x : State × Nat} {t : State} (h : (s.core c).todo st .prefetch = some cmd)
    (hx : x = s.pushTargets c cmd .prefetch (s.prefetchTargets cmd) cmd.sentPf)
    (ht : t = x.1.updCore c fun k => k.updCmd st cmd.step cmd.index fun y => { y with sentPf := x.2 }) :
    exec (.prefetch c st) s =
      .next (if x.2 < (s.prefetchTargets cmd).length then t else (t.updCore c fun k => k.takeUnit st cmd 0).commit0 c cmd) := by
  subst ht hx
  change execPrefetch c st s = _
  simp only [execPrefetch, h]

theorem exec_handoverUnit_of_some {g : StageNo} {u : Nat} (hStage : g ≠ 0) (h : (s.core c).handTodo st g.val = some cmd)
    (hUnit : u = nthCount cmd.taken g.val) :
    (cmd.desc.stages[g.val]? = some .mm → exec (.handoverUnit c st g) s = .next
      (s.issueBest c ((s.core c).mmWork fun x => x.desc.stream == st && x.desc.mmStage == g.val) (s.core c).lastCyc))
    ∧ (cmd.desc.stages[g.val]? = some .vec →
      exec (.handoverUnit c st g) s = .next (s.handUnit c cmd g.val u fun t rows => t.runVec c cmd g.val u rows))
    ∧ (cmd.desc.stages[g.val]? = some .pool →
      exec (.handoverUnit c st g) s = .next (s.handUnit c cmd g.val u fun t rows => t.poolStage c cmd g.val u rows))
    ∧ (cmd.desc.stages[g.val]? = some .stashWr → exec (.handoverUnit c st g) s = .next (s.stashStage c cmd g.val u)) := by
  subst hUnit
  refine ⟨fun hOp => ?_, fun hOp => ?_, fun hOp => ?_, fun hOp => ?_⟩ <;>
    (change execHandoverUnit c st g s = _; simp only [execHandoverUnit, if_neg hStage, h, hOp])

theorem exec_handoverUnit_of_idle {g : StageNo} (h : g = 0 ∨ (s.core c).handTodo st g.val = none) :
    exec (.handoverUnit c st g) s = .next s := by
  by_cases hStage : g = 0
  · exact if_pos hStage
  · refine (if_neg hStage).trans ?_
    rw [h.resolve_left hStage]

end Chains

/-- Settles O15: the stash and prefetches by their room, chains by the stage, the governor by its limit and its written bits. -/
theorem stashPrefetchHintsAndChains : Obligations.StashPrefetchHintsAndChains := by
  refine ⟨fun s c cmd u h hUnit hMet => ?_, fun s c st cmd x t h hx ht => ?_, fun s c st i => ⟨fun h => ?_, fun cmd x h hx => ?_⟩,
    fun s c st g cmd u hStage h hUnit => exec_handoverUnit_of_some hStage h hUnit, fun s c st g h => exec_handoverUnit_of_idle h,
    fun s c hFired hLimit => if_neg (by simp [hFired, hLimit]), fun s c h => if_pos h,
    fun s c v => ⟨rfl, fun h => if_pos h, fun h => if_neg (ne_true_of_eq_false h)⟩⟩
  · rw [exec_stashWr_of_ready h hUnit hMet]
    exact ⟨fun hRoom => if_neg (ne_false_of_eq_true hRoom), fun hFull => if_pos hFull⟩
  · rw [exec_prefetch_of_some h hx ht]
    exact ⟨fun hMore => by rw [if_pos hMore], fun hLast => by rw [if_neg hLast.not_gt]⟩
  · change execHintIssue c st i s = _
    rw [execHintIssue, h]
  · subst hx
    change execHintIssue c st i s = _
    simp only [execHintIssue, h]

end Sys2Proof.Proofs
end

section
/-! Tile loads and passes at an engine (R109 to R118, R144): the branches of their commands, after the core's clock has moved. -/

open Sys2Proof Sys2Proof.Machine

namespace Sys2Proof.Proofs

section Loads
variable {s t : State} {c : CoreId} {e : EngId} {cyc : Nat}

theorem exec_tileLoadStart_of_some {p : Pass} (ht : t = s.clockTo c cyc) (h : t.nextPass c e = some p) :
    exec (.tileLoadStart c e cyc) s = .next
      (if (t.engine c e).mayRun cyc && (t.engine c e).mayLoad p cyc && !p.replay then t.updEngine c e fun x => x.load p cyc else t) := by
  subst ht
  change execTileLoadStart c e cyc s = _
  simp only [execTileLoadStart, h]

theorem exec_replayStart_of_cons {p : Pass} {l : List Pass} (ht : t = s.clockTo c cyc) (h : (t.engine c e).replay = p :: l) :
    exec (.replayStart c e cyc) s = .next
      (if (t.engine c e).mayRun cyc && (t.engine c e).mayLoad p cyc then t.updEngine c e fun x => x.load p cyc else t) := by
  subst ht
  change execReplayStart c e cyc s = _
  simp only [execReplayStart, h]

/-- TILE_LOAD_READY once the load has taken its 160 cycles; a replay waits for its own tile alone (R144). -/
theorem exec_tileLoadReady_of_due {id l : Nat} (ht : t = s.clockTo c cyc) (h : (t.engine c e).loading = some (id, l)) (hDue : l + 160 ≤ cyc) :
    ((t.engine c e).replay = [] → exec (.tileLoadReady c e cyc) s = .next (t.updEngine c e fun x => { x with
      loading := none, loaded := if (t.engine c e).assigned.any (fun p => p.id == id) then some id else none, readyAt := l + 160 }))
    ∧ (∀ p r, (t.engine c e).replay = p :: r → exec (.tileLoadReady c e cyc) s = .next (t.updEngine c e fun x => { x with
      loading := none, loaded := if p.id == id then some id else none, readyAt := l + 160 })) := by
  subst ht
  refine ⟨fun hReplay => ?_, fun p r hReplay => ?_⟩ <;>
    (change execTileLoadReady c e cyc s = _; simp only [execTileLoadReady, h, hReplay, if_neg hDue.not_gt])

theorem exec_tileLoadReady_of_early {id l : Nat} (ht : t = s.clockTo c cyc) (h : (t.engine c e).loading = some (id, l))
    (hEarly : cyc < l + 160) : exec (.tileLoadReady c e cyc) s = .next t := by
  subst ht
  change execTileLoadReady c e cyc s = _
  simp only [execTileLoadReady, h, if_pos hEarly]

theorem exec_loads_of_none (ht : t = s.clockTo c cyc) :
    (t.nextPass c e = none → exec (.tileLoadStart c e cyc) s = .next t)
    ∧ ((t.engine c e).replay = [] → exec (.replayStart c e cyc) s = .next t)
    ∧ ((t.engine c e).loading = none → exec (.tileLoadReady c e cyc) s = .next t) := by
  subst ht
  refine ⟨fun h => ?_, fun h => ?_, fun h => ?_⟩
  · change execTileLoadStart c e cyc s = _
    simp only [execTileLoadStart, h]
  · change execReplayStart c e cyc s = _
    simp only [execReplayStart, h]
  · change execTileLoadReady c e cyc s = _
    simp only [execTileLoadReady, h]

end Loads

/-- Settles O17: each command by whether there is something to load, and then by the engine's conditions and the 160 cycles. -/
theorem tileLoadTakes160Cycles : Obligations.TileLoadTakes160Cycles := by
  intro s t c e cyc ht
  obtain ⟨hNoPass, hNoReplay, hNoLoad⟩ := exec_loads_of_none (e := e) ht
  refine ⟨hNoPass, fun p hPass hRun hLoad hFirst => ?_, fun p hPass h => ?_, hNoReplay, fun p l hReplay hRun hLoad => ?_,
    fun p l hReplay h => ?_, hNoLoad, fun id l hLoading hEarly => exec_tileLoadReady_of_early ht hLoading hEarly,
    fun id l hLoading hDue => (exec_tileLoadReady_of_due ht hLoading hDue).1,
    fun id l p r hLoading hDue => (exec_tileLoadReady_of_due ht hLoading hDue).2 p r⟩
  · rw [exec_tileLoadStart_of_some ht hPass, if_pos (by simp [hRun, hLoad, hFirst])]
  · rw [exec_tileLoadStart_of_some ht hPass, if_neg (by obtain h | h | h := h <;> simp [h])]
  · rw [exec_replayStart_of_cons ht hReplay, if_pos (by simp [hRun, hLoad])]
  · rw [exec_replayStart_of_cons ht hReplay, if_neg (by obtain h | h := h <;> simp [h])]

section Passes
variable {s t : State} {c : CoreId} {e : EngId} {cyc : Nat}

theorem exec_passStart_of_some {p : Pass} (ht : t = s.clockTo c cyc) (h : t.nextPass c e = some p) :
    exec (.passStart c e cyc) s = .next (if t.mayStart c e p cyc then t.startPass c e p cyc
      else (((t.engine c e).startStall p cyc).map (t.coreStall c)).getD t) := by
  subst ht
  change execPassStart c e cyc s = _
  simp only [execPassStart, h]
  split
  · rfl
  · cases ((s.clockTo c cyc).engine c e).startStall p cyc <;> rfl

theorem exec_passEnd_of_cons {r : RunPass} {l : List RunPass} {ups : List Upset} (ht : t = s.clockTo c cyc)
    (h : (t.engine c e).inArray = r :: l) :
    exec (.passEnd c e cyc ups) s =
      if cyc < r.t0 + r.pass.n + 255 then .next t else .next (t.updEngine c e fun k => k.endPass r ups) := by
  subst ht
  change execPassEnd c e cyc ups s = _
  simp only [execPassEnd, h]

/-- PASS_VERDICT of the oldest ended pass: early, discarded, a mismatch or in order. -/
theorem exec_passVerdict_of_cons {r : RunPass} {l : List RunPass} {t1 t2 : State} (ht : t = s.clockTo c cyc)
    (h : (t.engine c e).ended = r :: l) (h1 : t1 = t.updEngine c e fun x => { x with ended := x.ended.drop 1 })
    (h2 : t2 = t1.updEngine c e fun x => { x with unchecked := satAdd 0xFFFF x.unchecked ((t.engine c e).finding r).unchecked }) :
    exec (.passVerdict c e cyc) s =
      if cyc < r.t0 + r.pass.n + 287 then .next t
      else if r.pass.discard then .next ((t1.freeStage c r.pass.id).updEngine c e fun x => x.dropSeries r.pass.series)
      else if ((t.engine c e).finding r).bad || r.lbBad then .next (t2.mismatch c e r ((t.engine c e).finding r))
      else .next (t2.passOk c e r cyc) := by
  subst h2 h1 ht
  change execPassVerdict c e cyc s = _
  simp only [execPassVerdict, h]

theorem exec_passes_of_none {ups : List Upset} (ht : t = s.clockTo c cyc) :
    (t.nextPass c e = none → exec (.passStart c e cyc) s = .next t)
    ∧ ((t.engine c e).inArray = [] → exec (.passEnd c e cyc ups) s = .next t)
    ∧ ((t.engine c e).ended = [] → exec (.passVerdict c e cyc) s = .next t) := by
  subst ht
  refine ⟨fun h => ?_, fun h => ?_, fun h => ?_⟩
  · change execPassStart c e cyc s = _
    simp only [execPassStart, h]
  · change execPassEnd c e cyc ups s = _
    simp only [execPassEnd, h]
  · change execPassVerdict c e cyc s = _
    simp only [execPassVerdict, h]

end Passes

/-- Settles O18: each command by whether there is a pass, then by its cycle bound and the pass's outcome. -/
theorem passesStartAndEnd : Obligations.PassesStartAndEnd := by
  refine ⟨fun s t c e cyc ht => ⟨(exec_passes_of_none (ups := []) ht).1, fun p hPass hMay => ?_, fun p n hPass hMay hStall => ?_,
      fun p hPass hMay hStall => ?_⟩,
    fun s t c e cyc ups ht => ⟨(exec_passes_of_none ht).2.1, fun r l hArray hEarly => ?_, fun r l hArray hDue => ?_⟩,
    fun s t c e cyc ht => ⟨(exec_passes_of_none (ups := []) ht).2.2, fun r l hEnded => ⟨fun hEarly => ?_,
      fun t1 t2 h1 h2 hDue => ⟨fun hDiscard => ?_, fun hKept hBad => ?_, fun hKept hOk => ?_⟩⟩⟩⟩
  · rw [exec_passStart_of_some ht hPass, if_pos hMay]
  · rw [exec_passStart_of_some ht hPass, if_neg (ne_true_of_eq_false hMay), hStall]
    rfl
  · rw [exec_passStart_of_some ht hPass, if_neg (ne_true_of_eq_false hMay), hStall]
    rfl
  · rw [exec_passEnd_of_cons ht hArray, if_pos hEarly]
  · rw [exec_passEnd_of_cons ht hArray, if_neg hDue.not_gt]
  · rw [exec_passVerdict_of_cons ht hEnded rfl rfl, if_pos hEarly]
  · rw [exec_passVerdict_of_cons ht hEnded h1 h2, if_neg hDue.not_gt, if_pos hDiscard]
  · rw [exec_passVerdict_of_cons ht hEnded h1 h2, if_neg hDue.not_gt, if_neg (ne_true_of_eq_false hKept), if_pos hBad]
  · rw [exec_passVerdict_of_cons ht hEnded h1 h2, if_neg hDue.not_gt, if_neg (ne_true_of_eq_false hKept),
      if_neg (ne_true_of_eq_false hOk)]

end Sys2Proof.Proofs
end

section
/-! Errors and spills of the local buffer (R165, R187, R188); demand fetches, Sluice, arrivals, ring repair and write acknowledgements (R196
to R206, R337). -/

open Sys2Proof Sys2Proof.Machine

namespace Sys2Proof.Proofs

section LocalBuffer
variable {s t : State} {c : CoreId}

theorem exec_lbEccError_uncorrectable (b : Fin 512) :
    (s.blockContent c b.val = .empty → exec (.lbEccError c b true) s = .next s)
    ∧ (s.blockContent c b.val = .clean → exec (.lbEccError c b true) s = .next (s.cleanError c b.val))
    ∧ (s.blockContent c b.val ≠ .empty → s.blockContent c b.val ≠ .clean →
      exec (.lbEccError c b true) s = .next (s.raiseDev .deviceFatal 0x026 (unitNo 1 c.val) 0)) := by
  refine ⟨fun h => ?_, fun h => ?_, fun hFull hDirty => ?_⟩ <;> change execLbEccError c b true s = _
  · simp only [execLbEccError, Bool.true_eq_false, if_false, h]
  · simp only [execLbEccError, Bool.true_eq_false, if_false, h]
  · -- the last branch's equation asks for `hFull` and `hDirty`, which `simp` finds in the context
    simp only [execLbEccError, Bool.true_eq_false, if_false]

/-- SPILL_WRITE_DONE of a departed spill: its bytes land, and a block still in flight of its entry is then spilled (R187). -/
theorem exec_spillWriteDone_of_departed {slot : Fin 8} {id b : Nat} {x : Transfer}
    (h : (s.core c).feed.queue.find? (fun x => x.departed && x.remote.isNone && x.stashOf .spill slot.val id b) = some x)
    (ht : t = (s.dropXfer c fun y => y.id == x.id).landWrite x) :
    exec (.spillWriteDone c slot id b) s = .next
      (if (((kvFind (slot.val, id) (t.core c).lb.stash).map fun e => e.inFlight.contains b).getD false) = true then
        (t.updCore c fun k => { k with
          blocked := 0
          lb := { k.lb.updStash slot.val id fun x => { x with
              inFlight := x.inFlight.filter (· != b), spilled := insNat b x.spilled } with freed := k.lb.freed + 1 } }).payAll c
      else t) := by
  subst ht
  change execSpillWriteDone c slot id b s = _
  simp only [execSpillWriteDone, h]
  cases kvFind (slot.val, id) (((s.dropXfer c fun y => y.id == x.id).landWrite x).core c).lb.stash with
  | none => rfl
  | some e => exact (apply_ite Host.Outcome.next ..).symm

theorem exec_stashReadback_of_room (h : (s.core c).lb.backUsed + (s.core c).feed.readbacks < s.field "MP_RB_BLOCKS" c.val) :
    exec (.stashReadback c) s = .next (((s.core c).nextBack.map fun x => s.pushXfer c
      { id := 0, kind := .readback, stream := .b, cls := 1, share := .read, target := .range (s.spillAddr c x.1 x.2.1 x.2.2) 16384
        bytes := 16384, step := ((s.slot x.1).map (·.step)).getD 0, index := x.1 * 2 ^ 16 + x.2.1, unit := x.2.2 }).getD s) := by
  change execStashReadback c s = _
  simp only [execStashReadback, if_neg h.not_ge]
  cases (s.core c).nextBack <;> rfl

end LocalBuffer

/-- Settles O20: the error by the block's content; the spill and the read-back by what they find. -/
theorem localBufferErrorsAndSpills : Obligations.LocalBufferErrorsAndSpills := by
  refine ⟨fun s c b => ⟨rfl, exec_lbEccError_uncorrectable b⟩, fun s c slot id b => ⟨fun h => ?_, fun x t h ht => ?_⟩,
    fun s c hRoom => ⟨fun h => ?_, fun slot id b h => ?_⟩, fun s c h => if_pos h⟩
  · change execSpillWriteDone c slot id b s = _
    rw [execSpillWriteDone, h]
  · rw [exec_spillWriteDone_of_departed h ht]
    refine ⟨fun hEntry => ?_, fun e hEntry hLanded => ?_, fun e hEntry hFlight => ?_⟩ <;> simp only [hEntry, Option.map, Option.getD]
    · rw [if_neg Bool.false_ne_true]
    · rw [if_neg (ne_true_of_eq_false hLanded)]
    · rw [if_pos hFlight]
  · rw [exec_stashReadback_of_room hRoom, h]
    rfl
  · rw [exec_stashReadback_of_room hRoom, h]
    rfl

section Transfers
variable {s t : State} {c : CoreId} {id : Nat}

/-- DEMAND_FETCH_BEGIN opens a window for the next command of an order that has one. -/
theorem exec_demandFetchBegin_eq {st : Stream} {go : State → List Cmd → State} (hNone : ∀ a l, fetchNext l = none → go a l = a)
    (hSome : ∀ a l cmd, fetchNext l = some cmd → go a l = State.fetchWindow c 5 a cmd) (ht : t = go s ((s.core c).streamOrder st)) :
    exec (.demandFetchBegin c st) s = .next (if st = .b then go t (t.core c).poolOrder else t) := by
  have hGo (a : State) (l : List Cmd) : go a l = (match fetchNext l with
      | some cmd => State.fetchWindow c 5 a cmd
      | none => a) := by
    split
    next cmd h => exact hSome a l cmd h
    next h => exact hNone a l h
  subst ht
  simp only [hGo]
  rfl

/-- A departed local transfer whose data are still wanted (R206). -/
structure Arrives (s : State) (c : CoreId) (id : Nat) (x : Transfer) : Prop where
  found : (s.core c).feed.queue.find? (fun x => x.id == id && x.departed) = some x
  isLocal : x.remote = none
  sound : x.repair = false
  wanted : x.dropped = false

theorem exec_transferArrive_of_none {alt : Option (List Nat)} (h : (s.core c).feed.queue.find? (fun x => x.id == id && x.departed) = none) :
    exec (.transferArrive c id alt) s = .next s := by
  change execTransferArrive c id alt s = _
  rw [execTransferArrive, h]

/-- What does not arrive: a transfer that waits for another device or for its repair, and data that nobody wants any more. -/
theorem exec_transferArrive_of_unwanted {x : Transfer} {alt : Option (List Nat)}
    (h : (s.core c).feed.queue.find? (fun x => x.id == id && x.departed) = some x) :
    ((x.remote.isSome || x.repair) = true → exec (.transferArrive c id alt) s = .next s)
    ∧ (x.remote = none → x.repair = false → x.dropped = true →
      exec (.transferArrive c id alt) s = .next (s.dropXfer c fun y => y.id == id)) := by
  refine ⟨fun hWaits => ?_, fun hLocal hSound hDropped => ?_⟩ <;> change execTransferArrive c id alt s = _
  · simp only [execTransferArrive, h, hWaits, if_true]
  · simp only [execTransferArrive, h, hLocal, hSound, hDropped, Option.isSome_none, Bool.or_self, Bool.false_eq_true, if_false, if_true]

/-- What arrives, by its kind: outgoing data do not, a read-back block stands in the Millpond, fetched data at their target. -/
theorem exec_transferArrive_of_arrives {x : Transfer} {alt : Option (List Nat)} (h : Arrives s c id x) :
    ((x.kind = .write ∨ x.kind = .spill ∨ x.kind = .slice ∨ x.kind = .grad) → exec (.transferArrive c id alt) s = .next s)
    ∧ (x.kind = .readback → ∀ back : LocalBuf → LocalBuf,
      (∀ l, kvHas (x.index / 2 ^ 16, x.index % 2 ^ 16) l.stash = true →
        back l = l.updStash (x.index / 2 ^ 16) (x.index % 2 ^ 16) fun e => e.putBack x.unit x.data) →
      (∀ l, kvHas (x.index / 2 ^ 16, x.index % 2 ^ 16) l.stash = false → back l = l) →
      exec (.transferArrive c id alt) s = .next ((s.dropXfer c fun y => y.id == id).updCore c fun k => { k with lb := back k.lb }))
    ∧ ((x.kind = .demand ∨ x.kind = .prefetch ∨ x.kind = .hint) →
      (∀ tt tau v, x.target = .ring tt tau v →
        exec (.transferArrive c id alt) s = .next ((s.alterTile v tt tau alt).arriveRing c x tt tau v))
      ∧ (∀ a n, x.target = .range a n → exec (.transferArrive c id alt) s = .next (s.arriveRange c x a))) := by
  obtain ⟨hFound, hLocal, hSound, hWanted⟩ := h
  refine ⟨fun hKind => ?_, fun hKind back hHere hGone => ?_, fun hKind => ⟨fun tt tau v hTarget => ?_, fun a n hTarget => ?_⟩⟩ <;>
    (change execTransferArrive c id alt s = _
     simp only [execTransferArrive, hFound, hLocal, hSound, hWanted, Option.isSome_none, Bool.or_self, Bool.false_eq_true, if_false])
  · obtain h | h | h | h := hKind <;> rw [h]
  · obtain rfl : back = fun l => if kvHas (x.index / 2 ^ 16, x.index % 2 ^ 16) l.stash then
        l.updStash (x.index / 2 ^ 16) (x.index % 2 ^ 16) fun e => e.putBack x.unit x.data else l := funext fun l => by
      split
      next h => exact hHere l h
      next h => exact hGone l (eq_false_of_ne_true h)
    rw [hKind]
  · obtain h | h | h := hKind <;> rw [h, hTarget]
  · obtain h | h | h := hKind <;> rw [h, hTarget]

/-- The ring with the tile's source written over it, where this device is the tile's home (R337). -/
def rewritten (s : State) (tt tau v : Nat) : State :=
  ((s.sourceOf v tt tau).map fun y => if s.tileHome tt tau = s.me then s.storeTile { y with version := v } else s).getD s

theorem exec_ringRepair_of_ring {x : Transfer} {tt tau v : Nat}
    (h : (s.core c).feed.queue.find? (fun x => x.id == id && x.repair) = some x) (hTarget : x.target = .ring tt tau v) :
    ((rewritten s tt tau v).ringTile v tt tau = none →
      exec (.ringRepair c id) s = .next ((rewritten s tt tau v).coreStall c 21))
    ∧ (∀ w z, w = rewritten s tt tau v → w.ringTile v tt tau = some z → exec (.ringRepair c id) s =
      if w.checkOk tt z && wcDigest (w.wcFmt tt) (tileKey tt (w.tkOf tt tau) (w.tnOf tt tau)) v z.codes z.csums == z.digest then
        .next ((w.updXfer c id fun y => { y with repair := false, departed := false }).updWeir fun y =>
          { y with checkRepairs := satAdd 0xFFFF y.checkRepairs 1 })
      else .next (w.coreStall c 21)) := by
  refine ⟨?_, fun w z hw => ?_⟩
  all_goals
    change _ → execRingRepair c id s = _
    simp only [execRingRepair, h, hTarget]
  · unfold rewritten
    cases s.sourceOf v tt tau <;> (intro hNone; simp only [Option.map, Option.getD] at hNone ⊢; rw [hNone])
  · subst hw
    unfold rewritten
    cases s.sourceOf v tt tau <;> (intro hSome; simp only [Option.map, Option.getD] at hSome ⊢; rw [hSome])

theorem exec_ringRepair_of_none (h : (s.core c).feed.queue.find? (fun x => x.id == id && x.repair) = none) :
    exec (.ringRepair c id) s = .next s := by
  change execRingRepair c id s = _
  rw [execRingRepair, h]

theorem exec_tailraceAck_of_none (h : (s.core c).feed.queue.find? (fun x => x.id == id && x.departed && x.kind == .write) = none) :
    exec (.tailraceAck c id) s = .next s := by
  change execTailraceAck c id s = _
  rw [execTailraceAck, h]

theorem exec_tailraceAck_of_range {x : Transfer} {a n : Nat}
    (h : (s.core c).feed.queue.find? (fun x => x.id == id && x.departed && x.kind == .write) = some x) (hTarget : x.target = .range a n)
    (ht : t = (s.dropXfer c fun y => y.id == id).updCore c fun k => { k with
      lb := k.lb.freeBlocks x.blocks, blocked := if x.blocks = [] then k.blocked else 0 }) :
    exec (.tailraceAck c id) s =
      if x.remote.isSome || !(s.pageReady (pageOf a)) then .next s
      else if s.holdsWrites (pageOf a) then .next s.countMoving
      else .next (if x.dropped then t else t.landWrite x) := by
  subst ht
  change execTailraceAck c id s = _
  simp only [execTailraceAck, h, hTarget]

end Transfers

/-- Settles O21: each command by the transfer that it finds. -/
theorem transfersDepartAndStand : Obligations.TransfersDepartAndStand := by
  refine ⟨fun s t c st go hNone hSome ht => exec_demandFetchBegin_eq hNone hSome ht, fun s t c ht => ht ▸ rfl,
    fun s c id alt => ⟨exec_transferArrive_of_none, fun x h => ?_⟩, fun s w c id x tt tau v h hTarget hw => ?_,
    fun s c id h => exec_ringRepair_of_none h, fun s c id a n x h hTarget => ?_, fun s c id h => exec_tailraceAck_of_none h⟩
  · obtain ⟨hWaits, hDropped⟩ := exec_transferArrive_of_unwanted (alt := alt) h
    have hArrives (hLocal : x.remote = none) (hSound : x.repair = false) (hWanted : x.dropped = false) :=
      exec_transferArrive_of_arrives (alt := alt) ⟨h, hLocal, hSound, hWanted⟩
    exact ⟨hWaits, hDropped, fun hLocal hSound hWanted => (hArrives hLocal hSound hWanted).1,
      fun hLocal hSound hWanted => (hArrives hLocal hSound hWanted).2.1, fun hLocal hSound hWanted => (hArrives hLocal hSound hWanted).2.2⟩
  · obtain rfl : w = rewritten s tt tau v := by
      unfold rewritten
      rw [hw]
      cases s.sourceOf v tt tau <;> rfl
    obtain ⟨hMissing, hTile⟩ := exec_ringRepair_of_ring h hTarget
    refine ⟨hMissing, fun z hz => ⟨fun hCheck hDigest => ?_, fun hBad => ?_⟩⟩
    · rw [hTile _ z rfl hz, if_pos (by simp [hCheck, hDigest])]
    · rw [hTile _ z rfl hz, if_neg (by obtain h | h := hBad <;> simp [h])]
  · refine ⟨fun hWaits => ?_, fun hLocal hReady hHeld => ?_, fun hLocal hReady hFree t ht => ?_⟩
    · rw [exec_tailraceAck_of_range h hTarget rfl, if_pos hWaits]
    · rw [exec_tailraceAck_of_range h hTarget rfl, if_neg (by simp [hLocal, hReady]), if_pos hHeld]
    · rw [exec_tailraceAck_of_range h hTarget ht, if_neg (by simp [hLocal, hReady]), if_neg (ne_true_of_eq_false hFree)]

end Sys2Proof.Proofs
end

section
/-! Page moves (R230 to R235) and lost pages and pooled links (R239 to R244): the branches of the tier manager's commands. -/

open Sys2Proof Sys2Proof.Machine

namespace Sys2Proof.Proofs

section Moves
variable {s : State} {k : Fin 8} {m : Mig}

theorem exec_moves_of_none (h : kvFind k.val s.tier.migs = none) :
    exec (.migrationPassEnd k) s = .next s ∧ exec (.pageFlip k) s = .next s ∧ exec (.sourceFrameFree k) s = .next s := by
  refine ⟨?_, ?_, ?_⟩
  · change execMigrationPassEnd k s = _
    rw [execMigrationPassEnd, h]
  · change execPageFlip k s = _
    rw [execPageFlip, h]
  · change execSourceFrameFree k s = _
    rw [execSourceFrameFree, h]

theorem exec_migrationPassEnd_of_some (h : kvFind k.val s.tier.migs = some m) :
    exec (.migrationPassEnd k) s = .next (if m.final || m.flipped then s else s.updTier fun t => { t with
      migs := kvPut k.val
        (if m.dirty.length ≤ 8 ∨ 3 ≤ m.round then { m with work := some m.dirty, pos := 0, dirty := [], final := true }
         else { m with work := some m.dirty, pos := 0, dirty := [], round := m.round + 1 }) t.migs }) := by
  change execMigrationPassEnd k s = _
  simp only [execMigrationPassEnd, h]

theorem exec_pageFlip_of_some (h : kvFind k.val s.tier.migs = some m) :
    exec (.pageFlip k) s = .next (if !m.final || m.flipped then s
      else ((((s.tick.updPage m.page fun e => { e with state := .resident, loc := m.target }).updTier fun t =>
          { t.forget m.page with
            mem := copyFrame m.source m.target t.mem
            migs := kvPut k.val { m with flipped := true, dirty := [], work := some [], waits := s.flights m.page } t.migs
            moves := satAdd 0xFFFFFFFF t.moves 1, heldMax := max t.heldMax (Config.freeNat s.fresh % 2 ^ 16) }).redirect m.page
          m.target).serveAsks)) := by
  change execPageFlip k s = _
  simp only [execPageFlip, h]

theorem exec_sourceFrameFree_of_some (h : kvFind k.val s.tier.migs = some m) :
    exec (.sourceFrameFree k) s = .next (if m.flipped && m.waits.all fun w => !(s.flights m.page).contains w then
      s.updTier fun t => { t with
        migs := kvDel k.val t.migs, used := t.used.filter (· != m.source), mem := cellsOut (physOf m.source 0) (2 ^ 21) t.mem } else s) := by
  change execSourceFrameFree k s = _
  simp only [execSourceFrameFree, h]

end Moves

/-- Settles O23: a move's commands by the move in their slot, then by its round, its final round and its flip. -/
theorem migrationMovesAPage : Obligations.MigrationMovesAPage := by
  refine ⟨fun s => ⟨fun hOff => congrArg _ (if_pos hOff), fun hOn => congrArg _ (if_neg hOn), rfl⟩, fun s k h => exec_moves_of_none h,
    fun s k m h => ⟨fun hOver => ?_, fun hOpen hLast => ?_, fun hOpen hDirty hRound => ?_, fun hEarly => ?_, fun hFinal hHere => ?_,
      fun hFlipped hGone => ?_, fun hWaits => ?_⟩⟩
  · rw [exec_migrationPassEnd_of_some h, if_pos hOver]
  · rw [exec_migrationPassEnd_of_some h, if_neg (ne_true_of_eq_false hOpen), if_pos hLast]
  · rw [exec_migrationPassEnd_of_some h, if_neg (ne_true_of_eq_false hOpen), if_neg (by omega)]
  · rw [exec_pageFlip_of_some h, if_pos (by obtain h | h := hEarly <;> simp [h])]
  · rw [exec_pageFlip_of_some h, if_neg (by simp [hFinal, hHere])]
  · rw [exec_sourceFrameFree_of_some h, if_pos ((Bool.and_eq_true _ _).mpr ⟨hFlipped, hGone⟩)]
  · rw [exec_sourceFrameFree_of_some h, if_neg (ne_true_of_eq_false (Bool.and_eq_false_iff.mpr hWaits))]

section PooledLinks
variable {s : State} {p : CxlId}

theorem exec_cxlLinkReturn_of_down (at' : Nat) (h : (s.cxl p).up = false) :
    exec (.cxlLinkReturn p at') s = .next (if (s.cxl p).gen = 0 then
        (if (s.cxl p).perstN = true ∧ 4 ≤ s.pow.phase then (s.trainCxl p).at' at' else s)
      else (s.updCxl p fun x =>
        { x with up := true, downWait := false, retrains := satAdd 0xFFFF x.retrains 1 }).serveAsks.at' at') :=
  congrArg _ (if_neg (ne_true_of_eq_false h))

theorem exec_cxlErrors_of_none {page : Nat} (h : s.cxlPortOf page = none) :
    exec (.cxlPoison page) s = .next s ∧ exec (.cxlCompletionTimeout page) s = .next s := by
  constructor
  · change execCxlPoison page s = _
    rw [execCxlPoison, h]
  · change execCxlCompletionTimeout page s = _
    rw [execCxlCompletionTimeout, h]

theorem exec_cxlErrors_of_some {page k : Nat} (h : s.cxlPortOf page = some k) :
    exec (.cxlPoison page) s = .next (((s.updTier fun t => { t with
        cxl := kvMod {} k (fun x => { x with poison := satAdd 0xFFFF x.poison 1 }) t.cxl }).faultPage page).askLost s)
      ∧ exec (.cxlCompletionTimeout page) s = .next ((s.faultPage page).askLost s) := by
  constructor
  · change execCxlPoison page s = _
    simp only [execCxlPoison, h]
  · change execCxlCompletionTimeout page s = _
    simp only [execCxlCompletionTimeout, h]

theorem exec_accessLate_of_other (s : State) {n : Nat} (ns : Nat) (b : Bool) (h : 3 ≤ n) :
    exec (.accessLate n ns b) s = .next (s.updTier fun t => t) := by
  match n, h with
  | n + 3, _ => rfl

end PooledLinks

/-- Settles O24: each event by the condition that its command tests, in the command's order. -/
theorem pooledLinksMemoryErrorsAndRefills : Obligations.PooledLinksMemoryErrorsAndRefills := by
  refine ⟨fun s k f => ⟨rfl, rfl⟩, fun s bad => rfl,
    fun s p => ⟨fun h => congrArg _ (if_pos h), fun h => congrArg _ (if_neg (ne_true_of_eq_false h))⟩,
    fun s v => ⟨fun h => congrArg _ (if_pos h), fun h => congrArg _ (if_neg (ne_true_of_eq_false h))⟩,
    fun s p => ⟨exec_cxlErrors_of_none, fun k => exec_cxlErrors_of_some⟩,
    fun s p at' => ⟨fun hUp => ⟨congrArg _ (if_pos hUp), congrArg _ (if_pos hUp)⟩,
      fun hDown => congrArg _ (if_neg (ne_true_of_eq_false hDown)), fun hDown hNew hPerst hPhase => ?_, fun hDown hNew hHeld => ?_,
      fun hDown hTrained => ?_, fun h => congrArg _ (if_pos h), fun h => congrArg _ (if_neg (ne_true_of_eq_false h))⟩,
    fun s ns b => ⟨rfl, rfl, rfl, fun n => exec_accessLate_of_other s ns b⟩⟩
  · rw [exec_cxlLinkReturn_of_down at' hDown, if_pos hNew, if_pos ⟨hPerst, hPhase⟩]
  · have hNot : ¬ ((s.cxl p).perstN = true ∧ 4 ≤ s.pow.phase) := by
      obtain h | h := hHeld
      · simp [h]
      · exact fun hBoth => h.not_ge hBoth.2
    rw [exec_cxlLinkReturn_of_down at' hDown, if_pos hNew, if_neg hNot]
  · rw [exec_cxlLinkReturn_of_down at' hDown, if_neg hTrained]

end Sys2Proof.Proofs
end

section
/-! Lookups served by version (R260 to R271), gradients gathered and replica sums (R286 to R293, R304), slices and nodes checked (R315 to
R320). -/

open Sys2Proof Sys2Proof.Machine

namespace Sys2Proof.Proofs

section Lookups
variable {s : State}

theorem exec_lkpRsp_of_some {r : LkpRsp} {u : LkpUnit} (h : s.unitOf r.ref = some u) :
    exec (.lkpRsp r) s = .next (r.record.elim (s.setOutcome u.ref (u.itemFor r.row) (.fault 1)) fun x =>
      (s.takeRecord (s.frontQ u.core) u.step u.table u.ref (u.itemFor r.row) x).deliverAll) := by
  change execLkpRsp r s = _
  simp only [execLkpRsp, h]
  cases r.record <;> rfl

/-- The fault of an item, with the item, where its outcome is one (R271). -/
def itemFault (x : LkpItem) : Option (LkpItem × Nat) := match x.out with
  | .fault k => some (x, k)
  | _ => none

theorem eq_itemFault {bad : LkpItem → Option (LkpItem × Nat)} (hFault : ∀ x k, x.out = .fault k → bad x = some (x, k))
    (hOther : ∀ x, (∀ k, x.out ≠ .fault k) → bad x = none) : bad = itemFault := funext fun x => by
  unfold itemFault
  split
  next k h => exact hFault x k h
  next h => exact hOther x h

/-- INDEX_FAULT_REPORT of a unit whose outcomes are all known: by its first faulty item. -/
theorem exec_indexFaultReport_of_known {ref : Nat} {u : LkpUnit} (h : s.units.find? (fun u => u.ref == ref) = some u) (hKnown : u.known = true) :
    (u.items.findSome? itemFault = none → exec (.indexFaultReport ref) s = .next s)
    ∧ (∀ f, u.items.findSome? itemFault = some f →
      exec (.indexFaultReport ref) s = .next ((({ s with units := s.units.filter fun x => x.ref != ref } : State).updCore u.core fun k =>
        k.stopCmd u.stream u.step u.index u.unit).qrnFault (s.frontQ u.core) (0x040 + f.2) u.step
          (qrnDetail u.table f.1.bag f.1.pos f.2 u.core.val u.mb) f.1.index)) := by
  have hExec : exec (.indexFaultReport ref) s = (match u.items.findSome? itemFault with
      | none => .next s
      | some f => .next ((({ s with units := s.units.filter fun x => x.ref != ref } : State).updCore u.core fun k =>
        k.stopCmd u.stream u.step u.index u.unit).qrnFault (s.frontQ u.core) (0x040 + f.2) u.step
          (qrnDetail u.table f.1.bag f.1.pos f.2 u.core.val u.mb) f.1.index)) := by
    change execIndexFaultReport ref s = _
    simp only [execIndexFaultReport, h, hKnown, Bool.true_eq_false, if_false]
    rfl
  rw [hExec]
  exact ⟨fun hNone => by rw [hNone], fun f hSome => by rw [hSome]⟩

theorem exec_indexFaultReport_of_waiting {ref : Nat} {u : LkpUnit} (h : s.units.find? (fun u => u.ref == ref) = some u)
    (hWaiting : u.known = false) : exec (.indexFaultReport ref) s = .next s := by
  change execIndexFaultReport ref s = _
  simp only [execIndexFaultReport, h, hWaiting, if_true]

end Lookups

/-- Settles O25: requests by the step's state, responses by unit and record, reports by the unit's outcomes. -/
theorem lookupsAreServedByVersion : Obligations.LookupsAreServedByVersion := by
  refine ⟨fun s r => ⟨fun h => if_pos h, fun h => if_neg h⟩, fun s r => ⟨fun h => ?_, fun u h => ⟨fun hNone => ?_, fun x hSome => ?_⟩⟩,
    fun s q => rfl, fun s ref => ⟨fun h => ?_, fun u h => ⟨exec_indexFaultReport_of_waiting h, fun bad hFault hOther hKnown => ?_⟩⟩⟩
  · change execLkpRsp r s = _
    rw [execLkpRsp, h]
  · rw [exec_lkpRsp_of_some h, hNone]
    rfl
  · rw [exec_lkpRsp_of_some h, hSome]
    rfl
  · change execIndexFaultReport ref s = _
    rw [execIndexFaultReport, h]
  · rw [eq_itemFault hFault hOther]
    exact exec_indexFaultReport_of_known h hKnown

/-- REPL_SUM acknowledges good content and then goes by the step's decision (R304). -/
theorem exec_replSum_of_undecided {s t : State} {tag : Nat} {m : ReplMsg} (ht : t = if replGood m then s.emit [.ack (replSrc m) tag] else s)
    (hApply : (s.stepOf (replStep m)).decided ≠ some .apply) (hSkip : (s.stepOf (replStep m)).decided ≠ some .skip) :
    exec (.replSum tag m) s = if (s.stepOf (replStep m)).st = .aborting then .next t
      else .next { t with repl := { t.repl with held := t.repl.held ++ [m] } } := by
  subst ht
  change execReplSum tag m s = _
  unfold execReplSum
  dsimp only
  split
  next h => exact absurd h hApply
  next h => exact absurd h hSkip
  next => rfl

/-- Settles O26: contributions by their equations, markers and replica sums by the state and the decision of their step. -/
theorem gradientsAreGathered : Obligations.GradientsAreGathered := by
  refine ⟨fun s g => rfl, fun s q => rfl,
    fun s q m => ⟨fun h => if_pos h, fun hRuns hOpen => if_neg (not_or.mpr ⟨hRuns, hOpen.not_ge⟩)⟩,
    fun s t tag m ht => ⟨fun h => ?_, fun h => ?_, fun hApply hSkip h => ?_, fun hApply hSkip h => ?_⟩⟩
  · subst ht
    change execReplSum tag m s = _
    simp only [execReplSum, h]
  · subst ht
    change execReplSum tag m s = _
    simp only [execReplSum, h]
  · rw [exec_replSum_of_undecided ht hApply hSkip, if_pos h]
  · rw [exec_replSum_of_undecided ht hApply hSkip, if_neg h]

section Slices
variable {s : State}

theorem exec_sliceArrive_of_bad {t : State} {x : Slice} {n : Nat} (hOpen : s.weir.creditHeld = false) (hBad : crc32c (f32Bytes x.payload) ≠ x.crc)
    (hn : n = kvGet 0 (s.sliceKey x, x.src) s.weir.sliceTries + 1)
    (ht : t = (s.updWeir fun w => { w with
      sliceTries := kvPut (s.sliceKey x, x.src) n w.sliceTries, crcResends := satAdd 0xFFFF w.crcResends 1 }).emit
        [.sliceAck x.src x.step x.mb x.tensor x.tileK x.tileN false]) :
    exec (.sliceArrive x) s = .next
      (if n = 3 then t.weirReject 0x050 x.step x.tensor (s.sliceKey x).tau (s.sliceKey x).index 0 else t) := by
  subst ht hn
  exact (if_neg (ne_true_of_eq_false hOpen)).trans (if_pos hBad)

theorem exec_sliceResend_eq (c : CoreId) (e : EngId) (n mb t k l : Nat) :
    exec (.sliceResend c e n mb t k l) s = .next ((((s.engine c e).slices.find? fun y =>
      y.step == n && y.mb == mb && y.tensor == t && y.tileK == k && y.tileN == l).map fun y => s.emit [.slice y]).getD s) := by
  change execSliceResend c e n mb t k l s = _
  unfold execSliceResend
  cases (s.engine c e).slices.find? fun y => y.step == n && y.mb == mb && y.tensor == t && y.tileK == k && y.tileN == l <;> rfl

end Slices

/-- Settles O27: withheld credits, then the CRC, then the count of tries. -/
theorem slicesAndNodesAreChecked : Obligations.SlicesAndNodesAreChecked := by
  refine ⟨fun s x h => if_pos h, fun s x hOpen hGood => (if_neg (ne_true_of_eq_false hOpen)).trans (if_neg (not_not.mpr hGood)),
    fun s t x n hOpen hBad hn ht => ⟨fun hThird => ?_, fun hEarlier => ?_⟩,
    fun s n => ⟨fun h => if_pos h, fun hOpen hBad => (if_neg (ne_true_of_eq_false hOpen)).trans (if_pos hBad),
      fun hOpen hGood => (if_neg (ne_true_of_eq_false hOpen)).trans (if_neg (not_not.mpr hGood))⟩,
    fun s c e n mb t k l => ⟨fun h => ?_, fun y h => ?_⟩⟩
  · rw [exec_sliceArrive_of_bad hOpen hBad hn ht, if_pos hThird]
  · rw [exec_sliceArrive_of_bad hOpen hBad hn ht, if_neg hEarlier]
  · rw [exec_sliceResend_eq, h]
    rfl
  · rw [exec_sliceResend_eq, h]
    rfl

end Sys2Proof.Proofs
end

section
/-! Retention and candidates (R321, R326), scale sets and working copies (R331 to R334), digests, repairs and rebuilds (R342 to R365), the
orders of a layout change (R370 to R373). -/

open Sys2Proof Sys2Proof.Machine

namespace Sys2Proof.Proofs

section Retention
variable {s : State} {n t k l : Nat}

theorem exec_rootRetain_of_root {v : List F32} {m : Nat} (hm : m = s.tileMirror t (s.tauOf t k l))
    (h : kvFind (n, t, s.tauOf t k l) s.weir.roots = some v) :
    exec (.rootRetain n t k l) s = if s.retFree n then
        .next ((s.retain n t (s.tauOf t k l) v).emitAcked m fun tag => .retRoot m
          { src := s.me, tag := tag, step := n, tensor := t, tileK := k, tileN := l,
            crc := crc32c (f32Bytes v), vals := v, layEpoch := (s.stepOf n).layEpoch })
      else .next (s.weirStall [20]) := by
  subst hm
  change execRootRetain n t k l s = _
  simp only [execRootRetain, h]

/-- RET_ROOT with good content of a step that runs: by whether this device keeps the tile, then by its slots. -/
theorem exec_retRoot_of_good {r : RetRoot} (hGood : crc32c (f32Bytes r.vals) = r.crc) (hRuns : (s.stepOf r.step).st ≠ .aborting) :
    exec (.retRoot r) s =
      if s.tileMirror r.tensor (s.tauOf r.tensor r.tileK r.tileN) ≠ s.me
          ∧ ¬ (s.tileHome r.tensor (s.tauOf r.tensor r.tileK r.tileN) = s.me ∧ (s.stepOf r.step).rolled = true) then
        .next (s.weirReject 0x051 r.step r.tensor (s.tauOf r.tensor r.tileK r.tileN) 0 1)
      else if s.retFree r.step then
        .next ((s.retain r.step r.tensor (s.tauOf r.tensor r.tileK r.tileN) r.vals).emit [.ack r.src r.tag])
      else .next (s.weirStall [20]) :=
  if_neg (not_or.mpr ⟨not_not.mpr hGood, hRuns⟩)

theorem exec_candidateForm_of_idle {tau : Nat} (htau : tau = s.tauOf t k l)
    (h : kvFind (n, t, tau) s.weir.retained = none ∨ s.masterCurrent n = false ∨ (s.tile t tau).cand = some n) :
    exec (.candidateForm n t k l) s = .next s := by
  subst htau
  change execCandidateForm n t k l s = _
  unfold execCandidateForm
  dsimp only
  split
  · rfl
  next g hRoot => exact if_pos (h.resolve_left fun hNone => Option.some_ne_none g (hRoot.symm.trans hNone))

theorem exec_candidateForm_of_retained {tau : Nat} {g : List F32} (htau : tau = s.tauOf t k l)
    (h : kvFind (n, t, tau) s.weir.retained = some g) (hCurrent : s.masterCurrent n = true) (hNew : (s.tile t tau).cand ≠ some n) :
    exec (.candidateForm n t k l) s = .next
      ((((((s.updWeir fun w => { w with scalars := kvPut t (s.prelude n t).1 w.scalars }).updTile t tau fun x =>
            { x.setStaged (s.candFrame n t (s.prelude n t).1 (s.tile t tau).current g).1 with cand := some n }).weirEv n
          (evAdd (s.prelude n t).2 (s.candFrame n t (s.prelude n t).1 (s.tile t tau).current g).2)).noteMax n t tau
        (s.candFrame n t (s.prelude n t).1 (s.tile t tau).current g).1).markFlags n
          { opt := s.candOpt n t (s.prelude n t).1 (s.candFrame n t (s.prelude n t).1 (s.tile t tau).current g).1 })) := by
  subst htau
  change execCandidateForm n t k l s = _
  simp only [execCandidateForm, h, hCurrent, hNew, Bool.true_eq_false, or_self, if_false]

end Retention

/-- Settles O28: roots by their slots, arriving roots by the tile's keepers, candidates by what is retained and current. -/
theorem rootsAreRetainedAndCandidatesFormed : Obligations.RootsAreRetainedAndCandidatesFormed := by
  refine ⟨fun s n t k l m hm => ⟨fun h => ?_, fun v h => ?_⟩, fun s r h => if_pos h,
    fun s r tau htau hGood hRuns => ⟨fun hMirror hHome => ?_, fun hKeeper => ?_⟩,
    fun s n t k l tau htau => ⟨fun h => exec_candidateForm_of_idle htau (.inl h), fun h => exec_candidateForm_of_idle htau (.inr h),
      fun g p z u h hCurrent hNew hp hz hu => ?_⟩⟩
  · change execRootRetain n t k l s = _
    simp only [execRootRetain, h]
  · rw [exec_rootRetain_of_root hm h]
    exact ⟨fun hFree => if_pos hFree, fun hFull => if_neg (ne_true_of_eq_false hFull)⟩
  · subst htau
    have hNotHome : ¬ (s.tileHome r.tensor (s.tauOf r.tensor r.tileK r.tileN) = s.me ∧ (s.stepOf r.step).rolled = true) := by
      rw [not_and_or, Bool.not_eq_true]
      exact hHome
    rw [exec_retRoot_of_good hGood hRuns, if_pos ⟨hMirror, hNotHome⟩]
  · subst htau
    rw [exec_retRoot_of_good hGood hRuns, if_neg fun hNeither => hKeeper.elim hNeither.1 hNeither.2]
    exact ⟨fun hFree => if_pos hFree, fun hFull => if_neg (ne_true_of_eq_false hFull)⟩
  · subst hu hz hp
    exact exec_candidateForm_of_retained htau h hCurrent hNew

section Copies
variable {s : State}

theorem exec_scaleSetArrive_of_entry {tag : Nat} {x : ScaleSet} (h : s.entryOf x.version ≠ none) :
    exec (.scaleSetArrive tag x) s =
      if setGood x then .next ((s.acceptSet x).emit [.ack (s.voteParent s.me) tag]) else .next (s.badSet x.version) :=
  if_neg (by rwa [Option.isNone_iff_eq_none])

theorem exec_wcTile_of_slot {t : State} {x : WcTile} (ht : t = (s.updWeir fun w => { w with bcastTiles := satAdd 0xFFFFFFFF w.bcastTiles 1 }).emit
      ((s.wcTargets x.tensor x.src).map fun d => .wcTile d x)) (h : s.wcSlotOf x.version x.tensor ≠ none) :
    exec (.wcTile x) s =
      if wcDigest (s.wcFmt x.tensor) (tileKey x.tensor x.tileK x.tileN) x.version x.codes x.csums = x.digest then
        .next ((t.storeTile x).emit [.ack x.src x.tag]).tryInstall
      else .next (t.badTile x) :=
  ht ▸ if_neg (by rwa [Option.isNone_iff_eq_none])

theorem exec_wcResend_eq (d : DevId) (t k l v : Nat) :
    exec (.wcResend d t k l v) s = .next (((s.sourceOf v t (s.tauOf t k l)).map fun x => s.emit [.wcTile d x]).getD s) := by
  change execWcResend d t k l v s = _
  unfold execWcResend
  cases s.sourceOf v t (s.tauOf t k l) <;> rfl

end Copies

/-- Settles O29: the derivation by its four conditions, the arrivals by their entry or slot and then by their digest. -/
theorem workingCopiesAndScaleSetsArrive : Obligations.WorkingCopiesAndScaleSetsArrive := by
  refine ⟨fun s n hRoot hApply hAll hNew => if_pos ⟨hRoot, hApply, hAll, hNew⟩, fun s n h => if_neg ?_,
    fun s tag x => ⟨fun h => if_pos (Option.isNone_iff_eq_none.mpr h), fun hEntry hGood => ?_, fun hEntry hBad => ?_⟩,
    fun s t x ht => ⟨fun h => ?_, fun hSlot hDigest => ?_, fun hSlot hDigest => ?_⟩, fun s d t k l v => ⟨fun x h => ?_, fun h => ?_⟩⟩
  · rintro ⟨hRoot, hApply, hAll, hNew⟩
    obtain h | h | h | h := h
    · exact Bool.false_ne_true (h.symm.trans hRoot)
    · exact h hApply
    · exact Bool.false_ne_true (h.symm.trans hAll)
    · exact Bool.false_ne_true (hNew.symm.trans h)
  · rw [exec_scaleSetArrive_of_entry hEntry, if_pos hGood]
  · rw [exec_scaleSetArrive_of_entry hEntry, if_neg (ne_true_of_eq_false hBad)]
  · exact ht ▸ if_pos (Option.isNone_iff_eq_none.mpr h)
  · rw [exec_wcTile_of_slot ht hSlot, if_pos hDigest]
  · rw [exec_wcTile_of_slot ht hSlot, if_neg hDigest]
  · rw [exec_wcResend_eq, h]
    rfl
  · rw [exec_wcResend_eq, h]
    rfl

section Rebuilds
variable {s : State}

theorem exec_replicaRepairDone_of_ready {n t h : Nat} {rows : Bool}
    (hRepairing : ((s.digestOf n).repairing.any fun x => x.1 == rows && x.2.1 == t && x.2.2.1 == h) = true)
    (hReady : s.repairReady n rows t = true) :
    exec (.replicaRepairDone n rows t h) s =
      ((s.digestOf n).refs.find? fun x => x.1 == rows && x.2.1 == t && x.2.2.1 == h).elim (.next (s.repairOk n rows t h)) fun x =>
        if x.2.2.2 = [] ∨ x.2.2.2 = s.repaired n rows t h then .next (s.repairOk n rows t h)
        else .next (s.raise .deviceFatal 0x061 (unitNo 4 0) n t) := by
  refine (if_neg (by simp only [hRepairing, hReady, Bool.true_eq_false, or_self, not_false_eq_true])).trans ?_
  cases (s.digestOf n).refs.find? fun x => x.1 == rows && x.2.1 == t && x.2.2.1 == h <;> rfl

/-- REBUILD_REDO of a rebuild that runs: the earlier leaves, whom to ask, then the redone leaf (R365). -/
theorem exec_rebuildRedo_of_some {key : Nat} {pre leaf : List Byte} {r : Rebuild} {t : State}
    (h : s.weir.rebuilding.find? (fun r => r.key == key) = some r)
    (ht : t = s.updWeir fun w => { w with rebuilding := w.rebuilding.filter fun x => x.key != key }) :
    exec (.rebuildRedo key pre leaf) s =
      if leafOf r.pre ≠ pre then
        (if r.fromHost ∨ r.askedAt ≠ none then .next s else .next (s.updRebuild key fun x => { x with askedAt := some s.now }))
      else if s.redoLeaf r.step key r.pre = leaf then .next (s.endRebuild r)
      else .next (if s.diverges key then t.raise .deviceFatal 0x063 (unitNo 4 0) r.step key else t) := by
  subst ht
  change execRebuildRedo key pre leaf s = _
  simp only [execRebuildRedo, h, apply_ite Host.Outcome.next]

theorem exec_rebuildHostLimit_eq {at' : Nat} {late : Rebuild → Bool}
    (hAsked : ∀ r t, r.askedAt = some t → late r = (!r.fromHost && decide (t + s.field "REBUILD_HOST_LIMIT" * 1000000 ≤ at')))
    (hNever : ∀ r, r.askedAt = none → late r = false) :
    exec (.rebuildHostLimit at') s = .next ((s.weir.rebuilding.filter late).foldl (fun a r =>
        if s.diverges r.key then a.raise .deviceFatal 0x063 (unitNo 4 0) r.step r.key else a)
      ((s.at' at').updWeir fun w => { w with
        rebuilding := w.rebuilding.filter fun r => !(s.weir.rebuilding.filter late).contains r })) := by
  change execRebuildHostLimit at' s = _
  unfold execRebuildHostLimit
  extract_lets late'
  have hLate : s.weir.rebuilding.filter late = late' := by
    refine congrArg (fun p => s.weir.rebuilding.filter p) (funext fun r => ?_)
    cases h : r.askedAt with
    | none => rw [hNever r h, Bool.and_false]
    | some t => exact hAsked r t h
  rw [hLate]

end Rebuilds

/-- Settles O30: repairs by the other references, replays by the root, rebuilds by the leaves, the host's limit by the late ones. -/
theorem digestsRepairsAndReplays : Obligations.DigestsRepairsAndReplays := by
  refine ⟨fun s tag f => rfl, fun s n rows t h => ⟨fun hIdle => if_pos hIdle, fun hRepairing hReady => ?_⟩,
    fun s d n => ⟨fun hRoot hMember hNew => if_pos ⟨hRoot, hMember, hNew⟩, fun h => if_neg ?_⟩, fun s o => rfl,
    fun s key pre leaf => ⟨fun h => ?_, fun r h => ⟨fun hPre hAsked => ?_, fun hPre hHost hNever => ?_, fun hPre hLeaf => ?_,
      fun t ht hPre hLeaf => ?_⟩⟩, fun s at' late hAsked hNever => exec_rebuildHostLimit_eq hAsked hNever⟩
  · rw [exec_replicaRepairDone_of_ready hRepairing hReady]
    refine ⟨fun hAlone => by rw [hAlone]; rfl, fun x hOther => ?_⟩
    rw [hOther]
    exact ⟨fun hAgrees => if_pos hAgrees, fun hContent hDiffers => if_neg (not_or.mpr ⟨hContent, hDiffers⟩)⟩
  · rintro ⟨hRoot, hMember, hNew⟩
    obtain h | h | h := h
    · exact Bool.false_ne_true (h.symm.trans hRoot)
    · exact h hMember
    · exact Bool.false_ne_true (hNew.symm.trans h)
  · change execRebuildRedo key pre leaf s = _
    rw [execRebuildRedo, h]
  · rw [exec_rebuildRedo_of_some h rfl, if_pos hPre, if_pos hAsked]
  · rw [exec_rebuildRedo_of_some h rfl, if_pos hPre, if_neg (by simp [hHost, hNever])]
  · rw [exec_rebuildRedo_of_some h rfl, if_neg (not_not.mpr hPre), if_pos hLeaf]
  · rw [exec_rebuildRedo_of_some h ht, if_neg (not_not.mpr hPre), if_neg hLeaf]

/-- BARRIER_SEND with a barrier to come: only before the word is sent, in its step and a job that runs (R370). -/
theorem exec_barrierSend_of_target {s : State} {n : Nat} (h : s.barrierTarget = some n) :
    exec .barrierSend s = if s.ctl.sealed + 1 = n ∧ s.ctl.layout.barrierSent = false ∧ s.ctl.halted = false then
        .next (((s.updLayout fun l => { l with
          barrierSent := true, lstate := if s.ctl.switchTarget.isSome then l.lstate else .barrier }).takeBarrier s.me
            (s.ownBarrier n)).settled)
      else .next s := by
  change execBarrierSend s = _
  simp only [execBarrierSend, h]

/-- Settles O31: the barrier by its three conditions, words by their sender, shards by their digest. -/
theorem reshardBarrierAndMove : Obligations.ReshardBarrierAndMove := by
  refine ⟨fun s n h hNext hNew hRuns => ?_, fun s h => ?_, fun s n h hIdle => ?_,
    fun s w => ⟨fun h => ⟨if_pos h, if_pos h⟩, fun h => ⟨if_neg h, if_neg h⟩⟩, fun s o => ⟨rfl, rfl, rfl⟩,
    fun s x hDigest hCopies => if_pos ⟨hDigest, hCopies⟩, fun s t x n hBad hn ht => ?_⟩
  · rw [exec_barrierSend_of_target h, if_pos ⟨hNext, hNew, hRuns⟩]
  · change execBarrierSend s = _
    rw [execBarrierSend, h]
  · rw [exec_barrierSend_of_target h, if_neg]
    rintro ⟨hNext, hNew, hRuns⟩
    obtain h | h | h := hIdle
    · exact h hNext
    · exact Bool.false_ne_true (hNew.symm.trans h)
    · exact Bool.false_ne_true (hRuns.symm.trans h)
  · subst ht hn
    refine if_neg ?_
    rw [not_and_or, Bool.not_eq_true]
    exact hBad

end Sys2Proof.Proofs
end

section
/-! The links of the fabric (R397 to R400, R408, R423): training, LINK_INIT, flits, retraining and the loss of a link. -/

open Sys2Proof Sys2Proof.Machine

namespace Sys2Proof.Proofs

section Training
variable {s : State} {p : PortId} {rates : List Nat} {half : Bool} {r : Nat}

theorem exec_linkTrain_of_no_rate (hr : r = (rates.filter fun r => 1 ≤ r && r ≤ s.rateCap p).foldl (fun a r => max a r) 0) (h : r = 0) :
    exec (.linkTrain p rates half) s = .next s := by
  change execLinkTrain p rates half s = _
  simp only [execLinkTrain, ← hr, h]

/-- LINK_TRAIN with a rate in common: by the port's mode, and then by what the port was (R398). -/
theorem exec_linkTrain_of_rate (hr : r = (rates.filter fun r => 1 ≤ r && r ≤ s.rateCap p).foldl (fun a r => max a r) 0) (h : r ≠ 0)
    {t u v : State} (ht : t = s.tick.updPort p fun x => { x with
      state := if (s.portMode p == 2 || (s.port p).state == .retraining || (s.port p).state == .up) then .up else .training
      rate := r, half := half, rtt := Config.freeNat s.fresh % 2 ^ 16, rev := if s.portMode p = 2 then 3 else x.rev })
    (hu : u = if s.portMode p = 1 then (t.emit [.linkInit p (t.ownInit p)]).sendCtrl p else t)
    (hv : v = if ((s.port p).state == .retraining) = true then
      (u.resendFrom p 4096).reportSuspicion (s.port p).peerId p.val true s.now else u) :
    exec (.linkTrain p rates half) s =
      if s.portMode p = 0 then .next s
      else if s.portMode p = 2 ∧ half = true then .next (s.updPort p fun x => { x with state := .down, rate := 0 })
      else .next v.drain := by
  subst hv hu ht
  change execLinkTrain p rates half s = _
  obtain ⟨n, rfl⟩ := Nat.exists_eq_succ_of_ne_zero h
  simp only [execLinkTrain, ← hr]

theorem exec_linkTrain_of_absent (h : s.portMode p = 0) : exec (.linkTrain p rates half) s = .next s := by
  by_cases hRate : (rates.filter fun r => 1 ≤ r && r ≤ s.rateCap p).foldl (fun a r => max a r) 0 = 0
  · exact exec_linkTrain_of_no_rate rfl hRate
  · exact (exec_linkTrain_of_rate rfl hRate rfl rfl rfl).trans (if_pos h)

end Training

section Init
variable {s : State} {p : PortId} {l : LinkInit}

/-- The state of a port that has taken the peer's LINK_INIT: by its revision, then by its pod and manifest (R397). -/
def initState (s : State) (l : LinkInit) : PortState :=
  if min 3 l.rev < 2 then .down else if l.pod == s.podNo && l.manifest == s.manifestDigest then .up else .held

theorem exec_linkInit_of_native {st : PortState} {t : State} (ht : t = (s.updPort p fun x => { x with
      state := st, rev := min 3 l.rev, credits := l.bufs, peerId := l.peerId, peerTray := l.trayId, peerPort := l.port
      rate := if min 3 l.rev = 2 then min 2 x.rate else x.rate }).takeId) (hst : st = initState s l)
    (hNative : s.portMode p = 1) (hHere : (s.port p).state ≠ .absent) (hLive : (s.port p).state ≠ .down) :
    exec (.linkInit p l) s =
      if st = .held then .next (t.portFault p 0x073) else if st = .up then .next t.announce.drain else .next t := by
  subst ht hst
  exact if_neg (by simp only [hNative, hHere, hLive, ne_eq, not_true_eq_false, or_self, not_false_eq_true])

end Init

section Flits
variable {s t : State} {p : PortId} {f : Flit}

/-- What the port does with a flit whose CRC is good, once its header is taken: by its type, its order and the port's resend (R400). -/
theorem exec_flitReceive_of_good (ht : t = s.updPort p fun x => x.flitHeader f) (hHere : (s.port p).state ≠ .absent)
    (hLive : (s.port p).state ≠ .down) (hCrc : crc32c f.body = f.crc) :
    (f.type = .idle → exec (.flitReceive p f) s = .next t.drain)
    ∧ (f.type = .nak → exec (.flitReceive p f) s = .next (t.takeNak p f.ack s.now).drain)
    ∧ (f.type ≠ .idle → f.type ≠ .nak → exec (.flitReceive p f) s =
      if f.seq = (s.port p).expect then
        .next (t.updPort p fun x => { x with expect := (x.expect + 1) % 4096, awaitResend := false }).drain
      else if (s.port p).awaitResend then .next t.drain
      else .next (t.sendNak p).drain) := by
  subst ht
  have hTaken := not_or.mpr ⟨hHere, hLive⟩
  refine ⟨fun hType => ?_, fun hType => ?_, fun hData hAnswer => ?_⟩ <;> change execFlitReceive p f s = _
  · simp only [execFlitReceive, if_neg hTaken, if_neg (not_not.mpr hCrc), hType]
  · simp only [execFlitReceive, if_neg hTaken, if_neg (not_not.mpr hCrc), hType]
  · simp only [execFlitReceive, if_neg hTaken, if_neg (not_not.mpr hCrc)]

end Flits

/-- Settles O32: each link command by the port's mode and state, then by what the peer or the flit says. -/
theorem linksTrainAndRetrain : Obligations.LinksTrainAndRetrain := by
  refine ⟨fun s p rates half r hr => ⟨fun h => ?_, fun hRate hEth hHalf => ?_, fun t u v ht hu hv hRate hMode hWhole => ?_⟩,
    fun s p l => ⟨fun h => if_pos h, fun st t ht hNative hHere hLive => ⟨fun hRev hst => ?_, fun hRev hSame hst => ?_,
      fun hRev hOther hst => ?_⟩⟩,
    fun s p f => ⟨fun h => if_pos h, fun hHere hLive hCrc => (if_neg (not_or.mpr ⟨hHere, hLive⟩)).trans (if_pos hCrc),
      fun t ht hHere hLive hCrc => ?_⟩,
    fun s p a n => rfl,
    fun s p n => ⟨fun hRetrains hLimit => if_pos ⟨hRetrains, hLimit⟩, fun h => if_neg ?_, fun hNative hState => if_pos ⟨hNative, hState⟩,
      fun h => if_neg ?_⟩, fun s p l => rfl⟩
  · exact h.elim (exec_linkTrain_of_no_rate hr) exec_linkTrain_of_absent
  · rw [exec_linkTrain_of_rate hr hRate rfl rfl rfl, if_neg (by simp [hEth]), if_pos ⟨hEth, hHalf⟩]
  · rw [exec_linkTrain_of_rate hr hRate ht hu hv, if_neg hMode, if_neg hWhole]
  · have hState : st = initState s l := hst.trans (if_pos (by omega)).symm
    rw [exec_linkInit_of_native ht hState hNative hHere hLive, if_neg (by simp [hst]), if_neg (by simp [hst])]
  · have hState : st = initState s l := hst.trans ((if_neg (by omega)).trans (if_pos hSame)).symm
    rw [exec_linkInit_of_native ht hState hNative hHere hLive, if_neg (by simp [hst]), if_pos hst]
  · have hState : st = initState s l := hst.trans ((if_neg (by omega)).trans (if_neg (ne_true_of_eq_false hOther))).symm
    rw [exec_linkInit_of_native ht hState hNative hHere hLive, if_pos hst]
  · obtain ⟨hIdle, hNak, hData⟩ := exec_flitReceive_of_good ht hHere hLive hCrc
    refine ⟨hIdle, hNak, fun hType hAnswer hSeq => ?_, fun hType hAnswer hSeq hAwaits => ?_, fun hType hAnswer hSeq hNew => ?_⟩
    · rw [hData hType hAnswer, if_pos hSeq]
    · rw [hData hType hAnswer, if_neg hSeq, if_pos hAwaits]
    · rw [hData hType hAnswer, if_neg hSeq, if_neg (ne_true_of_eq_false hNew)]
  · exact fun hBoth => h.elim (· hBoth.1) fun hEarly => hEarly.not_ge hBoth.2
  · exact fun hBoth => h.elim (· hBoth.1) fun hNeither => hBoth.2.elim hNeither.1 hNeither.2

end Sys2Proof.Proofs
end

section
/-! Frames and remote accesses (R205, R241, R402 to R413), Ethernet and acknowledged frames (R414, R415, R427). -/

open Sys2Proof Sys2Proof.Machine

namespace Sys2Proof.Proofs

section Frames
variable {s : State} {f : Frame}

theorem exec_frameForward_own_of_none (h : s.drain.fillFrame' f = none) : exec (.frameForward none f) s = .next s.drain := by
  change execFrameForward none f s = _
  simp only [execFrameForward, h]

/-- A frame of this device's own, filled: by whether it is valid and may be sent (R402, R413). -/
theorem exec_frameForward_own_of_some {f' g : Frame} {t' u : State} (h : s.drain.fillFrame' f = some (f', t')) (hg : g = t'.ownFrame f')
    (hu : u = t'.useCounters f'.ctx.val 1) :
    exec (.frameForward none f) s = if frameInvalidOn g 0 || !(t'.maySend g) then .next s.drain
      else .next (if u.mine g then u.consume g else u.route none g) := by
  subst hu hg
  change execFrameForward none f s = _
  simp only [execFrameForward, h]

theorem exec_rdRsp_of_none {tag : Nat} {data : List Byte} (h : s.tier.remoteWait.find? (fun x => x.1 == tag) = none) :
    exec (.rdRsp tag data) s = .next s := by
  change execRdRsp tag data s = _
  rw [execRdRsp, h]

theorem exec_rdRsp_of_some {tag : Nat} {data : List Byte} {w : Nat × Nat × Nat}
    (h : s.tier.remoteWait.find? (fun x => x.1 == tag) = some w) :
    exec (.rdRsp tag data) s = .next ((s.updTier fun y =>
      { y with remoteWait := y.remoteWait.filter fun x => x.1 != tag }).updCore (Fin.ofNat 32 w.2.2) fun k => { k with feed := { k.feed with
        queue := k.feed.queue.map fun x => if x.remote = some tag then { x with data := data, remote := none } else x } }) := by
  change execRdRsp tag data s = _
  simp only [execRdRsp, h]

end Frames

/-- Settles O33: own frames by what fills them, accesses by their admission, responses by the wait of their tag. -/
theorem framesAreServed : Obligations.FramesAreServed := by
  refine ⟨fun s p f => rfl, fun s f => ⟨exec_frameForward_own_of_none, fun f' t' g u h hg hu => ⟨fun hBad => ?_, fun hGood => ?_⟩⟩,
    fun s f a n => ⟨rfl, rfl⟩, fun s tag data => ⟨exec_rdRsp_of_none, fun w h => exec_rdRsp_of_some h⟩⟩
  · rw [exec_frameForward_own_of_some h hg hu, if_pos hBad]
  · rw [exec_frameForward_own_of_some h hg hu, if_neg (ne_true_of_eq_false hGood)]

section Accesses
variable {s : State}

/-- WR_ACK: the wait of the tag ends, and with it the transfer that waited (R205). -/
theorem exec_wrAck_eq {t u : State} {tag : Nat} (ht : t = s.updTier fun y => { y with remoteWait := y.remoteWait.filter fun x => x.1 != tag })
    (hNone : s.tier.remoteWait.find? (fun x => x.1 == tag) = none → u = t)
    (hSome : ∀ w, s.tier.remoteWait.find? (fun x => x.1 == tag) = some w → u = t.updCore (Fin.ofNat 32 w.2.2) fun k =>
      { k with feed := { k.feed with
        queue := k.feed.queue.map fun x => if x.remote = some tag then { x with remote := none } else x } }) :
    exec (.wrAck tag) s = .next (u.updAtl fun a => { a with ctxs := a.ctxs.map fun x => (x.1, ackSpool tag x.2) }) := by
  subst ht
  change execWrAck tag s = _
  unfold execWrAck
  dsimp only
  cases h : s.tier.remoteWait.find? (fun x => x.1 == tag) with
  | none => rw [hNone h]
  | some w => rw [hSome w h]

theorem exec_ctlReq_of_good {f : Frame} (w : Bool) (a : Nat) (v : W64) (hAdmitted : (s.admitFrame f).2 = true) (hRuns : s.atl.running = true)
    (hPlain : f.payload.headD 0 ≠ 1) :
    exec (.ctlReq f w a v) s = if w then .next (((s.admitFrame f).1.writeAccess a 8 v.toNat).emit [.ctlRsp f.src f.tag 0])
      else .next (((s.admitFrame f).1.readAccess a 8).1.emit
        [.ctlRsp f.src f.tag (BitVec.ofNat 64 ((s.admitFrame f).1.readAccess a 8).2)]) :=
  if_neg (by simp only [hAdmitted, hRuns, hPlain, Bool.true_eq_false, or_self, not_false_eq_true])

end Accesses

/-- Settles O34: the acknowledgement by the wait of its tag, the control access by its admission and its direction. -/
theorem remoteAccessesComplete : Obligations.RemoteAccessesComplete := by
  refine ⟨fun s t u tag ht hNone hSome => exec_wrAck_eq ht hNone hSome, fun s f w a v => ⟨fun h => if_pos h, fun hAdmitted hRuns hPlain => ?_⟩,
    fun s tag v => rfl⟩
  exact ⟨exec_ctlReq_of_good true a v hAdmitted hRuns hPlain, exec_ctlReq_of_good false a v hAdmitted hRuns hPlain⟩

section Ethernet
variable {s : State}

/-- ETH_PACKET on a port that is up, after the control parts and the CE mark: by the frame and its PSN (R414). -/
theorem exec_ethPacket_of_up {t u : State} {p : PortId} {k : EthPacket} {n : Nat} {answer : State → Bool → State} (hMode : s.portMode p = 2)
    (hUp : (s.port p).state = .up) (ht : t = (s.at' n).ethControl p k n)
    (hu : u = if k.ceMark then t.updFlow k.src k.vc fun x => { x with ceSeen := true } else t)
    (hAnswer : ∀ v nak, answer v nak =
      (v.emit [.eth p (v.ethPacketOf k.src k.vc 0 nak none)]).updFlow k.src k.vc fun x => { x with ceSeen := false }) :
    (k.frame = none → exec (.ethPacket p k n) s = .next u.drain)
    ∧ (∀ f, k.frame = some f → exec (.ethPacket p k n) s =
      if k.psn = (u.flow k.src k.vc).expect then
        .next (answer ((u.updFlow k.src k.vc fun x => { x with expect := (x.expect + 1) % 2 ^ 32 }).frameIn p f) false).drain
      else .next (answer u (decide ((k.psn + 2 ^ 32 - (u.flow k.src k.vc).expect) % 2 ^ 32 < 2 ^ 31))).drain) := by
  obtain rfl := funext fun v => funext (hAnswer v)
  subst hu ht
  have hTaken : ¬ (s.portMode p ≠ 2 ∨ (s.port p).state ≠ .up) := by simp [hMode, hUp]
  refine ⟨fun h => ?_, fun f h => ?_⟩ <;>
    (change execEthPacket p k n s = _; simp only [execEthPacket, if_neg hTaken, h])

theorem exec_ethRto_of_none {d : DevId} {vc n : Nat} (h : s.ethPortOf d = none) : exec (.ethRto d vc n) s = .next s := by
  change execEthRto d vc n s = _
  simp only [execEthRto, h]

theorem exec_ethRto_of_port {d : DevId} {vc n : Nat} {p : PortId} {waits : Bool} (h : s.ethPortOf d = some p)
    (hWaits : waits = s.fab.waitingFrames.any fun x => s.bound x.2.dst == d && x.2.vc == vc) :
    exec (.ethRto d vc n) s =
      if ((s.flow d vc).unacked = [] ∧ waits = false) ∨ n < (s.flow d vc).deadline then .next s
      else if (s.flow d vc).unacked = [] then
        .next (((s.at' n).updFlow d vc fun x => { x with rto := min (64 * s.rtoBase) (2 * x.rto) }).askGrant d vc)
      else .next (((s.at' n).ethResend p d vc (s.flow d vc).unacked).updFlow d vc fun x =>
        { x with rto := min (64 * s.rtoBase) (2 * (s.flow d vc).rto), deadline := n + min (64 * s.rtoBase) (2 * (s.flow d vc).rto) }) := by
  subst hWaits
  change execEthRto d vc n s = _
  simp only [execEthRto, h]

end Ethernet

/-- Settles O35: packets by their PSN, the timeout by the flow and its deadline, acknowledgements by their equations. -/
theorem ethernetAndAcksRetry : Obligations.EthernetAndAcksRetry := by
  refine ⟨fun s p k n h => if_pos h, fun s t u p k n answer hMode hUp ht hu hAnswer => ?_, fun s d vc n h => exec_ethRto_of_none h,
    fun s d vc n p waits h hWaits => ⟨fun hIdle => ?_, fun hSent hWaiting hDue => ?_, fun hSent hDue => ?_⟩, fun s d tag => rfl,
    fun s tag n due hDue => hDue ▸ rfl⟩
  · obtain ⟨hEmpty, hFrame⟩ := exec_ethPacket_of_up hMode hUp ht hu hAnswer
    refine ⟨hEmpty, fun f h => ⟨fun hPsn => ?_, fun hPsn => ?_⟩⟩
    · rw [hFrame f h, if_pos hPsn]
    · rw [hFrame f h, if_neg hPsn]
  · rw [exec_ethRto_of_port h hWaits, if_pos hIdle]
  · rw [exec_ethRto_of_port h hWaits, if_neg (by simp [hWaiting, hDue]), if_pos hSent]
  · rw [exec_ethRto_of_port h hWaits, if_neg (by simp [hSent, hDue]), if_neg hSent]

end Sys2Proof.Proofs
end

section
/-! Heartbeats, suspicion and discovery (R419 to R424, R432); failures confirmed and fenced (R433 to R435); the membership record and the
leases (R436 to R439, R446). -/

open Sys2Proof Sys2Proof.Machine

namespace Sys2Proof.Proofs

section Discovery
variable {s : State} {n : Nat}

/-- Whether a heartbeat may go out at an instant: none was sent, or 1 ms has passed (R424). -/
def beatDue (s : State) (n : Nat) : Bool := match s.fab.hbAt with
  | some t => decide (t + ms ≤ n)
  | none => true

theorem exec_heartbeatSend_of_not_due (h : beatDue s n = false ∨ s.pow.phase < 3 ∨ s.fab.devId = 0 ∨ s.atl.running = false) :
    exec (.heartbeatSend n) s = .next s := by
  change execHeartbeatSend n s = _
  unfold execHeartbeatSend
  exact if_pos h

theorem exec_heartbeatSend_of_due {t : State} {h : Heartbeat} (hDue : beatDue s n = true) (hPhase : 3 ≤ s.pow.phase) (hId : s.fab.devId ≠ 0)
    (hRuns : s.atl.running = true)
    (ht : t = ((s.at' n).updRcv fun r => { r with hbStopped := (s.rcv.isCoord || s.rcv.isDeputy) && !s.podsHeard n }).updAtl fun a =>
      { a with live := (a.live + 1) % 2 ^ 32 })
    (hBeat : h = { src := s.fab.devId, epoch := s.ctl.memEpoch, live := t.atl.live, sealedLo := s.ctl.sealed % 2 ^ 32 }) :
    exec (.heartbeatSend n) s = .next ((t.updFab fun f => { f with hbAt := some n, hbSent := f.hbSent + t.beatTo.length }).emit
      (t.beatTo.map fun d => .heartbeat d h)) := by
  subst hBeat ht
  have hGoes : ¬ (beatDue s n = false ∨ s.pow.phase < 3 ∨ s.fab.devId = 0 ∨ s.atl.running = false) := by
    simp [hDue, hPhase, hId, hRuns]
  change execHeartbeatSend n s = _
  unfold execHeartbeatSend
  exact if_neg hGoes

theorem beatDue_eq_false_iff : beatDue s n = false ↔ ∃ t, s.fab.hbAt = some t ∧ n < t + ms := by
  unfold beatDue
  cases s.fab.hbAt <;> simp

theorem beatDue_of_forall (h : ∀ x, s.fab.hbAt = some x → x + ms ≤ n) : beatDue s n = true := by
  unfold beatDue
  cases hSent : s.fab.hbAt with
  | none => rfl
  | some x => exact decide_eq_true (h x hSent)

/-- DISCOVERY_QUIET once the graph has been quiet for 1 ms: by the device's role and the coordinator's digest (R419). -/
theorem exec_discoveryQuiet_of_quiet {t : State} {g : List Byte} {fin : State → State} (hQuiet : s.fab.graphAt + 1000000 ≤ n)
    (hOpen : s.fab.graphDone = false) (hPhase : 3 ≤ s.pow.phase)
    (ht : t = ((s.at' n).takeId.updFab fun f => { f with graph := kvPut f.devId (s.at' n).takeId.ownNeighbours f.graph }).reroute.podRoles)
    (hFin : ∀ u, fin u = (u.updFab fun f => { f with graphDone := true }).updPow fun p => { p with discovered := true }) :
    exec (.discoveryQuiet g n) s = if t.rcv.isCoord then .next (fin (t.emit [.graphDigest (graphDigest t.fab.graph)]))
      else if g = graphDigest t.fab.graph then .next (fin t) else .next t.announce := by
  obtain rfl := funext hFin
  subst ht
  exact if_neg (by simp [hQuiet, hOpen, hPhase])

theorem exec_discover_of_other {d : DevId} {l : List Neighbour} (h : ¬(d ≠ 0 ∧ d = s.fab.devId)) :
    exec (.discover d l n) s = if d = 0 ∨ kvFind d s.fab.graph = some l then .next (s.at' n)
      else .next (((s.at' n).updFab fun f => { f with graph := kvPut d l f.graph, graphAt := n, graphDone := false }).flood d l) :=
  if_neg h

end Discovery

/-- Settles O36: heartbeats by the time since the last, suspicion by the equal counts, discovery by what is new. -/
theorem discoveryAndHeartbeats : Obligations.DiscoveryAndHeartbeats := by
  refine ⟨fun s n h => ?_, fun s t n h hPhase hId hRuns hDue ht hBeat =>
      exec_heartbeatSend_of_due (beatDue_of_forall hDue) hPhase hId hRuns ht hBeat,
    fun s h n hFailed hOlder => if_pos ⟨hFailed, hOlder⟩, fun s u v h n same live hTaken hSame hu hLive hv => ?_,
    fun s d n => (apply_ite Host.Outcome.next ..).symm,
    fun s d l n => ⟨fun hSender hOwn hEcho => (if_pos ⟨hSender, hOwn⟩).trans (if_pos hEcho),
      fun hSender hOwn hOther => (if_pos ⟨hSender, hOwn⟩).trans (if_neg hOther), fun h => ?_, fun hSender hOther hNew => ?_⟩,
    fun s g n h => if_pos h, fun s t g n fin hQuiet hOpen hPhase ht hFin => ?_⟩
  · rw [← beatDue_eq_false_iff] at h
    exact exec_heartbeatSend_of_not_due (by tauto)
  · subst hv hLive hu hSame
    exact (if_neg hTaken).trans (apply_ite Host.Outcome.next ..).symm
  · obtain hZero | ⟨hOther, hKnown⟩ := h
    · rw [exec_discover_of_other fun hBoth => hBoth.1 hZero, if_pos (.inl hZero)]
    · rw [exec_discover_of_other fun hBoth => hOther hBoth.2, if_pos (.inr hKnown)]
  · rw [exec_discover_of_other fun hBoth => hOther hBoth.2, if_neg (not_or.mpr ⟨hSender, hNew⟩)]
  · rw [exec_discoveryQuiet_of_quiet hQuiet hOpen hPhase ht hFin]
    refine ⟨fun hCoord => if_pos hCoord, fun hCoord hAgrees => ?_, fun hCoord hDiffers => ?_⟩
    · rw [if_neg (ne_true_of_eq_false hCoord), if_pos hAgrees]
    · rw [if_neg (ne_true_of_eq_false hCoord), if_neg hDiffers]

/-- Settles O37: each of the three commands is one test, and the time moves either way. -/
theorem failuresAreConfirmedAndFenced : Obligations.FailuresAreConfirmedAndFenced :=
  ⟨fun _ _ _ => (apply_ite Host.Outcome.next ..).symm, fun _ _ _ => (apply_ite Host.Outcome.next ..).symm,
    fun _ _ => (apply_ite Host.Outcome.next ..).symm⟩

section Membership
variable {s : State} {n : Nat} {d : DevId}

/-- MEMBER of a record that is not newer, or at a fenced device: acknowledged where its epoch is the one in force (R436). -/
theorem exec_member_of_old {m : MemberRec} (h : m.epoch ≤ s.ctl.memEpoch ∨ s.fenced = true) :
    exec (.member m) s = .next (if m.epoch = s.ctl.memEpoch then s.emit [.memberAck s.jobCoordDev m.epoch] else s) := if_pos h

/-- MEMBER of a newer record: this device is out, is bound to an ID, or neither. -/
theorem exec_member_of_new {m : MemberRec} (hNew : s.ctl.memEpoch < m.epoch) (hLive : s.fenced = false) :
    exec (.member m) s = if m.failed.contains s.me && (s.rcv.role == .member || s.rcv.role == .takeover) then .next (s.fence .fenced false)
      else .next ((s.bindingHere m).elim ((s.applyEpoch m).emit [.memberAck (s.applyEpoch m).jobCoordDev m.epoch]) fun d =>
        if s.hasMember d then ((s.applyEpoch m).beginTakeover m d).emit [.memberAck ((s.applyEpoch m).beginTakeover m d).jobCoordDev m.epoch]
        else (s.applyEpoch m).emit [.failed (s.applyEpoch m).jobCoordDev]) := by
  refine (if_neg (by simp [hNew, hLive])).trans ?_
  cases s.bindingHere m <;> rfl

theorem exec_memberBatch_of_cons {x : DevId × Nat} {l : List (DevId × Nat)} {ids : List DevId} (h : s.rcv.confirmed = x :: l)
    (hIds : ids = s.ctl.members.filter fun d => (s.rcv.confirmed.map Prod.fst).contains (s.bound d)) :
    exec (.memberBatch n) s =
      if s.rcv.isJobCoord = true ∧ s.fenced = false ∧ x.2 + s.field "MEMBER_BATCH_US" * 1000 ≤ n then
        .next (((s.at' n).updRcv fun r => { r with
          fmAsked := (ids ++ s.voidIds).foldl (fun k d => kvPut d x.2 k) (s.at' n).rcv.fmAsked }).sendRecord ids)
      else .next (s.at' n) := by
  subst hIds
  change execMemberBatch n s = _
  simp only [execMemberBatch, h]

/-- MEMBER_ACK while a record is out: it counts at the job coordinator, and one acknowledgement makes the record final (R437). -/
theorem exec_memberAck_of_record {e : Nat} {dep : Bool} {m : MemberRec} {u w : State} (h : s.rcv.record = some m)
    (hu : u = (s.at' n).updRcv fun r => { r with acks := addNew d r.acks, deputyHolds := r.deputyHolds || dep })
    (hw : w = (u.updRcv fun r => { r with
      finalAt := n
      epochUs := min 0xFFFF ((n - (m.failed.filterMap fun d => kvFind d s.rcv.fmAsked).foldl min n) / 1000) }).grantLeases m) :
    exec (.memberAck d e dep n) s =
      if s.rcv.isJobCoord = false ∨ e ≠ m.epoch then .next (s.at' n)
      else if s.recordFinal m = false ∧ u.recordFinal m = true then
        .next (if s.field "FM_BIND_LIMIT" = 0 then w
          else m.bindings.foldl (fun a x => a.raiseDev .event 0x0F0 (unitNo 9 0) x.1) w)
      else .next u := by
  subst hw hu
  change execMemberAck d e dep n s = _
  simp only [execMemberAck, h]

theorem exec_memberAck_of_none {e : Nat} {dep : Bool} (h : s.rcv.record = none) : exec (.memberAck d e dep n) s = .next (s.at' n) := by
  change execMemberAck d e dep n s = _
  simp only [execMemberAck, h]

theorem exec_memberBatch_of_nil (h : s.rcv.confirmed = []) : exec (.memberBatch n) s = .next (s.at' n) := by
  change execMemberBatch n s = _
  simp only [execMemberBatch, h]

/-- The grant of the pooled region to this device's own takeover of an ID (R438, log entry 62). -/
def grantOwn (d : DevId) (u : State) : State := match u.rcv.takeover with
  | some x => if x.id = d then u.updRcv fun r => { r with takeover := some { x with cxlGranted := true } } else u
  | none => u

theorem eq_grantOwn {grant : State → State} (hNone : ∀ u, u.rcv.takeover = none → grant u = u)
    (hSome : ∀ u x, u.rcv.takeover = some x →
      grant u = if x.id = d then u.updRcv fun r => { r with takeover := some { x with cxlGranted := true } } else u) :
    grant = grantOwn d := funext fun u => by
  unfold grantOwn
  split
  next x h => exact hSome u x h
  next h => exact hNone u h

theorem exec_leaseGrace_of_other (h : s.rcv.isJobCoord = false) : exec (.leaseGrace d n) s = .next (grantOwn d (s.at' n)) := by
  change execLeaseGrace d n s = _
  unfold execLeaseGrace
  exact if_pos h

theorem exec_leaseGrace_of_unasked (hCoord : s.rcv.isJobCoord = true) (h : kvFind d s.rcv.fmAsked = none) :
    exec (.leaseGrace d n) s = .next (s.at' n) := by
  change execLeaseGrace d n s = _
  unfold execLeaseGrace
  refine (if_neg (ne_false_of_eq_true hCoord)).trans ?_
  rw [h]

/-- When the job coordinator may grant the region of an ID that was asked at `c`: the record is final, the grace time is over, and the fabric
manager has bound it or need not. -/
def GraceOver (s : State) (d : DevId) (c n : Nat) : Prop :=
  s.rcv.finalAt ≠ 0 ∧ c + s.field "LEASE_GRACE_MS" * ms ≤ n
    ∧ (decide (s.field "FM_BIND_LIMIT" = 0) || s.rcv.fmBound.contains d) = true ∧ s.rcv.unbound.contains d = false

theorem exec_leaseGrace_of_early {c : Nat} (hCoord : s.rcv.isJobCoord = true) (h : kvFind d s.rcv.fmAsked = some c) (hEarly : ¬ GraceOver s d c n) :
    exec (.leaseGrace d n) s = .next (s.at' n) := by
  change execLeaseGrace d n s = _
  unfold execLeaseGrace
  refine (if_neg (ne_false_of_eq_true hCoord)).trans ?_
  simp only [h]
  exact if_neg hEarly

theorem exec_leaseGrace_of_over {c : Nat} {u : State} (hCoord : s.rcv.isJobCoord = true) (h : kvFind d s.rcv.fmAsked = some c)
    (hOver : GraceOver s d c n)
    (hu : u = (s.at' n).updRcv fun r => { r with
      leases := kvPut (.cxlRegion, d) (s.bound d, s.ctl.memEpoch) r.leases, fmAsked := kvDel d r.fmAsked
      fmBound := r.fmBound.filter (· != d), fmLate := r.fmLate.filter (· != d)
      jobWait := !r.unbound.isEmpty || (r.fmLate.filter (· != d)) != [] }) :
    exec (.leaseGrace d n) s = .next (if s.bound d = s.fab.devId then grantOwn d u
      else (s.rcv.record.map fun m => u.emit [.member (s.bound d) m]).getD u) := by
  subst hu
  change execLeaseGrace d n s = _
  unfold execLeaseGrace
  refine (if_neg (ne_false_of_eq_true hCoord)).trans ?_
  simp only [h]
  refine (if_pos hOver).trans (congrArg _ ?_)
  split
  · rfl
  · cases s.rcv.record <;> rfl

end Membership

/-- Settles O38: records by their epoch, the batch and the acknowledgements by the job coordinator's state, the grant by `GraceOver`. -/
theorem membershipChangesByRecord : Obligations.MembershipChangesByRecord := by
  refine ⟨fun s m => ⟨fun h => ?_, fun h => ?_, fun hNew hLive => ?_⟩,
    fun s n => ⟨exec_memberBatch_of_nil, fun x l ids h hIds => ⟨fun hWaits => ?_, fun hCoord hLive hDue => ?_⟩⟩,
    fun s d e n dep => ⟨exec_memberAck_of_none, fun m u h hu => ⟨fun hOther => ?_, fun hCoord hEpoch hNoted => ?_,
      fun hCoord hEpoch hOpen hFinal w hw => ?_⟩⟩,
    fun s d n grant hNone hSome => ?_, fun s d n => (apply_ite Host.Outcome.next ..).symm⟩
  · rw [exec_member_of_old h.2, if_pos h.1]
  · obtain hOld | ⟨hFenced, hOther⟩ := h
    · rw [exec_member_of_old (.inl hOld.le), if_neg hOld.ne]
    · rw [exec_member_of_old (.inr hFenced), if_neg hOther]
  · rw [exec_member_of_new hNew hLive]
    refine ⟨fun hOut => if_pos hOut, fun hIn => ?_⟩
    rw [if_neg (ne_true_of_eq_false hIn)]
    refine ⟨fun hUnbound => by rw [hUnbound]; rfl, fun d hBound => ?_⟩
    rw [hBound]
    exact ⟨fun hHas => congrArg _ (if_pos hHas), fun hLacks => congrArg _ (if_neg (ne_true_of_eq_false hLacks))⟩
  · rw [exec_memberBatch_of_cons h rfl, if_neg]
    rintro ⟨hCoord, hLive, hDue⟩
    obtain h | h | h := hWaits
    · exact Bool.false_ne_true (h.symm.trans hCoord)
    · exact Bool.false_ne_true (hLive.symm.trans h)
    · exact h.not_ge hDue
  · rw [exec_memberBatch_of_cons h hIds, if_pos ⟨hCoord, hLive, hDue⟩]
  · rw [exec_memberAck_of_record h rfl rfl, if_pos hOther]
  · rw [exec_memberAck_of_record h hu rfl, if_neg (by simp [hCoord, hEpoch]), if_neg]
    exact fun hBoth => hNoted.elim (fun hAlready => Bool.false_ne_true (hBoth.1.symm.trans hAlready))
      fun hNot => Bool.false_ne_true (hNot.symm.trans hBoth.2)
  · rw [exec_memberAck_of_record h hu hw, if_neg (by simp [hCoord, hEpoch]), if_pos ⟨hOpen, hFinal⟩]
  · obtain rfl := eq_grantOwn hNone hSome
    refine ⟨exec_leaseGrace_of_other, exec_leaseGrace_of_unasked, fun c hCoord h => ⟨exec_leaseGrace_of_early hCoord h,
      fun u hu hFinal hGrace hBound hHere => ?_⟩⟩
    have hOver : GraceOver s d c n := ⟨hFinal, hGrace, hBound, hHere⟩
    rw [exec_leaseGrace_of_over hCoord h hOver hu]
    refine ⟨fun hSelf => by rw [if_pos hSelf], fun hOther hNoRecord => ?_, fun m hOther hRecord => ?_⟩
    · rw [if_neg hOther, hNoRecord]
      rfl
    · rw [if_neg hOther, hRecord]
      rfl

end Sys2Proof.Proofs
end

section
/-! Takeover, the folding of the journal and planned release (R441 to R451). -/

open Sys2Proof Sys2Proof.Machine

namespace Sys2Proof.Proofs

section Takeover
variable {s : State}

theorem exec_partnerUnitRequest_eq (d : DevId) (k v : Nat) :
    exec (.partnerUnitRequest d k v) s = .next (((s.standby.unitAt k v).map fun c => s.emit [.unit d k v c]).getD s) := by
  change execPartnerUnitRequest d k v s = _
  unfold execPartnerUnitRequest
  cases s.standby.unitAt k v <;> rfl

theorem exec_pullComplete_of_none (h : s.rcv.takeover = none) : exec .pullComplete s = .next s := by
  change execPullComplete s = _
  rw [execPullComplete, h]

theorem exec_pullComplete_of_idle {x : Takeover} (h : s.rcv.takeover = some x) (hIdle : x.cxlGranted = false ∨ x.pulled = true) :
    exec .pullComplete s = .next s := by
  change execPullComplete s = _
  simp only [execPullComplete, h, if_pos hIdle]

/-- TAKEOVER_DONE of an ID that is being taken over (R447): with the last one the aborted steps run again. -/
theorem exec_takeoverDone_of_taking {d : DevId} {n : Nat} {u v : State} (h : s.rcv.taking.contains d = true)
    (hu : u = (s.at' n).updRcv fun r => { r with
      taking := r.taking.filter (· != d), takeoverMs := if r.isJobCoord then (n - r.finalAt) / ms else r.takeoverMs })
    (hv : v = if s.rcv.isJobCoord then u.emit (((s.ctl.members.map s.bound).filter (· != s.fab.devId)).map fun e => .takeoverDone e d) else u) :
    (v.rcv.taking ≠ [] → exec (.takeoverDone d n) s = .next v)
    ∧ (v.rcv.taking = [] → exec (.takeoverDone d n) s = .next (v.rerun.updCtl fun c => { c with releaseTarget := match c.releaseTarget with
        | some x => if x = c.sealed + 1 then none else some x
        | none => none })) := by
  subst hv hu
  have hTaken := ne_false_of_eq_true h
  refine ⟨fun hMore => ?_, fun hLast => ?_⟩ <;>
    (change execTakeoverDone d n s = _; unfold execTakeoverDone; rw [if_neg hTaken])
  · exact if_neg hMore
  · exact if_pos hLast

theorem exec_journalFold_of_header {n : Nat} {h : StbyHeader} (hHeader : s.standby.header = some h) :
    exec (.journalFold n) s =
      if n = h.baseStep + 1 ∧ n + s.lag + 1 ≤ h.sealedStep ∧ s.sealedByAll n = true ∧ s.fenced = false then
        .next (s.updStandby fun x => (x.fold n).write { h with
          seq := h.seq + 1, baseStep := n
          head := (h.head + (s.standby.journal.filter fun j => j.step == n).foldl (fun a j => a + j.size) 0)
            % max 64 (s.field "STBY_JOURNAL_SIZE") })
      else .next s := by
  change execJournalFold n s = _
  simp only [execJournalFold, hHeader]

theorem exec_journalFold_of_no_header {n : Nat} (h : s.standby.header = none) : exec (.journalFold n) s = .next s := by
  change execJournalFold n s = _
  simp only [execJournalFold, h]

theorem exec_releaseFence_of_idle (h : s.ctl.releaseTarget = none ∨ ∃ t, s.ctl.releaseTarget = some t ∧ s.ctl.sealed + 1 ≠ t) :
    exec .releaseFence s = .next s := by
  change execReleaseFence s = _
  obtain hNone | ⟨t, hSome, hOther⟩ := h
  · simp only [execReleaseFence, hNone]
  · simp only [execReleaseFence, hSome, if_pos hOther]

/-- Whether the header of the step before `t` is stored, so that a release at `t` may fence (R451). -/
def storedBefore (s : State) (t : Nat) : Bool := match s.standby.header with
  | some h => h.sealedStep + 1 == t
  | none => false

theorem exec_releaseFence_of_target {a b : State} {t : Nat} {now : List Release} {ids : List DevId} (h : s.ctl.releaseTarget = some t)
    (hNext : s.ctl.sealed + 1 = t) (hNow : now = s.rcv.releases.filter fun r => r.target == t)
    (ha : a = if (now.any s.released) && s.rcv.role == .member && storedBefore s t then s.fence .released false else s)
    (hIds : ids = s.ctl.members.filter fun d => now.any fun r => if r.dev ≠ 0 then r.dev == d else s.trayOf (s.bound d) == (r.pod, r.tray))
    (hb : b = a.updRcv fun r => { r with
      releases := r.releases.filter fun x => x.target != t, finalAt := 0, fmAsked := ids.foldl (fun k d => kvPut d s.now k) r.fmAsked }) :
    exec .releaseFence s = .next (if s.rcv.isJobCoord = true ∧ s.rcv.taking = [] ∧ s.sealedByAll (t - 1) = true ∧ now ≠ []
      then (if ids = [] then b else b.sendRecord ids) else a) := by
  subst hb hIds ha hNow
  change execReleaseFence s = _
  unfold execReleaseFence
  rw [h]
  exact (if_neg (not_not.mpr hNext)).trans (apply_ite Host.Outcome.next ..).symm

end Takeover

/-- Settles O39: the pull by its grant, the end of a takeover by whether it is the last, the fold and the release by their steps. -/
theorem takeoversRestoreAnId : Obligations.TakeoversRestoreAnId := by
  refine ⟨fun s d k v => ⟨fun h => ?_, fun c h => ?_⟩, fun s h => exec_pullComplete_of_none h,
    fun s x h hIdle => exec_pullComplete_of_idle h hIdle,
    fun s t u w w1 y z x v base jour b rolls h hGranted hPulled hv hBase hJour hb ht hu hw hRolls hw1 hy hz => ?_,
    fun s d n h => if_pos h, fun s u v d n h hu hv => exec_takeoverDone_of_taking h hu hv,
    fun s n h hHeader hStep hLag hAll hLive => ?_, fun s n h => exec_journalFold_of_no_header h, fun s n h hHeader hNot => ?_,
    fun s h => exec_releaseFence_of_idle h,
    fun s a b t now ids h hNext hNow ha hIds hb => exec_releaseFence_of_target h hNext hNow ha hIds hb⟩
  · rw [exec_partnerUnitRequest_eq, h]
    rfl
  · rw [exec_partnerUnitRequest_eq, h]
    rfl
  · subst hz hy hw1 hRolls hw hu ht hb hJour hBase hv
    change execPullComplete s = _
    unfold execPullComplete
    rw [h]
    exact if_neg (by simp [hGranted, hPulled])
  · rw [exec_journalFold_of_header hHeader, if_pos ⟨hStep, hLag, hAll, hLive⟩]
  · rw [exec_journalFold_of_header hHeader, if_neg hNot]

end Sys2Proof.Proofs
end

section
/-! Jobs are loaded, stopped, switched and resumed (R48, R344, R356, R359, R446, R447, R485, R491 to R495, R526). -/

open Sys2Proof Sys2Proof.Machine

namespace Sys2Proof.Proofs

section Jobs
variable {s : State} {c : CtxId}

/-- Whether the running image has a context's sections. -/
def imageHolds (s : State) (c : CtxId) : Bool := ((s.ldr.image.map contextsOf).getD []).contains c

/-- Whether a loaded job is the one that its package's snapshot names, where it names one. -/
def snapshotAgrees (z : State) : Bool := match z.jobData.snapshotDigest with
  | some d => d == z.loadJob.weir.param
  | none => true

theorem snapshotAgrees_of_ne {z : State} {d : List Byte} (h : z.jobData.snapshotDigest = some d) (hNe : d ≠ z.loadJob.weir.param) :
    snapshotAgrees z = false := by
  unfold snapshotAgrees
  rw [h]
  exact beq_eq_false_iff_ne.mpr hNe

theorem snapshotAgrees_of_eq {z : State}
    (h : z.jobData.snapshotDigest = none ∨ z.jobData.snapshotDigest = some z.loadJob.weir.param) : snapshotAgrees z = true := by
  unfold snapshotAgrees
  obtain h | h := h <;> rw [h]
  exact beq_self_eq_true _

theorem exec_jobStart_of_not_holds (hr : s.atl.running = true) (h : imageHolds s c = false) :
    exec (.jobStart c) s = .next (s.mbox 2) :=
  (if_neg (ne_false_of_eq_true hr)).trans <| (if_pos (.inl h)).trans <| congrArg (fun k => Host.Outcome.next (s.mbox k)) <|
    if_neg (ne_true_of_eq_false h)

theorem exec_jobStart_of_loaded (hr : s.atl.running = true) (h : imageHolds s c = true) (hl : (s.ctx c).loaded = true) :
    exec (.jobStart c) s = .next (s.mbox 3) :=
  (if_neg (ne_false_of_eq_true hr)).trans <| (if_pos (.inr hl)).trans <| congrArg (fun k => Host.Outcome.next (s.mbox k)) <| if_pos h

/-- What JOB_START of a context of the image that is not loaded goes on to. -/
theorem exec_jobStart_of_unloaded (hr : s.atl.running = true) (h : imageHolds s c = true) (hl : (s.ctx c).loaded = false) :
    exec (.jobStart c) s =
      if (s.enterCtx c).field "AUDIT" = 1 then .next (if s.atl.audit.isSome then s.mbox 3 else s.startAudit c)
      else if s.atl.runCtx.isSome = true ∨ (((s.enterCtx c).field "JOB_LINK_MODE" == 1) = false ∧ s.pow.phase < 5) then .next (s.mbox 3)
      else if s.fab.devId = 0 ∨ (((s.enterCtx c).field "JOB_LINK_MODE" == 1) = true ∧ s.pow.phase ≠ 3) ∨ s.fenced = true then
        .next (s.mbox 2)
      else if (s.enterCtx c).startOk = false then .next s.mboxInvalid
      else if (s.enterCtx c).ctl.members.contains s.fab.devId = false then .next (((s.enterCtx c).keyCtx c true).mbox 0)
      else if snapshotAgrees (s.enterCtx c) = false then .next ((s.mbox 2).raiseDev .correctable 0x055 (unitNo 4 0) 0)
      else .next ((((s.enterCtx c).loadJob.keyCtx c false).updStandby fun _ =>
        { hdr0 := some ((s.enterCtx c).loadJob.keyCtx c false).loadHeader,
          base := ((s.enterCtx c).loadJob.keyCtx c false).loadBase }).mbox 0) :=
  (if_neg (ne_false_of_eq_true hr)).trans <| if_neg <| not_or.mpr ⟨ne_false_of_eq_true h, ne_true_of_eq_false hl⟩

/-- What JOB_START of a job context goes on to where no context runs and the links are as the job asks. -/
theorem exec_jobStart_of_free (hr : s.atl.running = true) (h : imageHolds s c = true) (hl : (s.ctx c).loaded = false)
    (ha : (s.enterCtx c).field "AUDIT" ≠ 1) (hc : s.atl.runCtx = none)
    (hp : ((s.enterCtx c).field "JOB_LINK_MODE" == 1) = true ∨ 5 ≤ s.pow.phase) :
    exec (.jobStart c) s =
      if s.fab.devId = 0 ∨ (((s.enterCtx c).field "JOB_LINK_MODE" == 1) = true ∧ s.pow.phase ≠ 3) ∨ s.fenced = true then
        .next (s.mbox 2)
      else if (s.enterCtx c).startOk = false then .next s.mboxInvalid
      else if (s.enterCtx c).ctl.members.contains s.fab.devId = false then .next (((s.enterCtx c).keyCtx c true).mbox 0)
      else if snapshotAgrees (s.enterCtx c) = false then .next ((s.mbox 2).raiseDev .correctable 0x055 (unitNo 4 0) 0)
      else .next ((((s.enterCtx c).loadJob.keyCtx c false).updStandby fun _ =>
        { hdr0 := some ((s.enterCtx c).loadJob.keyCtx c false).loadHeader,
          base := ((s.enterCtx c).loadJob.keyCtx c false).loadBase }).mbox 0) := by
  rw [exec_jobStart_of_unloaded hr h hl, if_neg ha]
  refine if_neg fun hBusy => ?_
  obtain hBusy | ⟨hRack, hEarly⟩ := hBusy
  · rw [hc] at hBusy
    contradiction
  · obtain hRack' | hLate := hp
    · exact ne_false_of_eq_true hRack' hRack
    · omega

/-- What the rest of a context is after its keys are erased: its ring and export key only. -/
def eraseCtx (c : CtxId) (t : State) : State :=
  t.updCtx c fun x => { ringBase := x.ringBase, ringSize := x.ringSize, exportKey := x.exportKey }

theorem exec_jobStop_of_loaded (hr : s.atl.running = true) (hl : (s.ctx c).loaded = true) :
    exec (.jobStop c) s =
      if s.atl.audit = some c then .next
        ((eraseCtx c (s.updAtl fun a => { a with audit := none, auditRing := [], scrubs := satAdd 0xFFFF a.scrubs 1 })).mbox 0)
      else if s.atl.runCtx = some c then .next
        ((((eraseCtx c ((s.scrub true).updAtl fun a => { a with runCtx := none })).updRcv fun r => { r with
          role := .none, taking := [], takeover := none, unbound := [], jobWait := false }).updFab fun f => { f with boundId := 0 }).mbox 0)
      else .next
        (((eraseCtx c (s.updTier fun y => { y with
          mem := zeroPages (s.ctx c).kept (fun _ => true) y.mem
          used := y.used.filter fun l => !((s.ctx c).kept.any fun p => p.2.loc == l) })).updAtl fun a => { a with
            scrubs := satAdd 0xFFFF a.scrubs 1 }).mbox 0) :=
  (if_neg (ne_false_of_eq_true hr)).trans <| if_neg <| ne_false_of_eq_true hl

theorem exec_switchInRestore_of_not_due (h : (s.ctx c).standby.header = none ∨ (s.ctx c).switchedOut = false ∨ s.atl.switchIn ≠ some c
    ∨ s.atl.runCtx.isSome = true ∨ s.atl.running = false) : exec (.switchInRestore c) s = .next s := by
  change execSwitchInRestore c s = _
  unfold execSwitchInRestore
  dsimp only
  cases hHead : (s.ctx c).standby.header with
  | none => rfl
  | some hd => exact if_pos (h.resolve_left (by simp [hHead]))

theorem exec_switchInRestore_of_due {h : StbyHeader} (hHead : (s.ctx c).standby.header = some h) (hOut : (s.ctx c).switchedOut = true)
    (hIn : s.atl.switchIn = some c) (hFree : s.atl.runCtx = none) (hr : s.atl.running = true) {a m d : State}
    (ha : a = (s.updAtl fun q => { q with runCtx := some c, switchIn := none }).updCtl (fun _ =>
      { s0 := (s.ctx c).s0, sealed := h.sealedStep, memEpoch := (s.ctx c).memEpoch, layEpoch := h.layEpoch, members := (s.ctx c).members }))
    (hm : m = (a.mapPages (s.ctx c).kept).updTier (fun t => { t with
      mem := (s.ctx c).imaged.foldl (fun m p => match kvFind p.1 (a.mapPages (s.ctx c).kept).tier.pages with
        | some e => fillFrame e.loc p.2 m
        | none => m) t.mem }))
    (hd : d = ((((m.loadProgs).restore (s.ctx c).standby h.sealedStep).fillBuckets.startFronts h.sealedStep).rebuildVersions
      (s.ctx c).standby h.sealedStep).updCtl (fun k => { k with started := (s.ctx c).ready })) :
    exec (.switchInRestore c) s = .next (d.updCtx c fun y => { y with switchedOut := false, kept := [], imaged := [] }).serveAsks := by
  have hDue : ¬((s.ctx c).switchedOut = false ∨ s.atl.switchIn ≠ some c ∨ s.atl.runCtx.isSome = true ∨ s.atl.running = false) := by
    simp [hOut, hIn, hFree, hr]
  change execSwitchInRestore c s = _
  unfold execSwitchInRestore
  dsimp only
  rw [hHead]
  subst hd hm ha
  exact if_neg hDue

end Jobs

/-- Settles O40, case by case from the branches of each command. -/
theorem jobsStartStopAndSwitch : Obligations.JobsStartStopAndSwitch := by
  unfold Obligations.JobsStartStopAndSwitch
  refine ⟨fun s c d n hr => ⟨if_pos hr, if_pos hr, if_pos hr, ?_, if_pos hr⟩, fun s z c hz hr => ?_, fun s c erase hr hErase => ?_,
    fun s o i n hr => ?_, fun s c h => ?_, ?_, fun s c hr => ?_⟩
  · exact exec_switchInRestore_of_not_due (.inr (.inr (.inr (.inr hr))))
  · subst hz
    refine ⟨exec_jobStart_of_not_holds hr, exec_jobStart_of_loaded hr, fun hk hl => ⟨fun ha => ?_, fun ha hBusy => ?_, fun ha hc hp =>
      ⟨fun hNo => ?_, fun hId hPhase hf => ?_⟩⟩⟩
    · rw [exec_jobStart_of_unloaded hr hk hl, if_pos ha]
    · rw [exec_jobStart_of_unloaded hr hk hl, if_neg ha, if_pos hBusy]
    · rw [exec_jobStart_of_free hr hk hl ha hc hp, if_pos hNo]
    · have hYes : ¬(s.fab.devId = 0 ∨ (((s.enterCtx c).field "JOB_LINK_MODE" == 1) = true ∧ s.pow.phase ≠ 3) ∨ s.fenced = true) := by
        rw [hf]
        rintro (h | ⟨hRack, hNot⟩ | h)
        · exact hId h
        · exact hPhase.elim (ne_false_of_eq_true hRack) hNot
        · contradiction
      rw [exec_jobStart_of_free hr hk hl ha hc hp, if_neg hYes]
      refine ⟨fun h => if_pos h, fun h hMem => ?_, fun h hMem => ⟨fun d hd hNe => ?_, fun hd => ?_⟩⟩
      · rw [if_neg (ne_false_of_eq_true h), if_pos hMem]
      · rw [if_neg (ne_false_of_eq_true h), if_neg (ne_false_of_eq_true hMem), if_pos (snapshotAgrees_of_ne hd hNe)]
      · rw [if_neg (ne_false_of_eq_true h), if_neg (ne_false_of_eq_true hMem),
          if_neg (ne_false_of_eq_true (snapshotAgrees_of_eq hd))]
  · obtain rfl : erase = eraseCtx c := funext hErase
    refine ⟨fun hl => ?_, fun hl ha => ?_, fun hl ha hc => ?_, fun hl ha hc => ?_⟩
    · exact (if_neg (ne_false_of_eq_true hr)).trans (if_pos hl)
    · rw [exec_jobStop_of_loaded hr hl, if_pos ha]
    · rw [exec_jobStop_of_loaded hr hl, if_neg ha, if_pos hc]
    · rw [exec_jobStop_of_loaded hr hl, if_neg ha, if_neg hc]
  · refine ⟨fun h => (if_neg (ne_false_of_eq_true hr)).trans (if_pos h), fun hRun hl ha hNe => ?_⟩
    refine (if_neg (ne_false_of_eq_true hr)).trans (if_neg ?_)
    simp [hRun, hl, ha, hNe]
  · exact exec_switchInRestore_of_not_due (h.imp_right (Or.imp_right (Or.imp_right .inl)))
  · exact fun s a m d c h hHead hOut hIn hFree hr ha hm hd => exec_switchInRestore_of_due hHead hOut hIn hFree hr ha hm hd
  · refine ⟨fun hRun hHalt hLost => ?_, fun h => ?_⟩
    · exact (if_neg (ne_false_of_eq_true hr)).trans (if_pos ⟨hRun, hHalt, hLost⟩)
    · refine (if_neg (ne_false_of_eq_true hr)).trans (if_neg ?_)
      rintro ⟨hRun, hHalt, hLost⟩
      simp [hRun, hHalt, hLost] at h

end Sys2Proof.Proofs
end

section
/-! Snapshots, tray releases and the reports of the host (R365, R439, R451, R472, R491, R495, R505); spares, failure reports, the repair map,
engine diagnosis and the manifest (R151, R152, R417, R418, R433, R434, R437, R446, R455). -/

open Sys2Proof Sys2Proof.Machine

namespace Sys2Proof.Proofs

section Snapshots
variable {s : State} {c : CtxId}

theorem exec_trayRelease_of_runs {n pod tray : Nat} {d : DevId} (hr : s.atl.running = true) (hc : s.atl.runCtx = some c) :
    exec (.trayRelease c n pod tray d) s =
      if s.isRoot = true then .next (s.acceptTarget idxRelease [pod, tray, d] n)
      else if s.rcv.isJobCoord = true then
        if s.tooLate n = true then .next (s.mbox 5)
        else .next ((s.emit [.stepWrite (s.field "VOTE_ROOT") 0
          { index := idxRelease, value := [pod, tray, d], target := n, serial := 0 }]).mbox 0)
      else .next (s.mbox 4) :=
  (if_neg (ne_false_of_eq_true hr)).trans <| if_neg <| not_not.mpr hc

theorem exec_snapshotWrite_of_none (h : s.ctl.snapTarget = none ∨ s.atl.runCtx = none) : exec .snapshotWrite s = .next s := by
  change execSnapshotWrite s = _
  unfold execSnapshotWrite
  obtain h | h := h <;> rw [h]
  cases s.ctl.snapTarget <;> rfl

theorem exec_snapshotWrite_of_some {n : Nat} (ht : s.ctl.snapTarget = some n) (hc : s.atl.runCtx = some c) :
    exec .snapshotWrite s =
      if s.ctl.snapDone = true ∨ s.ctl.sealed < n ∨ s.fenced = true then .next s
      else if s.spoolRoom (128 + (s.snapshotBody n).length + (s.snapshotEnd n (s.snapshotBody n)).length) = false then
        .next (s.weirStall [28])
      else .next (((s.tick.sendSegment c 1 n (s.snapshotBody n)).sendSegment c 2 n
        (s.snapshotEnd n (s.snapshotBody n))).updCtl fun k => { k with snapDone := true, snapTarget := none }) := by
  change execSnapshotWrite s = _
  unfold execSnapshotWrite
  rw [ht, hc]

theorem exec_contextReady_of_loaded (hr : s.atl.running = true) (hl : (s.ctx c).loaded = true) :
    exec (.contextReady c) s = .next ((if s.atl.runCtx = some c
      then (s.updCtx c fun x => { x with ready := true }).updCtl fun k => { k with started := true }
      else s.updCtx c fun x => { x with ready := true }).mbox 0) :=
  (if_neg (ne_false_of_eq_true hr)).trans <| if_neg <| ne_false_of_eq_true hl

/-- Whether a unit's content was asked from host software and has not come yet. -/
def awaited (key : Nat) (r : Rebuild) : Bool := r.key == key && r.askedAt.isSome && !r.fromHost

theorem exec_hostSupply_of_unknown {key : Nat} {l : List Byte} (hr : s.atl.running = true)
    (h : s.weir.rebuilding.find? (awaited key) = none ∨ s.atl.runCtx ≠ some c) : exec (.hostSupply c key l) s = .next (s.mbox 2) := by
  refine (if_neg (ne_false_of_eq_true hr)).trans ?_
  change (match s.weir.rebuilding.find? (awaited key) with
    | none => _
    | some r => _) = _
  cases hFind : s.weir.rebuilding.find? (awaited key) with
  | none => rfl
  | some r => exact if_pos (h.resolve_left (by simp [hFind]))

theorem exec_hostSupply_of_awaited {key : Nat} {l : List Byte} {r : Rebuild} (hr : s.atl.running = true)
    (h : s.weir.rebuilding.find? (awaited key) = some r) (hc : s.atl.runCtx = some c) :
    exec (.hostSupply c key l) s = .next ((((s.updRebuild key fun _ => { r with pre := l, fromHost := true }).repair r.step 4 s.me
      key).sendRedo { r with pre := l, fromHost := true }).mbox 0) := by
  refine (if_neg (ne_false_of_eq_true hr)).trans ?_
  change (match s.weir.rebuilding.find? (awaited key) with
    | none => _
    | some r => _) = _
  rw [h]
  exact if_neg (not_not.mpr hc)

end Snapshots

/-- Settles O41, case by case from the branches of each command. -/
theorem snapshotsAndReleasesAreOrdered : Obligations.SnapshotsAndReleasesAreOrdered := by
  unfold Obligations.SnapshotsAndReleasesAreOrdered
  refine ⟨fun s c n pod tray key d e l hr => ⟨if_pos hr, if_pos hr, if_pos hr, if_pos hr, if_pos hr⟩, fun s c n pod tray d hr => ?_,
    fun s h => exec_snapshotWrite_of_none h, fun s n c ht hc => ?_, fun s c hr => ?_, fun s c d e hr => ?_, fun s c key l hr => ?_⟩
  · have hGo : ¬s.atl.running = false := ne_false_of_eq_true hr
    refine ⟨fun hc => ⟨(if_neg hGo).trans (if_pos hc), (if_neg hGo).trans (if_pos hc)⟩, fun hc =>
      ⟨(if_neg hGo).trans (if_neg (not_not.mpr hc)), fun h => ?_, fun h hj hLate => ?_, fun h hj hLate => ?_, fun h hj => ?_⟩⟩ <;>
      rw [exec_trayRelease_of_runs hr hc]
    · exact if_pos h
    · rw [if_neg (ne_true_of_eq_false h), if_pos hj, if_pos hLate]
    · rw [if_neg (ne_true_of_eq_false h), if_pos hj, if_neg (ne_true_of_eq_false hLate)]
    · rw [if_neg (ne_true_of_eq_false h), if_neg (ne_true_of_eq_false hj)]
  · rw [exec_snapshotWrite_of_some ht hc]
    refine ⟨fun h => if_pos h, fun hDone hSealed hf => ?_⟩
    rw [if_neg (by simp [hDone, hSealed, hf])]
    exact ⟨fun h => if_pos h, fun h => if_neg (ne_false_of_eq_true h)⟩
  · refine ⟨fun hl => (if_neg (ne_false_of_eq_true hr)).trans (if_pos hl), fun hl hc => ?_, fun hl hc => ?_⟩
    · rw [exec_contextReady_of_loaded hr hl, if_pos hc]
    · rw [exec_contextReady_of_loaded hr hl, if_neg hc]
  · refine ⟨fun hb hl => (if_neg (ne_false_of_eq_true hr)).trans (if_pos ⟨hb, hl⟩), fun h =>
      (if_neg (ne_false_of_eq_true hr)).trans (if_neg ?_)⟩
    rintro ⟨hb, hl⟩
    exact h.elim (· hb) (ne_false_of_eq_true hl)
  · exact ⟨exec_hostSupply_of_unknown hr, fun r h hc => exec_hostSupply_of_awaited hr h hc⟩

section Spares
variable {s : State} {c : CtxId}

theorem exec_spareAdd_of_may {d : DevId} (hr : s.atl.running = true) (hc : s.atl.runCtx = some c) (h0 : d ≠ 0) (hMax : d ≠ 0xFFFF)
    (hRoom : s.spares.length < 256) (hSpare : s.spares.contains d = false) (hMem : s.ctl.members.contains d = false) {t u : State}
    (ht : t = (s.setSpares (s.spares ++ [d])).updRcv (fun r => { r with
      badSpares := r.badSpares.filter (· != d), failedIds := r.failedIds.filter (· != d) }))
    (hu : u = (if s.rcv.isJobCoord then t.emit [.jm d (s.ctx c).jobId] else t)) :
    exec (.spareAdd c d) s = .next ((if s.rcv.isJobCoord = true ∧ s.rcv.unbound ≠ [] then
      (u.updRcv fun r => { r with fmAsked := r.unbound.foldl (fun k d => kvPut d s.now k) r.fmAsked, finalAt := 0 }).sendRecord []
      else u).mbox 0) := by
  subst hu ht
  refine (if_neg (ne_false_of_eq_true hr)).trans (if_neg ?_)
  rintro (h | h | h | h | h | h)
  · exact h hc
  · exact h0 h
  · exact hMax h
  · omega
  · exact ne_true_of_eq_false hSpare h
  · exact ne_true_of_eq_false hMem h

theorem exec_repairMapWrite_add {e : RepairEntry} {n : Nat} (hr : s.atl.running = true) (hRoom : s.atl.repairMap.length < 256) {t : State}
    (ht : t = (s.updAtl fun a => a.writeRepairs
      (s.atl.repairMap ++ [{ e with origin := 0, stepLo := s.ctl.sealed % 2 ^ 32 }])).mbox 0) :
    exec (.repairMapWrite false e n) s =
      if e.kind = .retire ∧ (s.engine e.core e.eng).retired = false ∧ 1 ≤ s.pow.phase then
        .next ((t.updEngine e.core e.eng fun k =>
          { k.unstart n with reqAtl := true, reqCyc := n, retireWhenQuiet := some 3 }).retireDue e.core e.eng)
      else .next t := by
  subst ht
  exact (if_neg (ne_false_of_eq_true hr)).trans <| (if_neg Bool.false_ne_true).trans <| if_neg <| not_le.mpr hRoom

end Spares

/-- Settles O42, case by case from the branches of each command. -/
theorem sparesReportsAndDiagnostics : Obligations.SparesReportsAndDiagnostics := by
  unfold Obligations.SparesReportsAndDiagnostics
  refine ⟨fun s c d b r n k e m hr => ⟨if_pos hr, if_pos hr, if_pos hr, if_pos hr, if_pos hr, if_pos hr⟩, fun s c d hr => ?_,
    fun s e n same hr hSame => ?_, fun s c e hr => ?_, fun s m hr => ?_⟩
  · have hGo : ¬s.atl.running = false := ne_false_of_eq_true hr
    refine ⟨fun h => (if_neg hGo).trans (if_pos h), fun hc h0 hMax hRoom hSpare hMem t u ht hu =>
      exec_spareAdd_of_may hr hc h0 hMax hRoom hSpare hMem ht hu, fun h => (if_neg hGo).trans (if_pos h), fun hc hSpare =>
      (if_neg hGo).trans (if_neg ?_), fun h => (if_neg hGo).trans (if_pos h), fun h =>
      (if_neg hGo).trans (if_neg (ne_true_of_eq_false h))⟩
    exact not_or.mpr ⟨not_not.mpr hc, ne_false_of_eq_true hSpare⟩
  · obtain rfl : same = fun x => x.core == e.core && x.eng == e.eng && x.kind == e.kind && x.index == e.index := funext hSame
    have hGo : ¬s.atl.running = false := ne_false_of_eq_true hr
    refine ⟨fun h => (if_neg hGo).trans ((if_pos rfl).trans (if_pos h)), fun h =>
      (if_neg hGo).trans ((if_pos rfl).trans (if_neg (ne_true_of_eq_false h))), fun h =>
      (if_neg hGo).trans ((if_neg Bool.false_ne_true).trans (if_pos h)), fun t ht hRoom => ?_⟩
    rw [exec_repairMapWrite_add hr hRoom ht]
    refine ⟨fun h => if_neg ?_, fun hKind hRet hPhase => if_pos ⟨hKind, hRet, hPhase⟩⟩
    rintro ⟨hKind, hRet, hPhase⟩
    obtain h | h | h := h
    · exact h hKind
    · exact ne_true_of_eq_false hRet h
    · omega
  · refine ⟨fun h => (if_neg (ne_false_of_eq_true hr)).trans (if_pos h), fun reply hReply hRet hSib => ?_⟩
    subst hReply
    exact (if_neg (ne_false_of_eq_true hr)).trans <| if_neg <| not_or.mpr ⟨ne_false_of_eq_true hRet, ne_true_of_eq_false hSib⟩
  · refine ⟨fun h => (if_neg (ne_false_of_eq_true hr)).trans (if_pos h), fun hPod hMax h0 hTop hDist hAlt =>
      (if_neg (ne_false_of_eq_true hr)).trans (if_neg ?_)⟩
    rintro (h | h | h | h | h | h)
    · exact hPod h
    · omega
    · exact ne_true_of_eq_false h0 h
    · exact ne_true_of_eq_false hTop h
    · exact h hDist
    · exact ne_true_of_eq_false hAlt h

end Sys2Proof.Proofs
end

section
/-! Owner keys, floors and firmware slots under signed commands (R478 to R482, R491, R504). -/

open Sys2Proof Sys2Proof.Machine

namespace Sys2Proof.Proofs

section Signed
variable {s : State} {sig : Option Sig}

theorem signed_of_not_signedOk {cmd : Nat} {body : List Byte} (h : s.signedOk cmd body sig = false) (g : State → State) :
    s.signed cmd body sig g = (s.mbox 1).newNonce := if_neg (ne_true_of_eq_false h)

theorem exec_keyEnrol_of_signed {key : List Byte} (hr : s.atl.running = true)
    (h : sig ≠ none ∨ s.atl.keys ≠ [] ∨ s.pow.boot ≠ .ownerEnrol) :
    exec (.keyEnrol key sig) s = .next (s.signed 0x10 key sig fun t => t.addKey key) := by
  refine (if_neg (ne_false_of_eq_true hr)).trans (if_neg ?_)
  rintro ⟨hSig, hKeys, hBoot⟩
  simp [hSig, hKeys, hBoot] at h

theorem exec_keyRevoke_of_running {n : Nat} (hr : s.atl.running = true) :
    exec (.keyRevoke n sig) s = .next (s.signed 0x11 (leBytes 16 n) sig fun t =>
      if (t.atl.keys.filter fun k => k.1 != n) = [] ∨ (t.atl.keys.filter fun k => k.1 != n) = t.atl.keys ∨ 64 ≤ t.atl.keyBurns
      then t.mbox 2 else t.burnTable fun a => { a with keys := t.atl.keys.filter fun k => k.1 != n }) :=
  if_neg (ne_false_of_eq_true hr)

theorem exec_svnRaise_of_running {n : Nat} (hr : s.atl.running = true) :
    exec (.svnRaise n sig) s = .next (s.signed 0x12 (leBytes 4 n) sig fun t =>
      if n ≤ t.atl.imageFloor ∨ 2 ^ 32 ≤ n ∨ 64 ≤ t.atl.keyBurns then t.mbox 2
      else t.burnTable fun a => { a with imageFloor := n }) :=
  if_neg (ne_false_of_eq_true hr)

/-- The SVN of the firmware that runs, 0 where its slot holds none. -/
def runningSvn (s : State) : Nat := ((s.atl.slot s.atl.runSlot).map (·.svn)).getD 0

theorem exec_fwSvnCommit_of_running (hr : s.atl.running = true) :
    exec (.fwSvnCommit sig) s = .next (s.signed 0x13 [] sig fun t =>
      if runningSvn t ≤ t.atl.fwFloor then t.mbox 0
      else if 64 ≤ t.atl.fwFuses then t.mbox 2
      else (t.updAtl fun a => { a with fwFloor := runningSvn t, fwFuses := a.fwFuses + 1 }).mbox 0) :=
  if_neg (ne_false_of_eq_true hr)

theorem exec_exportKey_of_running {c : CtxId} {e : BitVec 256} (hr : s.atl.running = true) :
    exec (.exportKey c e sig) s = .next (s.signed 0x14 (leBytes 32 e.toNat) sig fun t =>
      (t.updCtx c fun x => { x with exportKey := some e }).mbox 0) :=
  if_neg (ne_false_of_eq_true hr)

theorem exec_firmwareUpdate_of_not_fwOk {f : FwSlot} (hr : s.atl.running = true) (hOk : s.fwOk f = false) :
    exec (.firmwareUpdate f) s = .next ((s.updAtl fun a => a.putSlot (1 - s.atl.active) f).mbox 1) :=
  (if_neg (ne_false_of_eq_true hr)).trans <| congrArg Host.Outcome.next <| if_neg (ne_true_of_eq_false hOk)

end Signed

/-- Settles O43: each signed command answers what `State.signed` makes of its effect, and the effect has a case per branch. -/
theorem firmwareSlotsAndOwnerKeys : Obligations.FirmwareSlotsAndOwnerKeys := by
  unfold Obligations.FirmwareSlotsAndOwnerKeys
  refine ⟨fun s key n m sig c e f hr => ⟨if_pos hr, if_pos hr, if_pos hr, if_pos hr, if_pos hr, if_pos hr, if_pos hr⟩,
    fun s key n sig c e hr => ?_, fun s f hr => ⟨exec_firmwareUpdate_of_fwOk hr, exec_firmwareUpdate_of_not_fwOk hr⟩, fun s f =>
    ⟨fun h => if_pos h, fun hBoot hRise hr hLock hOk => if_neg ?_⟩⟩
  · rw [exec_keyRevoke_of_running hr, exec_svnRaise_of_running hr, exec_fwSvnCommit_of_running hr, exec_exportKey_of_running hr]
    refine ⟨fun hSig hKeys hBoot => (if_neg (ne_false_of_eq_true hr)).trans (if_pos ⟨hSig, hKeys, hBoot⟩), fun h => ?_, fun hSig => ?_,
      fun l hl hSig => ?_, fun hSig => ?_, fun hSig => ?_, fun hSig => ?_, fun svn hSvn hSig => ?_, fun hSig => ?_, fun hSig => ?_⟩
    · rw [exec_keyEnrol_of_signed hr h]
      exact ⟨fun hSig => by rw [signed_of_not_signedOk hSig], fun hSig => by rw [signed_of_signedOk hSig]⟩
    · rw [signed_of_not_signedOk hSig]
    · subst hl
      rw [signed_of_signedOk hSig]
      refine ⟨fun h => by rw [if_pos h], fun hSome hNew hFree => ?_⟩
      rw [if_neg (not_or.mpr ⟨hSome, not_or.mpr ⟨hNew, hFree.not_ge⟩⟩)]
    · rw [signed_of_not_signedOk hSig]
    · rw [signed_of_signedOk hSig]
      refine ⟨fun h => by rw [if_pos h], fun hAbove hSize hFree => ?_⟩
      rw [if_neg (not_or.mpr ⟨hAbove.not_ge, not_or.mpr ⟨hSize.not_ge, hFree.not_ge⟩⟩)]
    · rw [signed_of_not_signedOk hSig]
    · obtain rfl : svn = runningSvn s := hSvn
      rw [signed_of_signedOk hSig]
      refine ⟨fun h => by rw [if_pos h], fun hAbove hFull => ?_, fun hAbove hFree => ?_⟩
      · rw [if_neg hAbove.not_ge, if_pos hFull]
      · rw [if_neg hAbove.not_ge, if_neg hFree.not_ge]
    · rw [signed_of_not_signedOk hSig]
    · rw [signed_of_signedOk hSig]
  · simp [hBoot, hRise, hr, hLock, hOk]

end Sys2Proof.Proofs
end

section
/-! The SPDM responder (R484): what a request is answered before Atluta runs, before the negotiation, and after it. -/

open Sys2Proof Sys2Proof.Machine

namespace Sys2Proof.Proofs

section Spdm
variable {s : State} {n : Nat}

theorem afterAlgs_of_stopped (h : s.atl.running = false) (f : State → State) : s.afterAlgs f = s := if_pos h

theorem afterAlgs_of_not_negotiated (hr : s.atl.running = true) (h : s.negotiated = false) (f : State → State) :
    s.afterAlgs f = s.spdmRefuse :=
  (if_neg (ne_false_of_eq_true hr)).trans (if_neg (ne_true_of_eq_false h))

theorem afterAlgs_of_negotiated (hr : s.atl.running = true) (h : s.negotiated = true) (f : State → State) : s.afterAlgs f = f s :=
  (if_neg (ne_false_of_eq_true hr)).trans (if_pos h)

/-- An SPDM request that `State.afterAlgs` answers: whatever it does, its outcome is that function's. -/
def AfterAlgs (i : Instr) (s : State) : Prop := ∃ f, exec i s = .next (s.afterAlgs f)

theorem AfterAlgs.of_stopped {i : Instr} (h : AfterAlgs i s) (hr : s.atl.running = false) : exec i s = .next s := by
  obtain ⟨f, hf⟩ := h
  rw [hf, afterAlgs_of_stopped hr]

theorem AfterAlgs.of_not_negotiated {i : Instr} (h : AfterAlgs i s) (hr : s.atl.running = true) (hn : s.negotiated = false) :
    exec i s = .next s.spdmRefuse := by
  obtain ⟨f, hf⟩ := h
  rw [hf, afterAlgs_of_not_negotiated hr hn]

theorem afterAlgs_getDigests : AfterAlgs .getDigests s := ⟨_, rfl⟩
theorem afterAlgs_getCertificate {o l : Nat} : AfterAlgs (.getCertificate n o l) s := ⟨_, rfl⟩
theorem afterAlgs_challenge {b : List Byte} : AfterAlgs (.challenge n b) s := ⟨_, rfl⟩
theorem afterAlgs_getMeasurements {x : SpdmSession} : AfterAlgs (.getMeasurements n x) s := ⟨_, rfl⟩
theorem afterAlgs_keyExchange {b : List Byte} : AfterAlgs (.keyExchange n b) s := ⟨_, rfl⟩
theorem afterAlgs_finish {b : List Byte} : AfterAlgs (.finish n b) s := ⟨_, rfl⟩
theorem afterAlgs_endSession : AfterAlgs (.endSession n) s := ⟨_, rfl⟩
theorem afterAlgs_spdmHeartbeat : AfterAlgs (.spdmHeartbeat n) s := ⟨_, rfl⟩
theorem afterAlgs_keyUpdate : AfterAlgs (.keyUpdate n) s := ⟨_, rfl⟩

theorem exec_getCertificate_of_negotiated {o l : Nat} (hr : s.atl.running = true) (hn : s.negotiated = true) :
    exec (.getCertificate n o l) s = .next (if 2 < n then s.spdmRefuse
      else s.answer 0x02 (leBytes 1 n ++ leBytes 2 o ++ leBytes 2 (min l 4096))) :=
  congrArg Host.Outcome.next (afterAlgs_of_negotiated hr hn _)

theorem exec_challenge_of_negotiated {b : List Byte} (hr : s.atl.running = true) (hn : s.negotiated = true) :
    exec (.challenge n b) s = .next (if 2 < n then s.spdmRefuse else s.answer 0x03 (leBytes 1 n ++ b)) :=
  congrArg Host.Outcome.next (afterAlgs_of_negotiated hr hn _)

theorem exec_keyExchange_of_negotiated {b : List Byte} (hr : s.atl.running = true) (hn : s.negotiated = true) :
    exec (.keyExchange n b) s = .next (if 2 < n then s.spdmRefuse else (s.updAtl fun a => { a with
      sessions := kvPut s.atl.sessionNext { established := false, keyGen := 0, beats := 0 } a.sessions
      sessionNext := s.atl.sessionNext + 1 }).answer 0x64 (leBytes 4 s.atl.sessionNext ++ b)) :=
  congrArg Host.Outcome.next (afterAlgs_of_negotiated hr hn _)

theorem exec_getMeasurements_of_negotiated {x : SpdmSession} (hr : s.atl.running = true) (hn : s.negotiated = true) :
    exec (.getMeasurements n x) s = .next (if s.sessionOk x = false then s.spdmRefuse
      else if n = 0 then s.emit [.spdm 0x60 (leBytes 1 8)]
      else if n ≤ 8 then s.emit [.spdm 0x60 (leBytes 1 n ++ s.measure n)]
      else if n = 0xFF then s.emit [.spdm 0x60 ((List.range 8).flatMap fun i => leBytes 1 (i + 1) ++ s.measure (i + 1))]
      else s.spdmRefuse) :=
  congrArg Host.Outcome.next (afterAlgs_of_negotiated hr hn _)

theorem exec_finish_of_none {b : List Byte} (hr : s.atl.running = true) (hn : s.negotiated = true) (h : kvFind n s.atl.sessions = none) :
    exec (.finish n b) s = .next s.spdmRefuse := by
  refine congrArg Host.Outcome.next ((afterAlgs_of_negotiated hr hn _).trans ?_)
  simp only [h]

theorem exec_finish_of_some {b : List Byte} {x : Session} (hr : s.atl.running = true) (hn : s.negotiated = true)
    (h : kvFind n s.atl.sessions = some x) :
    exec (.finish n b) s = .next (if x.established = true ∨ Config.spdmMacOk n b s.fresh = false then s.spdmRefuse
      else (s.updAtl fun a => { a with sessions := kvPut n { x with established := true } a.sessions }).answer 0x65 (leBytes 4 n)) := by
  refine congrArg Host.Outcome.next ((afterAlgs_of_negotiated hr hn _).trans ?_)
  simp only [h]

theorem inSession_of_none (hr : s.atl.running = true) (hn : s.negotiated = true) (h : kvFind n s.atl.sessions = none)
    (f : Session → State) : s.inSession n f = s.spdmRefuse := by
  refine (afterAlgs_of_negotiated hr hn _).trans ?_
  simp only [h]

theorem inSession_of_some {x : Session} (hr : s.atl.running = true) (hn : s.negotiated = true) (h : kvFind n s.atl.sessions = some x)
    (f : Session → State) : s.inSession n f = if x.established then f x else s.spdmRefuse := by
  refine (afterAlgs_of_negotiated hr hn _).trans ?_
  simp only [h]

theorem inSession_of_established {x : Session} (hr : s.atl.running = true) (hn : s.negotiated = true)
    (h : kvFind n s.atl.sessions = some x) (he : x.established = true) (f : Session → State) : s.inSession n f = f x :=
  (inSession_of_some hr hn h f).trans (if_pos he)

theorem inSession_of_not_established {x : Session} (hr : s.atl.running = true) (hn : s.negotiated = true)
    (h : kvFind n s.atl.sessions = some x) (he : x.established = false) (f : Session → State) : s.inSession n f = s.spdmRefuse :=
  (inSession_of_some hr hn h f).trans (if_neg (ne_true_of_eq_false he))

end Spdm

/-- Settles O45: every request after the negotiation's goes through `State.afterAlgs`, those of a session through `State.inSession`. -/
theorem spdmNegotiatesFirst : Obligations.SpdmNegotiatesFirst := by
  unfold Obligations.SpdmNegotiatesFirst
  refine ⟨fun s n o l b x hr => ⟨if_pos hr, if_pos hr, if_pos hr, afterAlgs_getDigests.of_stopped hr, afterAlgs_getCertificate.of_stopped hr,
      afterAlgs_challenge.of_stopped hr, afterAlgs_getMeasurements.of_stopped hr, afterAlgs_keyExchange.of_stopped hr,
      afterAlgs_finish.of_stopped hr, afterAlgs_endSession.of_stopped hr, afterAlgs_spdmHeartbeat.of_stopped hr,
      afterAlgs_keyUpdate.of_stopped hr⟩, fun s hr => ?_, fun s n o l b x hr hn =>
    ⟨afterAlgs_getDigests.of_not_negotiated hr hn, afterAlgs_getCertificate.of_not_negotiated hr hn,
      afterAlgs_challenge.of_not_negotiated hr hn, afterAlgs_getMeasurements.of_not_negotiated hr hn,
      afterAlgs_keyExchange.of_not_negotiated hr hn, afterAlgs_finish.of_not_negotiated hr hn,
      afterAlgs_endSession.of_not_negotiated hr hn, afterAlgs_spdmHeartbeat.of_not_negotiated hr hn,
      afterAlgs_keyUpdate.of_not_negotiated hr hn⟩, fun s n o l b hr hn => ?_, fun s i x hr hn => ?_, fun s n b hr hn hNone => ?_,
    fun s n b x hr hn hSome => ?_⟩
  · have hGo : ¬s.atl.running = false := ne_false_of_eq_true hr
    refine ⟨if_neg hGo, fun h => (if_neg hGo).trans (if_pos h), fun h => (if_neg hGo).trans (if_neg (ne_true_of_eq_false h)),
      fun hv hc => (if_neg hGo).trans (if_pos (by rw [hv, hc]; rfl)), fun h => (if_neg hGo).trans (if_neg ?_)⟩
    simpa [← Bool.not_eq_true, imp_iff_not_or] using h
  · rw [exec_getCertificate_of_negotiated hr hn, exec_challenge_of_negotiated hr hn, exec_keyExchange_of_negotiated hr hn]
    refine ⟨congrArg Host.Outcome.next (afterAlgs_of_negotiated hr hn _), fun h => ?_, fun h => ?_⟩
    · simp only [if_neg h.not_gt, true_and]
    · simp only [if_pos h, true_and]
  · refine ⟨fun hx => ?_, fun hx => ⟨?_, fun hLow hTop => ?_, ?_, fun hTop hNot => ?_⟩⟩ <;> rw [exec_getMeasurements_of_negotiated hr hn]
    · rw [if_pos hx]
    · rw [if_neg (ne_false_of_eq_true hx), if_pos rfl]
    · rw [if_neg (ne_false_of_eq_true hx), if_neg (Nat.one_le_iff_ne_zero.mp hLow), if_pos hTop]
    · rw [if_neg (ne_false_of_eq_true hx), if_neg (by decide), if_neg (by decide), if_pos rfl]
    · rw [if_neg (ne_false_of_eq_true hx), if_neg (Nat.ne_zero_of_lt hTop), if_neg hTop.not_ge, if_neg hNot]
  · have hRefuse := inSession_of_none hr hn hNone
    exact ⟨exec_finish_of_none hr hn hNone, congrArg Host.Outcome.next (hRefuse _), congrArg Host.Outcome.next (hRefuse _),
      congrArg Host.Outcome.next (hRefuse _)⟩
  · rw [exec_finish_of_some hr hn hSome]
    refine ⟨fun h => by rw [if_pos h], fun he hMac => ?_, fun he => ?_, fun he => ?_⟩
    · rw [if_neg (not_or.mpr ⟨ne_true_of_eq_false he, ne_false_of_eq_true hMac⟩)]
    · have hRefuse := inSession_of_not_established hr hn hSome he
      exact ⟨congrArg Host.Outcome.next (hRefuse _), congrArg Host.Outcome.next (hRefuse _), congrArg Host.Outcome.next (hRefuse _)⟩
    · have hAct := inSession_of_established hr hn hSome he
      exact ⟨congrArg Host.Outcome.next (hAct _), congrArg Host.Outcome.next (hAct _), congrArg Host.Outcome.next (hAct _)⟩

end Sys2Proof.Proofs
end

section
/-! Step records, the audit log and the difference ring (R41, R491, R494, R499, R500, R504, R508); images stored, applied and extended (R464 to
R467). -/

open Sys2Proof Sys2Proof.Machine

namespace Sys2Proof.Proofs

section Records
variable {s : State} {n : Nat}

theorem exec_recordSign_of_due (hSeal : (s.stepOf n).st = .seal) (hNew : (s.stepOf n).signed = false) (hNext : s.ctl.sealed + 1 = n)
    (hComp : s.compared n = true) (hr : s.atl.running = true) (hf : s.fenced = false) {r : StepRecord} {body : List Byte}
    (hrec : r = s.stepRecord n) (hBody : body = (s.segmentRecords n).flatMap (·.bytes) ++ r.fixed ++ r.form.sig ++ r.lists)
    {head : List Byte} {a b : State}
    (hHead : head = (if s.atl.audit.isSome then sha384 ((0x0C : Byte) :: (s.atl.chainHead ++ r.form.digest)) else s.atl.chainHead))
    (ha : a = (s.tick.updAtl fun x => { x.logPut r.form with
      records := [r], chainHead := head, chainSeq := if x.audit.isSome then r.chainSeq else x.chainSeq
      auditRing := s.auditPut r.form }))
    (hb : b = (match s.atl.runCtx with
      | some c => a.sendSegment c 0 n body
      | none => a)) :
    exec (.recordSign n) s =
      if s.spoolRoom (64 + body.length) = false then .next (s.weirStall [28])
      else if s.atl.logRoom = false then .next s
      else .next (b.updStep n fun q => { q with signed := true, logged := true, spooled := true }) := by
  subst hb ha hHead hBody hrec
  refine if_neg ?_
  simp [hSeal, hNew, hNext, hComp, hr, hf]

theorem exec_getAudit_of_running {m : Nat} (hr : s.atl.running = true) :
    exec (.getAudit n m) s = if s.atl.audit.isNone = true ∨ 25 < m then .next (s.mbox 2)
      else .next ((s.updAtl fun a => { a with
        mboxBuf := memWrite [] 0 (((s.atl.auditRing.drop n).take m).flatMap LogForm.bytes) }).mbox 0) :=
  if_neg (ne_false_of_eq_true hr)

/-- What `DIFF_RING_TAIL` makes of a context: its read offset, what was read out of the spool, and the waiting segments that follow. -/
theorem exec_diffRingTail (c : CtxId) (v : W64) :
    exec (.diffRingTail c v) s = .next (s.updCtx c fun x =>
      Ctx.drainRing (ackRing { x with ringTail := v.toNat }.ringUsed x.spool).length
        { { x with ringTail := v.toNat } with spool := ackRing { x with ringTail := v.toNat }.ringUsed x.spool }) := rfl

end Records

/-- Settles O46, case by case from the branches of each command. -/
theorem recordsAreSignedOrWait : Obligations.RecordsAreSignedOrWait := by
  unfold Obligations.RecordsAreSignedOrWait
  refine ⟨fun s n h => if_pos h, fun s n r body hrec hBody hSeal hNew hNext hComp hr hf => ?_, fun s n m hr => ?_, fun s k hk => ?_,
    fun s c v => ⟨_, exec_diffRingTail c v, fun d hd => ?_⟩⟩
  · have hDue := fun {a b : State} {head : List Byte} => exec_recordSign_of_due hSeal hNew hNext hComp hr hf hrec hBody (head := head)
      (a := a) (b := b)
    refine ⟨fun h => (hDue rfl rfl rfl).trans (if_pos h), fun h hLog => ?_, fun h hLog head a b hHead ha hb => ?_⟩
    · exact (hDue rfl rfl rfl).trans ((if_neg (ne_false_of_eq_true h)).trans (if_pos hLog))
    · exact (hDue hHead ha hb).trans ((if_neg (ne_false_of_eq_true h)).trans (if_neg (ne_false_of_eq_true hLog)))
  · rw [exec_getAudit_of_running hr]
    refine ⟨fun h => if_pos (h.imp_left Option.isNone_iff_eq_none.mpr), fun ha hm => if_neg ?_⟩
    exact not_or.mpr ⟨mt Option.isNone_iff_eq_none.mp ha, hm.not_gt⟩
  · subst hk
    refine ⟨fun h => ⟨if_pos h, if_pos h⟩, fun hr hErased hHead => ?_⟩
    have hGo : ¬(s.atl.running = false ∨ s.atl.logErased.contains (s.atl.nextSector s.atl.logHead) = true ∨
        s.atl.nextSector s.atl.logHead = s.atl.logHead) :=
      not_or.mpr ⟨ne_false_of_eq_true hr, not_or.mpr ⟨ne_true_of_eq_false hErased, hHead⟩⟩
    exact ⟨(if_neg hGo).trans (if_pos rfl), (if_neg hGo).trans (if_neg Bool.false_ne_true)⟩
  · subst hd
    rfl

section Images
variable {s : State} {i : Image}

theorem exec_store_of_bad (hr : s.atl.running = true) (h : s.storeEnd i ≠ .ok) (b : Bool) :
    exec (.store i b) s = .next (s.loadEnd (s.storeEnd i)) := by
  refine (if_neg (ne_false_of_eq_true hr)).trans ?_
  generalize s.storeEnd i = e at h ⊢
  cases e with
  | ok => exact absurd rfl h
  | _ => rfl

theorem exec_store_of_ok (hr : s.atl.running = true) (h : s.storeEnd i = .ok) (b : Bool) :
    exec (.store i b) s = .next ((s.putBank i b).loadEnd (if b then .ok else .flash)) := by
  refine (if_neg (ne_false_of_eq_true hr)).trans ?_
  rw [h]

theorem exec_storeApply_of_bad (hr : s.atl.running = true) (hj : s.anyJob = false) (h : s.storeEnd i ≠ .ok) (b : Bool) :
    exec (.storeApply i b) s = .next (s.loadEnd (s.storeEnd i)) := by
  refine (if_neg (ne_false_of_eq_true hr)).trans ((if_neg (ne_true_of_eq_false hj)).trans ?_)
  generalize s.storeEnd i = e at h ⊢
  cases e with
  | ok => exact absurd rfl h
  | _ => rfl

theorem exec_storeApply_of_ok (hr : s.atl.running = true) (hj : s.anyJob = false) (h : s.storeEnd i = .ok) (b : Bool) :
    exec (.storeApply i b) s =
      if s.deadCore i (fieldsOf i) = true then
        .next ((s.updLdr fun l => { l with loadResult := 2 }).raiseDev .correctable 0x013 (unitNo 11 0) 0)
      else .next (if b then ((s.putBank i b).applyImage i s.writeBank).loadEnd .ok else (s.putBank i b).loadEnd .flash) := by
  refine (if_neg (ne_false_of_eq_true hr)).trans ((if_neg (ne_true_of_eq_false hj)).trans ?_)
  rw [h]

theorem exec_package_of_bad (hr : s.atl.running = true) (h : s.verify4 i ≠ .ok) : exec (.package i) s = .next (s.loadEnd (s.verify4 i)) := by
  refine (if_neg (ne_false_of_eq_true hr)).trans ?_
  generalize s.verify4 i = e at h ⊢
  cases e with
  | ok => exact absurd rfl h
  | _ => rfl

/-- Whether a context that an image has sections for is loaded. -/
def holdsLoaded (s : State) (i : Image) : Bool := i.sections.any fun x => match x.ctx with
  | some c => (s.ctx c).loaded
  | none => false

/-- The fields of the device once a package has replaced those of its contexts. -/
def packageFields (s : State) (i : Image) : List FieldSt :=
  (s.ldr.fields.filter fun f => !((contextsOf i).any fun c => f.ctx == some c)) ++ fieldsOf i

theorem exec_package_of_not_package (hr : s.atl.running = true) (h : s.verify4 i = .ok) (hp : i.package = false) :
    exec (.package i) s = .next (s.loadEnd .invalid) := by
  refine (if_neg (ne_false_of_eq_true hr)).trans ?_
  rw [h]
  exact if_pos hp

theorem exec_package_of_no_image (hr : s.atl.running = true) (h : s.verify4 i = .ok) (hp : i.package = true) (hi : s.ldr.image = none) :
    exec (.package i) s = .next (s.loadEnd .base) := by
  refine (if_neg (ne_false_of_eq_true hr)).trans ?_
  rw [h, hi]
  exact if_neg (ne_false_of_eq_true hp)

theorem exec_package_of_image {a : Image} (hr : s.atl.running = true) (h : s.verify4 i = .ok) (hp : i.package = true)
    (hi : s.ldr.image = some a) :
    exec (.package i) s =
      if i.baseDigest ≠ headDigest a then .next (s.loadEnd .base)
      else if onlyLayout i ∧ s.atl.runCtx.isSome = true then
        .next (if i.fields.all (fieldEntryOk i.sections) then s.stage i else s.loadEnd .invalid)
      else if holdsLoaded s i = true then .next (s.loadEnd .busy)
      else if s.deadCore (extendImage a i) (packageFields s i) = true then
        .next ((s.updLdr fun l => { l with loadResult := 2 }).raiseDev .correctable 0x013 (unitNo 11 0) 0)
      else if (i.fields.all (fieldEntryOk i.sections) && s.fieldsOk (extendImage a i) (packageFields s i)) = true then
        .next ((s.updLdr fun l => { l with
          image := some (extendImage a i), fields := packageFields s i, packages := l.packages ++ [i] }).loadEnd .ok)
      else .next (s.loadEnd .invalid) := by
  refine (if_neg (ne_false_of_eq_true hr)).trans ?_
  rw [h, hi]
  exact if_neg (ne_false_of_eq_true hp)

end Images

/-- Settles O47: the checks end a load with their result, and the branches after them are those of a sound image or package. -/
theorem imagesAreVerifiedAndStored : Obligations.ImagesAreVerifiedAndStored := by
  unfold Obligations.ImagesAreVerifiedAndStored
  refine ⟨fun s i b hr => ⟨if_pos hr, if_pos hr, if_pos hr⟩, fun s i hr => ⟨exec_store_of_bad hr, fun h =>
    ⟨exec_store_of_ok hr h true, exec_store_of_ok hr h false⟩, fun hj b => (if_neg (ne_false_of_eq_true hr)).trans (if_pos hj),
    exec_storeApply_of_bad hr, fun hj h => ⟨fun hDead b => ?_, fun hDead => ?_⟩, exec_package_of_bad hr, fun h =>
    ⟨exec_package_of_not_package hr h, exec_package_of_no_image hr h, fun a hp hi => ?_⟩⟩⟩
  · rw [exec_storeApply_of_ok hr hj h, if_pos hDead]
  · have hBank := fun b => (exec_storeApply_of_ok hr hj h b).trans (if_neg (ne_true_of_eq_false hDead))
    exact ⟨(hBank true).trans (congrArg Host.Outcome.next (if_pos rfl)),
      (hBank false).trans (congrArg Host.Outcome.next (if_neg Bool.false_ne_true))⟩
  · rw [exec_package_of_image hr h hp hi]
    refine ⟨fun hBase => if_pos hBase, fun hBase => ?_⟩
    rw [if_neg (not_not.mpr hBase)]
    refine ⟨fun hLay hRun => ?_, fun hElse held e fs hHeld he hfs => ?_⟩
    · rw [if_pos ⟨hLay, Option.isSome_iff_ne_none.mpr hRun⟩]
      exact ⟨fun hGood => by rw [if_pos hGood], fun hGood => by rw [if_neg (ne_true_of_eq_false hGood)]⟩
    · have hFull : ¬(onlyLayout i = true ∧ s.atl.runCtx.isSome = true) := by
        rintro ⟨hLay, hRun⟩
        exact hElse.elim (ne_false_of_eq_true hLay) (Option.isSome_iff_ne_none.mp hRun)
      obtain rfl : held = holdsLoaded s i := hHeld
      obtain rfl : fs = packageFields s i := hfs
      subst he
      rw [if_neg hFull]
      refine ⟨fun hl => if_pos hl, fun hl hDead => ?_, fun hl hDead hGood => ?_, fun hl hDead hGood => ?_⟩ <;>
        rw [if_neg (ne_true_of_eq_false hl)]
      · exact if_pos hDead
      · rw [if_neg (ne_true_of_eq_false hDead), if_pos hGood]
      · rw [if_neg (ne_true_of_eq_false hDead), if_neg (ne_true_of_eq_false hGood)]

end Sys2Proof.Proofs
end

section
/-! Supply, resets, pins, PLLs and the domains of full service (R154, R477, R511, R513, R521, R528, R529, R537, R540, R545, R553). -/

open Sys2Proof Sys2Proof.Machine

namespace Sys2Proof.Proofs

section Supply
variable {s : State}

theorem exec_pwrGoodRise_of_low {y : BitVec 6} {b : BootSel} (hv : s.pow.vaux = true) (hLow : s.pow.pwrGood = false) {t u : State}
    (ht : t = (s.updPow fun p => { p with pwrGood := true, tray := y }).updEvt (fun e => { e with fatalLatched := false }))
    (hu : u = (({ t with now := 0 } : State).updPow fun p => { p with
      firstRise := true, started := true, startAt := 0, phase := 0, boot := b })) :
    exec (.pwrGoodRise y b) s =
      if s.pow.firstRise = true then .next t.restart
      else .next (if b = .fwRecovery ∨ s.pow.aonLock = false then u else u.bootRom) := by
  subst hu ht
  exact if_neg (not_or.mpr ⟨ne_false_of_eq_true hv, ne_true_of_eq_false hLow⟩)

theorem exec_sysRstNAssert_of_long {n : Nat} (hn : 10000 ≤ n) (h : s.pow.sysRstN = true) :
    exec (.sysRstNAssert n) s = .next ((if s.pow.firstRise = true then s.resetEvent else s).updPow fun p => { p with sysRstN := false }) :=
  if_neg (not_or.mpr ⟨hn.not_gt, ne_false_of_eq_true h⟩)

end Supply

/-- Settles O49, case by case from the branches of each input. -/
theorem supplyAndResetInputs : Obligations.SupplyAndResetInputs := by
  unfold Obligations.SupplyAndResetInputs
  refine ⟨fun s => ⟨fun h => if_pos h, fun h => if_neg (ne_true_of_eq_false h)⟩, fun s => rfl, fun s t u y b ht hu =>
    ⟨fun h => if_pos h, fun hv hLow => ?_⟩, fun s n => ⟨fun h => if_pos h, fun hn h => if_neg (not_or.mpr ⟨hn.not_gt, ne_false_of_eq_true h⟩),
    fun h => if_pos h, fun hn h hRise => ?_, fun hn h hRise => ?_⟩, fun s y =>
    ⟨fun h => if_pos h, fun h => if_neg (ne_true_of_eq_false h)⟩⟩
  · rw [exec_pwrGoodRise_of_low hv hLow ht hu]
    refine ⟨fun h => if_pos h, fun h hStay => ?_, fun h hBoot hLock => ?_⟩
    · rw [if_neg (ne_true_of_eq_false h), if_pos hStay]
    · rw [if_neg (ne_true_of_eq_false h), if_neg (not_or.mpr ⟨hBoot, ne_false_of_eq_true hLock⟩)]
  · rw [exec_sysRstNAssert_of_long hn h, if_pos hRise]
  · rw [exec_sysRstNAssert_of_long hn h, if_neg (ne_true_of_eq_false hRise)]

section Domains
variable {s t : State} {d : DomainId}

theorem exec_cxPerstRelease_of_none {n : Nat} (ht : t = (s.at' n).settle n) (h : t.pow.cxPerstAt = none) :
    exec (.cxPerstRelease n) s = .next t := by
  subst ht
  change execCxPerstRelease n s = _
  unfold execCxPerstRelease
  dsimp only
  rw [h]

theorem exec_cxPerstRelease_of_some {n t0 : Nat} (ht : t = (s.at' n).settle n) (h : t.pow.cxPerstAt = some t0) :
    exec (.cxPerstRelease n) s =
      if t.domOn 110 = true ∧ t0 + 100 * ms ≤ n ∧ 4 ≤ t.pow.phase then
        .next ((t.updCxl 0 fun x => { x with perstN := true }).updCxl 1 fun x => { x with perstN := true })
      else .next t := by
  subst ht
  change execCxPerstRelease n s = _
  unfold execCxPerstRelease
  dsimp only
  rw [h]

theorem exec_domainWake_of_none (hp : s.pow.phase = 5) (hOff : s.domOn d.val = false) (h : coreOfDom d.val = none) :
    exec (.domainWake d) s = .next (s.domReady d.val s.now) := by
  refine (if_neg (not_or.mpr ⟨not_not.mpr hp, ne_true_of_eq_false hOff⟩)).trans ?_
  rw [h]

theorem exec_domainWake_of_some {c : CoreId} {u : State} (hp : s.pow.phase = 5) (hOff : s.domOn d.val = false) (h : coreOfDom d.val = some c)
    (ht : t = s.domReady d.val s.now)
    (hu : u = (if d.val = engDom c.val then (t.updEngine c 0 Engine.domainOn).updEngine c 1 Engine.domainOn else t)) :
    exec (.domainWake d) s =
      if (s.core c).busy = true then .next (u.updCore c fun x => { x with
        stall := kvMod 0 29 (satAdd stallMax · (rampCycles s.fuses.isAS (s.core c).div)) x.stall })
      else .next u := by
  subst hu ht
  refine (if_neg (not_or.mpr ⟨not_not.mpr hp, ne_true_of_eq_false hOff⟩)).trans ?_
  rw [h]

/-- What an engine keeps when its core's rest goes off: whether it is retired, and its repairs. -/
def bareEngine (k : Engine) : Engine :=
  { retired := k.retired, cause := k.cause, colRep := k.colRep, rowRep := k.rowRep, colFuse := k.colFuse, rowFuse := k.rowFuse
    recur := k.recur }

theorem exec_domainSwitchOff_of_some {c : CoreId} (hp : s.pow.phase = 5) (hOn : s.domOn d.val = true) (hMay : s.mayOff d.val = true)
    (h : coreOfDom d.val = some c) (ht : t = s.updPow (fun p => { p with doms := kvPut d.val .off p.doms })) :
    exec (.domainSwitchOff d) s =
      if d.val = restDom c.val then
        .next (t.updCore c fun k => { eng := kvMap (fun _ e => bareEngine e) k.eng, div := k.div, lastCyc := k.lastCyc })
      else .next ((t.updEngine c 0 fun x => x.domainOff (s.core c).lastCyc).updEngine c 1 fun x => x.domainOff (s.core c).lastCyc) := by
  subst ht
  refine (if_neg (not_or.mpr ⟨not_not.mpr hp, not_or.mpr ⟨ne_false_of_eq_true hOn, ne_false_of_eq_true hMay⟩⟩)).trans ?_
  rw [h]
  rfl

theorem exec_domainSwitchOff_of_none (hp : s.pow.phase = 5) (hOn : s.domOn d.val = true) (hMay : s.mayOff d.val = true)
    (h : coreOfDom d.val = none) (ht : t = s.updPow (fun p => { p with doms := kvPut d.val .off p.doms })) :
    exec (.domainSwitchOff d) s =
      if d.val = 110 then .next (((t.updPow fun p => { p with cxPerstAt := none }).updCxl 0 fun _ => {}).updCxl 1 fun _ => {})
      else .next t := by
  subst ht
  refine (if_neg (not_or.mpr ⟨not_not.mpr hp, not_or.mpr ⟨ne_false_of_eq_true hOn, ne_false_of_eq_true hMay⟩⟩)).trans ?_
  rw [h]

end Domains

/-- Settles O50, case by case from the branches of each command. -/
theorem pinsClocksAndDomains : Obligations.PinsClocksAndDomains := by
  unfold Obligations.PinsClocksAndDomains
  refine ⟨fun s => ⟨rfl, rfl⟩, fun s t n ht => ⟨exec_cxPerstRelease_of_none ht, fun t0 h => ?_⟩, fun s => ?_, fun s t d ht =>
    ⟨fun h => if_pos h, fun hp hOff => ⟨fun h => ?_, fun c u h hu => ?_⟩⟩, fun s t d bare ht hBare =>
    ⟨fun h => if_pos h, fun hp hOn hMay => ⟨fun c h => ?_, fun h => ?_⟩⟩⟩
  · rw [exec_cxPerstRelease_of_some ht h]
    refine ⟨fun hOn hLate hPhase => if_pos ⟨hOn, hLate, hPhase⟩, fun hNot => if_neg ?_⟩
    rintro ⟨hOn, hLate, hPhase⟩
    obtain hOff | hEarly | hLow := hNot
    · exact ne_true_of_eq_false hOff hOn
    · omega
    · omega
  · refine ⟨fun hp hs => if_pos ⟨hp, hs⟩, fun h => if_neg ?_, fun h => if_pos h, fun h => if_neg (ne_false_of_eq_true h), fun h => if_pos h,
      fun h => if_neg (ne_false_of_eq_true h), rfl, rfl⟩
    rintro ⟨hp, hs⟩
    exact h.elim (· hp) (ne_false_of_eq_true hs)
  · rw [exec_domainWake_of_none hp hOff h, ht]
  · rw [exec_domainWake_of_some hp hOff h ht hu]
    exact ⟨fun hBusy => if_pos hBusy, fun hBusy => if_neg (ne_true_of_eq_false hBusy)⟩
  · obtain rfl : bare = bareEngine := funext hBare
    rw [exec_domainSwitchOff_of_some hp hOn hMay h ht]
    exact ⟨fun hRest => if_pos hRest, fun hRest => if_neg hRest⟩
  · rw [exec_domainSwitchOff_of_none hp hOn hMay h ht]
    exact ⟨fun hTop => if_pos hTop, fun hTop => if_neg hTop⟩

end Sys2Proof.Proofs
end

section
/-! The phases of bring-up, the ramps of its domains and the training of the HBM stacks (R239, R515, R516, R525, R526, R529). -/

open Sys2Proof Sys2Proof.Machine

namespace Sys2Proof.Proofs

section BringUp
variable {s t : State} {n : Nat}

/-- Whether the next domain may be switched on: none was yet, or 50 µs have passed (R515). -/
def rampDue (s : State) (n : Nat) : Bool := match s.pow.lastOn with
  | some t0 => decide (t0 + switchGap ≤ n)
  | none => true

theorem rampDue_of_forall (h : ∀ t0, s.pow.lastOn = some t0 → t0 + 50000 ≤ n) : rampDue s n = true := by
  unfold rampDue
  cases hLast : s.pow.lastOn with
  | none => rfl
  | some t0 => exact decide_eq_true (h t0 hLast)

theorem rampDue_of_exists (h : ∃ t0, s.pow.lastOn = some t0 ∧ n < t0 + 50000) : rampDue s n = false := by
  obtain ⟨t0, hLast, hEarly⟩ := h
  unfold rampDue
  rw [hLast]
  exact decide_eq_false hEarly.not_ge

theorem exec_domainSwitchOn_of_none (ht : t = (s.at' n).settle n) (h : (t.phaseDoms.find? fun d => t.dom d == .off) = none) :
    exec (.domainSwitchOn n) s = .next t := by
  subst ht
  change execDomainSwitchOn n s = _
  unfold execDomainSwitchOn
  dsimp only
  rw [h]

theorem exec_domainSwitchOn_of_some {d : Nat} (ht : t = (s.at' n).settle n) (h : (t.phaseDoms.find? fun d => t.dom d == .off) = some d) :
    exec (.domainSwitchOn n) s =
      if s.pow.started = false ∨ rampDue s n = false then .next t
      else .next (t.updPow fun p => { p with doms := kvPut d .ramp p.doms, lastOn := some n }) := by
  subst ht
  change execDomainSwitchOn n s = _
  unfold execDomainSwitchOn
  dsimp only
  rw [h]
  rfl

theorem exec_bringupPhaseEnd_of_not_done (ht : t = (s.at' n).settle n) (h : t.pow.started = false ∨ t.phaseDone = false) :
    exec (.bringupPhaseEnd n) s = .next t := by
  subst ht
  exact if_pos h

/-- What BRINGUP_PHASE_END of a phase that is done makes of the device, by the phase that ends. -/
def phaseEnd (s t : State) (n : Nat) : Nat → State
  | 0 => t.enterPhase1
  | 1 => t.updPow fun p => { p with phase := 2 }
  | 2 => t.updPow fun p => { p with
      phase := 3, phase3Ms := s.sinceStart n
      faultLow := t.evt.fatalLatched || t.fenced || t.evt.raised.any fun r => r.cls == .deviceFatal }
  | 3 => (t.updPow fun p => { p with phase := 4 }).setDividers.toFullRate.sendGraph
  | _ => (t.updPow fun p =>
      let q : Power := { p with phase := 5, phase5Ms := s.sinceStart n, changedP := n, changedT := n, lastEval := n, evals := [] }
      { q with levelH := q.holdLevel }).setDividers

theorem phaseEnd_of_four_le {k : Nat} (h : 4 ≤ k) {q : Power} (hq : q = { t.pow with
    phase := 5, phase5Ms := s.sinceStart n, changedP := n, changedT := n, lastEval := n, evals := [] }) :
    phaseEnd s t n k = (t.updPow fun _ => { q with levelH := q.holdLevel }).setDividers := by
  subst hq
  obtain ⟨j, rfl⟩ := Nat.exists_eq_add_of_le' h
  rfl

theorem exec_bringupPhaseEnd_of_done (ht : t = (s.at' n).settle n) (hs : t.pow.started = true) (hd : t.phaseDone = true) :
    exec (.bringupPhaseEnd n) s = .next (phaseEnd s t n t.pow.phase) := by
  subst ht
  refine (if_neg (not_or.mpr ⟨ne_false_of_eq_true hs, ne_false_of_eq_true hd⟩)).trans ?_
  generalize ((s.at' n).settle n).pow.phase = k
  match k with
  | 0 | 1 | 2 | 3 | _ + 4 => rfl

theorem exec_hbmTrain_of_due {k : StackId} {m : Nat} {ok : Bool} (hm : m = kvGet 0 k.val s.pow.attempts) (hp : s.pow.phase = 2)
    (hs : s.pow.started = true) (hOn : s.domOn (65 + k.val) = true) (hFew : m < 3) (hNew : k.val ∉ s.pow.trained) :
    exec (.hbmTrain k ok) s =
      if ok = true then .next ((s.updPow fun p => { p with trained := k.val :: p.trained }).updTier fun t =>
        { t with retired := t.retired ++ s.atl.frameRetired.filter fun l => l.tier == .hbm && l.unit == k.val })
      else if m + 1 = 3 then .next (((s.updPow fun p => { p with attempts := kvPut k.val (m + 1) p.attempts }).updPow fun p => { p with
        failed := true, faultLow := true }).raiseDev .deviceFatal 0x0A3 (unitNo 5 k.val) 0)
      else .next (s.updPow fun p => { p with attempts := kvPut k.val (m + 1) p.attempts }) := by
  subst hm
  refine if_neg ?_
  rintro (h | h | h | h | h)
  · exact h hp
  · exact ne_false_of_eq_true hs h
  · exact ne_false_of_eq_true hOn h
  · omega
  · exact hNew h

end BringUp

/-- Settles O51, case by case from the branches of each command. -/
theorem bringUpPhasesFollow : Obligations.BringUpPhasesFollow := by
  unfold Obligations.BringUpPhasesFollow
  refine ⟨fun s t n ht => ⟨fun d hd hs hLast => ?_, fun h => ?_, exec_bringupPhaseEnd_of_not_done ht, fun hs hDone => ?_⟩,
    fun s n k hk => ?_, fun s k m hm => ⟨fun h => ?_, fun hp hs hOn hFew hNew => ?_⟩, fun s v => rfl⟩
  · rw [exec_domainSwitchOn_of_some ht hd, if_neg (not_or.mpr ⟨ne_false_of_eq_true hs, ne_false_of_eq_true (rampDue_of_forall hLast)⟩)]
  · cases hFind : t.phaseDoms.find? fun d => t.dom d == .off with
    | none => exact exec_domainSwitchOn_of_none ht hFind
    | some d =>
      rw [exec_domainSwitchOn_of_some ht hFind]
      exact if_pos ((h.resolve_left (by simp [hFind])).imp_right rampDue_of_exists)
  · rw [exec_bringupPhaseEnd_of_done ht hs hDone]
    exact ⟨fun h => by rw [h]; rfl, fun h => by rw [h]; rfl, fun h => by rw [h]; rfl, fun h => by rw [h]; rfl, fun h q hq =>
      congrArg Host.Outcome.next (phaseEnd_of_four_le h hq)⟩
  · subst hk
    refine ⟨fun hs hLow hNew hLate hHold => if_neg ?_, fun h => if_pos h⟩
    rintro (h | h | h | h | ⟨h0, h⟩)
    · exact ne_false_of_eq_true hs h
    · omega
    · exact hNew h
    · omega
    · exact hHold.elim (· h0) (ne_true_of_eq_false h)
  · subst hm
    exact ⟨if_pos h, if_pos h⟩
  · refine ⟨?_, fun hTwo => ?_, fun hTwo => ?_⟩ <;> rw [exec_hbmTrain_of_due hm hp hs hOn hFew hNew]
    · rw [if_pos rfl]
    · rw [if_neg Bool.false_ne_true, if_neg (by omega)]
    · rw [if_neg Bool.false_ne_true, if_pos (by omega), hTwo]

end Sys2Proof.Proofs
end

section
/-! Fantail's levels, droops and trips (R518, R520 to R524). -/

open Sys2Proof Sys2Proof.Machine

namespace Sys2Proof.Proofs

section Fantail
variable {s t : State} {n : Nat}

theorem exec_fantailEvaluate_of_due (ht : t = s.at' n) (hp : s.pow.phase ≠ 0) (hTrip : s.pow.tripped = false)
    (hLate : s.pow.lastEval + 100000 ≤ n) :
    exec (.fantailEvaluate n) s = .next (((if s.pow.phase = 5 then t.evalLevels n
      else t.updPow fun p => { p with lastEval := n }).evalUnmet n).updPow fun p => { p with thermLow := s.hot }) := by
  subst ht
  exact if_neg (not_or.mpr ⟨hp, not_or.mpr ⟨ne_true_of_eq_false hTrip, hLate.not_gt⟩⟩)

theorem exec_droopEnd_of_none {u : Nat} (h : kvFind u s.pow.droops = none) : exec (.droopEnd u n) s = .next s := by
  change execDroopEnd u n s = _
  unfold execDroopEnd
  rw [h]

theorem exec_droopEnd_of_some {u k : Nat} (h : kvFind u s.pow.droops = some k) :
    exec (.droopEnd u n) s =
      if n < 256 then .next s
      else .next (s.updPow fun p => { p with
        droops := kvDel u p.droops
        stretch1 := if k = 1 then satAdd (2 ^ 32 - 1) p.stretch1 n else p.stretch1
        stretch2 := if k = 1 then p.stretch2 else satAdd (2 ^ 32 - 1) p.stretch2 n }) := by
  change execDroopEnd u n s = _
  unfold execDroopEnd
  rw [h]

/-- What a thermal trip asks of an engine of a core: to stop, for Fantail, from the core's last cycle. -/
def askStop (k : Core) (e : Engine) : Engine := { e.unstart k.lastCyc with reqFan := true, reqCyc := k.lastCyc }

theorem exec_thermalTrip_of_hot {hot : Bool} (hHot : hot = ((s.pow.thermal.junction.any (115 ≤ ·)) || s.pow.thermal.hbm.any (105 ≤ ·)))
    (hp : s.pow.phase ≠ 0) (hTrip : s.pow.tripped = false) (h : hot = true) :
    exec .thermalTrip s = .next ((((List.finRange 32).foldl (fun u c => u.updCore c fun k => { k with
      eng := kvPut 0 (askStop k (kvGet {} 0 k.eng)) (kvPut 1 (askStop k (kvGet {} 1 k.eng)) k.eng) }) s).updPow fun p => { p with
        tripped := true, failed := true }).raiseDev .deviceFatal 0x0A2 (unitNo 10 0) 0) := by
  subst hHot
  exact if_neg (not_or.mpr ⟨hp, not_or.mpr ⟨ne_true_of_eq_false hTrip, ne_false_of_eq_true h⟩⟩)

end Fantail

/-- Settles O52, case by case from the branches of each command. -/
theorem fantailMovesTheLevel : Obligations.FantailMovesTheLevel := by
  unfold Obligations.FantailMovesTheLevel
  refine ⟨fun s p y => ⟨fun h => if_pos h, fun h => if_neg h⟩, fun s t n ht => ⟨fun h => ?_, fun hp hTrip hLate =>
    ⟨fun hFull => ?_, fun hFull => ?_⟩⟩, fun s u deep => ⟨fun h => if_pos h, fun hp hu => if_neg (not_or.mpr ⟨hp, hu.not_ge⟩)⟩,
    fun s u n => ⟨fun h => ?_, fun k hk hLong => ?_⟩, fun s hot hHot => ⟨fun h => ?_, fun hp hTrip h ask hAsk => ?_⟩, fun s n quiet hq =>
    ⟨fun h => ?_, fun hTrip hs hOff => ?_⟩⟩
  · subst ht
    exact if_pos h
  · rw [exec_fantailEvaluate_of_due ht hp hTrip hLate, if_pos hFull]
  · rw [exec_fantailEvaluate_of_due ht hp hTrip hLate, if_neg hFull]
  · cases hk : kvFind u s.pow.droops with
    | none => exact exec_droopEnd_of_none hk
    | some k => exact (exec_droopEnd_of_some hk).trans (if_pos (h.resolve_left (by simp [hk])))
  · rw [exec_droopEnd_of_some hk, if_neg hLong.not_gt]
  · subst hHot
    exact if_pos h
  · obtain rfl : ask = askStop := funext fun k => funext (hAsk k)
    exact exec_thermalTrip_of_hot hHot hp hTrip h
  · subst hq
    exact if_pos h
  · subst hq
    refine if_neg (not_or.mpr ⟨ne_false_of_eq_true hTrip, not_or.mpr ⟨ne_false_of_eq_true hs, ?_⟩⟩)
    rintro ⟨hBusy, hEarly⟩
    exact hOff.elim (ne_true_of_eq_false hBusy) hEarly.not_ge

end Sys2Proof.Proofs
end

section
/-! JTAG instructions (R529, R543); the host's accesses (R15, R517, R557, R558, R565, R567); faults, messages and suspicions (R397, R423, R433,
R434, R560 to R566); the reset state. -/

open Sys2Proof Sys2Proof.Machine

namespace Sys2Proof.Proofs

section Jtag
variable {s : State}

theorem tap_of_vaux (h : s.pow.vaux = true) (name : String) (out : List Nat) :
    s.tap name out = (s.updPow fun p => { p with jtag := name }).emit (out.map (Msg.tdo name)) := if_pos h

theorem tap_of_not_vaux (h : s.pow.vaux = false) (name : String) (out : List Nat) : s.tap name out = s := if_neg (ne_true_of_eq_false h)

/-- An instruction that drives the pins is BYPASS while SYS_RST_N is released. -/
theorem drive_of_released (h : s.pow.sysRstN = true) (name : String) : s.drive name = s.tap "BYPASS" [0] := if_pos h

theorem drive_of_reset (h : s.pow.sysRstN = false) (name : String) : s.drive name = s.tap name [] := if_neg (ne_true_of_eq_false h)

theorem drive_of_not_vaux (h : s.pow.vaux = false) (name : String) : s.drive name = s := by
  cases hRst : s.pow.sysRstN with
  | true => rw [drive_of_released hRst, tap_of_not_vaux h]
  | false => rw [drive_of_reset hRst, tap_of_not_vaux h]

end Jtag

/-- Settles O53: `State.tap` selects under VAUX, and `State.drive` is in force under reset only. -/
theorem jtagInstructionsSelectTheirRegister : Obligations.JtagInstructionsSelectTheirRegister := by
  unfold Obligations.JtagInstructionsSelectTheirRegister
  refine ⟨fun s hv => ?_, fun s hv => ?_⟩
  · have hTap := tap_of_vaux hv
    have hTick := tap_of_vaux (s := s.tick) hv
    refine ⟨congrArg Host.Outcome.next (hTap ..), congrArg Host.Outcome.next (hTap ..), congrArg Host.Outcome.next (hTap ..),
      congrArg Host.Outcome.next (hTick ..), fun hRst => ?_, fun hRst => ?_⟩
    · have hDrive := fun name => (drive_of_reset hRst name).trans (hTap name [])
      exact ⟨congrArg Host.Outcome.next (hDrive _), congrArg Host.Outcome.next (hDrive _), congrArg Host.Outcome.next (hDrive _),
        congrArg Host.Outcome.next (hDrive _)⟩
    · have hDrive := drive_of_released hRst
      exact ⟨congrArg Host.Outcome.next (hDrive _), congrArg Host.Outcome.next (hDrive _), congrArg Host.Outcome.next (hDrive _),
        congrArg Host.Outcome.next (hDrive _)⟩
  · have hTap := tap_of_not_vaux hv
    have hDrive := drive_of_not_vaux hv
    exact ⟨congrArg Host.Outcome.next (hTap ..), congrArg Host.Outcome.next (hTap ..), congrArg Host.Outcome.next (hTap ..),
      congrArg Host.Outcome.next (hDrive _), congrArg Host.Outcome.next (hDrive _), congrArg Host.Outcome.next (hDrive _),
      congrArg Host.Outcome.next (hDrive _), congrArg Host.Outcome.next (tap_of_not_vaux (s := s.tick) hv ..)⟩

section Accesses
variable {s : State} {a n : Nat} {v : W64}

theorem writeAccess_of_bad (h : accessOk a n = false) (k : Nat) : s.writeAccess a n k = s.countAccess := if_pos h

theorem writeAccess_of_off (h : accessOk a n = true) (hOff : s.addrOff a = true) (k : Nat) : s.writeAccess a n k = s.countOff :=
  (if_neg (ne_false_of_eq_true h)).trans (if_pos hOff)

theorem writeAccess_of_good (h : accessOk a n = true) (hOff : s.addrOff a = false) (k : Nat) :
    s.writeAccess a n k =
      s.regWrite (a / 8 * 8) (accessMask a n) (if n = 4 ∧ a % 8 = 4 then k % 2 ^ 32 * 2 ^ 32 else k) :=
  (if_neg (ne_false_of_eq_true h)).trans (if_neg (ne_true_of_eq_false hOff))

/-- An access of 8 bytes at a register's address writes the whole register. -/
theorem writeAccess_whole (ha : a % 8 = 0) (hOff : s.addrOff a = false) (k : Nat) : s.writeAccess a 8 k = s.regWrite a (2 ^ 64 - 1) k := by
  have hOk : accessOk a 8 = true := by simp [accessOk, ha]
  rw [writeAccess_of_good hOk hOff, Nat.div_mul_cancel (Nat.dvd_of_mod_eq_zero ha)]
  rfl

/-- An access of 4 bytes at a register's address writes its lower half. -/
theorem writeAccess_lower (ha : a % 8 = 0) (hOff : s.addrOff a = false) (k : Nat) : s.writeAccess a 4 k = s.regWrite a (2 ^ 32 - 1) k := by
  have hOk : accessOk a 4 = true := by simp [accessOk]; omega
  rw [writeAccess_of_good hOk hOff, Nat.div_mul_cancel (Nat.dvd_of_mod_eq_zero ha)]
  simp [accessMask, ha]

/-- An access of 4 bytes in a register's middle writes its upper half. -/
theorem writeAccess_upper (ha : a % 8 = 0) (hOff : s.addrOff (a + 4) = false) (k : Nat) :
    s.writeAccess (a + 4) 4 k = s.regWrite a (2 ^ 64 - 2 ^ 32) (k % 2 ^ 32 * 2 ^ 32) := by
  have hOk : accessOk (a + 4) 4 = true := by simp [accessOk]; omega
  have hMid : (a + 4) % 8 = 4 := by omega
  have hReg : (a + 4) / 8 * 8 = a := by omega
  rw [writeAccess_of_good hOk hOff, hReg]
  simp [accessMask, hMid]

theorem exec_registerWrite_of_up (h : s.pow.hostUp = true) : exec (.registerWrite a n v) s = .next (s.writeAccess a n v.toNat) :=
  congrArg Host.Outcome.next (if_pos h)

end Accesses

/-- Settles O54: an access is bad, OFF or good, and a good write's mask is that of its size and half. -/
theorem accessesAreCounted : Obligations.AccessesAreCounted := by
  unfold Obligations.AccessesAreCounted
  refine ⟨fun s w a n v hUp => ⟨fun hBad => ⟨?_, ?_, rfl⟩, fun hGood => if_pos (.inr hGood), fun hOff => ⟨?_, fun hGood => ?_, rfl⟩,
    fun hOff => if_pos (.inr hOff)⟩, fun s a v hUp ha hOff => ?_, fun s w a n v q hDown => ?_, fun s n v q hUp => ?_⟩
  · exact if_neg (not_or.mpr ⟨ne_false_of_eq_true hUp, ne_true_of_eq_false hBad⟩)
  · rw [exec_registerWrite_of_up hUp, writeAccess_of_bad hBad]
  · exact if_neg (not_or.mpr ⟨ne_false_of_eq_true hUp, ne_false_of_eq_true hOff⟩)
  · rw [exec_registerWrite_of_up hUp, writeAccess_of_off hGood hOff]
  · rw [exec_registerWrite_of_up hUp, exec_registerWrite_of_up hUp, exec_registerWrite_of_up hUp, writeAccess_whole ha hOff,
      writeAccess_lower ha hOff]
    exact ⟨rfl, rfl, fun hOff' => by rw [writeAccess_upper ha hOff']⟩
  · have hNo : ¬s.pow.hostUp = true := ne_true_of_eq_false hDown
    exact ⟨if_pos (.inl hDown), if_pos (.inl hDown), congrArg Host.Outcome.next (if_neg hNo),
      congrArg Host.Outcome.next (if_neg fun h => hNo h.1), congrArg Host.Outcome.next (if_neg hNo),
      congrArg Host.Outcome.next (if_neg hNo), congrArg Host.Outcome.next (if_neg hNo)⟩
  · exact ⟨fun hn => congrArg Host.Outcome.next (if_pos ⟨hUp, hn⟩), fun hn => congrArg Host.Outcome.next (if_neg fun h => hn.not_gt h.2),
      congrArg Host.Outcome.next (if_pos hUp), congrArg Host.Outcome.next (if_pos hUp), congrArg Host.Outcome.next (if_pos hUp)⟩

section Faults
variable {s : State} {n : Nat}

theorem exec_faultRecord_of_idle (h : s.evt.raised = [] ∨ s.pow.vaux = false) : exec (.faultRecord n) s = .next s := by
  change execFaultRecord n s = _
  unfold execFaultRecord
  cases hRaised : s.evt.raised with
  | nil => rfl
  | cons x l => exact if_pos (h.resolve_left (by simp [hRaised]))

theorem exec_faultRecord_of_cons {x : Raised} {l : List Raised} {u : State} (h : s.evt.raised = x :: l) (hv : s.pow.vaux = true)
    (hu : u = ((s.at' n).updEvt fun e => { e with raised := l }).putRecord (((s.at' n).updEvt fun e => { e with raised := l }).recordOf x)) :
    exec (.faultRecord n) s = .next (if x.cls = .deviceFatal then u.deviceFatal else u) := by
  subst hu
  change execFaultRecord n s = _
  unfold execFaultRecord
  rw [h]
  exact if_neg (ne_false_of_eq_true hv)

theorem exec_coalesceExpiry_of_busy (h : (s.vec n).busy = true) :
    exec (.coalesceExpiry n) s =
      if (s.vec n).pend = true ∧ (s.vec n).masked = false ∧ s.pow.hostUp = true then
        .next ((s.updVec n fun y => { y with pend := false, busy := (s.evq (n / 64)).coal != 0 }).emit [.msix n])
      else .next (s.updVec n fun y => { y with busy := false }) :=
  if_neg (ne_false_of_eq_true h)

theorem exec_suspicionReport_of_coord {src dev : DevId} {port : Nat} {w : Bool} {t : State}
    (ht : t = (s.at' n).noteSuspicion src dev port w n) (h : s.rcv.isCoord = true ∨ s.rcv.isDeputy = true) :
    exec (.suspicionReport src dev port w n) s =
      if (t.allPortsDown dev && t.mayConfirm dev n) = true then .next (t.confirm dev n) else .next t := by
  subst ht
  refine if_neg ?_
  rintro ⟨hCoord, hDep⟩
  exact h.elim (ne_true_of_eq_false hCoord) (ne_true_of_eq_false hDep)

end Faults

/-- Settles O55, case by case from the branches of each command. -/
theorem faultsAreRecordedAndNotified : Obligations.FaultsAreRecordedAndNotified := by
  unfold Obligations.FaultsAreRecordedAndNotified
  refine ⟨fun s n h => exec_faultRecord_of_idle h, fun s u x l n h hv hu => ?_, fun s n => ⟨fun h => if_pos h, fun hBusy => ?_⟩, fun s p =>
    ⟨fun hEth hUp => if_pos ⟨hEth, hUp⟩, fun h => if_neg ?_⟩, fun s t src dev port w n ht =>
    ⟨fun hCoord hDep => if_pos ⟨hCoord, hDep⟩, fun h => ?_⟩⟩
  · rw [exec_faultRecord_of_cons h hv hu]
    exact ⟨fun hx => by rw [if_pos hx], fun hx => by rw [if_neg hx]⟩
  · rw [exec_coalesceExpiry_of_busy hBusy]
    refine ⟨fun hPend hMask hUp => if_pos ⟨hPend, hMask, hUp⟩, fun h => if_neg ?_⟩
    rintro ⟨hPend, hMask, hUp⟩
    simp [hPend, hMask, hUp] at h
  · rintro ⟨hEth, hUp⟩
    exact h.elim (· hEth) hUp
  · rw [exec_suspicionReport_of_coord ht h]
    exact ⟨fun hGo => if_pos hGo, fun hGo => if_neg (ne_true_of_eq_false hGo)⟩

/-- Settles O56: the reset state's tables are empty, so that every entry reads as its default. -/
theorem resetIsUnpowered : Obligations.ResetIsUnpowered :=
  ⟨rfl, rfl, rfl, rfl, rfl, rfl, rfl, fun _ => rfl, rfl, rfl, rfl, fun _ => ⟨rfl, rfl⟩, fun _ => rfl, fun _ => ite_self _, fun _ => rfl,
    fun _ _ => rfl, rfl⟩

end Sys2Proof.Proofs
end
